-- ==== Sys2Proof/Word.lean ====
section
/-! DEFINITION. Sys2Proof/Word.lean: the word types of the K9 (R8: a word is 8 bytes) and the sparse maps that hold the
package's units by number. -/

namespace Sys2Proof

/-- A 64-bit register or memory word (R8). -/
abbrev Word := BitVec 64

/-- A byte (R7). -/
abbrev Byte := BitVec 8

/-- A map from numbers to values, as a list with rising keys: what the package holds of each core, octet, slot ... by
its number. A number that is not listed has the reset value of its kind. -/
abbrev AMap (α : Type) := List (Nat × α)

/-- The value listed under a key. -/
def amGet {α : Type} : AMap α → Nat → Option α
  | [], _ => none
  | (k, v) :: m, n => if k = n then some v else amGet m n

/-- The value listed under a key, or the given default. -/
def amGetD {α : Type} (m : AMap α) (n : Nat) (d : α) : α := (amGet m n).getD d

/-- Lists a value under a key, in rising order of keys. -/
def amPut {α : Type} : AMap α → Nat → α → AMap α
  | [], n, x => [(n, x)]
  | (k, v) :: m, n, x =>
    if k = n then (n, x) :: m else if n < k then (n, x) :: (k, v) :: m else (k, v) :: amPut m n x

/-- Takes a key out of the list. -/
def amDel {α : Type} : AMap α → Nat → AMap α
  | [], _ => []
  | (k, v) :: m, n => if k = n then amDel m n else (k, v) :: amDel m n

/-- Adds a number to a rising list of numbers without repeats. -/
def nsIns : List Nat → Nat → List Nat
  | [], n => [n]
  | k :: m, n => if k = n then k :: m else if n < k then n :: k :: m else k :: nsIns m n

/-- Takes a number out of a list of numbers. -/
def nsDel (m : List Nat) (n : Nat) : List Nat := m.filter (· != n)

end Sys2Proof
end

