-- ==== Sys2Proof/Config.lean ====
section
/-! DEFINITION. Sys2Proof/Config.lean: what the manual fixes as counts of the package (R20), and the values it leaves open,
as constants with no body. -/

namespace Sys2Proof.Config

/-- A value the manual calls unspecified or gives no result for (R11), drawn afresh with a counter of the state. -/
opaque freeWord : Nat → Word

/-- An order or choice the manual leaves to the device (R12), drawn afresh with a counter of the state. -/
opaque freeNat : Nat → Nat

/-- What the certificate chain holds beside the device's key (R414), which the manual does not give. -/
opaque spdmAnswer : Nat → Word

/-- SHA-256 of a list of bytes, and SLH-DSA-SHA2-256s: the check of a hash under a key, the signing of one with the key of a seed, and
that key (R413, R414). The manual names the standard functions and does not restate them (DESIGN CHOICE, notes/assumptions/92.md). -/
opaque sha256 : List Byte → BitVec 256
opaque slhVerify : BitVec 512 → BitVec 256 → BitVec 238336 → Bool
opaque slhSign : BitVec 256 → BitVec 256 → BitVec 238336
opaque slhKey : BitVec 256 → BitVec 512

/-- The boot ROM (R413), whose contents the manual does not give. -/
opaque bootRom : List Byte

/-- The port of a peer package, which the base camp controller maps when the links train (R412). -/
opaque peerPort : Nat → Nat

/-- L of R115: the base of the own local-store window. -/
def ownBase : Nat := 0x7E0000000000

/-- The base of the cluster window (R115). -/
def clusterBase : Nat := 0x7E0100000000

/-- BW of R331: the base of the belay window. -/
def belayBase : Nat := 0x7E0200000000

/-- The base of the package window (R115). -/
def packageBase : Nat := 0x7F0000000000

/-- Where the model keeps the optimiser cores' local stores in its one memory: above every address of R115. -/
def optimiserBase : Nat := 0x800000000000

/-- The number of compute cores (R20). -/
def computeCores : Nat := 16384

/-- Bytes of a compute core's local store (R111). -/
def storeBytes : Nat := 0x40000

/-- Bytes of an optimiser core's local store (R111). -/
def optStoreBytes : Nat := 0x80000

/-- The last present slice offset plus one (R80). -/
def sliceBytes : Nat := 0x59680000

/-- The first address that is not physical HBM (R81). -/
def hbmEnd : Nat := 0xC000000000

/-- The first physical address of the homed window (R81). -/
def homedBase : Nat := 0x6000000000

/-- A slice's homed share (R83). -/
def homedShare : Nat := 0x30000000

/-- The part of a homed share that tenants may use (R83). -/
def homedUsable : Nat := 0x29580000

end Sys2Proof.Config
end

