-- ==== Sys2Proof/Syntax.lean ====
section
/-! DEFINITION. Sys2Proof/Syntax.lean: Instr, one constructor for each of the 327 rows of spec/opcode_table.json.

The first 228 constructors are the encoded instructions of Rolaris (R47 to R52): their fields are the bit fields of ONE
32-bit word, as R34 to R37 and R63 cut it; a reach or when word is an instruction word of its own here, and the step
reads the words of a prefixed instruction one after the other (R41). A register field is the five bits of the word; the
register it names is hi * 32 + field (R38). The immediate of a branch is its bits [12:1], that of jal its bits [20:1] (R63).

The other 99 constructors are the steps that other agents take (95_what_each_step_holds: "the part's steps, each whole
and indivisible"): the host, the mailbox, the fabric, the homes, the engines, the launch units. Each carries the data
that says which agent acts and on what; State.agenda says when (notes/assumptions/1.md). -/

namespace Sys2Proof

/-- The read-modify-write operations of the atomics (R278). -/
inductive AmOp where
  | add | and | or | xor | min | max | minn | maxn | swp | cas | fadd | faddc
deriving DecidableEq, Repr

/-- What a peer package asks of this package's memory over UALink (R412, R282): read a word, write the bytes of a word
that a mask selects, or one atomic of 32 or 64 bits. -/
inductive PeerOp where
  | read
  | write (mask : BitVec 8) (data : Word)
  | atomic (op : AmOp) (size : BitVec 1) (operand compare : Word)
deriving DecidableEq, Repr

/-- A register whose write is the step REGISTER_WRITE (R14): a host queue register with no behaviour of its own (R404),
a tenant register of R381 by its CSR number, a per-thread CSR of R77, or word i of the mailbox, at offset 8i (R407). -/
inductive RegName where
  | queueCompletion (q : Nat)
  | queueChead (q : Nat)
  | tenantCsr (t : Nat) (csr : BitVec 12)
  | threadCsr (slot : Nat) (csr : BitVec 12)
  | mailboxWord (i : Nat)
deriving DecidableEq, Repr

/-- A link that can fail or replay (R98, R282, R417): a die link by its router node and port, the UALink of a peer
package, or the CXL link. -/
inductive LinkName where
  | dieLink (node port : Nat)
  | peer (package : Nat)
  | cxl
deriving DecidableEq, Repr

/-- What a home performs in one step of its order (R94): word idx of the store-buffer entry at place entry of a core
(R290), the synchronising store in flight of a core (R273), a request packet that reached its home, or the return of the
requests held on a word after its tag changed (R271). -/
inductive HomeReq where
  | buffered (core entry idx : Nat)
  | packet (pkt : Nat)
deriving DecidableEq, Repr

/-- The instructions and steps: one constructor per row of the opcode table. -/
inductive Instr where
  /-- LB (R66): Loads a sign-extended byte from X[rs1] + imm into rd and sets rd full. -/
  | lb (rd rs1 : BitVec 5) (imm : BitVec 12)
  /-- LH (R66): Loads a sign-extended half from X[rs1] + imm into rd. -/
  | lh (rd rs1 : BitVec 5) (imm : BitVec 12)
  /-- LW (R66): Loads a sign-extended 32-bit value from X[rs1] + imm into rd. -/
  | lw (rd rs1 : BitVec 5) (imm : BitVec 12)
  /-- LD (R66): Loads a 64-bit value from X[rs1] + imm into rd. -/
  | ld (rd rs1 : BitVec 5) (imm : BitVec 12)
  /-- LBU (R66): Loads a zero-extended byte into rd. -/
  | lbu (rd rs1 : BitVec 5) (imm : BitVec 12)
  /-- LHU (R66): Loads a zero-extended half into rd. -/
  | lhu (rd rs1 : BitVec 5) (imm : BitVec 12)
  /-- LWU (R66): Loads a zero-extended 32-bit value into rd. -/
  | lwu (rd rs1 : BitVec 5) (imm : BitVec 12)
  /-- FENCE (R70): Acts as fence.s system, full when pred and succ are both non-zero, otherwise as a hint. -/
  | fence (fm pred succ : BitVec 4)
  /-- FENCE_I (R71): Waits for the thread's stores at system scope, then empties the core's fetch buffer. -/
  | fenceI
  /-- ADDI (R64): Writes X[rs1] plus the sign-extended immediate to rd. -/
  | addi (rd rs1 : BitVec 5) (imm : BitVec 12)
  /-- SLTI (R64): Writes 1 to rd if X[rs1] is signed-less than the immediate, else 0. -/
  | slti (rd rs1 : BitVec 5) (imm : BitVec 12)
  /-- SLTIU (R64): Writes 1 to rd if X[rs1] is unsigned-less than the immediate, else 0. -/
  | sltiu (rd rs1 : BitVec 5) (imm : BitVec 12)
  /-- XORI (R64): Writes X[rs1] xor the immediate to rd. -/
  | xori (rd rs1 : BitVec 5) (imm : BitVec 12)
  /-- ORI (R64): Writes X[rs1] or the immediate to rd. -/
  | ori (rd rs1 : BitVec 5) (imm : BitVec 12)
  /-- ANDI (R64): Writes X[rs1] and the immediate to rd. -/
  | andi (rd rs1 : BitVec 5) (imm : BitVec 12)
  /-- SLLI (R64): Shifts X[rs1] left by the 6-bit shift amount into rd. -/
  | slli (rd rs1 : BitVec 5) (sh : BitVec 6)
  /-- SRLI (R64): Shifts X[rs1] right logically by the shift amount into rd. -/
  | srli (rd rs1 : BitVec 5) (sh : BitVec 6)
  /-- SRAI (R64): Shifts X[rs1] right arithmetically by the shift amount into rd. -/
  | srai (rd rs1 : BitVec 5) (sh : BitVec 6)
  /-- AUIPC (R64): Writes the PC of the instruction plus the U immediate to rd. -/
  | auipc (rd : BitVec 5) (imm : BitVec 20)
  /-- ADDIW (R64): Adds the immediate to the low 32 bits of X[rs1] and writes the sign-extended result. -/
  | addiw (rd rs1 : BitVec 5) (imm : BitVec 12)
  /-- SLLIW (R64): 32-bit left shift by the 5-bit amount, sign-extended into rd. -/
  | slliw (rd rs1 sh : BitVec 5)
  /-- SRLIW (R64): 32-bit logical right shift, sign-extended into rd. -/
  | srliw (rd rs1 sh : BitVec 5)
  /-- SRAIW (R64): 32-bit arithmetic right shift, sign-extended into rd. -/
  | sraiw (rd rs1 sh : BitVec 5)
  /-- SB (R66): Stores the low byte of X[rs2] at X[rs1] + imm through the store buffer. -/
  | sb (rs2 rs1 : BitVec 5) (imm : BitVec 12)
  /-- SH (R66): Stores the low half of X[rs2]. -/
  | sh (rs2 rs1 : BitVec 5) (imm : BitVec 12)
  /-- SW (R66): Stores the low 32 bits of X[rs2]. -/
  | sw (rs2 rs1 : BitVec 5) (imm : BitVec 12)
  /-- SD (R66): Stores X[rs2] as 8 bytes, clearing poison of the word. -/
  | sd (rs2 rs1 : BitVec 5) (imm : BitVec 12)
  /-- ADD (R64): Writes X[rs1]+X[rs2] to rd. -/
  | add (rd rs1 rs2 : BitVec 5)
  /-- SUB (R64): Writes X[rs1]-X[rs2] to rd. -/
  | sub (rd rs1 rs2 : BitVec 5)
  /-- SLL (R64): Shifts X[rs1] left by X[rs2][5:0]. -/
  | sll (rd rs1 rs2 : BitVec 5)
  /-- SLT (R64): Signed compare less-than into rd. -/
  | slt (rd rs1 rs2 : BitVec 5)
  /-- SLTU (R64): Unsigned compare less-than into rd. -/
  | sltu (rd rs1 rs2 : BitVec 5)
  /-- XOR (R64): Writes X[rs1] xor X[rs2] to rd. -/
  | xor (rd rs1 rs2 : BitVec 5)
  /-- SRL (R64): Logical right shift by X[rs2][5:0]. -/
  | srl (rd rs1 rs2 : BitVec 5)
  /-- SRA (R64): Arithmetic right shift by X[rs2][5:0]. -/
  | sra (rd rs1 rs2 : BitVec 5)
  /-- OR (R64): Writes X[rs1] or X[rs2] to rd. -/
  | or (rd rs1 rs2 : BitVec 5)
  /-- AND (R64): Writes X[rs1] and X[rs2] to rd. -/
  | and (rd rs1 rs2 : BitVec 5)
  /-- MUL (R64): Writes the low 64 bits of the product to rd. -/
  | mul (rd rs1 rs2 : BitVec 5)
  /-- MULH (R64): Writes the high 64 bits of the signed product. -/
  | mulh (rd rs1 rs2 : BitVec 5)
  /-- MULHSU (R64): Writes the high 64 bits of signed times unsigned. -/
  | mulhsu (rd rs1 rs2 : BitVec 5)
  /-- MULHU (R64): Writes the high 64 bits of the unsigned product. -/
  | mulhu (rd rs1 rs2 : BitVec 5)
  /-- DIV (R65): Signed 64-bit division truncating toward zero, never trapping. -/
  | div (rd rs1 rs2 : BitVec 5)
  /-- DIVU (R65): Unsigned 64-bit division. -/
  | divu (rd rs1 rs2 : BitVec 5)
  /-- REM (R65): Signed 64-bit remainder. -/
  | rem (rd rs1 rs2 : BitVec 5)
  /-- REMU (R65): Unsigned 64-bit remainder. -/
  | remu (rd rs1 rs2 : BitVec 5)
  /-- LUI (R64): Writes the sign-extended U immediate to rd. -/
  | lui (rd : BitVec 5) (imm : BitVec 20)
  /-- ADDW (R64): 32-bit add, sign-extended into rd. -/
  | addw (rd rs1 rs2 : BitVec 5)
  /-- SUBW (R64): 32-bit subtract, sign-extended into rd. -/
  | subw (rd rs1 rs2 : BitVec 5)
  /-- SLLW (R64): 32-bit left shift by X[rs2][4:0]. -/
  | sllw (rd rs1 rs2 : BitVec 5)
  /-- SRLW (R64): 32-bit logical right shift. -/
  | srlw (rd rs1 rs2 : BitVec 5)
  /-- SRAW (R64): 32-bit arithmetic right shift. -/
  | sraw (rd rs1 rs2 : BitVec 5)
  /-- MULW (R64): 32-bit multiply, sign-extended. -/
  | mulw (rd rs1 rs2 : BitVec 5)
  /-- DIVW (R65): Signed 32-bit division, sign-extended. -/
  | divw (rd rs1 rs2 : BitVec 5)
  /-- DIVUW (R65): Unsigned 32-bit division, sign-extended. -/
  | divuw (rd rs1 rs2 : BitVec 5)
  /-- REMW (R65): Signed 32-bit remainder, sign-extended. -/
  | remw (rd rs1 rs2 : BitVec 5)
  /-- REMUW (R65): Unsigned 32-bit remainder, sign-extended. -/
  | remuw (rd rs1 rs2 : BitVec 5)
  /-- BEQ (R68): Branches to PC+imm when X[rs1] equals X[rs2]. -/
  | beq (rs1 rs2 : BitVec 5) (imm : BitVec 12)
  /-- BNE (R68): Branches when the operands differ. -/
  | bne (rs1 rs2 : BitVec 5) (imm : BitVec 12)
  /-- BLT (R68): Branches when X[rs1] is signed-less than X[rs2]. -/
  | blt (rs1 rs2 : BitVec 5) (imm : BitVec 12)
  /-- BGE (R68): Branches when X[rs1] is not signed-less than X[rs2]. -/
  | bge (rs1 rs2 : BitVec 5) (imm : BitVec 12)
  /-- BLTU (R68): Branches when X[rs1] is unsigned-less than X[rs2]. -/
  | bltu (rs1 rs2 : BitVec 5) (imm : BitVec 12)
  /-- BGEU (R68): Branches when X[rs1] is not unsigned-less than X[rs2]. -/
  | bgeu (rs1 rs2 : BitVec 5) (imm : BitVec 12)
  /-- JALR (R68): Jumps to (X[rs1] + imm) with bit 0 cleared, writing the sequential successor to rd. -/
  | jalr (rd rs1 : BitVec 5) (imm : BitVec 12)
  /-- JAL (R68): Jumps to PC+imm, writing the sequential successor to rd. -/
  | jal (rd : BitVec 5) (imm : BitVec 20)
  /-- ECALL (R72): Raises cause 0x05 to the supervisor runtime. -/
  | ecall
  /-- EBREAK (R72): Raises cause 0x04 to xtvec. -/
  | ebreak
  /-- CSRRW (R76): Swaps X[rs1] into the CSR, returning the old value to rd. -/
  | csrrw (csr : BitVec 12) (rd rs1 : BitVec 5)
  /-- CSRRS (R76): Reads the CSR and sets the bits of X[rs1] when rs1 is not x0. -/
  | csrrs (csr : BitVec 12) (rd rs1 : BitVec 5)
  /-- CSRRC (R76): Reads the CSR and clears the bits of X[rs1] when rs1 is not x0. -/
  | csrrc (csr : BitVec 12) (rd rs1 : BitVec 5)
  /-- CSRRWI (R76): Writes the zero-extended uimm to the CSR, returning the old value. -/
  | csrrwi (csr : BitVec 12) (rd uimm : BitVec 5)
  /-- CSRRSI (R76): Reads the CSR and sets the uimm bits when uimm is non-zero. -/
  | csrrsi (csr : BitVec 12) (rd uimm : BitVec 5)
  /-- CSRRCI (R76): Reads the CSR and clears the uimm bits when uimm is non-zero. -/
  | csrrci (csr : BitVec 12) (rd uimm : BitVec 5)
  /-- FADD (R204): Lanewise floating-point add rounded by frm. -/
  | fadd (span : BitVec 2) (bc : BitVec 1) (ty : BitVec 2) (rd rs1 rs2 : BitVec 5)
  /-- FSUB (R204): Lanewise floating-point subtract. -/
  | fsub (span : BitVec 2) (bc : BitVec 1) (ty : BitVec 2) (rd rs1 rs2 : BitVec 5)
  /-- FMUL (R204): Lanewise floating-point multiply. -/
  | fmul (span : BitVec 2) (bc : BitVec 1) (ty : BitVec 2) (rd rs1 rs2 : BitVec 5)
  /-- FMAC (R204): Lanewise fused rd + rs1 x rs2 with one rounding. -/
  | fmac (span : BitVec 2) (bc : BitVec 1) (ty : BitVec 2) (rd rs1 rs2 : BitVec 5)
  /-- FMSC (R204): Lanewise fused rd - rs1 x rs2 with one rounding. -/
  | fmsc (span : BitVec 2) (bc : BitVec 1) (ty : BitVec 2) (rd rs1 rs2 : BitVec 5)
  /-- FMIN (R205): Lanewise minimumNumber. -/
  | fmin (span : BitVec 2) (bc : BitVec 1) (ty : BitVec 2) (rd rs1 rs2 : BitVec 5)
  /-- FMAX (R205): Lanewise maximumNumber. -/
  | fmax (span : BitVec 2) (bc : BitVec 1) (ty : BitVec 2) (rd rs1 rs2 : BitVec 5)
  /-- FDIV (R204): Lanewise floating-point divide on the shared divide unit. -/
  | fdiv (span : BitVec 2) (bc : BitVec 1) (ty : BitVec 2) (rd rs1 rs2 : BitVec 5)
  /-- FSQRT (R205): Lanewise square root of rs1. -/
  | fsqrt (span : BitVec 2) (bc : BitVec 1) (ty : BitVec 2) (rd rs1 rs2 : BitVec 5)
  /-- FRCPE (R205): Lanewise truncated estimate of 1/a. -/
  | frcpe (span : BitVec 2) (bc : BitVec 1) (ty : BitVec 2) (rd rs1 rs2 : BitVec 5)
  /-- FRSQE (R205): Lanewise truncated estimate of 1/sqrt(a). -/
  | frsqe (span : BitVec 2) (bc : BitVec 1) (ty : BitVec 2) (rd rs1 rs2 : BitVec 5)
  /-- FSGNJ (R205): Lanewise a with the sign of b. -/
  | fsgnj (span : BitVec 2) (bc : BitVec 1) (ty : BitVec 2) (rd rs1 rs2 : BitVec 5)
  /-- FSGNJN (R205): Lanewise a with the inverted sign of b. -/
  | fsgnjn (span : BitVec 2) (bc : BitVec 1) (ty : BitVec 2) (rd rs1 rs2 : BitVec 5)
  /-- FSGNJX (R205): Lanewise a with sign(a) xor sign(b). -/
  | fsgnjx (span : BitVec 2) (bc : BitVec 1) (ty : BitVec 2) (rd rs1 rs2 : BitVec 5)
  /-- FSUM (R206): Sums all lanes of rs1 by a fixed pairwise tree into every lane of rd. -/
  | fsum (span : BitVec 2) (bc : BitVec 1) (ty : BitVec 2) (rd rs1 rs2 : BitVec 5)
  /-- FMAXA (R206): Writes the largest lane magnitude of rs1 to every lane of rd. -/
  | fmaxa (span : BitVec 2) (bc : BitVec 1) (ty : BitVec 2) (rd rs1 rs2 : BitVec 5)
  /-- SPAN_ADD (R204): Lanewise integer add modulo 2^w. -/
  | spanAdd (span : BitVec 2) (bc : BitVec 1) (ty : BitVec 2) (rd rs1 rs2 : BitVec 5)
  /-- SPAN_SUB (R204): Lanewise integer subtract. -/
  | spanSub (span : BitVec 2) (bc : BitVec 1) (ty : BitVec 2) (rd rs1 rs2 : BitVec 5)
  /-- SPAN_MIN (R204): Lanewise signed minimum. -/
  | spanMin (span : BitVec 2) (bc : BitVec 1) (ty : BitVec 2) (rd rs1 rs2 : BitVec 5)
  /-- SPAN_MAX (R204): Lanewise signed maximum. -/
  | spanMax (span : BitVec 2) (bc : BitVec 1) (ty : BitVec 2) (rd rs1 rs2 : BitVec 5)
  /-- SPAN_MAXN (R204): Lanewise unsigned maximum. -/
  | spanMaxn (span : BitVec 2) (bc : BitVec 1) (ty : BitVec 2) (rd rs1 rs2 : BitVec 5)
  /-- SPAN_MUL (R204): Lanewise low product. -/
  | spanMul (span : BitVec 2) (bc : BitVec 1) (ty : BitVec 2) (rd rs1 rs2 : BitVec 5)
  /-- SPAN_MULH (R204): Lanewise high half of the signed product. -/
  | spanMulh (span : BitVec 2) (bc : BitVec 1) (ty : BitVec 2) (rd rs1 rs2 : BitVec 5)
  /-- SPAN_AND (R204): Lanewise and. -/
  | spanAnd (span : BitVec 2) (bc : BitVec 1) (ty : BitVec 2) (rd rs1 rs2 : BitVec 5)
  /-- SPAN_OR (R204): Lanewise or. -/
  | spanOr (span : BitVec 2) (bc : BitVec 1) (ty : BitVec 2) (rd rs1 rs2 : BitVec 5)
  /-- SPAN_XOR (R204): Lanewise xor. -/
  | spanXor (span : BitVec 2) (bc : BitVec 1) (ty : BitVec 2) (rd rs1 rs2 : BitVec 5)
  /-- SPAN_SLL (R204): Lanewise left shift by b mod w. -/
  | spanSll (span : BitVec 2) (bc : BitVec 1) (ty : BitVec 2) (rd rs1 rs2 : BitVec 5)
  /-- SPAN_SRL (R204): Lanewise logical right shift. -/
  | spanSrl (span : BitVec 2) (bc : BitVec 1) (ty : BitVec 2) (rd rs1 rs2 : BitVec 5)
  /-- SPAN_SRA (R204): Lanewise arithmetic right shift. -/
  | spanSra (span : BitVec 2) (bc : BitVec 1) (ty : BitVec 2) (rd rs1 rs2 : BitVec 5)
  /-- FSL (R204): Lanewise funnel shift left of rd:rs1 by b mod 2w. -/
  | fsl (span : BitVec 2) (bc : BitVec 1) (ty : BitVec 2) (rd rs1 rs2 : BitVec 5)
  /-- FSR (R204): Lanewise funnel shift right of rd:rs1. -/
  | fsr (span : BitVec 2) (bc : BitVec 1) (ty : BitVec 2) (rd rs1 rs2 : BitVec 5)
  /-- GMAX (R206): Writes the unsigned maximum of all lanes of rs1 to every lane. -/
  | gmax (span : BitVec 2) (bc : BitVec 1) (ty : BitVec 2) (rd rs1 rs2 : BitVec 5)
  /-- CMPEQ (R208): Lanewise equality mask. -/
  | cmpeq (span : BitVec 2) (ty : BitVec 3) (rd rs1 rs2 : BitVec 5)
  /-- CMPLT (R208): Lanewise signed or ordered less-than mask. -/
  | cmplt (span : BitVec 2) (ty : BitVec 3) (rd rs1 rs2 : BitVec 5)
  /-- CMPLE (R208): Lanewise less-or-equal mask. -/
  | cmple (span : BitVec 2) (ty : BitVec 3) (rd rs1 rs2 : BitVec 5)
  /-- CMPLTN (R208): Lanewise unsigned less-than mask, integer only. -/
  | cmpltn (span ty : BitVec 2) (rd rs1 rs2 : BitVec 5)
  /-- CVT (R211): Converts each lane to the destination type, rounding by frm. -/
  | cvt (span : BitVec 2) (ty : BitVec 3) (rd rs1 sel : BitVec 5)
  /-- CVTR (R211): Converts each lane with the rounding mode in the instruction. -/
  | cvtr (span : BitVec 2) (ty : BitVec 3) (rd rs1 sel : BitVec 5)
  /-- CLZ (R209): Lanewise count of leading zeros. -/
  | clz (span ty : BitVec 2) (rd rs1 : BitVec 5)
  /-- POPC (R209): Lanewise population count. -/
  | popc (span ty : BitVec 2) (rd rs1 : BitVec 5)
  /-- ABS (R209): Lanewise absolute value or sign clear. -/
  | abs (span : BitVec 2) (ty : BitVec 3) (rd rs1 : BitVec 5)
  /-- NEG (R209): Lanewise negation or sign inversion. -/
  | neg (span : BitVec 2) (ty : BitVec 3) (rd rs1 : BitVec 5)
  /-- PERM (R209): Lane permutation of rs1 by indices in rs2. -/
  | perm (span : BitVec 2) (ty : BitVec 3) (rd rs1 rs2 : BitVec 5)
  /-- GSUM (R209): Integer sum of all lanes into every lane. -/
  | gsum (span ty : BitVec 2) (rd rs1 : BitVec 5)
  /-- FCLASS (R209): Lanewise one-hot classification word. -/
  | fclass (span ty : BitVec 2) (rd rs1 : BitVec 5)
  /-- LMSK (R210): Packs the top bit of each lane into one register. -/
  | lmsk (span : BitVec 2) (ty : BitVec 3) (rd rs1 : BitVec 5)
  /-- LEXP (R210): Expands bits of one register into all-ones or zero lanes. -/
  | lexp (span : BitVec 2) (ty : BitVec 3) (rd rs1 : BitVec 5)
  /-- QENC (R212): Quantises lanes through the active code table, trapping when saturations exceed thr. -/
  | qenc (span ty : BitVec 2) (rd rs1 rs2 : BitVec 5)
  /-- QDEC (R213): Decodes table codes and multiplies by the decode scale. -/
  | qdec (span ty : BitVec 2) (rd rs1 rs2 : BitVec 5)
  /-- QFP8 (R212): Quantises lanes to e4m3, trapping when saturations exceed thr. -/
  | qfp8 (span ty : BitVec 2) (rd rs1 rs2 : BitVec 5)
  /-- QFP8X (R212): Quantises lanes to e5m2 without a rescale trap. -/
  | qfp8x (span ty : BitVec 2) (rd rs1 rs2 : BitVec 5)
  /-- DFP8 (R213): Decodes e4m3 bytes and scales them. -/
  | dfp8 (span ty : BitVec 2) (rd rs1 rs2 : BitVec 5)
  /-- DFP8X (R213): Decodes e5m2 bytes and scales them. -/
  | dfp8x (span ty : BitVec 2) (rd rs1 rs2 : BitVec 5)
  /-- TABLD (R214): Loads a 1,024-byte code table image into table t and replaces it in one cycle. -/
  | tabld (t : BitVec 2) (rs1 : BitVec 5)
  /-- LDG (R120): Loads N consecutive words into a register span. -/
  | ldg (span : BitVec 2) (rd rs1 : BitVec 5) (imm : BitVec 10)
  /-- STG (R120): Stores a register span as N consecutive words. -/
  | stg (span : BitVec 2) (rs2 rs1 : BitVec 5) (imm : BitVec 10)
  /-- LDE (R270): Acquire load that waits at the home until the word is full. -/
  | lde (rd rs1 : BitVec 5)
  /-- LDT (R270): Acquire load that waits until full and empties the word. -/
  | ldt (rd rs1 : BitVec 5)
  /-- STF (R270): Release store that waits until the word is empty, then writes and fills it. -/
  | stf (rs1 rs2 : BitVec 5)
  /-- STP (R270): Release store that writes the word and sets it full. -/
  | stp (rs1 rs2 : BitVec 5)
  /-- TAGRD (R270): Reads the full/empty tag of a word. -/
  | tagrd (rd rs1 : BitVec 5)
  /-- TAGSET (R270): Returns the old tag and sets it to X[rs2][0]. -/
  | tagset (rd rs1 rs2 : BitVec 5)
  /-- WAIT_A (R275): Parks at the home watch table until the word differs from X[rs2] or a wake releases it. -/
  | waitA (rd rs1 rs2 : BitVec 5)
  /-- WAKE (R277): Releases the oldest waiters on a word, up to the count in X[rs2]. -/
  | wake (rd rs1 rs2 : BitVec 5)
  /-- LDX (R121): Loads 8 bytes from any byte address. -/
  | ldx (rd rs1 : BitVec 5)
  /-- STX (R122): Stores the bytes of X[rs2] selected by the mask register. -/
  | stx (rs2 rs1 rm : BitVec 5)
  /-- AMADD (R279): Atomic fetch-and-add at the home. -/
  | amadd (size ar : BitVec 1) (rd rs2 rs1 : BitVec 5)
  /-- AMAND (R279): Atomic fetch-and-and. -/
  | amand (size ar : BitVec 1) (rd rs2 rs1 : BitVec 5)
  /-- AMOR (R279): Atomic fetch-and-or. -/
  | amor (size ar : BitVec 1) (rd rs2 rs1 : BitVec 5)
  /-- AMXOR (R279): Atomic fetch-and-xor. -/
  | amxor (size ar : BitVec 1) (rd rs2 rs1 : BitVec 5)
  /-- AMMIN (R279): Atomic signed minimum. -/
  | ammin (size ar : BitVec 1) (rd rs2 rs1 : BitVec 5)
  /-- AMMAX (R279): Atomic signed maximum. -/
  | ammax (size ar : BitVec 1) (rd rs2 rs1 : BitVec 5)
  /-- AMMINN (R279): Atomic unsigned minimum. -/
  | amminn (size ar : BitVec 1) (rd rs2 rs1 : BitVec 5)
  /-- AMMAXN (R279): Atomic unsigned maximum. -/
  | ammaxn (size ar : BitVec 1) (rd rs2 rs1 : BitVec 5)
  /-- AMSWP (R279): Atomic swap. -/
  | amswp (size ar : BitVec 1) (rd rs2 rs1 : BitVec 5)
  /-- AMCAS (R279): Atomic compare-and-swap with the compare value in rd. -/
  | amcas (size ar : BitVec 1) (rd rs2 rs1 : BitVec 5)
  /-- AMFADD (R280): Atomic floating-point add rounded by RNE, never combined. -/
  | amfadd (size ar : BitVec 1) (rd rs2 rs1 : BitVec 5)
  /-- AMFADD_C (R280): Combinable atomic floating-point add. -/
  | amfaddC (size ar : BitVec 1) (rd rs2 rs1 : BitVec 5)
  /-- FENCE_S (R284): Orders the thread's accesses by kind and scope. -/
  | fenceS (kind : BitVec 2) (scope : BitVec 3)
  /-- FENCE_E (R286): Parks until every haul and matrix job the thread issued is final. -/
  | fenceE
  /-- PBIND (R149): Leases a stream port from a descriptor and optionally binds it to registers. -/
  | pbind (rd rs1 rs2 : BitVec 5)
  /-- PUNB (R157): Ends a port lease, waiting for output pushes. -/
  | punb (rd rs1 : BitVec 5)
  /-- PSTAT (R158): Returns the status of a port or of the pitch body. -/
  | pstat (rd rs1 : BitVec 5)
  /-- PSAVE (R159): Writes a port's save image to the own store. -/
  | psave (rs1 rs2 : BitVec 5)
  /-- PREST (R159): Re-leases a port from a save image. -/
  | prest (rd rs1 rs2 : BitVec 5)
  /-- PSKIP (R160): Advances a port by n elements or discards the pitch body. -/
  | pskip (rd rs1 rs2 : BitVec 5)
  /-- ISECT (R161): Intersects two sorted feeder streams into an output port. -/
  | isect (rd rs1 : BitVec 5)
  /-- TLOOK (R125): Looks up a software-cache tag table and touches a hit. -/
  | tlook (rd rs1 rs2 : BitVec 5)
  /-- TINS (R125): Installs a key in the tag table, choosing a victim. -/
  | tins (rd rs1 rs2 : BitVec 5)
  /-- TINV (R125): Invalidates a tag-table entry and returns it. -/
  | tinv (rd rs1 rs2 : BitVec 5)
  /-- REACH (R39): Prefix supplying high register-number bits to the next instruction. -/
  | reach (rs2hi rs1hi rdhi : BitVec 2)
  /-- WHEN (R40): Prefix guarding the next instruction on one bit of pw. -/
  | when (neg : BitVec 1) (pbit : BitVec 6)
  /-- PITCH (R164): Starts a replayed body of span arithmetic on a pitch sequencer. -/
  | pitch (len : BitVec 4) (stag rs1 : BitVec 5) (sd sa sb : BitVec 1) (rot : BitVec 2)
  /-- MM_BF16 (R227): Issues a bf16 matrix multiply job. -/
  | mmBf16 (s3 : BitVec 3) (rd rs1 rs2 : BitVec 5)
  /-- MM_F16 (R227): Issues an f16 matrix multiply job. -/
  | mmF16 (s3 : BitVec 3) (rd rs1 rs2 : BitVec 5)
  /-- MM_E4M3 (R227): Issues an e4m3 matrix multiply job. -/
  | mmE4m3 (s3 : BitVec 3) (rd rs1 rs2 : BitVec 5)
  /-- MM_E5M2 (R227): Issues an e5m2 matrix multiply job. -/
  | mmE5m2 (s3 : BitVec 3) (rd rs1 rs2 : BitVec 5)
  /-- MM_E4M3_E5M2 (R227): Issues an e4m3 by e5m2 matrix multiply job. -/
  | mmE4m3E5m2 (s3 : BitVec 3) (rd rs1 rs2 : BitVec 5)
  /-- MM_E5M2_E4M3 (R227): Issues an e5m2 by e4m3 matrix multiply job. -/
  | mmE5m2E4m3 (s3 : BitVec 3) (rd rs1 rs2 : BitVec 5)
  /-- MM_C8 (R227): Issues a code-table by code-table matrix multiply job. -/
  | mmC8 (s3 : BitVec 3) (rd rs1 rs2 : BitVec 5)
  /-- MM_BF16_C8 (R227): Issues a bf16 by code-table matrix multiply job. -/
  | mmBf16C8 (s3 : BitVec 3) (rd rs1 rs2 : BitVec 5)
  /-- MM_E2M1 (R227): Issues an e2m1 block-scaled matrix multiply job. -/
  | mmE2m1 (s3 : BitVec 3) (rd rs1 rs2 : BitVec 5)
  /-- MM_I8 (R227): Issues an i8 matrix multiply job. -/
  | mmI8 (s3 : BitVec 3) (rd rs1 rs2 : BitVec 5)
  /-- MM_F32X (R227): Issues a three-pass FP32 matrix multiply job. -/
  | mmF32x (s3 : BitVec 3) (rd rs1 rs2 : BitVec 5)
  /-- MBLOAD (R238): Issues a job loading a B panel into the B buffer. -/
  | mbload (rd rs1 : BitVec 5)
  /-- MST (R235): Issues a job storing an accumulator tile. -/
  | mst (rd rs1 : BitVec 5)
  /-- MWAIT (R240): Parks until a matrix job is final and returns status and info. -/
  | mwait (rd rs1 : BitVec 5)
  /-- MPOLL (R240): Returns a matrix job's status and info without waiting. -/
  | mpoll (rd rs1 : BitVec 5)
  /-- MRESTART (R241): Sets mlabel, returns the old label and clears the restart mark. -/
  | mrestart (rd rs1 : BitVec 5)
  /-- MCLR (R239): Issues a job clearing masked tiles and regions. -/
  | mclr (rd rs1 : BitVec 5)
  /-- HCOPY (R129): Issues a 1-D haul copy job. -/
  | hcopy (rd rs1 : BitVec 5)
  /-- HCOPY2 (R129): Issues a 2-D haul copy job. -/
  | hcopy2 (rd rs1 : BitVec 5)
  /-- HCOPYN (R129): Issues an N-D haul copy job. -/
  | hcopyn (rd rs1 : BitVec 5)
  /-- HGATH (R129): Issues a haul gather job. -/
  | hgath (rd rs1 : BitVec 5)
  /-- HSCAT (R129): Issues a haul scatter job. -/
  | hscat (rd rs1 : BitVec 5)
  /-- HPAIR (R129): Issues a haul twin job writing plain and transposed copies. -/
  | hpair (rd rs1 : BitVec 5)
  /-- HWAIT (R141): Parks until a haul job is final and returns its status. -/
  | hwait (rd rs1 : BitVec 5)
  /-- HPOLL (R141): Returns a haul job's status without waiting. -/
  | hpoll (rd rs1 : BitVec 5)
  /-- JOBINT (R142): Arms a user interrupt for a job's completion. -/
  | jobint (rd rs1 : BitVec 5)
  /-- SALLOC (R261): Allocates the lowest free summit record and initialises it. -/
  | salloc (rd rs1 : BitVec 5)
  /-- SFREE (R261): Frees a summit record. -/
  | sfree (rd rs1 : BitVec 5)
  /-- SSET (R262): Changes or clears selected record fields at the home, returning old word 1. -/
  | sset (rd rs1 rs2 : BitVec 5)
  /-- SUPD (R263): Sends a record update summarising elements of the own store. -/
  | supd (rs1 rs2 rt : BitVec 5)
  /-- SROLL (R264): Closes the record's window into the ring and advances gen. -/
  | sroll (rd rs1 rs2 : BitVec 5)
  /-- SSCALE (R265): Derives a quantisation word from the core's record cache. -/
  | sscale (rd rs1 rs2 : BitVec 5)
  /-- SSCALE_H (R265): Derives a quantisation word from the record at its home. -/
  | sscaleH (rd rs1 rs2 : BitVec 5)
  /-- SREAD (R266): Reads a four-word group of a record in one step. -/
  | sread (rd rs1 rs2 : BitVec 5)
  /-- SGEN (R266): Reads a record's generation at its home. -/
  | sgen (rd rs1 : BitVec 5)
  /-- SFLUSH (R267): Waits for the thread's record updates and reports refusals. -/
  | sflush (rd : BitVec 5)
  /-- SSCALE_G (R257): Derives a quantisation word as of a named generation. -/
  | sscaleG (rd rs1 rs2 : BitVec 5)
  /-- SPAWN (R318): Sends a launch record to a launch unit and returns the identifier or refusal. -/
  | spawn (rd rs1 : BitVec 5)
  /-- EXIT (R318): Ends the thread after draining its accesses and releases its slot. -/
  | exit
  /-- YIELD (R318): Gives up the slot's turns until its next own ordinary turn. -/
  | yield
  /-- TRAV (R355): Moves a traversing thread to the owner of an address. -/
  | trav (rd rs1 : BitVec 5)
  /-- MSG_REG (R343): Sends a value to a register of another thread. -/
  | msgReg (rs1 rs2 : BitVec 5)
  /-- MSG_DEC (R346): Sends a decrement to a task counter. -/
  | msgDec (rs1 rs2 : BitVec 5)
  /-- CTR_SET (R345): Arms a task counter with a count and a task descriptor. -/
  | ctrSet (rd rs1 rs2 : BitVec 5)
  /-- CTR_RD (R349): Returns the status of a task counter. -/
  | ctrRd (rd rs1 : BitVec 5)
  /-- HCALL (R350): Sends a handler call to a core, emptying the reply register. -/
  | hcall (rd rs1 rs2 : BitVec 5)
  /-- HRET (R351): Ends a handler and sends its reply. -/
  | hret (rs1 : BitVec 5)
  /-- XEMPTY (R177): Empties N consecutive registers. -/
  | xempty (nlog : BitVec 2) (rd : BitVec 5)
  /-- IXRET (R357): Returns from a user interrupt, restoring the shadow registers. -/
  | ixret
  /-- ROPE_FORM (R327): Forms a rope at run time from partner threads. -/
  | ropeForm (rd rs1 : BitVec 5)
  /-- ROPE_END (R328): Takes a member out of its rope or ends the stream when the leader executes it. -/
  | ropeEnd
  /-- UNCLIP (R329): Detaches a non-leader member from the stream. -/
  | unclip (rd : BitVec 5)
  /-- CLIP (R329): Parks a detached member until the stream passes the rejoin address. -/
  | clip (rd rs1 : BitVec 5)
  /-- COLL_RED (R363): Contributes a scalar to a reduction round on the col die. -/
  | collRed (rd rs1 rs2 : BitVec 5)
  /-- GQ_PUSH (R368): Pushes an entry to a gradient queue using a credit. -/
  | gqPush (rs1 rs2 : BitVec 5)
  /-- GQ_POP (R368): Pops the oldest entry of a gradient queue on its consumer core. -/
  | gqPop (rd rs1 : BitVec 5)
  /-- GQ_WIN (R368): Sets the credit target of the thread's window on a queue. -/
  | gqWin (rd rs1 rs2 : BitVec 5)
  /-- TRET (R399): Ends a supervisor activation with a resume, deliver, end or step action. -/
  | tret (rs1 : BitVec 5)
  /-- XRET (R398): Returns from a user trap to xepc, clearing ih. -/
  | xret
  /-- BEAT (R400): Restarts the beat timer of a persistent launch. -/
  | beat
  /-- CAIRN_OPEN (R370): Opens a capture epoch over a memory range. -/
  | cairnOpen (rd rs1 : BitVec 5)
  /-- CAIRN_CLOSE (R373): Waits for capture to finish or abandons it and closes the epoch. -/
  | cairnClose (rd rs1 : BitVec 5)
  /-- HINT_REGION (R45): Executes as a no-operation. -/
  | hintRegion
  /-- PACKAGE_RESET (R418): Power-good or a host command verifies firmware, trains links, zeroes memory and resets all state. -/
  | packageReset
  /-- CXL_LINK_RESET (R418): A CXL link reset resets the host port only. -/
  | cxlLinkReset
  /-- POWER_MEASURE (R415): Every 1 ms the controller measures power and steps the gating level. -/
  | powerMeasure (watts : Nat)
  /-- THERMAL_THROTTLE (R415): A junction temperature of 100 C sets the gating level to 7. -/
  | thermalThrottle
  /-- THERMAL_TRIP (R415): At 110 C a hardware trip stops every clock. -/
  | thermalTrip
  /-- PATROL_SCRUB (R417): Idle-cycle scrubbing reads and corrects HBM and local-store words. -/
  | patrolScrub (word : Nat)
  /-- QUEUE_DOORBELL (R405): A host write of a queue's tail makes its records available to the dispatcher. -/
  | queueDoorbell (q : Nat) (tail : BitVec 32)
  /-- QUEUE_ENABLE (R404): A write of queue word 0 sets en only if the rings and sizes are valid. -/
  | queueEnable (q : Nat) (v : Word)
  /-- REGISTER_WRITE (R14): A write to a register or CSR with no behaviour of its own stores its writable fields. -/
  | registerWrite (r : RegName) (v : Word)
  /-- DISPATCH_RECORD (R406): The dispatcher takes one host record, reserves completions and sends it to a launch unit. -/
  | dispatchRecord
  /-- LAUNCH_ACCEPT (R303): A launch unit validates an arriving record and accepts or refuses it. -/
  | launchAccept (die : Nat)
  /-- LAUNCH_ELIGIBLE (R304): A pending launch becomes eligible when its dependence words read 0, with the rope-edge check. -/
  | launchEligible (lid : Nat)
  /-- DEPENDENCE_REREAD (R304): A dependence word released at once by a full watch table is read again 64 cycles later. -/
  | dependenceReread (lid : Nat)
  /-- LAUNCH_PLACE (R305): The unit places one eligible launch that fits, allocating slots and windows. -/
  | launchPlace (die : Nat)
  /-- THREAD_START (R307): A placed thread starts with its initial registers and CSRs. -/
  | threadStart (slot : Nat)
  /-- LAUNCH_COMPLETE (R309): When all threads, tasks and jobs are done, sig is decremented and a completion posted. -/
  | launchComplete (lid : Nat)
  /-- CREATE_TENANT (R407): Mailbox command 1 creates a tenant with sroot, sentry and swdog. -/
  | createTenant (t : Nat) (sroot sentry swdog : Word)
  /-- ASSIGN (R407): Mailbox command 2 gives a tenant exactly the clusters and slices of its masks. -/
  | assign (t : Nat) (clusters : BitVec 128) (slices : BitVec 512)
  /-- WRITE_ACCESS_TABLE_WORD (R410): Mailbox command 3 writes an access-table word at every target of its set. -/
  | writeAccessTableWord (set : Word) (master : BitVec 7) (v : BitVec 32)
  /-- WRITE_ROUTE_ENTRY (R411): Mailbox command 4 writes a tenant's route entry for a class. -/
  | writeRouteEntry (t cls : Nat) (v : Word)
  /-- BIND_QUEUE (R407): Mailbox command 5 binds a host queue to a tenant. -/
  | bindQueue (q t : Nat)
  /-- SET_HDM_RANGE (R402): Mailbox command 6 sets an HDM range. -/
  | setHdmRange (range hostBase base len t cls : Nat)
  /-- RESET_TENANT (R408): Mailbox command 7 freezes, stops and clears a tenant, then ends the freeze. -/
  | resetTenant (t : Nat)
  /-- DESTROY_TENANT (R407): Mailbox command 8 destroys a reset tenant. -/
  | destroyTenant (t : Nat)
  /-- SET_POWER_LIMIT (R415): Mailbox command 9 sets the package power limit. -/
  | setPowerLimit (watts : Nat)
  /-- HALT_OR_RELEASE (R395): Mailbox command 10 halts or releases a launch or slot. -/
  | haltOrRelease (isLaunch : Bool) (ident : Nat) (release : Bool)
  /-- SET_BIVOUAC (R383): Mailbox command 11 sets a tenant's bivouac base and length. -/
  | setBivouac (t base units : Nat)
  /-- HOST_READ (R402): A CXL.mem read is checked and performed at the home. -/
  | hostRead (addr len : Nat)
  /-- HOST_WRITE (R402): A CXL.mem write is checked and performed at the home, leaving tags unchanged. -/
  | hostWrite (addr : Nat) (bytes : List Byte)
  /-- SPDM_CERTIFICATE (R414): The controller answers an SPDM request for the certificate chain. -/
  | spdmCertificate
  /-- SPDM_MEASUREMENTS (R414): The controller answers an SPDM request for signed measurements. -/
  | spdmMeasurements
  /-- PEER_ACCESS (R412): A UALink peer request is checked at the port and home and performed. -/
  | peerAccess (port tenant cls : Nat) (op : PeerOp) (pa : Nat)
  /-- LINK_REPLAY (R98): A flit CRC error causes link-level replay without reordering. -/
  | linkReplay (link : LinkName)
  /-- LINK_FAILURE (R282): A link failure ends its requests with cause 0x09 and a machine-check record. -/
  | linkFailure (link : LinkName)
  /-- ROUTER_FORWARD (R103): An arbiter grants the oldest waiting packet and forwards it one hop. -/
  | routerForward (node port : Nat) (reply : Bool)
  /-- COMBINE_WINDOW_CLOSE (R99): A combining entry stops taking merges 8 cycles after it opens. -/
  | combineWindowClose (node : Nat) (reply : Bool) (idx : Nat)
  /-- AGE_INCREMENT (R102): A packet's age grows by one for every 64 cycles it waits. -/
  | ageIncrement (pkt : Nat)
  /-- DEPOT_SPILL (R105): A link controller without a grant for 4,096 cycles spills its waiting packets to the depot. -/
  | depotSpill (node port : Nat)
  /-- DEPOT_REINJECT (R106): Depot packets are re-injected oldest first once the output grants again. -/
  | depotReinject (node port : Nat)
  /-- HOME_ACCESS (R94): A request reaching a word's home is performed in one step of the home order. -/
  | homeAccess (r : HomeReq)
  /-- MEMORY_REPLY (R75): A reply from memory arrives and the waiting instruction retires or traps. -/
  | memoryReply (slot : Nat) (v : Word)
  /-- HOLD_RETRY (R271): A request returned by a full hold store is sent again 64 cycles after it arrives back. -/
  | holdRetry (slot : Nat)
  /-- MESSAGE_ARRIVAL (R339): An arriving message is checked at the target core and buffered or refused. -/
  | messageArrival (pkt : Nat)
  /-- MESSAGE_RETRY (R340): A message returned by a full buffer is sent again 64 cycles later. -/
  | messageRetry (pkt : Nat)
  /-- REGISTER_DELIVERY (R175): A waiting delivery lands in an empty register and sets it full. -/
  | registerDelivery (core idx : Nat)
  /-- COUNTER_DECREMENT (R346): An arriving decrement is applied to an armed counter. -/
  | counterDecrement (core : Nat)
  /-- TASK_START (R347): A fired task starts in a free slot with its arguments. -/
  | taskStart (core : Nat)
  /-- HANDLER_START (R351): The next handler call starts on the service slot. -/
  | handlerStart (core : Nat)
  /-- TRAVERSE_LANDING (R354): A shipped context lands in a slot, the arrival queue or the bivouac. -/
  | traverseLanding (pkt : Nat)
  /-- BIVOUAC_REFILL (R354): Spilled arrivals or tasks return to their queue oldest first as it drains. -/
  | bivouacRefill (core : Nat)
  /-- ARRIVAL_RESEND (R383): An arrival returned by a full spill engine is sent again 64 cycles later. -/
  | arrivalResend (pkt : Nat)
  /-- THREAD_WAKE (R310): A waiting or parked thread becomes ready when its condition clears. -/
  | threadWake (slot : Nat)
  /-- JOB_ACCEPT (R128): The octet queue accepts one candidate job per kind and reads its descriptor. -/
  | jobAccept (octet : Nat) (matrix : Bool)
  /-- HAUL_JOB_START (R134): The haul engine starts the job at the head of the queue and moves its words. -/
  | haulJobStart (octet words : Nat)
  /-- HAUL_JOB_FINAL (R136): A haul job reaches done, poisoned or fault once its writes and updates are acknowledged. -/
  | haulJobFinal (octet : Nat)
  /-- MBLOAD_JOB (R238): The engine loads a panel into its regions. -/
  | mbloadJob (octet words : Nat)
  /-- MULTIPLY_JOB (R199): The engine runs a multiply's K-steps into its tile. -/
  | multiplyJob (octet words : Nat)
  /-- MST_JOB (R236): The engine converts and writes a tile and may send a record update. -/
  | mstJob (octet words : Nat)
  /-- MCLR_JOB (R239): The engine clears masked tiles and regions at its turn. -/
  | mclrJob (octet : Nat)
  /-- MATRIX_JOB_FINAL (R230): A matrix job reaches its final state in acceptance order, emptying sync-2 A words when done. -/
  | matrixJobFinal (octet : Nat)
  /-- SUMMIT_UPDATE_APPLY (R251): A record update is applied or refused at the record's home. -/
  | summitUpdateApply (idx : Nat)
  /-- USER_INTERRUPT_DELIVERY (R380): An armed job completion is delivered at ivec with shadowed registers. -/
  | userInterruptDelivery (slot : Nat)
  /-- PORT_PREFETCH (R152): A read port requests its next element and holds any fault on it. -/
  | portPrefetch (slot port : Nat)
  /-- PORT_PUSH_PERFORM (R154): An output port performs a pushed element or records its failure. -/
  | portPushPerform (slot port : Nat)
  /-- PITCH_REPLAY (R165): A pitch sequencer issues the next staggered replay into the span pipe. -/
  | pitchReplay (slot : Nat)
  /-- ROPE_STEP (R322): A rope takes one step, each member executing its stream index. -/
  | ropeStep (rope : Nat)
  /-- BARRIER_CFG_WRITE (R333): A store to a barrier's cfg resets its count and releases waiters with all-ones. -/
  | barrierCfgWrite (cluster idx : Nat) (v : Word)
  /-- BARRIER_ARRIVE_WAIT (R333): A load counts an arrival and parks until the phase fires. -/
  | barrierArriveWait (slot idx : Nat)
  /-- BARRIER_ARRIVE (R333): A load counts an arrival and returns the phase at once. -/
  | barrierArrive (slot idx : Nat)
  /-- BARRIER_CHILD_ARRIVAL (R333): An arrival sent by a child barrier is counted or refused. -/
  | barrierChildArrival (pkt : Nat)
  /-- BARRIER_PARENT_RELEASE (R333): A parent's release fires a closed barrier. -/
  | barrierParentRelease (pkt : Nat)
  /-- MUTEX_ACQUIRE (R334): A load acquires a mutex, parking until it is free. -/
  | mutexAcquire (slot idx : Nat)
  /-- MUTEX_TRY (R334): A load takes a free mutex or returns 0 without parking. -/
  | mutexTry (slot idx : Nat)
  /-- MUTEX_RELEASE (R334): A store by the owner frees the mutex or hands it to the oldest waiter. -/
  | mutexRelease (slot idx : Nat)
  /-- EVENT_WAIT (R335): A load waits on an event line or returns at once when it is set. -/
  | eventWait (slot idx : Nat)
  /-- EVENT_SET (R335): A store sets the line's value and releases one or all waiters. -/
  | eventSet (cluster idx : Nat) (v : Word)
  /-- EVENT_CLEAR (R335): A store clears the line's set bit. -/
  | eventClear (cluster idx : Nat)
  /-- EVENT_CFG_WRITE (R335): A store writes the line's auto and forwarding configuration. -/
  | eventCfgWrite (cluster idx : Nat) (v : Word)
  /-- EVENT_FORWARDED_SET (R335): A set forwarded from another cluster's line is applied. -/
  | eventForwardedSet (pkt : Nat)
  /-- COLL_ROUND_COMPLETE (R361): A round's result is formed by the fixed tree and delivered to every member. -/
  | collRoundComplete (round : Nat) (partners : List Word)
  /-- COLL_ROUND_FAIL (R363): A failed round delivers the failure code and posts a record. -/
  | collRoundFail (round : Nat)
  /-- GQ_CREDIT_GRANT (R367): Each cycle with free entries the queue home grants a credit to the head window. -/
  | gqCreditGrant (t q : Nat)
  /-- GQ_ENTRY_ARRIVAL (R368): A pushed entry is written into the consumer's ring. -/
  | gqEntryArrival (pkt : Nat)
  /-- CAIRN_BACKGROUND_CAPTURE (R371): A slice captures its uncaptured granules in idle cycles. -/
  | cairnBackgroundCapture (t granule : Nat)
  /-- PAGE_WALK (R384): The die walker walks the tables for a missing page. -/
  | pageWalk (cluster t page : Nat)
  /-- WALK_COMPLETE (R385): A finished walk answers every joined request with one leaf or fault. -/
  | walkComplete (die idx : Nat)
  /-- STLBINV (R387): A write drops matching translations package-wide and waits for their accesses. -/
  | stlbinv (t : Nat) (v : Word)
  /-- SPRE_PARK (R390): Act 0 stops a launch, discards its matrix jobs and parks its threads in place. -/
  | sprePark (die : Nat)
  /-- SPRE_SPILL (R390): Act 1 stops a launch and writes its contexts to the bivouac. -/
  | spreSpill (die : Nat)
  /-- SPRE_SPILL_STORES (R390): Act 2 spills a launch with its local stores and releases its cores. -/
  | spreSpillStores (die : Nat)
  /-- SPRE_RESUME (R391): Act 3 resumes a pre-empted launch in place or placed again. -/
  | spreResume (die : Nat)
  /-- SPRE_HALT (R395): Act 4 halts a launch's threads with cause 0x11. -/
  | spreHalt (die : Nat)
  /-- SPRE_RELEASE_HALT (R395): Act 5 makes halted threads ready at their sepc. -/
  | spreReleaseHalt (die : Nat)
  /-- SXVAL_READ (R396): A read returns the selected register or CSR of the named thread and its full bit. -/
  | sxvalRead (core : Nat)
  /-- SXVAL_WRITE (R396): A write sets the selected register or CSR of the named thread. -/
  | sxvalWrite (core : Nat) (v : Word)
  /-- ACTIVATION_START (R378): A queued supervisor activation starts on the service slot at sentry. -/
  | activationStart (core : Nat)
  /-- WATCHDOG_FIRE (R393): A launch's deadline or beat window expires and its tenant is frozen. -/
  | watchdogFire (lid : Nat)
  /-- SPAWN_REPLY (R318): The launch unit's reply to a spawn arrives at the spawning thread, writing rd with the launch identifier or refusal code. -/
  | spawnReply (slot : Nat)
  /-- PEER_GROUP_LEAVE (R363): A partner package leaves the peer group, failing any open scope-2 round with code 3. -/
  | peerGroupLeave (group package : Nat)
deriving DecidableEq, Repr

end Sys2Proof
end

