-- ==== Sys2Proof/Machine/State.lean ====
section
/-! DEFINITION. Sys2Proof/Machine/State.lean: everything the manual gives the package, as plain data, and State.reset.

A unit of which the package has many is held under its number in an AMap; a number that is not listed holds the reset
value of its kind. A core is 0 to 16,383 (compute) or 16,384 + slice (optimiser); a thread slot is core * 64 + slot, which
is its slotid value (R77). An octet is core / 8, a cluster core / 128, a die core / 2,048 (R2, R3). -/

namespace Sys2Proof.Machine

/-- A register file entry (R169, R174, R178): its 64 bits, its full/empty bit, and whether its parity is wrong. -/
structure Reg where
  val : Word := 0
  full : Bool := true
  perr : Bool := false
deriving DecidableEq, Repr

/-- A haul or matrix job by the queue that holds it (R127, R140). -/
structure JobRef where
  octet : Nat
  matrix : Bool
  core : Nat
  seq : Nat
deriving DecidableEq, Repr

/-- What a waiting or parked thread waits for (R310), or what keeps a ready one from issuing. -/
inductive Cond where
  /-- a register to be full (R74, R174) -/
  | fullReg (n : Nat)
  /-- registers, ports or all of a running pitch body (R165, R177) -/
  | heldBy (regs ports : List Nat)
  /-- the body's end (R164, R318) -/
  | noBody
  /-- a free pitch sequencer of the core (R164) -/
  | sequencer
  /-- store-buffer entries, pushes and in-flight stores to be performed (R290) -/
  | drained (ids : List Nat)
  /-- room in the store buffer (R290) -/
  | bufferRoom
  /-- the reply to the outstanding request (R75) -/
  | reply
  /-- words held ready at a read port (R150, R161) -/
  | portWords (h n : Nat)
  /-- a word of a link to discard at the port (R160) -/
  | skipWords (h : Nat)
  /-- room for pushed words at an output port (R150) -/
  | portRoom (h n : Nat)
  /-- the pushes of an output port performed (R157, R159) -/
  | portIdle (h : Nat)
  /-- jobs to be final (R141, R286) -/
  | jobsFinal (js : List JobRef)
  /-- acceptance by the octet's queue (R128) -/
  | acceptance (matrix : Bool)
  /-- fewer than 16 spawns outstanding (R318) -/
  | spawnRoom
  /-- fewer than 16 summit updates outstanding, or none (R267) -/
  | updates (most : Nat)
  /-- a credit on gradient queue q (R368) -/
  | credit (q : Nat)
  /-- an entry of gradient queue q of the core's tenant (R368) -/
  | entry (q : Nat)
  /-- the previous collective result (R363), and the peer group's holder (R360) -/
  | collective (pg : Nat)
  /-- the open epoch captured or failed (R373) -/
  | captured
  /-- the activation that handles the thread's trap (R377) -/
  | activation
  /-- resume after pre-emption (R390) -/
  | resume
  /-- the stream passing address a, or the stream's end (R329) -/
  | clip (a : Word)
  /-- the partners of rope.form (R327) -/
  | partners
  /-- the rope's next step (R322) -/
  | ropeStep
  /-- no pitch body of a sibling reads code table t, and no sibling loads one (R216, R217) -/
  | tableFree (t : Nat)
  /-- a cycle other than c: the span pipe was refused in c (R166) -/
  | otherCycle (c : Nat)
  /-- the accesses that a dropped translation of the tenant served (R387) -/
  | dropped (tenant : Nat) (v : Word) (ids : List Nat)
  /-- words for isect at the port, of the elements it wants as they now stand (R161) -/
  | isectWords (v : Word)
  /-- replies to hcall (R353) -/
  | replies
  /-- requests that came earlier to the home input of word k (R94, R253) -/
  | homeTurn (k : Nat)
  /-- the walk of a page, for an access at address v (R385) -/
  | walk (page : Nat) (v : Word)
deriving DecidableEq, Repr

/-- The states of a thread (R310); a slot with no thread is free. -/
inductive Run where
  | ready
  | waiting (c : Cond)
  | parked (c : Cond)
  | spilled
  | traversing
deriving DecidableEq, Repr

/-- How the words of an outstanding request make the instruction's result. -/
inductive Asm where
  /-- size bytes at byte offset off of the one word, sign-extended or not (R66) -/
  | scalar (size off : Nat) (signed : Bool)
  /-- the words in order to rd, rd + 1 ... (R120) -/
  | group
  /-- eight bytes from byte offset off of two words (R121) -/
  | unaligned (off : Nat)
  /-- the 32-bit old value at byte offset off as f32, upper bits ones (R279) -/
  | boxed (off : Nat)
  /-- no register is written -/
  | none
deriving DecidableEq, Repr

/-- An instruction that waits for a reply: the words it asked for, those that came, and the failure a reply reports. -/
structure Pend where
  asm : Asm
  rd : Nat
  npc : Word
  /-- the words by number; from 2^60 on, word i of the instruction, which lies outside the package or nowhere -/
  keys : List Nat
  got : List (Nat × Word)
  /-- words that failed, with the cause -/
  bad : List (Nat × Nat)
  /-- the reply is a wait.a's or a belay unit's: a withdrawal completes or restarts it as R276 and R336 state -/
  mode : Nat
  /-- the belay barrier's phase in which the arrival counted (R336) -/
  phase : Nat
  ea : Word
  /-- the read ports the instruction pops when it retires (R150) -/
  pops : List Nat
deriving DecidableEq, Repr

/-- A held element of a read port (R152, R153): its words, or the fault held on it. -/
structure Element where
  words : List Word
  fault : Option (Nat × Word)
  /-- the index word an indirect port popped for it -/
  ix : Option Word := none
deriving DecidableEq, Repr

/-- An element an output port accepted and has not performed (R154). -/
structure Push where
  ident : Nat
  addr : Word
  words : List Word
deriving DecidableEq, Repr

/-- An element that a read port has asked for with sync 1, each of its words held at its home until it is full (R152): its number,
the words that have come, the first fault, and the index word an indirect port popped for it. -/
structure Ask where
  no : Nat
  words : List (Option Word)
  fault : Option (Nat × Word)
  ix : Option Word
deriving DecidableEq, Repr

/-- A leased stream port (R145 to R162). -/
structure Port where
  ctl : Word
  base : Word
  counts : Word
  strides : List Word
  pos : Nat
  bound : Option Nat
  ixh : Nat
  /-- elements requested and held, the head first -/
  held : List Element
  /-- index words popped for elements that are to be requested again (R152, R153) -/
  again : List Word := []
  /-- elements asked for with sync 1 that are not held yet, in order, and the number of the next (R152) -/
  asks : List Ask := []
  askNo : Nat := 0
  /-- the pc of a pskip that waits for words of a link, and the elements it has discarded (R160) -/
  skipping : Option (Word × Nat) := none
  pushes : List Push
  /-- recorded output failure: cause and address (R154) -/
  failed : Option (Nat × Word)
deriving DecidableEq, Repr

/-- One instruction of a pitch body with its prefixes (R164). -/
structure BodyInstr where
  instr : Instr
  word : BitVec 32
  hi : Nat × Nat × Nat
  guard : Option (Bool × BitVec 6)
deriving DecidableEq, Repr

/-- A pitch body (R163 to R168). -/
structure PitchBody where
  instrs : List BodyInstr
  stag : Nat
  rot : Nat
  sd : Bool
  sa : Bool
  sb : Bool
  count : Nat
  iter : Nat
  index : Nat
  heldRegs : List Nat
  heldPorts : List Nat
  /-- the cause and value of a replay that would trap: the body is stopped (R167) -/
  stop : Option (Nat × Word)
  /-- the trap of the stopped replay has been taken -/
  taken : Bool
  resumeAt : Option Word
  /-- an activation handles that trap: its tret may resume the body (R167) -/
  byAct : Bool := false
  /-- the sequencer of the core that runs it, 0 to 3 (R164, R166) -/
  seq : Nat := 0
deriving DecidableEq, Repr

/-- What a message carries (R343, R346, R350). -/
inductive Message where
  | reg (slot reg : Nat) (v : Word)
  | dec (core counter amount : Nat)
  /-- entry is the handler's, once the target core has read it (R350); byHandler: a handler calls (R339) -/
  | call (core h : Nat) (a0 a1 : Word) (caller reg : Nat) (entry : Word) (byHandler : Bool)
  /-- a reply to hcall: a register delivery (R351) -/
  | reply (slot reg : Nat) (v : Word)
  /-- the result of a collective round (R362) -/
  | result (slot reg : Nat) (v : Word)
deriving DecidableEq, Repr

/-- A message waiting in a core's buffer (R340), with its target word as sent (R338). -/
structure Waiting where
  sender : Nat
  tenant : Nat
  msg : Message
  word : Word
deriving DecidableEq, Repr

/-- The shadow of a user interrupt (R380): x4 to x7 and the pc. -/
structure Shadow where
  regs : List Reg
  pc : Word
deriving DecidableEq, Repr

/-- A completion to be delivered at ivec (R380). -/
structure UserInt where
  ident : Word
  status : Word
  info : Word
deriving DecidableEq, Repr

/-- What a thread runs as: of a launch or task; a handler with its caller's reply register (R351); an activation (R378). -/
inductive Level where
  | user
  | handler (caller reg h tenant : Nat)
  | supervisor
deriving DecidableEq, Repr

/-- A gradient-queue window's credits (R367). -/
structure GqWindow where
  queue : Nat
  asked : Nat
  credits : Nat
  tag : Nat
deriving DecidableEq, Repr

/-- A thread in a slot: its registers, its place, the CSRs of R77, and its context (R353, R390). -/
structure Thread where
  pc : Word := 0
  regs : AMap Reg := []
  base : Nat := 0
  limit : Nat := 32
  launch : Nat := 0
  tenant : Nat := 0
  ordinal : Nat := 0
  /-- 0 resident; else traversing with a context of this many registers (R302, R352) -/
  ctx : Nat := 0
  level : Level := .user
  fcsr : BitVec 8 := 0
  pw : Word := 0
  sbound : Word := 0
  xtvec : Word := 0
  xcause : Word := 0
  xepc : Word := 0
  xtval : Word := 0
  ivec : Word := 0
  tabsel : Word := 0
  mlabel : Word := 0
  instret : Word := 0
  /-- restart mark (R241) -/
  mark : Bool := false
  /-- its last rope.form failed (R327) -/
  ropeFailed : Bool := false
  run : Run := .ready
  /-- what holds a ready thread back (R75) -/
  hold : Option Cond := none
  frozen : Bool := false
  halted : Bool := false
  /-- halt after one instruction (R399) -/
  stepOne : Bool := false
  /-- that instruction has been executed: it halts before its next (R399) -/
  stepped : Bool := false
  /-- yielded: not eligible until its own ordinary turn (R318) -/
  yielded : Bool := false
  pend : Option Pend := none
  ports : AMap Port := []
  body : Option PitchBody := none
  /-- the issuing octet of the identifiers received, newest first (R140) -/
  jobMap : List JobRef := []
  /-- jobs not known to be final (R286) -/
  jobs : List JobRef := []
  armed : List JobRef := []
  /-- the cycle of its last jobint that armed one (R142) -/
  armedAt : Option Nat := none
  uints : List UserInt := []
  shadow : Option Shadow := none
  /-- outstanding spawns by launch identifier (R318) -/
  spawns : List Nat := []
  /-- replies of hcall awaited, by register, one for each call (R350) -/
  calls : List Nat := []
  /-- supd: outstanding updates by packet, refused count, a poisoned one (R267) -/
  updates : List Nat := []
  refused : Nat := 0
  poisonedUpd : Option Word := none
  windows : List GqWindow := []
  /-- the identity under which it pushes entries, given by its first gq.win (R368) -/
  gqName : Nat := 0
  /-- coll.red results awaited, by register (R361) -/
  colls : List Nat := []
  /-- the trap kept through pre-emption (R390) -/
  kept : Option (Nat × Word × Word) := none
  /-- the translation carried by a traverse for its pending instruction: virtual page, leaf, page size (R352) -/
  carried : Option (Word × Word × Nat) := none
  /-- deliveries kept for a saved thread, which land after it resumes (R341) -/
  waitingDeliveries : List Waiting := []
  /-- its place in the order of arrivals at the core (R348, R354) -/
  arrived : Nat := 0
  /-- the cycle in which its condition last cleared or a delivery to it landed: it issues no earlier than the next (R176, R315) -/
  landedAt : Option Nat := none
  /-- the registers in which deliveries landed in that cycle (R175) -/
  landed : List Nat := []
  /-- times in a row that its span instruction was refused for a replay (R166) -/
  spanRefused : Nat := 0
  /-- store-buffer entries of siblings whose bytes it has read early (R289, R290) -/
  seen : List Nat := []
  /-- writes of it to the host have left that no zero-length read has followed (R403) -/
  hostWrites : Bool := false
deriving DecidableEq, Repr

/-- A plain store in the store buffer (R290): bytes by memory key, grouped by word. -/
structure SbEntry where
  ident : Nat
  slot : Nat
  /-- word number, byte mask, data; a whole group to one local store is performed at once (R113) -/
  words : List (Nat × BitVec 8 × Word)
  whole : Bool
  /-- words on their way to their homes (R94) -/
  sent : List Nat := []
  /-- the thread's tenant, and the class of each word's page, which its home checks (R90) -/
  tenant : Nat := 0
  classes : List Nat := []
deriving DecidableEq, Repr

/-- A store outside the store buffer on its way to a home: stp, a store to a peer package or a host (R273, R285). -/
structure Flight where
  ident : Nat
  slot : Nat
  key : Nat
  data : Word
  /-- it has left the package, for a peer or the host (none), and waits for its acknowledgement (R285, R403) -/
  away : Bool := false
  peer : Option Nat := none
  /-- the job (R136) or the port (R154) whose write it is, at address data -/
  job : Option JobRef := none
  port : Option Nat := none
deriving DecidableEq, Repr

/-- A translation held by a TLB (R384): tenant, page base and size in bytes, the leaf. -/
structure TlbEntry where
  tenant : Nat
  base : Nat
  size : Nat
  leaf : Word
deriving DecidableEq, Repr

/-- A granule of the fetch buffer (R71, R41). -/
structure Granule where
  words : List Word
  poison : List Nat
deriving DecidableEq, Repr

/-- A task: entry, arguments, the counter it came from, its launch (R345). -/
structure Task where
  entry : Word
  arg0 : Word
  arg1 : Word
  counter : Nat
  launch : Nat
  /-- the tenant that armed the counter -/
  tenant : Nat
  /-- its place in the order of arrivals at the core (R348) -/
  arrived : Nat
deriving DecidableEq, Repr

/-- A task counter (R344): state 0 free, 1 armed, 2 fired. -/
structure Counter where
  state : Nat := 0
  count : Nat := 0
  surplus : Bool := false
  task : Option Task := none
deriving DecidableEq, Repr

/-- The activation on a service slot (R378, R381), with the handler it interrupted. -/
structure Activation where
  target : Option Nat
  scause : Word
  sepc : Word
  stval : Word
  sxsel : Word := 0
  tenant : Nat := 0
  saved : Option Thread := none
deriving DecidableEq, Repr

/-- The state of a job that the core keeps (R139, R140, R230): its status word and info word. -/
structure JobState where
  seq : Nat
  state : Nat
  cause : Nat
  addr : Nat
  info : Word
deriving DecidableEq, Repr

/-- A record-cache entry (R256). -/
structure RecEntry where
  tenant : Nat
  handle : Nat
  gen : Nat
  max : Nat
  thr : Nat
  ref : Nat
  /-- the cycle of the fill and of the invalidation -/
  filled : Nat
  staleAt : Option Nat
deriving DecidableEq, Repr

/-- A code table (R195, R214): its 256 stored 32-bit words, once loaded. -/
structure CodeTable where
  loaded : Bool := false
  entries : List (BitVec 32) := []
deriving DecidableEq, Repr

/-- A core's own units (R20). -/
structure Core where
  sb : List SbEntry := []
  fetch : AMap Granule := []
  tlb : List TlbEntry := []
  recs : List RecEntry := []
  tables : AMap CodeTable := []
  counters : AMap Counter := []
  readyQ : List Task := []
  /-- fired tasks spilled to the bivouac: block and task (R347) -/
  taskSpill : List (Nat × Task) := []
  arrivals : List Thread := []
  arrivalSpill : List (Nat × Thread) := []
  msgs : List Waiting := []
  /-- the cycle in which it last applied a counter's decrement (R346) -/
  decAt : Option Nat := none
  /-- words waiting to be popped, each with the cycle of its push, by direction 0 west, 1 east, 2 north, 3 south (R155) -/
  fifos : AMap (List (Word × Nat)) := []
  /-- FIFO ends claimed by a rope: (out?, direction) with the rope (R321) -/
  ropeClaims : List (Bool × Nat × Nat) := []
  haulSeq : Nat := 0
  matSeq : Nat := 0
  haulStates : List JobState := []
  matStates : List JobState := []
  ordPtr : Nat := 63
  fairPtr : Nat := 63
  ropePtr : Nat := 63
  /-- the cycle of the core's last grant: it issues at most one instruction per cycle (R311) -/
  issuedAt : Option Nat := none
  /-- the port prefetched last: slot * 16 + handle (R152) -/
  prefetchAt : Option Nat := none
  prefetchPtr : Nat := 1023
  /-- the cycle in which the span pipe last accepted an instruction, and the sequencer served last (R166) -/
  pipeAt : Option Nat := none
  seqPtr : Nat := 3
  actQueue : List Activation := []
  act : Option Activation := none
  spre : Word := 0
  /-- requests that the core has made by spre: it reads the status of the last (R389) -/
  spreNo : Nat := 0
deriving DecidableEq, Repr

/-- A job of an octet's queue (R127): a haul job, mbload, multiply, mst or mclr with the words it captured (R129, R227). -/
structure Job where
  ref : JobRef
  slot : Nat
  tenant : Nat
  launch : Nat
  /-- haul: the f5 code of R129; matrix: pair 0 to 10, 0x10 mbload, 0x11 mst, 0x12 mclr -/
  op : Nat
  /-- descriptor words (two descriptors joined for a multiply) -/
  desc : List Word := []
  /-- xs of a multiply, the mask of mclr; a gather's or scatter's index as last read -/
  arg : Word := 0
  tabA : CodeTable := {}
  tabB : CodeTable := {}
  /-- 0 queued, 1 running, 2 all of it performed, its final state not yet reached -/
  state : Nat := 0
  /-- what stopped it: cause and address (R135) -/
  fault : Option (Nat × Nat) := none
  /-- why a record update failed (R138, R236) -/
  recFault : Option (Nat × Nat) := none
  /-- poisoned: the address it reports (R139, R240) -/
  poison : Option Nat := none
  /-- words moved or read so far in job order, over all phases -/
  pos : Nat := 0
  /-- haul: the words of the update being gathered (R138) -/
  got : List Word := []
  /-- multiply: the A words read, by word number (R231) -/
  aWords : AMap Word := []
  sat : Nat := 0
  flags : BitVec 5 := 0
  /-- updates sent and not acknowledged, by packet (R138) -/
  updates : List Nat := []
  /-- the record's reference exponent read for the job (R252) -/
  recRef : Option Nat := none
  /-- no further update is sent -/
  recOff : Bool := false
  /-- a matrix job discarded by pre-emption, which reaches state 7 once the updates it sent are acknowledged (R242, R267) -/
  discarded : Bool := false
  /-- the regions and tiles (16 to 19) that it reads and that it writes (R230) -/
  reads : List Nat := []
  writes : List Nat := []
  /-- the panel of a multiply: first region, regions, and the job that loads it (R229, R243) -/
  panelAt : Nat := 0
  panelLen : Nat := 0
  panelBy : Option JobRef := none
deriving DecidableEq, Repr

/-- A panel's attributes, at its first region (R219). -/
structure Panel where
  fmt : Nat
  k : Nat
  narrow : Bool
  sparse : Bool
  regions : Nat
deriving DecidableEq, Repr

/-- A region of the B buffer (R219): state 0 empty, 1 loaded, 2 poisoned, 3 work. -/
structure Region where
  state : Nat := 0
  tenant : Nat := 0
  launch : Nat := 0
  panel : Option Panel := none
  first : Nat := 0
  /-- the job that wrote it -/
  writer : Option JobRef := none
  /-- an uncorrectable error in it is not yet found (R219) -/
  upset : Bool := false
deriving DecidableEq, Repr

/-- An accumulator tile (R224): state 0 unowned, 1 owned, 2 poisoned; elements other than +0 by i * 128 + j. -/
structure Tile where
  state : Nat := 0
  tenant : Nat := 0
  launch : Nat := 0
  elems : AMap (BitVec 32) := []
  /-- wrong parity not yet found (R224) -/
  upset : Bool := false
deriving DecidableEq, Repr

/-- An octet's engines and queue (R127, R219, R224, R229). -/
structure Octet where
  haul : List Job := []
  matrix : List Job := []
  haulLast : Nat := 7
  matLast : Nat := 7
  /-- the cycles in which it last accepted a haul job and a matrix job (R128) -/
  haulAt : Option Nat := none
  matAt : Option Nat := none
  /-- slots presenting a candidate, oldest first: slot, matrix? -/
  candidates : List (Nat × Bool) := []
  regions : AMap Region := []
  /-- bytes of the B buffer other than zero, by offset -/
  bytes : AMap Byte := []
  tiles : AMap Tile := []
  viewRegions : AMap Region := []
  viewTiles : AMap Tile := []
deriving DecidableEq, Repr

/-- A waiter of the belay unit: its slot and, for a barrier, the phase its arrival counted in. -/
structure BelayWaiter where
  slot : Nat
  phase : Nat
deriving DecidableEq, Repr

/-- A barrier (R332, R333). -/
structure Barrier where
  cfg : Word := 0
  phase : Nat := 0
  count : Nat := 0
  closing : Bool := false
  /-- arrivals at the closed barrier, which count toward the next phase -/
  early : Nat := 0
  waiters : List BelayWaiter := []
  /-- child barriers whose arrival counted: cluster, index, phase -/
  children : List (Nat × Nat × Nat) := []
deriving DecidableEq, Repr

/-- A mutex (R334). -/
structure Mutex where
  owner : Option Nat := none
  abandoned : Bool := false
  waiters : List Nat := []
deriving DecidableEq, Repr

/-- An event line (R335). -/
structure EventLine where
  cfg : Word := 0
  set : Bool := false
  value : Word := 0
  waiters : List Nat := []
deriving DecidableEq, Repr

/-- A page a cluster TLB waits for (R385). -/
structure PendingPage where
  tenant : Nat
  page : Nat
deriving DecidableEq, Repr

/-- A walk running or queued at a die's walker (R385): the requests that joined it by cluster, and the level it has
reached with the table's physical address. -/
structure Walk where
  tenant : Nat
  page : Nat
  clusters : List Nat
  running : Bool
deriving DecidableEq, Repr

/-- A cluster's shared units (R20, R331, R384). -/
structure Cluster where
  barriers : AMap Barrier := []
  mutexes : AMap Mutex := []
  events : AMap EventLine := []
  tlb : List TlbEntry := []
  pending : List PendingPage := []
deriving DecidableEq, Repr

/-- A launch record as read (R300): header and arguments, with its submitter. -/
structure Record where
  tenant : Nat
  words : List Word
  /-- spawning slot, or the host queue and slot index -/
  spawner : Option Nat
  queue : Option (Nat × Nat)
  prioCap : Nat
deriving DecidableEq, Repr

/-- A context in the bivouac (R383, R390): its block, its core's place in the rectangle, the slot it had, its thread, and
whether it was an arrival (R354). -/
structure SavedContext where
  block : Nat
  place : Nat
  slot : Nat
  thread : Thread
  arrival : Bool
deriving DecidableEq, Repr

/-- A core's state saved by pre-emption (R390): its place in the rectangle, tables, counters, FIFOs and, for act 2,
its local store's cells and marks. -/
structure SavedCore where
  block : Nat
  place : Nat
  tables : AMap CodeTable
  counters : AMap Counter
  readyQ : List Task
  taskSpill : List (Nat × Task)
  fifos : AMap (List (Word × Nat))
  cells : List (Nat × Byte)
  empties : List Nat
  poisons : List Nat
  upsets : List Nat
  withStore : Bool
  storeBlock : Nat
  msgs : List Waiting
deriving DecidableEq, Repr

/-- A launch from acceptance to completion (R303 to R309). state: 0 pending, 1 eligible, 2 running, 3 stopped by act 0,
4 spilled by act 1, 5 spilled with local stores by act 2, 6 to be placed again. -/
structure Launch where
  ident : Nat
  record : Record
  state : Nat
  arrival : Nat
  /-- what the dependence words last read, none before the first read (R304) -/
  deps : List (Option Word)
  cores : List Nat := []
  copy : Word := 0
  copyBlock : Nat := 0
  placedAt : Nat := 0
  heldFor : Nat := 0
  beatAt : Nat := 0
  halted : Bool := false
  contexts : List SavedContext := []
  saved : List SavedCore := []
  /-- threads placed and not yet started: core, slot, ordinal, base (R315) -/
  starting : List (Nat × Nat × Nat × Nat) := []
  rectNow : Word := 0
  /-- an spre request in progress: act, requesting core, and the number of that core's request (R389 to R391) -/
  seqn : Option (Nat × Nat × Nat) := none
  /-- its watchdog has fired during a sequence, at whose end it takes effect (R392) -/
  fired : Bool := false
  /-- jobs the sequence waits for, and the blocks reserved for contexts, cores and local stores (R383, R390) -/
  awaits : List JobRef := []
  room : List Nat := []
  coreRoom : List Nat := []
  storeRoom : List Nat := []
deriving DecidableEq, Repr

/-- A rope (R319 to R330). -/
structure Rope where
  launch : Nat
  members : List Nat
  /-- the next step -/
  step : Nat
  /-- members that have issued their instruction of that step (R322) -/
  done : List Nat
  /-- the instructions of the stream, once it has ended (R328) -/
  length : Option Nat
  /-- detached members; members waiting in clip are among them -/
  solo : List Nat
  /-- members that left for good or ended -/
  left : List Nat
  /-- the leader runs outside the stream (R325) -/
  leaderOut : Bool
  /-- the last indices of the stream, newest first: index, the leader's pc, the words it fetched, and the outcome of a
  branch or jalr: taken, and where it went (R321, R324) -/
  stream : List (Nat × Word × List (BitVec 32) × Option (Bool × Word))
  /-- deliveries to the leader outside the stream whose return has not come (R325) -/
  nested : Nat := 0
  /-- the FIFO ends it claims: member index, out?, direction (R321, R330) -/
  claims : List (Nat × Bool × Nat) := []
deriving DecidableEq, Repr

/-- A die's launch unit, walker, spill engine and spre requests (R303, R385, R383, R389). -/
structure Die where
  seq : Nat := 0
  inbox : List Record := []
  launches : List Nat := []
  walks : List Walk := []
  /-- contexts waiting at the spill engine: core, thread (R383) -/
  spillEngine : List (Nat × Thread) := []
  /-- spre words with the requesting core, the number of its request and the tenant, in order of arrival (R389) -/
  spreInbox : List (Word × Nat × Nat × Nat) := []
deriving DecidableEq, Repr

/-- A cairn epoch (R370 to R373). -/
structure Epoch where
  base : Nat
  len : Nat
  dst : Nat
  /-- the pages of the range that are present leaves: virtual address, physical address, bytes, and the
  page table entry's word (R371) -/
  pages : List (Nat × Nat × Nat × Nat)
  /-- the descriptor's opening core, whose tables carry the copies -/
  core : Nat
  captured : List Nat
  byWrites : Nat
  failed : Bool
deriving DecidableEq, Repr

/-- A gradient queue (R366, R367). -/
structure GqHome where
  word : Word := 0
  /-- D - F: credits granted whose entries are not popped -/
  used : Nat := 0
  /-- windows on it -/
  held : Nat := 0
  /-- entries popped and entries arrived, ever -/
  head : Nat := 0
  tail : Nat := 0
  /-- the grant list: tags of windows -/
  grants : List Nat := []
  /-- slots of the consumer core that wait in gq.pop, oldest first -/
  waiters : List Nat := []
deriving DecidableEq, Repr

/-- A tenant (R381, R407, R411). -/
structure Tenant where
  sentry : Word := 0
  sfq : Word := 0
  shtab : Word := 0
  srpool : Word := 0
  swdog : Word := 0
  sroot : Word := 0
  sgqsel : Word := 0
  sbiv : Word := 0
  sbivlen : Word := 0
  /-- the resource table's address that restab reads (R316), and Q, which it publishes (R366) -/
  restab : Word := 0
  gqCount : Nat := 65536
  frozen : Bool := false
  clusters : BitVec 128 := 0
  slices : BitVec 512 := 0
  routes : AMap Word := []
  queues : AMap GqHome := []
  epochBit : Bool := false
  epoch : Option Epoch := none
  /-- handles allocated (R245) -/
  handles : List Nat := []
  /-- blocks of the bivouac in use: first block and count (R383) -/
  blocks : List (Nat × Nat) := []
deriving DecidableEq, Repr

/-- A request held at its home (R271): kind 0 lde, 1 ldt, 2 stf; a read port's request (R152) names its handle, and the element and
the word of it that it asks for. cls is its page's class. -/
structure Held where
  slot : Nat
  key : Nat
  kind : Nat
  data : Word
  port : Option Nat := none
  cls : Nat := 0
  ask : Nat := 0
  word : Nat := 0
deriving DecidableEq, Repr

/-- A waiter of a slice's watch table (R275): a thread, or a launch's dependence word (R304). -/
structure Watch where
  slot : Option Nat
  launch : Nat
  dep : Nat
  key : Nat
deriving DecidableEq, Repr

/-- One sender's part of an update (R250, R251): its packet, its master identifier, and what it summarises. -/
structure UpdatePart where
  ident : Nat
  master : Nat
  max : BitVec 32
  incr : AMap Nat
  sat : Nat
  nan : Bool
  inf : Bool
  count : Nat
deriving DecidableEq, Repr

/-- A summit-record update on its way (R250). -/
structure Update where
  tenant : Nat
  handle : Nat
  key : Nat
  cls : Nat
  master : Nat
  max : BitVec 32
  ref : Nat
  incr : AMap Nat
  sat : Nat
  nan : Bool
  inf : Bool
  count : Nat
  /-- senders: thread slots with packet, or jobs -/
  senders : List (Sum Nat JobRef)
  ident : Nat
  /-- the parts of a merged update, itself among them; none where nothing has merged -/
  parts : List UpdatePart := []
deriving DecidableEq, Repr

/-- What an access that leaves the package asks of the memory there (R282, R403, R412), or answers to it. -/
inductive OutsideOp where
  /-- a slot's load of a word, awaited under its key -/
  | read (slot key : Nat)
  | write (mask : BitVec 8) (data : Word)
  /-- a whole word that an engine or a port writes, and whether it fills the word or poisons it (R92, R134, R154) -/
  | word (data : Word) (fill poison : Bool)
  /-- the read of a word by an engine, a port or a launch unit (R403, R412) -/
  | fetch
  /-- the zero-length read that follows a thread's writes to the host at a release of system scope (R403) -/
  | flush
  | atomic (slot : Nat) (op : AmOp) (wide : Bool) (b c : Word)
  /-- a synchronising form of a slot: lde, ldt, stf, stp, tagrd, tagset, wait.a, wake by code 0 to 7, with its operand -/
  | sync (slot code : Nat) (data : Word)
  /-- a summit-record form of a slot: salloc, sfree, sset, sroll, sread, sgen, sscale, sscale.h, sscale.g by code 0 to 8, with its
  operands; and an update (R245, R411) -/
  | record (slot form : Nat) (args : List Word)
  | update (u : Update)
  | answer (v : Word)
  /-- a peer's request denied here, or its word poisoned: the cause its requester takes (R282, R412) -/
  | refused (cause : Nat)
deriving DecidableEq, Repr

/-- A request or answer that has left the package: the peer it goes to (none is the host), or for an answer the port it leaves
by, and its address there. -/
structure Outside where
  peer : Option Nat
  addr : Nat
  what : OutsideOp
  /-- the class and tenant that a request to a peer carries there: pcls and ptn of its route (R411, R412) -/
  cls : Nat := 0
  tenant : Nat := 0
deriving DecidableEq, Repr

/-- How a home answers an update: applied, refused for alloc = 0, denied by the access table (R90), or refused for a poisoned
word (R251). -/
inductive UpdateEnd where
  | applied | unallocated | denied | poisoned (word : Nat)
deriving DecidableEq, Repr

/-- What a thread's request asks of the home of its word (R94). -/
inductive HomeOp where
  /-- loads: a word, or every word of one local store that the instruction reads (R100, R113) -/
  | load (keys : List Nat)
  | atomic (op : AmOp) (wide : Bool) (ar : Bool) (addr : Nat) (a b : Word)
  /-- a stp (R273): its identity, word and data -/
  | put (ident key : Nat) (data : Word)
  /-- words of the store-buffer entry of an identity: word number, bytes, data -/
  | store (ident : Nat) (words : List (Nat × BitVec 8 × Word))
  /-- lde 0, ldt 1, stf 2 (R270) -/
  | sync (kind key : Nat) (data : Word)
  | tagrd (key : Nat)
  | tagset (key : Nat) (full : Bool)
  /-- wait.a (R275) and wake (R277) -/
  | wait (key : Nat) (old : Word)
  | wake (key : Nat) (count : Word)
deriving DecidableEq, Repr

/-- What a fabric packet carries. -/
inductive Payload where
  /-- a request of a slot, with its tenant and the classes of its words' pages (R90, R94) -/
  | request (slot tenant : Nat) (classes : List Nat) (op : HomeOp)
  /-- the reply: the words, or the first that failed with its cause -/
  | reply (slot : Nat) (got : List (Nat × Word)) (bad : Option (Nat × Nat))
  /-- word is the target word as sent (R338) -/
  | message (m : Message) (tenant sender : Nat) (word : Word)
  /-- the control packet of a context, and the register packet of that number of flits that follows it (R353) -/
  | context (t : Thread) (core : Nat)
  | registers (control flits : Nat)
  | update (u : Update)
  /-- the acknowledgement of an update, with the parts of it that the access table denied (R90, R100, R251) -/
  | ack (u : Update) (e : UpdateEnd) (denied : List Nat)
  /-- a gradient-queue entry: its sender, and where the queue's ring lay when it was sent (R366, R368) -/
  | entry (tenant queue : Nat) (words : List Word) (sender : Nat) (ring : Word)
  /-- belay traffic between clusters (R333, R335): child arrival, parent release, forwarded set -/
  | childArrival (tenant cluster idx fromCluster fromIdx : Nat)
  | parentRelease (cluster idx : Nat)
  | forwardedSet (cluster idx : Nat) (v : Word)
deriving DecidableEq, Repr

/-- A packet of the fabric (R97 to R106). -/
structure Packet where
  ident : Nat
  isReply : Bool
  src : Nat
  dst : Nat
  /-- the router it waits at, or none once it has reached its destination -/
  node : Option Nat
  age : Nat
  /-- the cycle in which it came to its queue, or its age last grew by waiting -/
  arrived : Nat
  /-- spilled into a depot by the controller of this node and port (R105) -/
  depot : Option (Nat × Nat)
  /-- returned by a full buffer or hold store, to be sent again (R271, R340, R383) -/
  returned : Bool
  payload : Payload
  /-- the cycle in which it came to its queue, and the port it came in by (R103) -/
  came : Nat := 0
  port : Nat := 0
deriving DecidableEq, Repr

/-- A combining entry (R99): the forwarded packet and the merged ones, with their operands, in order. -/
structure Combine where
  node : Nat
  isReply : Bool
  packet : Nat
  merged : List Packet
  first : Word
  isOpen : Bool
  openedAt : Nat
deriving DecidableEq, Repr

/-- A host work queue (R404, R405). -/
structure HostQueue where
  en : Bool := false
  /-- the tenant that command 5 set, 0 at reset -/
  tenant : Nat := 0
  word0 : Word := 0
  word1 : Word := 0
  tail : Nat := 0
  head : Nat := 0
  ctail : Nat := 0
  chead : Nat := 0
  reserved : Nat := 0
  /-- order in which doorbells covered the records not yet taken: tail with its arrival number -/
  bells : List (Nat × Nat) := []
deriving DecidableEq, Repr

/-- An HDM range (R402). -/
structure HdmRange where
  hostBase : Nat
  base : Nat
  len : Nat
  tenant : Nat
  cls : Nat
deriving DecidableEq, Repr

/-- The firmware image in flash (R413): its bytes, its version, the public key of 64 bytes, and the signature of 29,792 bytes. -/
structure Flash where
  image : List Byte := []
  version : Nat := 0
  key : BitVec 512 := 0
  sig : BitVec 238336 := 0
deriving DecidableEq, Repr

/-- The fuses (R413, R414): the key's hash, the rollback counter, and the seed of the device's identity key. -/
structure Fuses where
  keyHash : BitVec 256 := 0
  rollback : Nat := 0
  seed : BitVec 256 := 0
deriving DecidableEq, Repr

/-- A machine-check record of the base camp controller (R92, R417): what it is of, and what it names. 1 a memory word, 2 a
slot's register, 3 a trap of the supervisor, 4 an octet's B buffer or tile, 5 a denied host access, 6 a failed link, 7 a
full depot. -/
structure MachineCheck where
  kind : Nat
  about : Nat
deriving DecidableEq, Repr

/-- A collective round in progress (R360): group word, launch, the sub-rectangle's first member's core, contributions by
member index with slot and register. -/
structure Round where
  launch : Nat
  group : Word
  place : Nat
  contributions : List (Nat × Nat × Nat × Word)
  /-- why it fails: 1 the members' words differ, 3 a partner left (R363) -/
  failed : Option Nat
deriving DecidableEq, Repr

/-- The package's memory: HBM by physical address and the local stores (Config), in one canonical list of bytes that are
not zero, and the words that are empty, poisoned, or hold an uncorrectable error not yet found (R91). -/
structure Memory where
  cells : List Host.Cell := []
  empties : List Nat := []
  poisons : List Nat := []
  upsets : List Nat := []
deriving DecidableEq, Repr

/-- The words of one instruction read so far by the step (R41). -/
structure Latch where
  word : BitVec 32 := 0
  /-- prefix words before the final word -/
  n : Nat := 0
  /-- rdhi, rs1hi, rs2hi of a reach -/
  reach : Option (BitVec 2 × BitVec 2 × BitVec 2) := none
  /-- pneg and pbit of a when -/
  guard : Option (Bool × BitVec 6) := none
  /-- the word just executed was a prefix: the next word follows -/
  more : Bool := false
  /-- 0 an instruction of the thread; 1 a replay of its pitch body, which 2 waits or 3 would trap (R165, R167) -/
  replay : Nat := 0
deriving DecidableEq, Repr

/-- What moves next (notes/assumptions/1.md): a core issues, or another agent takes a step of the table. -/
inductive Item where
  | issue (core : Nat)
  | event (i : Instr)
  /-- a TLB or record cache drops an entry, or the fetch buffer a granule: replacement the manual leaves open -/
  | dropMicro (core idx : Nat)
  | dropCluster (cluster idx : Nat)
  | dropGranule (core idx : Nat)
  | dropRecord (core idx : Nat)
  /-- an uncorrectable error strikes a memory word (R91) -/
  | upset (word : Nat)
  /-- a parity error strikes a slot's register (R178), an error a region of a B buffer (R219) or a tile (R224) -/
  | upsetReg (slot n : Nat)
  | upsetRegion (oct region : Nat)
  | upsetTile (oct tile : Nat)
  /-- a peer group is set up over packages in the order of their ranks, this one under 64 (R360) -/
  | peerGroup (group : Nat) (members : List Nat)
  /-- a write outside the package is acknowledged (R285, R403), or denied there (R412) -/
  | acknowledged (flight : Nat)
  | refusedAway (flight : Nat)
  /-- the memory outside the package refuses what a slot asks of it: denied (cause 0x09), or poisoned (0x0E) (R282, R412) -/
  | outsideFails (slot cause : Nat)
  /-- the base camp controller goes on with the command that was started first (R407, R408) -/
  | command
  /-- the host writes or reads a register of BAR0 at a byte offset (R401) -/
  | barWrite (off : Nat) (v : Word)
  | barRead (off : Nat)
  /-- the flash is written from outside (R413) -/
  | flash (f : Flash)
  /-- a tenant's supervisor sets up its resource table at an address of its own, with that many gradient queues (R316) -/
  | resources (tenant va queues : Nat)
deriving DecidableEq, Repr

/-- A command of the host's mailbox with its arguments (R407). -/
inductive Command where
  | createTenant (t : Nat) (sroot sentry swdog : Word)
  | assign (t : Nat) (clusters : BitVec 128) (slices : BitVec 512)
  | writeAccessWord (set : Word) (master : BitVec 7) (v : BitVec 32)
  | writeRoute (t cls : Nat) (v : Word)
  | bindQueue (q t : Nat)
  | setHdm (range hostBase base len t cls : Nat)
  | resetTenant (t : Nat)
  | destroyTenant (t : Nat)
  | setPowerLimit (watts : Nat)
  | haltOrRelease (isLaunch : Bool) (ident : Nat) (release : Bool)
  | setBivouac (t base units : Nat)
deriving DecidableEq, Repr

/-- The machine: everything the manual gives the package. -/
structure State where
  mem : Memory := {}
  threads : AMap Thread := []
  cores : AMap Core := []
  octets : AMap Octet := []
  clusters : AMap Cluster := []
  dies : AMap Die := []
  tenants : AMap Tenant := []
  launches : AMap Launch := []
  ropes : AMap Rope := []
  rounds : AMap Round := []
  /-- held requests and watch entries of every home, in order of arrival -/
  holds : List Held := []
  watches : List Watch := []
  /-- requests that a full hold store returned to their cores, with the cycle in which each came back and its age (R102,
  R271) -/
  returns : List (Held × Nat × Nat) := []
  /-- the cycle in which a record, by its first word, last took an update (R253) -/
  updatedAt : AMap Nat := []
  flights : List Flight := []
  packets : List Packet := []
  combines : List Combine := []
  /-- when a router's output, by node * 8 + port, last granted a flit (R105) -/
  granted : AMap Nat := []
  /-- controllers with packets in the depot whose output has granted again (R106) -/
  flowing : List Nat := []
  /-- access-table words: master identifier * 1024 + target (0 to 511 slices, 512 col die, 513 host, 514 + port) (R409) -/
  access : AMap (BitVec 32) := []
  queues : AMap HostQueue := []
  hdm : AMap HdmRange := []
  /-- words 0 to 4 and 8 to 15 of the mailbox, as the host wrote them, by number; an unlisted word is 0 (R407) -/
  mailboxWords : AMap Word := []
  mailboxStatus : Nat := 0
  mailboxCode : Nat := 0
  /-- what the last host read or SPDM request was answered: word and poison indication -/
  hostReply : List (Word × Bool) := []
  checks : List MachineCheck := []
  firmware : Bool := true
  /-- the firmware image in flash, and the fuses (R413, R414) -/
  flash : Flash := {}
  fuses : Fuses := {}
  /-- commands that the host has started and the base camp controller has not ended, in that order (R407) -/
  commands : List Command := []
  /-- doorbell writes that wait for the end of their tenant's reset: queue and tail (R408) -/
  heldBells : List (Nat × BitVec 32) := []
  /-- the tenant whose reset is under way (R408) -/
  resetting : Option Nat := none
  powerLimit : Nat := 3600
  gating : Nat := 0
  tripped : Bool := false
  linksDown : List LinkName := []
  /-- peer package index and its mapped tenant groups (R412, R360): group, packages -/
  peerGroups : AMap (List Nat) := []
  groupHolder : AMap Nat := []
  /-- what has left the package for peers and the host, oldest first (R403, R412) -/
  outside : List Outside := []
  cycle : Nat := 0
  nextId : Nat := 1
  fresh : Nat := 0
  agenda : List (Nat × Item) := []
  focus : Nat := 0
  cur : Nat := 0
  latch : Latch := {}
  /-- memory requests travel as packets and complete by the steps of other agents, instead of in the issuing step -/
  slow : Bool := false
deriving DecidableEq, Repr

/-- The machine right after a package reset (R418): no tenant, no thread, memory zero, full and unpoisoned, cycle 0. -/
def State.reset : State := {}

/-- What stops the machine. -/
inductive Fault where
  /-- raised by every encoded instruction when the slot State.cur names holds no thread: no instruction runs there.
  Safe: no run of the hardware has such a step. -/
  | noThread
  /-- raised by every instruction and step but PACKAGE_RESET after a thermal trip: every clock has stopped and only a
  package reset restarts the package (R415). Safe: the hardware does not go on. -/
  | clockStopped
deriving DecidableEq, Repr

/-- What the model has no meaning for. -/
inductive Refusal where
  /-- raised by an arm of exec whose instruction has no meaning yet. Safe: nothing can be proved of a next state. -/
  | notModelled (mnemonic : String)
deriving DecidableEq, Repr

end Sys2Proof.Machine
end

