-- ==== Sys2Proof/Machine/Mem.lean ====
section
/-! DEFINITION. Sys2Proof/Machine/Mem.lean: the operations on Memory. An address that no cell lists reads as 0: package
reset leaves every word zero, full and unpoisoned (R84, R114). -/

namespace Sys2Proof.Machine

/-- The byte at an address. -/
def Memory.byte (m : Memory) (a : Nat) : Byte := amGetD m.cells a 0

/-- The cells with the byte at an address set; a byte of zero is not listed. -/
def setCell (c : List Host.Cell) (a : Nat) (b : Byte) : List Host.Cell :=
  if b = 0 then amDel c a else amPut c a b

/-- The bytes of memory at n rising addresses, as a little-endian value (R5). -/
def Memory.read (m : Memory) (a : Nat) : Nat → Nat
  | 0 => 0
  | n + 1 => (m.byte a).toNat + 256 * m.read (a + 1) n

/-- Word k, the eight bytes from address 8k (R8). -/
def Memory.word (m : Memory) (k : Nat) : Word := BitVec.ofNat 64 (m.read (8 * k) 8)

/-- Byte i of a word. -/
def byteOf (v : Word) (i : Nat) : Byte := (v >>> (8 * i)).setWidth 8

/-- The cells with the bytes of v that the mask selects written to the word at address a, from byte i on. -/
def putBytes (c : List Host.Cell) (a : Nat) (mask : BitVec 8) (v : Word) : Nat → List Host.Cell
  | 0 => c
  | i + 1 =>
    let c' := putBytes c a mask v i
    if mask.getLsbD i then setCell c' (a + i) (byteOf v i) else c'

/-- The tag of word k: full (R28). -/
def Memory.full (m : Memory) (k : Nat) : Bool := !(m.empties.contains k)

/-- Word k is poisoned, or will be found to be when its home reads it (R92). -/
def Memory.poisoned (m : Memory) (k : Nat) : Bool := m.poisons.contains k || m.upsets.contains k

/-- Sets the tag of word k. -/
def Memory.setTag (m : Memory) (k : Nat) (full : Bool) : Memory :=
  { m with empties := if full then nsDel m.empties k else nsIns m.empties k }

/-- Marks word k poisoned. -/
def Memory.poison (m : Memory) (k : Nat) : Memory :=
  { m with poisons := nsIns m.poisons k, upsets := nsDel m.upsets k }

/-- Writes the selected bytes of word k; a word written whole loses its poison, one written in part keeps it (R92). -/
def Memory.write (m : Memory) (k : Nat) (mask : BitVec 8) (v : Word) : Memory :=
  let m' := { m with cells := putBytes m.cells (8 * k) mask v 8 }
  if mask = 0xFF#8 then { m' with poisons := nsDel m.poisons k, upsets := nsDel m.upsets k } else m'

/-- An uncorrectable error appears in word k (R417). -/
def Memory.upset (m : Memory) (k : Nat) : Memory := { m with upsets := nsIns m.upsets k }

/-- Every cell and mark from address a on for n bytes as after reset (R114). -/
def Memory.clear (m : Memory) (a n : Nat) : Memory :=
  { cells := m.cells.filter fun c => !(decide (a ≤ c.1) && decide (c.1 < a + n))
    empties := m.empties.filter fun k => !(decide (a ≤ 8 * k) && decide (8 * k < a + n))
    poisons := m.poisons.filter fun k => !(decide (a ≤ 8 * k) && decide (8 * k < a + n))
    upsets := m.upsets.filter fun k => !(decide (a ≤ 8 * k) && decide (8 * k < a + n)) }

/-- Keys rise strictly. -/
def rising : List Nat → Bool
  | [] => true
  | [_] => true
  | a :: b :: l => decide (a < b) && rising (b :: l)

/-- The one canonical form: addresses strictly rising, no listed byte zero, the marked words strictly rising. -/
def Memory.wf (m : Memory) : Bool :=
  rising (m.cells.map (·.1)) && m.cells.all (fun c => c.2 != 0) && rising m.empties && rising m.poisons && rising m.upsets

end Sys2Proof.Machine
end

