-- ==== Sys2Proof/Machine/Translate.lean ====
section
/-! DEFINITION. Sys2Proof/Machine/Translate.lean: where units lie, the address windows (R115), the page walk (R85 to R89),
the TLBs (R384), the checks of the leaf (R88), routes (R411) and access tables (R409). -/

namespace Sys2Proof.Machine

/-- The core of a slot. -/
def coreOf (slot : Nat) : Nat := slot / 64

/-- An optimiser core (R365). -/
def isOpt (core : Nat) : Bool := decide (Config.computeCores ≤ core)

/-- The die of a core (R2, R80). -/
def dieOf (core : Nat) : Nat := if isOpt core then (core - Config.computeCores) / 64 else core / 2048

/-- The cluster of a compute core. -/
def clusterOf (core : Nat) : Nat := core / 128

/-- The octet of a compute core (R2). -/
def octetOf (core : Nat) : Nat := core / 8

/-- The memory address at which a core's local store begins. -/
def storeBase (core : Nat) : Nat :=
  if isOpt core then Config.optimiserBase + (core - Config.computeCores) * Config.optStoreBytes
  else Config.packageBase + core * Config.storeBytes

/-- S of R115: the size of a core's local store. -/
def storeSize (core : Nat) : Nat := if isOpt core then Config.optStoreBytes else Config.storeBytes

/-- The master identifier of a tenant's threads on a core (R409). -/
def masterOf (tenant core : Nat) : Nat := tenant * 8 + if isOpt core then 1 else 0

def State.thread? (s : State) (slot : Nat) : Option Thread := amGet s.threads slot
def State.core (s : State) (c : Nat) : Core := amGetD s.cores c {}
def State.octet (s : State) (o : Nat) : Octet := amGetD s.octets o {}
def State.cluster (s : State) (c : Nat) : Cluster := amGetD s.clusters c {}
def State.die (s : State) (d : Nat) : Die := amGetD s.dies d {}
def State.tenant (s : State) (t : Nat) : Tenant := amGetD s.tenants t {}
def State.queue (s : State) (q : Nat) : HostQueue := amGetD s.queues q {}

def State.setThread (s : State) (slot : Nat) (t : Thread) : State := { s with threads := amPut s.threads slot t }
def State.setCore (s : State) (c : Nat) (x : Core) : State := { s with cores := amPut s.cores c x }
def State.setOctet (s : State) (o : Nat) (x : Octet) : State := { s with octets := amPut s.octets o x }
def State.setCluster (s : State) (c : Nat) (x : Cluster) : State := { s with clusters := amPut s.clusters c x }
def State.setDie (s : State) (d : Nat) (x : Die) : State := { s with dies := amPut s.dies d x }
def State.setTenant (s : State) (t : Nat) (x : Tenant) : State := { s with tenants := amPut s.tenants t x }
def State.setQueue (s : State) (q : Nat) (x : HostQueue) : State := { s with queues := amPut s.queues q x }
def State.setLaunch (s : State) (l : Nat) (x : Launch) : State := { s with launches := amPut s.launches l x }
def State.setRope (s : State) (r : Nat) (x : Rope) : State := { s with ropes := amPut s.ropes r x }

/-- Changes the thread of a slot, if there is one. -/
def State.modThread (s : State) (slot : Nat) (f : Thread → Thread) : State :=
  match s.thread? slot with
  | some t => s.setThread slot (f t)
  | none => s
def State.modCore (s : State) (c : Nat) (f : Core → Core) : State := s.setCore c (f (s.core c))
def State.modOctet (s : State) (o : Nat) (f : Octet → Octet) : State := s.setOctet o (f (s.octet o))
def State.modCluster (s : State) (c : Nat) (f : Cluster → Cluster) : State := s.setCluster c (f (s.cluster c))
def State.modDie (s : State) (d : Nat) (f : Die → Die) : State := s.setDie d (f (s.die d))
def State.modTenant (s : State) (t : Nat) (f : Tenant → Tenant) : State := s.setTenant t (f (s.tenant t))
def State.modLaunch (s : State) (l : Nat) (f : Launch → Launch) : State :=
  match amGet s.launches l with
  | some x => s.setLaunch l (f x)
  | none => s

/-- Changes every thread, wherever its context is: in a slot, in flight, in a queue, saved. -/
def State.mapThreads (s : State) (f : Thread → Thread) : State :=
  { s with
    threads := s.threads.map fun p => (p.1, f p.2)
    packets := s.packets.map fun p => match p.payload with
      | .context t c => { p with payload := .context (f t) c }
      | _ => p
    cores := s.cores.map fun p => (p.1, { p.2 with
      arrivals := p.2.arrivals.map f
      arrivalSpill := p.2.arrivalSpill.map fun x => (x.1, f x.2)
      act := p.2.act.map fun a => { a with saved := a.saved.map f } })
    dies := s.dies.map fun p => (p.1, { p.2 with spillEngine := p.2.spillEngine.map fun x => (x.1, f x.2) })
    launches := s.launches.map fun p => (p.1, { p.2 with
      contexts := p.2.contexts.map fun x => { x with thread := f x.thread } }) }

/-- Every thread's context, wherever it is. -/
def State.contexts (s : State) : List Thread :=
  s.threads.map (·.2) ++
  s.packets.filterMap (fun p => match p.payload with | .context t _ => some t | _ => none) ++
  s.cores.flatMap (fun p => p.2.arrivals ++ p.2.arrivalSpill.map (·.2) ++ (p.2.act.bind (·.saved)).toList) ++
  s.dies.flatMap (fun p => p.2.spillEngine.map (·.2)) ++
  s.launches.flatMap fun p => p.2.contexts.map (·.thread)

/-- The core is assigned to the tenant (R407): its cluster, or the slice of an optimiser core. -/
def State.assigned (s : State) (core tenant : Nat) : Bool :=
  if isOpt core then (s.tenant tenant).slices.getLsbD (core - Config.computeCores)
  else (s.tenant tenant).clusters.getLsbD (clusterOf core)

/-- Adds a machine-check record (R417). -/
def State.check (s : State) (kind about : Nat) : State := { s with checks := s.checks ++ [⟨kind, about⟩] }

/-- The home finds an uncorrectable error in word k when it reads it: the word is poisoned and the base camp controller
gets a record (R92). -/
def State.settle (s : State) (k : Nat) : State :=
  if s.mem.upsets.contains k then ({ s with mem := s.mem.poison k } : State).check 1 (8 * k) else s

/-- The slice that is the home of a physical address (R82, R83). -/
def sliceOf (pa : Nat) : Nat :=
  if pa < Config.homedBase then
    (pa / 64 % 512) ^^^ ((pa / 2 ^ 15 % 512) ^^^ (pa / 2 ^ 24 % 512) ^^^ (pa / 2 ^ 33 % 64))
  else (pa - Config.homedBase) / Config.homedShare

/-- The offset of a physical address in the slice that is its home (R82, R83). -/
def sliceOffset (pa : Nat) : Nat :=
  if pa < Config.homedBase then pa / 2 ^ 15 * 64 + pa % 64
  else Config.homedShare + (pa - Config.homedBase) % Config.homedShare

/-- The HBM stack of a slice, and its channel there (R80). -/
def sliceStack (sl : Nat) : Nat := sl / 32
def sliceChannel (sl : Nat) : Nat := sl % 32

/-- Where a slice's part of its die's depot lies: from the end of what tenants may use to the end of present memory (R83). -/
def depotOffset : Nat := Config.homedShare + Config.homedUsable

/-- Memory is present at a physical address (R80, R81). -/
def presentPa (pa : Nat) : Bool := decide (pa < Config.hbmEnd) && decide (sliceOffset pa < Config.sliceBytes)

/-- Physical memory that a table or a tenant's page may lie in: neither absent nor a depot (R81, R83, R87). -/
def usablePa (pa : Nat) : Bool := presentPa pa && decide (sliceOffset pa < depotOffset)

/-- The kinds of access that R88, R116 and R409 tell apart. -/
inductive Access where
  | load | store | atomic
  /-- lde and tagrd: read permission, and not in a page of summit records -/
  | tag
  /-- ldt, stf, stp, tagset: both permissions -/
  | readWrite
  | wait | wake | fetch
  /-- a plain load or the summit-record forms, by the level they need -/
  | record (level : Nat)
  /-- the device's own accesses to the bivouac, whose pages are hashed: the read bit only (R383) -/
  | device (write : Bool)
deriving DecidableEq, Repr

/-- The level of the access table an access needs: 1 read, 2 read-write, 3 read-write-atomic (R409). -/
def Access.level : Access → Nat
  | .load => 1
  | .tag => 1
  | .store => 2
  | .atomic => 3
  | .readWrite => 2
  | .wait => 1
  | .wake => 2
  | .fetch => 1
  | .record l => l
  | .device w => if w then 2 else 1

/-- The leaf lets the access through (R88). -/
def leafAllows (leaf : Word) (a : Access) : Bool :=
  let r := leaf.getLsbD 1; let w := leaf.getLsbD 2; let x := leaf.getLsbD 3; let rec6 := leaf.getLsbD 6
  match a with
  | .load => r
  | .tag => r && !rec6
  | .store => w && !rec6
  | .atomic => r && w && !rec6
  | .readWrite => r && w && !rec6
  | .wait => r && !rec6
  | .wake => w && !rec6
  | .fetch => x && !rec6
  | .record _ => rec6
  | .device _ => r && !rec6 && !leaf.getLsbD 5

/-- A table entry's physical address, bits [47:12] (R86). -/
def ppnOf (e : Word) : Nat := (e.extractLsb' 12 36).toNat * 4096

/-- The leaf lies where its kind requires (R87). -/
def leafPlaced (e : Word) (level size : Nat) : Bool :=
  let pa := ppnOf e
  let homed := e.getLsbD 5
  decide (pa % size = 0) && !(e.getLsbD 2 && !e.getLsbD 1) && !(homed && decide (level = 2)) && !(e.getLsbD 6 && !homed) &&
  (if homed then
      decide (Config.homedBase ≤ pa) && decide (pa + size ≤ Config.hbmEnd) &&
      decide ((pa - Config.homedBase) % Config.homedShare + size ≤ Config.homedUsable)
    else decide (pa + size ≤ Config.homedBase))

/-- The access-table word of a master identifier at a target (R409): kind 7 reads all ones. -/
def State.accessWord (s : State) (target master : Nat) : BitVec 32 :=
  if master % 8 = 7 then 0xFFFFFFFF#32 else amGetD s.access (master * 1024 + target) 0

/-- The access tables let the class through at the level (R409). -/
def State.accessOk (s : State) (target master cls level : Nat) : Bool :=
  decide (level ≤ (s.accessWord target master).toNat / 4 ^ cls % 4)

/-- What a walk ends in: the leaf with the page's base and size and its entry's word number, or a cause with the entry's
word number (R87, R384). -/
abbrev WalkEnd := Except (Nat × Nat) (Word × Nat × Nat × Nat)

/-- The walk of va from the table at address tab of the given level down (R85, R87), whose reads the access tables let through
where may says so. -/
def walkFrom (m : Memory) (may : Nat → Bool) (va : Nat) : Nat → Nat → WalkEnd
  | level, tab =>
    let shift := 12 + 9 * level
    let k := (tab + 8 * (va / 2 ^ shift % 512)) / 8
    if !usablePa tab then .error (0x07, k) else
    if !may (8 * k) then .error (0x09, k) else
    if m.poisoned k then .error (0x0E, k) else
    let e := m.word k
    if !e.getLsbD 0 then .error (0x07, k) else
    if !e.getLsbD 1 && !e.getLsbD 2 && !e.getLsbD 3 then
      match level with
      | 0 => .error (0x07, k)
      | l + 1 => walkFrom m may va l (ppnOf e)
    else if level = 3 then .error (0x07, k) else
      let size := if level = 0 && e.getLsbD 4 then 0x10000 else 2 ^ shift
      if leafPlaced e level size then .ok (e, va / size * size, size, k) else .error (0x07, k)

/-- The words that a walk of va from the table at tab reads, in order (R85). -/
def walkWords (m : Memory) (va : Nat) : Nat → Nat → List Nat
  | level, tab =>
    let k := (tab + 8 * (va / 2 ^ (12 + 9 * level) % 512)) / 8
    if !usablePa tab then [] else
    let e := m.word k
    if m.poisoned k || !e.getLsbD 0 || e.getLsbD 1 || e.getLsbD 2 || e.getLsbD 3 then [k] else
    match level with
    | 0 => [k]
    | l + 1 => k :: walkWords m va l (ppnOf e)

/-- The walker's reads for a tenant pass the access tables under kind 6 (R409). A table page has no leaf and so no class of its own:
its reads carry class 0 (DESIGN CHOICE, notes/assumptions/82.md). -/
def State.mayWalk (s : State) (tenant pa : Nat) : Bool := s.accessOk (sliceOf pa) (tenant * 8 + 6) 0 1

/-- The walk of va from a tenant's root (R85). -/
def State.walk (s : State) (tenant va : Nat) : WalkEnd :=
  walkFrom s.mem (s.mayWalk tenant) va 3 (ppnOf (s.tenant tenant).sroot)

/-- A TLB entry that holds va for the tenant. -/
def tlbFind (l : List TlbEntry) (tenant va : Nat) : Option TlbEntry :=
  l.find? fun e => e.tenant == tenant && decide (e.base ≤ va) && decide (va < e.base + e.size)

/-- Adds an entry to a TLB of the given capacity; the oldest goes when it is full. -/
def tlbAdd (l : List TlbEntry) (n : Nat) (e : TlbEntry) : List TlbEntry := (e :: l).take n

/-- Translates an address below the windows for a core: by its micro-TLB, its cluster's TLB, or a walk, whose leaf the
TLBs then hold (R384). The result is the leaf and the physical address, or the cause. -/
def State.translate (s : State) (core tenant va : Nat) : State × Except Nat (Word × Nat) :=
  match tlbFind (s.core core).tlb tenant va with
  | some e => (s, .ok (e.leaf, ppnOf e.leaf + (va - e.base)))
  | none =>
    let cl := clusterOf core
    match (if isOpt core then none else tlbFind (s.cluster cl).tlb tenant va) with
    | some e =>
      (s.modCore core (fun c => { c with tlb := tlbAdd c.tlb 16 e }), .ok (e.leaf, ppnOf e.leaf + (va - e.base)))
    | none =>
      match s.walk tenant va with
      | .error (cause, k) => (if cause = 0x0E then s.settle k else s, .error cause)
      | .ok (leaf, base, size, _) =>
        let e : TlbEntry := ⟨tenant, base, size, leaf⟩
        let s1 := s.modCore core fun c => { c with tlb := tlbAdd c.tlb 16 e }
        let s2 := if isOpt core then s1 else s1.modCluster cl fun c => { c with tlb := tlbAdd c.tlb 2048 e }
        (s2, .ok (leaf, ppnOf leaf + (va - base)))

/-- No TLB that serves a core holds the translation of an address (R384). -/
def State.misses (s : State) (core tenant va : Nat) : Bool :=
  decide (va < Config.ownBase) && (tlbFind (s.core core).tlb tenant va).isNone &&
  (isOpt core || (tlbFind (s.cluster (clusterOf core)).tlb tenant va).isNone)

/-- A miss of a page (R385): it becomes pending at its cluster, where 64 pages may be, and joins or starts a walk of the die's walker,
which runs 128 and queues 1,024; otherwise it is tried again. An optimiser core, which has no cluster TLB, asks the walker alone under
the number of its cluster. -/
def State.askWalk (s : State) (cluster die tenant page : Nat) : State :=
  let compute := decide (cluster < 128)
  let c := s.cluster cluster
  let d := s.die die
  let mine (w : Walk) : Bool := w.tenant == tenant && w.page == page
  if compute && (c.pending.any (fun p => p.tenant == tenant && p.page == page) || decide (64 ≤ c.pending.length)) then s else
  let pend (s : State) : State := if compute then s.modCluster cluster fun c => { c with pending := c.pending ++ [⟨tenant, page⟩] } else s
  if d.walks.any mine then
    let join (w : Walk) : Walk := if mine w then { w with clusters := nsIns w.clusters cluster } else w
    (pend s).modDie die fun d => { d with walks := d.walks.map join }
  else
    let running := decide ((d.walks.filter (·.running)).length < 128)
    if !running && decide (1024 ≤ (d.walks.filter fun w => !w.running).length) then s else
    (pend s).modDie die fun d => { d with walks := d.walks ++ [⟨tenant, page, [cluster], running⟩] }

/-- The access-table target of the UALink port that reaches a peer package (R409, R412). -/
def portOf (package : Nat) : Nat := 514 + Config.peerPort package % 24

/-- What an address reaches. -/
inductive Target where
  /-- a byte of this package's HBM with its page's class, or of a local store with the class none -/
  | mem (addr : Nat) (leaf : Option Word)
  /-- a local store: the core and the byte's address; own says the own window was used -/
  | store (core addr : Nat) (own : Bool)
  /-- an offset in the belay window -/
  | belay (off : Nat)
  /-- memory of a peer package by physical address, class and tenant there, and of the host (R411) -/
  | peer (package pa cls tenant : Nat)
  | host (addr : Nat)
deriving DecidableEq, Repr

/-- The byte address and page class of a target in this package's memory. -/
def Target.place : Target → Option (Nat × Nat)
  | .mem a leaf => some (a, match leaf with | some e => (e.extractLsb' 8 4).toNat | none => 0)
  | .store _ a _ => some (a, 0)
  | _ => none

/-- Where an untranslated address leads for a core (R115); none where it falls in no row. -/
def windowOf (core va : Nat) : Option Target :=
  if Config.ownBase ≤ va ∧ va < Config.ownBase + storeSize core then
    some (.store core (storeBase core + (va - Config.ownBase)) true)
  else if Config.belayBase ≤ va ∧ va < Config.belayBase + 0x100000000 then
    if isOpt core then none else some (.belay (va - Config.belayBase))
  else if Config.clusterBase ≤ va ∧ va < Config.clusterBase + 0x2000000 then
    if isOpt core then none else
      let t := clusterOf core * 128 + (va - Config.clusterBase) / 0x40000
      some (.store t (storeBase t + (va - Config.clusterBase) % 0x40000) false)
  else if Config.packageBase ≤ va ∧ va < Config.packageBase + 0x100000000 then
    let t := (va - Config.packageBase) / 0x40000
    some (.store t (storeBase t + (va - Config.packageBase) % 0x40000) false)
  else none

/-- The words of the belay window (R331). -/
inductive BelayOp where
  | barCfg (i : Nat) | barWait (i : Nat) | barArrive (i : Nat) | barStatus (i : Nat)
  | mutAcquire (i : Nat) | mutTry (i : Nat) | mutRelease (i : Nat) | mutStatus (i : Nat)
  | evWait (i : Nat) | evSet (i : Nat) | evClear (i : Nat) | evCfg (i : Nat) | evStatus (i : Nat)
deriving DecidableEq, Repr

/-- The word at an offset of the window, if the table lists one (R331). -/
def belayAt (off : Nat) : Option BelayOp :=
  let i := off / 64 % 64
  if off % 8 ≠ 0 then none else
  match off / 4096, off / 8 % 8 with
  | 0, op => if 32 ≤ i then none else match op with
    | 0 => some (.barCfg i) | 1 => some (.barWait i) | 2 => some (.barArrive i) | 3 => some (.barStatus i) | _ => none
  | 1, op => if 32 ≤ i then none else match op with
    | 0 => some (.mutAcquire i) | 1 => some (.mutTry i) | 2 => some (.mutRelease i) | 3 => some (.mutStatus i) | _ => none
  | 2, op => match op with
    | 0 => some (.evWait i) | 1 => some (.evSet i) | 2 => some (.evClear i) | 3 => some (.evCfg i) | 4 => some (.evStatus i)
    | _ => none
  | _, _ => none

/-- A belay access that an access of another kind or size makes: 0x07 where the table lists no word, else 0x08; from a core
not of the cluster's tenant 0x09 (R331). -/
def belayRefuse (off : Nat) : Nat := if (belayAt (off / 8 * 8)).isSome && off % 8 == 0 then 0x08 else 0x07

/-- The access-table target of the col die's units (R409). -/
def colDie : Nat := 512

/-- Where a translated access goes: the route of its page's class (R411) and the access tables (R409). -/
def State.routed (s : State) (tenant master : Nat) (leaf : Word) (pa : Nat) (a : Access) : Except Nat Target :=
  let cls := (leaf.extractLsb' 8 4).toNat
  let route := amGetD (s.tenant tenant).routes cls 0
  match (route.extractLsb' 0 2).toNat with
  | 0 => if s.accessOk (sliceOf pa) master cls a.level then .ok (.mem pa (some leaf)) else .error 0x09
  | 1 =>
    let pkg := (route.extractLsb' 2 6).toNat
    if s.accessOk (portOf pkg) master cls a.level && !s.linksDown.contains (.peer pkg) then
      .ok (.peer pkg pa (route.extractLsb' 12 4).toNat (route.extractLsb' 8 4).toNat)
    else .error 0x09
  | 2 =>
    match a with
    | .load | .store | .fetch | .device _ =>
      if s.accessOk 513 master cls a.level && !s.linksDown.contains .cxl then .ok (.host ((pa + (route.extractLsb' 16 48).toNat * 65536) % 2 ^ 64))
      else .error 0x09
    | _ => .error 0x09
  | _ => .error 0x09

/-- The checks of R67 step 3 for one address: translation and its page check, the windows of R115 and R116, the route
(R411) and the access tables (R409). -/
def State.resolve (s : State) (core tenant master : Nat) (va : Nat) (a : Access) : State × Except Nat Target :=
  if 0x800000000000 ≤ va then (s, .error 0x07) else
  if Config.ownBase ≤ va then
    match windowOf core va with
    | none => (s, .error 0x07)
    | some (.store t addr own) =>
      if t ≠ core && !s.assigned t tenant then (s, .error 0x09) else
      match a with
      | .load | .store | .tag | .readWrite | .device _ => (s, .ok (.store t addr own))
      | _ => (s, .error 0x08)
    | some (.belay off) =>
      match a with
      | .load | .store | .tag | .readWrite => (s, .ok (.belay off))
      | _ => (s, .error (belayRefuse off))
    | some t => (s, .ok t)
  else
    match s.translate core tenant va with
    | (s1, .error c) => (s1, .error c)
    | (s1, .ok (leaf, pa)) => if !leafAllows leaf a then (s1, .error 0x08) else (s1, s1.routed tenant master leaf pa a)

/-- The checks of R352 that a traversing thread's instruction makes before it moves: those of resolve, but for the access
tables, which are checked at the target. -/
def State.origin (s : State) (core tenant va : Nat) (a : Access) : State × Except Nat Target :=
  if Config.ownBase ≤ va then s.resolve core tenant 0 va a else
  match s.translate core tenant va with
  | (s1, .error c) => (s1, .error c)
  | (s1, .ok (leaf, pa)) => if !leafAllows leaf a then (s1, .error 0x08) else (s1, .ok (.mem pa (some leaf)))

end Sys2Proof.Machine
end

