-- ==== Sys2Proof/Machine/Packets.lean ====
section
/-! DEFINITION. Sys2Proof/Machine/Packets.lean: the fabric's endpoints and routers (R96), the routes of packets (R97), their
entry into the fabric behind what a depot holds of their pair (R102, R105), and the words that one place performs in order
(R118). -/

namespace Sys2Proof.Machine

/-- Endpoints of packets: a core by its number, a slice, a die's launch unit and walker, the col die, a belay unit. -/
def epSlice (s : Nat) : Nat := 20000 + s
def epDie (d : Nat) : Nat := 21000 + d
def epCol : Nat := 22000
def epBelay (cl : Nat) : Nat := 23000 + cl

/-- Router (row, col) of a die (R96). -/
def routerAt (die row col : Nat) : Nat := die * 48 + row * 8 + col

/-- The router of a slice: row 0 for the die's first stack, row 5 for its second (R96). -/
def sliceRouter (sl : Nat) : Nat := routerAt (sl / 64) (if sliceStack sl % 2 = 0 then 0 else 5) (sliceChannel sl / 4)

/-- The router of an endpoint (R96); the col die is router 384. A belay unit sits at its cluster's west router (DESIGN CHOICE,
notes/assumptions/72.md: R96 names none). -/
def routerOf (ep : Nat) : Nat :=
  if ep < 16384 then
    let cl := ep / 128 % 16
    routerAt (ep / 2048) (1 + cl / 4) (2 * (cl % 4) + if ep % 16 < 8 then 0 else 1)
  else if ep < 20000 then sliceRouter (ep - 16384)
  else if ep < 21000 then sliceRouter (ep - 20000)
  else if ep < 22000 then routerAt (ep - 21000) 3 0
  else if ep = 22000 then 384
  else let cl := ep - 23000; routerAt (cl / 16) (1 + cl % 16 / 4) (2 * (cl % 4))

/-- The home of a memory address as an endpoint: its slice, or the core whose local store holds it (R94, R113). -/
def homeEp (a : Nat) : Nat :=
  if a < Config.hbmEnd then epSlice (sliceOf a)
  else if a < Config.optimiserBase then (a - Config.packageBase) / Config.storeBytes
  else Config.computeCores + (a - Config.optimiserBase) / Config.optStoreBytes

/-- Keys of words outside the package lie from here on, in bytes: those of peers by package, class, tenant and address, then those
of the host. -/
def awayBase : Nat := 2 ^ 64

/-- The key of the word a target names: its number in this package's memory, or that of a word outside (R290, R292). -/
def Target.key : Target → Option Nat
  | .mem a _ => some (a / 8)
  | .store _ a _ => some (a / 8)
  | .peer pkg pa cls tn => some (awayBase / 8 + ((pkg * 16 + cls) * 16 + tn) * 2 ^ 48 + pa / 8)
  | .host a => some (awayBase + a / 8)
  | .belay _ => none

/-- Where a word of a key outside the package lies. -/
def awayTarget (k : Nat) : Target :=
  if awayBase ≤ k then .host (8 * (k - awayBase)) else
  let n := (k - awayBase / 8) / 2 ^ 48
  .peer (n / 256) (8 * ((k - awayBase / 8) % 2 ^ 48)) (n / 16 % 16) (n % 16)

/-- The key of a word outside the package. -/
def isAway (k : Nat) : Bool := decide (awayBase / 8 ≤ k)

/-- Words whose accesses by one thread are performed in its program order: the same word (R289, R292), or words of one
local store (R118). -/
def sameOrder (k k' : Nat) : Bool :=
  k == k' || (decide (8 * k < awayBase) && decide (8 * k' < awayBase) && decide (Config.hbmEnd ≤ 8 * k) && decide (Config.hbmEnd ≤ 8 * k') && homeEp (8 * k) == homeEp (8 * k'))

/-- Both endpoints lie in one cluster, whose crossbar joins them: cores, the belay unit, a core and itself (R117, R331). -/
def crossbar (a b : Nat) : Bool :=
  let cl (x : Nat) : Option Nat := if x < 16384 then some (x / 128) else if 23000 ≤ x then some (x - 23000) else none
  a == b || ((cl a).isSome && cl a == cl b)

/-- The numbers from a to b. -/
def line (a b : Nat) : List Nat := if a ≤ b then (List.range (b - a + 1)).map (a + ·) else (List.range (a - b + 1)).map (a - ·)

/-- A route on one die: columns first, then rows (R97). -/
def onDie (die r c r2 c2 : Nat) : List Nat :=
  (line c c2).map (routerAt die r) ++ ((line r r2).drop 1).map fun x => routerAt die x c2

/-- A route from a router of a die to a router of another: die columns first, then the die row (R96, R97). -/
def dieRoute : (fuel : Nat) → (die r c die2 r2 c2 : Nat) → List Nat
  | 0, die, r, c, _, r2, c2 => onDie die r c r2 c2
  | fuel + 1, die, r, c, die2, r2, c2 =>
    if die = die2 then onDie die r c r2 c2
    else if die % 4 < die2 % 4 then onDie die r c 3 7 ++ dieRoute fuel (die + 1) 2 0 die2 r2 c2
    else if die2 % 4 < die % 4 then onDie die r c 2 0 ++ dieRoute fuel (die - 1) 3 7 die2 r2 c2
    else if die < 4 then onDie die r c 5 3 ++ dieRoute fuel (die + 4) 0 3 die2 r2 c2
    else onDie die r c 0 3 ++ dieRoute fuel (die - 4) 5 3 die2 r2 c2

/-- The routers of a request's path from router a to router b; 384 is the col die, at router (3, 0) of every die (R96). -/
def requestPath (a b : Nat) : List Nat :=
  let die (n : Nat) := n / 48
  let row (n : Nat) := n % 48 / 8
  let col (n : Nat) := n % 8
  if a = b then [a]
  else if a = 384 then 384 :: onDie (die b) 3 0 (row b) (col b)
  else if b = 384 then onDie (die a) (row a) (col a) 3 0 ++ [384]
  else dieRoute 5 (die a) (row a) (col a) (die b) (row b) (col b)

/-- A packet's path: a reply travels its request's path back (R97). -/
def Packet.path (p : Packet) : List Nat :=
  if p.isReply then (requestPath (routerOf p.dst) (routerOf p.src)).reverse else requestPath (routerOf p.src) (routerOf p.dst)

/-- The router after a node on the packet's path; none where the packet leaves the mesh. -/
def Packet.next (p : Packet) (node : Nat) : Option Nat := (p.path.dropWhile (· != node))[1]?

/-- The output a packet waits for at a node, in the fixed order of R103: 0 local, 1 west, 2 east, 3 north, 4 south, 5 the link
to another die; at the col die, 8 + the die it links to. -/
def outputPort (node : Nat) : Option Nat → Nat
  | none => 0
  | some n =>
    if node = 384 then 8 + n / 48 else if n / 48 ≠ node / 48 then 5 else if n + 1 = node then 1 else if n = node + 1 then 2 else if n < node then 3 else 4

/-- The flits of a packet (R98, R353). -/
def Packet.flits (p : Packet) : Nat :=
  match p.payload with
  | .context .. => 2
  | .registers _ n => n
  | _ => 1

/-- The die of a node. -/
def nodeDie (node : Nat) : Nat := node / 48

/-- Flits that a die's depot of 64 MiB holds (R84, R98). -/
def depotRoom : Nat := 64 * (Config.sliceBytes - depotOffset) / 80

/-- Flits in a die's depot. -/
def State.depotUsed (s : State) (die : Nat) : Nat :=
  ((s.packets.filter fun p => match p.depot with | some d => nodeDie d.1 == die | none => false).map (·.flits)).foldl (· + ·) 0

/-- The packets of a pair and class that a controller's depot holds (R105). -/
def State.spilledPair (s : State) (p : Packet) (node port : Nat) : Bool :=
  s.packets.any fun q => q.depot == some (node, port) && q.src == p.src && q.dst == p.dst && q.isReply == p.isReply

/-- The packet at a router's queue: a packet whose pair the controller of its output has in the depot goes behind them, where
the depot has room (R105, R107). -/
def State.queueAt (s : State) (p : Packet) (node port : Nat) : Packet :=
  let out := outputPort node (p.next node)
  let behind := s.spilledPair p node out && decide (s.depotUsed (nodeDie node) + p.flits ≤ depotRoom)
  { p with node := some node, arrived := s.cycle, came := s.cycle, port := port, depot := if behind then some (node, out) else none }

/-- A packet comes to a router's queue; a full depot that it would go to sends a machine-check record (R107). -/
def State.inject (s : State) (p : Packet) (node port : Nat) : State :=
  let q := s.queueAt p node port
  let full := q.depot.isNone && s.spilledPair p node (outputPort node (p.next node))
  { (if full then s.check 7 (nodeDie node) else s) with packets := s.packets ++ [q] }

/-- A packet is injected at its source's router. While State.slow is false it is taken to have reached its destination at
once; within a cluster it travels the crossbar and never enters the fabric (R117, R119). -/
def State.enter (s : State) (p : Packet) : State :=
  if s.slow && !crossbar p.src p.dst then s.inject p (routerOf p.src) 0
  else { s with packets := s.packets ++ [{ p with node := none, depot := none, arrived := s.cycle, came := s.cycle }] }

/-- A new packet enters with age 0 (R102). -/
def State.send (s : State) (isReply : Bool) (src dst : Nat) (p : Payload) : State :=
  { s.enter ⟨s.nextId, isReply, src, dst, none, 0, 0, none, false, p, 0, 0⟩ with nextId := s.nextId + 1 }

/-- The packet of an identity. -/
def State.packet? (s : State) (i : Nat) : Option Packet := s.packets.find? (·.ident == i)

/-- Takes a packet out of the fabric. -/
def State.dropPacket (s : State) (i : Nat) : State := { s with packets := s.packets.filter (·.ident != i) }

/-- The packet has reached its destination and is not waiting to be sent again. -/
def Packet.landed (p : Packet) : Bool := p.node.isNone && p.depot.isNone && !p.returned

/-- The words a request is for (R101). -/
def HomeOp.keys : HomeOp → List Nat
  | .load ks => ks
  | .atomic _ _ _ ad _ _ => [ad / 8]
  | .put _ k _ | .sync _ k _ | .tagrd k | .tagset k _ | .wait k _ | .wake k _ => [k]
  | .store _ ws => ws.map (·.1)

def Payload.keys : Payload → List Nat
  | .request _ _ _ op => op.keys
  | .update u => [u.key]
  | _ => []

/-- A request that waits in the input queue of its home (R95). -/
def Packet.atHome (p : Packet) : Bool :=
  p.landed && match p.payload with | .request .. | .update _ => true | _ => false

/-- A request of thread c's core for a word of this package travels to its home (R94). -/
def State.sendHome (s : State) (core slot tenant : Nat) (classes : List Nat) (op : HomeOp) : State :=
  s.send false core (homeEp (8 * op.keys.headD 0)) (.request slot tenant classes op)

/-- What an update itself summarises (R250). -/
def Update.own (u : Update) : UpdatePart := ⟨u.ident, u.master, u.max, u.incr, u.sat, u.nan, u.inf, u.count⟩

/-- The updates that an update stands for (R251). -/
def Update.allParts (u : Update) : List UpdatePart := if u.parts.isEmpty then [u.own] else u.parts

/-- The update that stands for the given ones (R100, R251): the greatest maximum, the sums of the increments, of the saturation counts
and of the counts, either flag where one has it. -/
def Update.sum (u : Update) (l : List UpdatePart) : Update :=
  { u with
    max := (l.map (·.max)).foldl (fun a b => if a.ult b then b else a) 0
    incr := (l.flatMap (·.incr)).foldl (fun m b => amPut m b.1 (amGetD m b.1 0 + b.2)) []
    sat := (l.map (·.sat)).sum, nan := l.any (·.nan), inf := l.any (·.inf), count := (l.map (·.count)).sum, parts := l }

/-- An update of a thread comes after those that the thread sent earlier to the record and that are still on their way (R254). -/
def State.updateFirst (s : State) (p : Packet) : Bool :=
  match p.payload with
  | .update u =>
    let others := s.packets.flatMap fun q => match q.payload with
      | .update v => if q.ident ≠ p.ident ∧ v.key = u.key then v.allParts.map (·.ident) else []
      | _ => []
    u.allParts.all fun x => s.contexts.all fun t =>
      !t.updates.contains x.ident || !(t.updates.takeWhile (· != x.ident)).any others.contains
  | _ => true

/-- The packet an arbiter grants (R103): the oldest, of equal ages the first to arrive, of one cycle's arrivals by the order of
the ports, and none before an earlier one of its source-destination pair. -/
def grantOf (l : List Packet) : Option Packet :=
  let free := l.filter fun p => !(l.takeWhile (·.ident != p.ident)).any fun q => q.src == p.src && q.dst == p.dst
  let before (p q : Packet) : Bool := decide (q.age < p.age) ||
    (p.age == q.age && (decide (p.came < q.came) || (p.came == q.came && decide (p.port ≤ q.port))))
  free.find? fun p => free.all (before p)

/-- The request is the one its home's input grants (R94, R95, R103). -/
def State.homeGrants (s : State) (p : Packet) : Bool :=
  (grantOf (s.packets.filter fun q => q.atHome && q.dst == p.dst && s.updateFirst q)).map (·.ident) == some p.ident

/-- The packet that carries a request which has been forwarded: itself, or the one that it was merged into (R99). -/
def State.carrier (s : State) : (fuel : Nat) → Nat → Option Packet
  | 0, _ => none
  | fuel + 1, i =>
    match s.packet? i with
    | some p => some p
    | none => match s.combines.find? fun e => e.merged.any (·.ident == i) with
      | some e => s.carrier fuel e.packet
      | none => none

/-- The packet that carries an entry's forwarded request. -/
def State.carrierOf (s : State) (e : Combine) : Option Packet := s.carrier (s.combines.length + 1) e.packet

/-- A request for words that passes routers closes the entries there for them to further merges (R101). -/
def State.closeEntries (s : State) (nodes keys : List Nat) : State :=
  let hit (e : Combine) : Bool := nodes.contains e.node && !e.isReply && match s.carrierOf e with
    | some p => p.payload.keys.any keys.contains
    | none => false
  { s with combines := s.combines.map fun e => if hit e then { e with isOpen := false } else e }

/-- A request of an engine, port, walker or other unit at endpoint src for word k (R94, R101): it crosses the fabric in the
step that makes it, and waits while another waits at the home, which is older or came first (R103). -/
def State.unitAt (s : State) (src k : Nat) : Option State :=
  let home := homeEp (8 * k)
  if !s.slow then some s
  else if s.packets.any fun p => p.dst == home && p.atHome then none
  else some (if crossbar src home then s else s.closeEntries (requestPath (routerOf src) (routerOf home)) [k])

/-- The acknowledgement of a packet travels back through the routers (R98). -/
def State.sendsAck (s : State) (p : Packet) : Bool := s.slow && !crossbar p.src p.dst

/-- The home's answer to a slot travels back to its core as a reply (R97); with State.slow false the requester has it at
once. -/
def State.sendsReply (s : State) (slot key : Nat) : Bool := s.slow && !crossbar (coreOf slot) (homeEp (8 * key))

end Sys2Proof.Machine
end

