-- ==== Sys2Proof/Machine/Home.lean ====
section
/-! DEFINITION. Sys2Proof/Machine/Home.lean: what a word's home does: read, write, the held requests (R271), the watch
table (R276), cairn capture before a write (R371), the fault queue (R382), and the store buffer's view (R290). -/

namespace Sys2Proof.Machine

/-- The reply of a home reaches the outstanding request of a slot: a value, or the cause it reports. -/
def State.answer (s : State) (slot k : Nat) (r : Except Nat Word) : State :=
  s.modThread slot fun t =>
    match t.pend with
    | some p =>
      match r with
      | .ok v => { t with pend := some { p with got := p.got ++ [(k, v)] } }
      | .error c => { t with pend := some { p with bad := p.bad ++ [(k, c)] } }
    | none => t

/-- A request or a write leaves the package for what a target names, to a peer with its class and tenant there (R403, R411,
R412). -/
def State.leave (s : State) (t : Target) (what : OutsideOp) : State :=
  match t with
  | .peer pkg pa cls tn => { s with outside := s.outside ++ [⟨some pkg, pa, what, cls, tn⟩] }
  | .host a => { s with outside := s.outside ++ [⟨none, a, what, 0, 0⟩] }
  | _ => s

/-- A write of a slot's thread, port or job leaves the package; where requests travel, it is acknowledged later (R136, R285, R403). -/
def State.leaveWrite (s : State) (slot : Nat) (t : Target) (what : OutsideOp) (data : Word) (job : Option JobRef := none)
    (port : Option Nat := none) : State :=
  let s1 := match t, job with
    | .host _, none => s.modThread slot fun x => { x with hostWrites := true }
    | _, _ => s
  let s2 := s1.leave t what
  if !s.slow then s2 else
  let peer : Option Nat := match t with | .peer pkg .. => some pkg | _ => none
  { s2 with flights := s2.flights ++ [⟨s2.nextId, slot, t.key.getD 0, data, true, peer, job, port⟩], nextId := s2.nextId + 1 }

/-- What memory outside the package answers a read whose requester has it at once (R403, R412): a word, or from a peer a denial
(0x09) or poison (0x0E). Which, the manual leaves to the memory there. -/
def State.askOutside (s : State) (t : Target) (what : OutsideOp := .fetch) : State × Except Nat Word :=
  let s1 : State := { s.leave t what with fresh := s.fresh + 1 }
  match t with
  | .peer .. => (s1, match Config.freeNat s.fresh % 3 with
    | 1 => .error 0x09
    | 2 => .error 0x0E
    | _ => .ok (Config.freeWord s.fresh))
  | _ => (s1, .ok (Config.freeWord s.fresh))

/-- A write of a unit to memory outside the package: where requests do not travel, a peer may deny it at once (R412). -/
def State.writeOutside (s : State) (slot : Nat) (t : Target) (what : OutsideOp) (data : Word) (job : Option JobRef := none)
    (port : Option Nat := none) : State × Option Nat :=
  let s1 := s.leaveWrite slot t what data job port
  match t with
  | .peer .. => if s.slow then (s1, none) else
      ({ s1 with fresh := s.fresh + 1 }, if Config.freeNat s.fresh % 2 = 1 then some 0x09 else none)
  | _ => (s1, none)

/-- The key of word i of an instruction whose words are not all of this package's memory. -/
def farKey (i : Nat) : Nat := 2 ^ 60 + i

/-- The first word outside the package that the request waits for (R282, R403). -/
def Pend.farKey? (p : Pend) : Option Nat :=
  p.keys.find? fun k => decide (farKey 0 ≤ k) && !p.got.any (·.1 == k) && !p.bad.any (·.1 == k)

/-- The first word of the request, in its order, that has not come. -/
def Pend.lacks (p : Pend) : Option Nat := p.keys.find? fun k => !p.got.any (·.1 == k)

/-- The reply of an outstanding request is complete: every word it asked for, or every one before the first that failed
(R75, R120). -/
def Pend.complete (p : Pend) : Bool := match p.lacks with | none => true | some k => p.bad.any (·.1 == k)

/-- The home answers a slot's request: the answer travels back to the slot's core as a reply (R97). -/
def State.homeAnswer (s : State) (slot k : Nat) (r : Except Nat Word) : State :=
  if !s.sendsReply slot k then s.answer slot k r else
  s.send true (homeEp (8 * k)) (coreOf slot) (match r with | .ok v => .reply slot [(k, v)] none | .error c => .reply slot [] (some (k, c)))

/-- Every word of an element asked for has come, or one has failed. -/
def Ask.complete (a : Ask) : Bool := a.fault.isSome || a.words.all Option.isSome

/-- The element that an ask gives (R152, R153). -/
def Ask.element (a : Ask) : Element := ⟨if a.fault.isSome then [] else a.words.filterMap id, a.fault, a.ix⟩

/-- Word i of an ask has come, or failed at an address. -/
def Ask.got (a : Ask) (i : Nat) (va : Word) : Except Nat Word → Ask
  | .ok v => { a with words := a.words.set i (some v) }
  | .error c => { a with fault := a.fault <|> some (c, va) }

/-- The elements asked for that are complete are held, each after those before it (R152). -/
def Port.deliver (p : Port) : Port :=
  let done := p.asks.takeWhile Ask.complete
  { p with held := p.held ++ done.map Ask.element, asks := p.asks.drop done.length }

/-- A word of a read port's element comes, or fails (R152, R153). -/
def State.gotWord (s : State) (slot port no i : Nat) (va : Word) (r : Except Nat Word) : State :=
  s.modThread slot fun t => match amGet t.ports port with
    | some p =>
      let p1 : Port := { p with asks := p.asks.map fun (a : Ask) => if a.no = no then a.got i va r else a }
      { t with ports := amPut t.ports port p1.deliver }
    | none => t

/-- A held request is answered (R270): a thread's, or that of a read port, whose element it is a word of (R152). -/
def State.answerHeld (s : State) (h : Held) (r : Except Nat Word) : State :=
  match h.port with
  | none => s.homeAnswer h.slot h.key r
  | some n => s.gotWord h.slot n h.ask h.word h.data r

/-- A waiter of a watch table is released: a thread gets the word's value as it then stands (R276); a launch unit reads
its dependence word again (R304). -/
def State.releaseWatch (s : State) (w : Watch) : State :=
  match w.slot with
  | some slot =>
    let s := s.settle w.key
    s.homeAnswer slot w.key (if s.mem.poisoned w.key then .error 0x0E else .ok (s.mem.word w.key))
  | none => { s with launches := s.launches.map fun l =>
      if l.1 = w.launch then (l.1, { l.2 with deps := l.2.deps.set w.dep none }) else l }

/-- Releases every waiter on the 64-byte granule of word k, in order of arrival, each with its own word's value (R276). -/
def State.wakeGranule (s : State) (k : Nat) : State :=
  let hit := s.watches.filter fun w => w.key / 8 == k / 8
  let s1 : State := { s with watches := s.watches.filter fun w => w.key / 8 != k / 8 }
  hit.foldl State.releaseWatch s1

/-- A held request whose condition holds is performed: its reply and the word's new tag and data (R270, R271). -/
def State.performHeld (s : State) (h : Held) : State :=
  let s1 : State := { s with holds := s.holds.erase h }
  if h.kind = 2 then
    ({ s1 with mem := (s1.mem.write h.key 0xFF#8 h.data).setTag h.key true } : State).answerHeld h (.ok 0)
  else
    let s2 := s1.settle h.key
    if s2.mem.poisoned h.key then s2.answerHeld h (.error 0x0E)
    else
      let s3 := s2.answerHeld h (.ok (s2.mem.word h.key))
      if h.kind = 1 then { s3 with mem := s3.mem.setTag h.key false } else s3

/-- The condition of a held request: lde and ldt wait for full, stf for empty (R270). -/
def heldReady (m : Memory) (h : Held) : Bool := if h.kind = 2 then !m.full h.key else m.full h.key

/-- Scans the requests held on word k, oldest first, performing each whose condition holds against the tag as it then
stands, until none does (R271). -/
def State.releaseHeld (s : State) (k : Nat) : Nat → State
  | 0 => s
  | fuel + 1 =>
    match s.holds.find? fun h => h.key == k && heldReady s.mem h with
    | some h =>
      let s1 := s.performHeld h
      -- lde writes nothing and releases no waiter, nor does an ldt that finds poison (R270, R276)
      State.releaseHeld (if h.kind = 0 ∨ (h.kind = 1 ∧ s1.mem.full k = true) then s1 else s1.wakeGranule k) k fuel
    | none => s

/-- A write performed at a word's home in one step: data, tag and poison (R93), then the held requests if the tag
changed, then the waiters of the granule. -/
def State.writeHome (s : State) (k : Nat) (mask : BitVec 8) (v : Word) (tag : Option Bool) : State :=
  let s0 := if mask = 0xFF#8 then s else s.settle k
  let was := s0.mem.full k
  let m := s0.mem.write k mask v
  let s1 : State := { s0 with mem := match tag with | some b => m.setTag k b | none => m }
  let s2 := if s1.mem.full k = was then s1 else s1.releaseHeld k (s1.holds.length + 1)
  s2.wakeGranule k

/-- A word written poisoned, with its tag: what an engine does with a poisoned source (R92, R243). Data, tag and poison are
one step (R93), which held requests and waiters then see. -/
def State.writePoison (s : State) (k : Nat) (v : Word) (tag : Option Bool) : State :=
  let was := s.mem.full k
  let m := (s.mem.write k 0xFF#8 v).poison k
  let s1 : State := { s with mem := match tag with | some b => m.setTag k b | none => m }
  (if s1.mem.full k = was then s1 else s1.releaseHeld k (s1.holds.length + 1)).wakeGranule k

/-- A change of the tag alone (R270): held requests and waiters see it. -/
def State.writeTag (s : State) (k : Nat) (b : Bool) : State :=
  let was := s.mem.full k
  let s1 : State := { s with mem := s.mem.setTag k b }
  (if was = b then s1 else s1.releaseHeld k (s1.holds.length + 1)).wakeGranule k

/-- Where a device's own access for a tenant, under kind 6, leads (R88, R409, R411), or the cause. -/
def State.deviceTarget (s : State) (tenant va : Nat) (a : Access) : Except Nat Target :=
  if Config.ownBase ≤ va then .error 0x07 else
  match s.walk tenant va with
  | .error (c, _) => .error c
  | .ok (leaf, base, _, _) =>
    if !leafAllows leaf a then .error 0x08 else s.routed tenant (tenant * 8 + 6) leaf (ppnOf leaf + (va - base)) a

/-- Where a device's own access for a tenant lands in this package's memory, or the cause. What the device keeps for a tenant lies
in this package: elsewhere is 0x09 (DESIGN CHOICE, notes/assumptions/83.md). -/
def State.device (s : State) (tenant va : Nat) (a : Access) : Except Nat Nat :=
  match s.deviceTarget tenant va a with
  | .ok (.mem pa _) => .ok pa
  | .ok _ => .error 0x09
  | .error c => .error c

/-- A device's walk of an address that finds an uncorrectable error in a table entry (R92, R384). -/
def State.settleWalk (s : State) (tenant va : Nat) : State :=
  if Config.ownBase ≤ va then s else
  match s.walk tenant va with
  | .error (c, k) => if c = 0x0E then s.settle k else s
  | .ok _ => s

/-- A device's access with the walk that finds its address: what the walk poisons stays (R92). -/
def State.deviceStep (s : State) (tenant va : Nat) (a : Access) : State × Except Nat Nat := (s.settleWalk tenant va, s.device tenant va a)

/-- Posts a record to a tenant's fault queue (R382), each of its writes after pre. With sfq = 0, or a head word that does not
translate, it is dropped; a full ring or a record that does not translate counts as dropped; a poisoned head word drops it too.
Only a compute core's slot has a 20-bit address (R3). -/
def State.postWith (pre : State → Nat → State) (s : State) (tenant slot code cause kind : Nat) (addr value : Word) : State :=
  let q := (s.tenant tenant).sfq
  if q = 0 then s else
  let b := q.toNat / 4096 * 4096
  let n := 2 ^ (q.toNat % 16)
  let put (s : State) (k : Nat) (v : Word) : State := (pre s k).writeHome k 0xFF#8 v none
  let s := (s.settleWalk tenant b).settleWalk tenant (b + 8)
  match s.device tenant b .store, s.device tenant (b + 8) .load with
  | .ok a0, .ok a1 =>
    let s := (s.settle (a0 / 8)).settle (a1 / 8)
    if s.mem.poisoned (a0 / 8) || s.mem.poisoned (a1 / 8) then s else
    let w := s.mem.word (a0 / 8)
    let tail := w.toNat % 2 ^ 32
    let dropped := w.toNat / 2 ^ 32
    let head := (s.mem.word (a1 / 8)).toNat % 2 ^ 32
    let drop := put s (a0 / 8) (BitVec.ofNat 64 ((dropped + 1) % 2 ^ 32 * 2 ^ 32 + tail))
    if (tail + 2 ^ 32 - head) % 2 ^ 32 = n then drop else
    let s := s.settleWalk tenant (b + 64 + 32 * (tail % n))
    match s.device tenant (b + 64 + 32 * (tail % n)) .store with
    | .ok r =>
      let k := r / 8
      let w0 := BitVec.ofNat 64 ((if slot < 2 ^ 20 then slot else 0) * 2 ^ 24 + code % 256 * 2 ^ 16 + cause % 256 * 256 + kind % 256)
      let s1 := put (put (put (put s (k + 1) addr) (k + 2) value) (k + 3) (BitVec.ofNat 64 s.cycle)) k w0
      put s1 (a0 / 8) (BitVec.ofNat 64 (dropped * 2 ^ 32 + (tail + 1) % 2 ^ 32))
    | .error _ => drop
  | _, _ => s

/-- Copies word i of a captured granule with data, tag and poison (R371). -/
def State.copyWord (pre : State → Nat → State) (s : State) (src dst : Nat) : State :=
  let s := (pre s dst).settle src
  if s.mem.poisoned src then s.writePoison dst (s.mem.word src) (some (s.mem.full src))
  else s.writeHome dst 0xFF#8 (s.mem.word src) (some (s.mem.full src))

/-- The pages of an epoch that hold granule g of its range (R371). -/
def Epoch.pagesAt (e : Epoch) (g : Nat) : List (Nat × Nat × Nat × Nat) :=
  e.pages.filter fun p => decide (p.2.1 ≤ 64 * g) && decide (64 * g < p.2.1 + p.2.2.1) &&
    decide (e.base ≤ p.1 + (64 * g - p.2.1)) && decide (p.1 + (64 * g - p.2.1) < e.base + e.len)

/-- Where granule g of a page is copied to (R371). -/
def Epoch.destOf (e : Epoch) (g : Nat) (p : Nat × Nat × Nat × Nat) : Nat := e.dst + (p.1 + (64 * g - p.2.1) - e.base)

/-- Where a tenant's capture writes for virtual address va: a hashed page (R370), or the cause. -/
def State.captureDest (s : State) (tn va : Nat) : Except Nat Nat :=
  match s.device tn va .store with
  | .ok d => if Config.homedBase ≤ d then .error 0x08 else .ok d
  | .error c => .error c

/-- The gen bit of a page all of whose granules are captured is written to E (R90, R371). -/
def State.flipGen (pre : State → Nat → State) (s : State) (tn : Nat) (p : Nat × Nat × Nat × Nat) : State :=
  match (s.tenant tn).epoch with
  | none => s
  | some ep =>
    if (ep.captured.filter fun c => decide (p.2.1 ≤ 64 * c) && decide (64 * c < p.2.1 + p.2.2.1)).length ≠ p.2.2.1 / 64 then s else
    let s := (pre s p.2.2.2).settle p.2.2.2
    let e := s.mem.word p.2.2.2
    if s.mem.poisoned p.2.2.2 then s else
    s.writeHome p.2.2.2 0xFF#8 (if (s.tenant tn).epochBit then e ||| 0x80#64 else e &&& ~~~(0x80#64)) none

/-- Captures granule g (physical address 64g) of a tenant's open epoch, if it is uncaptured (R371), to the destination of every
page of the range that holds it; a destination that fails ends the copying (R372). byWrite counts the captures that a write
made. The capture's own writes come after pre. -/
def State.capture (pre : State → Nat → State) (s : State) (tn g : Nat) (byWrite : Bool) : State :=
  match (s.tenant tn).epoch with
  | none => s
  | some ep =>
    if ep.failed || ep.captured.contains g then s else
    let ps := ep.pagesAt g
    if ps.isEmpty then s else
    let s := ps.foldl (fun s p => s.settleWalk tn (ep.destOf g p)) s
    match ps.findSome? fun p => match s.captureDest tn (ep.destOf g p) with | .error c => some (c, ep.destOf g p) | .ok _ => none with
    | some (c, va) =>
      (s.modTenant tn fun x => { x with epoch := some { ep with failed := true } }).postWith pre tn 0 0 c 7 (BitVec.ofNat 64 va) 0
    | none =>
      let s := s.modTenant tn fun x => { x with
        epoch := some { ep with captured := nsIns ep.captured g, byWrites := if byWrite then ep.byWrites + ps.length else ep.byWrites } }
      let s := ps.foldl (fun s p => match s.captureDest tn (ep.destOf g p) with
        | .ok d => (List.range 8).foldl (fun s i => s.copyWord pre (8 * g + i) (d / 8 + i)) s
        | .error _ => s) s
      ps.foldl (fun s p => s.flipGen pre tn p) s

/-- What comes before a write of word k: every open epoch captures its granule, where it is uncaptured (R371). The writes a capture
makes are themselves writes: n bounds how deep they nest, one level for each tenant's epoch. -/
def State.preWrite : (n : Nat) → State → Nat → State
  | 0, s, _ => s
  | n + 1, s, k => s.tenants.foldl (fun s t => s.capture (State.preWrite n) t.1 (k / 8) true) s

/-- The captures before a write of word k by any agent (R371). -/
def State.beforeWrite (s : State) (k : Nat) : State := s.preWrite 17 k

/-- Posts a record to a tenant's fault queue (R382). -/
def State.post (s : State) (tenant slot code cause kind : Nat) (addr value : Word) : State :=
  s.postWith State.beforeWrite tenant slot code cause kind addr value

/-- A write by a thread, engine or other agent: an uncaptured granule is captured first (R371). -/
def State.writeWord (s : State) (k : Nat) (mask : BitVec 8) (v : Word) (tag : Option Bool) : State :=
  (s.beforeWrite k).writeHome k mask v tag

/-- As writeWord, for the tag alone. -/
def State.changeTag (s : State) (k : Nat) (b : Bool) : State := (s.beforeWrite k).writeTag k b

/-- Entries of the hold store at a word's home: 1,024 at a slice, 64 at a local store (R271). -/
def holdRoom (k : Nat) : Nat := if 8 * k < Config.hbmEnd then 1024 else 64

/-- The hold store at a word's home has no free entry. -/
def State.holdFull (s : State) (k : Nat) : Bool :=
  decide (holdRoom k ≤ (s.holds.filter fun h => homeEp (8 * h.key) == homeEp (8 * k)).length)

/-- A synchronising request arrives at its home: it is performed at once, or held, or returned by a full hold store
(R271), its age kept (R102). ldt and stf are writes, before which an uncaptured granule is captured (R371). -/
def State.arriveHeld (s : State) (h : Held) (age : Nat := 0) : State :=
  if heldReady s.mem h then
    let s1 := if h.kind = 0 then s else s.beforeWrite h.key
    let was := s1.mem.full h.key
    let s2 := s1.performHeld h
    -- lde writes nothing, nor does an ldt that finds poison (R270, R276)
    if h.kind = 0 ∨ (h.kind = 1 ∧ s2.mem.full h.key = was) then s2
    else (if s2.mem.full h.key = was then s2 else s2.releaseHeld h.key (s2.holds.length + 1)).wakeGranule h.key
  else if s.holdFull h.key then { s with returns := s.returns ++ [(h, s.cycle, age)] }
  else { s with holds := s.holds ++ [h] }

/-- A word read at its home: its value, or poison (R92). -/
def State.readWord (s : State) (k : Nat) : State × Except Nat Word :=
  let s := s.settle k
  (s, if s.mem.poisoned k then .error 0x0E else .ok (s.mem.word k))

/-- The bytes of word k that the store buffer's entries hold, newest over older: which bytes, and their values (R290). -/
def sbView (l : List SbEntry) (k : Nat) : BitVec 8 × Word :=
  l.foldl (fun a e => e.words.foldl (fun a w =>
    if w.1 = k then
      (a.1 ||| w.2.1, (List.range 8).foldl (fun v i =>
        if w.2.1.getLsbD i then (v &&& ~~~((0xFF#64) <<< (8 * i))) ||| ((byteOf w.2.2 i).setWidth 64 <<< (8 * i)) else v) a.2)
    else a) a) (0, 0)

/-- The entries that touch word k (R290). -/
def sbTouching (l : List SbEntry) (k : Nat) : List Nat :=
  (l.filter fun e => e.words.any fun w => w.1 == k).map (·.ident)

/-- How a load finds a word (R290): its value, the entries it must wait for, the cause its home reports, or outside the package. -/
inductive Found where
  | value (v : Word)
  | outside
  | wait (ids : List Nat)
  | bad (cause : Nat)
deriving DecidableEq, Repr

/-- A load by a slot of a core of the bytes of word k that need names: from the core's store buffer when its entries cover
all of them, after them when they cover some, at the home otherwise. -/
def State.loadWord (s : State) (core k : Nat) (need : BitVec 8) : State × Found :=
  let l := (s.core core).sb
  let v := sbView l k
  if v.1 &&& need = need then (s, .value v.2)
  else if v.1 &&& need ≠ 0 then (s, .wait (sbTouching l k))
  else if isAway k then (s, .outside)
  else
    match s.readWord k with
    | (s1, .ok w) => (s1, .value w)
    | (s1, .error c) => (s1, .bad c)

end Sys2Proof.Machine
end

