-- ==== Sys2Proof/Machine/Ops.lean ====
section
/-! DEFINITION. Sys2Proof/Machine/Ops.lean: what every instruction shares: taking a trap (R374 to R378), waiting (R16,
R310), stream ports as operands (R150 to R155), the checks of issue (R38, R41, R74), and retiring. -/

namespace Sys2Proof.Machine

/-- Register n of a thread; x0 reads 0 and is full (R15, R174). -/
def Thread.reg (t : Thread) (n : Nat) : Reg := if n = 0 then {} else amGetD t.regs n {}

/-- The value of register n. -/
def Thread.x (t : Thread) (n : Nat) : Word := (t.reg n).val

/-- The thread with register n written and full; a write of x0 has no effect (R15, R175). -/
def Thread.setX (t : Thread) (n : Nat) (v : Word) : Thread :=
  if n = 0 then t else { t with regs := amPut t.regs n { val := v, full := true, perr := false } }

/-- The thread with register n emptied, its value kept (R177). -/
def Thread.emptyX (t : Thread) (n : Nat) : Thread :=
  if n = 0 then t else { t with regs := amPut t.regs n { t.reg n with full := false } }

/-- The thread waits or is parked, its instruction incomplete (R16). -/
def State.park (s : State) (slot : Nat) (c : Cond) : State :=
  if s.latch.replay ≠ 0 then { s with latch := { replay := 2 } } else
  { s.modThread slot (fun t => { t with run := .waiting c }) with latch := {} }

/-- A delivery to a thread lands, or its condition clears, in this cycle: it issues no earlier than the next (R176, R315). -/
def State.landNow (s : State) (slot : Nat) : State := s.modThread slot fun t =>
  { t with landedAt := some s.cycle, landed := if t.landedAt == some s.cycle then t.landed else [] }

/-- A delivery landed in the register in this cycle (R175, R176). -/
def Thread.took (t : Thread) (cycle r : Nat) : Bool := t.landedAt == some cycle && t.landed.contains r

/-- A ready thread is held back by an interlock and tries again (R75, R310). -/
def State.holdBack (s : State) (slot : Nat) (c : Cond) : State :=
  { s.modThread slot (fun t => { t with hold := some c }) with latch := {} }

/-- The causes a thread may handle itself (R374). -/
def userCause (c : Nat) : Bool :=
  c == 0x02 || c == 0x03 || c == 0x04 || c == 0x06 || c == 0x0A || c == 0x0B || c == 0x0C

/-- Changes a port of a thread. -/
def State.modPort (s : State) (slot h : Nat) (f : Port → Port) : State :=
  s.modThread slot fun t =>
    match amGet t.ports h with
    | some p => { t with ports := amPut t.ports h (f p) }
    | none => t

def State.port? (s : State) (slot h : Nat) : Option Port := (s.thread? slot).bind fun t => amGet t.ports h

/-- What a read port has asked for and not received is asked for no more; index words popped for it stay with the port. -/
def State.dropAsk (s : State) (slot h : Nat) : State :=
  { s.modPort slot h (fun p => { p with asks := [], again := p.asks.filterMap (·.ix) ++ p.again }) with
    holds := s.holds.filter fun x => !(x.slot == slot && x.port == some h)
    returns := s.returns.filter fun x => !(x.1.slot == slot && x.1.port == some h) }

/-- As dropAsk, for every port of a thread. -/
def State.dropAsks (s : State) (slot : Nat) : State :=
  (((s.thread? slot).map fun t => t.ports.map (·.1)).getD []).foldl (fun s h => s.dropAsk slot h) s

/-- Withdraws the requests of a slot's instruction at homes, watch tables and belay units (R272, R336). -/
def State.withdrawOwn (s : State) (slot : Nat) : State :=
  let core := coreOf slot
  let s1 : State := { s with
    holds := s.holds.filter fun h => h.slot != slot || h.port.isSome
    watches := s.watches.filter (·.slot != some slot)
    returns := s.returns.filter fun h => h.1.slot != slot || h.1.port.isSome
    packets := s.packets.filter fun p => match p.payload with
      | .request x _ _ (.sync ..) | .request x _ _ (.wait ..) => x != slot
      | _ => true
    tenants := s.tenants.map fun t => (t.1, { t.2 with
      queues := t.2.queues.map fun q => (q.1, { q.2 with waiters := q.2.waiters.filter (· != slot) }) }) }
  if isOpt core then s1 else
  let s1 := s1.modOctet (octetOf core) fun o => { o with candidates := o.candidates.filter (·.1 != slot) }
  s1.modCluster (clusterOf core) fun c => { c with
    mutexes := c.mutexes.map fun m => (m.1, { m.2 with waiters := m.2.waiters.filter (· != slot) })
    events := c.events.map fun e => (e.1, { e.2 with waiters := e.2.waiters.filter (· != slot) }) }

/-- As withdrawOwn, and what the thread's ports have asked for (R272). -/
def State.withdraw (s : State) (slot : Nat) : State := (s.withdrawOwn slot).dropAsks slot

/-- An instruction whose request cannot be withdrawn is completed first: a load, an atomic, an access outside the package, a
spawn; and one whose home has performed it (R272). -/
def Thread.inFlight (t : Thread) : Bool :=
  match t.pend with
  | some p => p.farKey?.isSome || p.mode == 1 || p.mode == 7 || p.mode == 9 || p.mode == 14 ||
      ((p.mode == 2 || p.mode == 4 || p.mode == 5) && p.complete)
  | none => false

/-- A reply of a home to the slot is on its way: the home has performed its request (R272). -/
def State.replyComing (s : State) (slot : Nat) : Bool :=
  s.packets.any fun p => match p.payload with | .reply x .. => x == slot | _ => false

/-- A barrier lists the slot as a waiter. -/
def State.barrierOf (s : State) (slot : Nat) : Bool :=
  s.clusters.any fun c => c.2.barriers.any fun b => b.2.waiters.any (·.slot == slot)

/-- The pend of a barrier arrival, which stays counted (R336). -/
def Pend.barrier (p : Pend) : Bool :=
  p.mode == 2 && match belayAt (p.ea.toNat - Config.belayBase) with | some (.barWait _) => true | _ => false

/-- A thread waits for barriers no more: its arrivals stay counted, and nothing waits for their firing (R336). -/
def State.leaveBarriers (s : State) (slot : Nat) : State :=
  if !s.barrierOf slot then s else
  { s with clusters := s.clusters.map fun c => (c.1, { c.2 with
      barriers := c.2.barriers.map fun b => (b.1, { b.2 with waiters := b.2.waiters.filter (·.slot != slot) }) }) }

/-- The instruction a thread waits in is abandoned (R16, R272, R336). -/
def State.abandon (s : State) (slot : Nat) : State :=
  ((s.withdrawOwn slot).leaveBarriers slot).modThread slot fun t => { t with pend := none, hold := none, run := .ready }

/-- A thread of a frozen tenant stops: what it waits for is withdrawn, and the instruction abandoned (R16, R272), unless its home has
performed it or it waits for a barrier, at which its arrival stays counted (R336). -/
def State.stopFrozen (s : State) (slot : Nat) : State :=
  (s.withdraw slot).modThread slot fun t => match t.run with
    | .waiting _ =>
      if t.inFlight || s.replyComing slot || t.pend.any Pend.barrier && s.barrierOf slot then { t with frozen := true } else
        { t with frozen := true, pend := none, hold := none, run := .ready }
    | _ => { t with frozen := true }

/-- Freezes a tenant (R394): every thread of it stops, parked and frozen, and what it waits for at homes, watch tables and
belay units is withdrawn as R272 and R336 state. -/
def State.freeze (s : State) (tn : Nat) : State :=
  let slots := (s.threads.filter fun p => p.2.tenant == tn).map (·.1)
  slots.foldl State.stopFrozen (s.modTenant tn fun x => { x with frozen := true })

/-- The supervisor route of R377 for a trap at pc: the thread is parked and an activation is queued on its core, with a
record of kind 1 (R378). A trap in a handler starts its activation ahead of the queue; one of the supervisor itself
freezes the tenant (R378). -/
def State.supervisorTrap (s : State) (slot cause : Nat) (v pc : Word) : State :=
  match s.thread? slot with
  | none => s
  | some t =>
    let sc := BitVec.ofNat 64 (cause + if userCause cause then 256 else 0)
    let core := coreOf slot
    match t.level with
    | .supervisor => (s.check 3 slot).freeze t.tenant
    | _ =>
      let a : Activation := { target := some slot, scause := sc, sepc := pc, stval := v, tenant := t.tenant }
      let s1 := s.modThread slot fun t => { t with run := .parked .activation, kept := some (cause, v, pc) }
      let s2 := s1.modCore core fun c => { c with
        actQueue := match t.level with | .handler .. => a :: c.actQueue | _ => c.actQueue ++ [a] }
      s2.post t.tenant slot 0 cause 1 v 0

/-- The rope whose stream a slot's thread is in (R322). -/
def State.ropeOf (s : State) (slot : Nat) : Option (Nat × Rope) :=
  s.ropes.find? fun r => r.2.members.contains slot && !r.2.left.contains slot

/-- Changes a rope. -/
def State.modRope (s : State) (rope : Nat) (f : Rope → Rope) : State :=
  match amGet s.ropes rope with
  | some r => s.setRope rope (f r)
  | none => s

/-- A member that runs in the stream: not detached, and not a leader outside it (R311, R325). -/
def State.inStream (s : State) (slot : Nat) : Bool :=
  match s.ropeOf slot with
  | some (_, r) => !r.solo.contains slot && !(r.leaderOut && r.members.head? == some slot)
  | none => false

/-- The address of the instruction a slot executes next: in a rope's stream, the leader's of that index (R321). -/
def State.streamPc (s : State) (slot : Nat) (t : Thread) : Word :=
  if !s.inStream slot then t.pc else
  match s.ropeOf slot with
  | some (_, r) =>
    let c := r.members.idxOf slot
    let next := r.step + if r.done.contains slot && t.pend.isNone then 1 else 0
    if next < c then t.pc else
    match r.stream.find? fun e => e.1 + c == next with
    | some e => e.2.1
    | none => t.pc
  | none => t.pc

/-- A delivery to a member of a rope's stream detaches it; one to the leader puts the leader outside the stream until its
return (R325). The step that meets it is the one whose instruction the leader has not retired. One to the leader outside the stream
has a return of its own. -/
def State.detach (s : State) (slot : Nat) : State :=
  match s.ropeOf slot with
  | some (id, r) =>
    if r.solo.contains slot then s
    else if r.leaderOut && r.members.head? == some slot then s.setRope id { r with nested := r.nested + 1 } else
    let retired : Bool := match s.thread? slot with | some t => t.pend.isNone | none => true
    s.setRope id (if r.members.head? == some slot then
        { r with leaderOut := true, done := if retired then r.done else r.done.filter (· != slot) }
      else { r with solo := r.solo ++ [slot] })
  | none => s

/-- The launch issues nothing: it is pre-empted, or being so (R390). -/
def State.launchStopped (s : State) (lid : Nat) : Bool :=
  match amGet s.launches lid with
  | some l => l.seqn.isSome || l.state != 2
  | none => false

/-- The delivery of a trap to a thread (R377): the user route writes xcause, xepc and xtval and continues at xtvec; every other
case takes the supervisor route. -/
def State.deliver (s : State) (slot cause : Nat) (v pc : Word) : State :=
  match s.thread? slot with
  | none => s
  | some t =>
    let s1 := s.modThread slot fun t => { t with hold := none, pend := none, stepped := t.stepOne, carried := none }
    match t.level with
    | .user =>
      -- an instruction issued before a pre-emption's first step has its trap kept (R390, R392)
      if s.launchStopped t.launch then s1.modThread slot fun t => { t with kept := some (cause, v, pc), run := .parked .resume }
      else if userCause cause && t.xtvec != 0 && t.xtvec.extractLsb' 0 2 == 0 && !t.xcause.getLsbD 63 then
        s1.modThread slot fun t => { t with
          xcause := BitVec.ofNat 64 (2 ^ 63 + cause), xepc := pc, xtval := v, pc := t.xtvec, run := .ready }
      else s1.supervisorTrap slot cause v pc
    | _ => s1.supervisorTrap slot cause v pc

/-- Taking a trap of a cause with a value for the instruction at pc (R377); a member of a rope's stream detaches (R325). The
instruction's words are dropped. A replay of a pitch body that would trap stops the body instead, and its thread traps at its next
boundary (R167). -/
def State.trapAt (s : State) (slot cause : Nat) (v pc : Word) : State :=
  match s.thread? slot with
  | none => s
  | some _ =>
    if s.latch.replay ≠ 0 then
      { s.modThread slot (fun t => { t with body := t.body.map fun b => { b with stop := some (cause, v), taken := false } }) with
        latch := { replay := 3 } }
    else (({ s with latch := {} } : State).detach slot).deliver slot cause v pc

/-- A trap raised by the instruction at the thread's pc. -/
def State.trap (s : State) (slot cause : Nat) (v : Word) : State :=
  match s.thread? slot with
  | some t => s.trapAt slot cause v t.pc
  | none => s

/-- The handler that the activation on a core's service slot interrupted: what it has of the core's units stays with it (R378). -/
def State.savedOn (s : State) (core : Nat) : List (Nat × Thread) :=
  match (s.core core).act.bind (·.saved) with
  | some t => [(core * 64 + 63, t)]
  | none => []

/-- The threads that have a part of a core's units (R20): those in its slots, but for spilled and travelling ones (R310), and a
handler that its activation interrupted (R378). -/
def State.onCore (s : State) (core : Nat) : List (Nat × Thread) :=
  (s.threads.filter fun p => coreOf p.1 == core && match p.2.run with
    | .spilled | .traversing => false
    | _ => true) ++ s.savedOn core

/-! Stream ports -/

/-- g of R147: the words of an element. -/
def Port.g (p : Port) : Nat := 2 ^ (p.ctl.extractLsb' 6 2).toNat
def Port.kind (p : Port) : Nat := (p.ctl.extractLsb' 0 3).toNat
def Port.dir (p : Port) : Nat := (p.ctl.extractLsb' 12 2).toNat
def Port.fwd (p : Port) : Bool := p.ctl.getLsbD 14
def Port.sync (p : Port) : Nat := (p.ctl.extractLsb' 10 2).toNat
/-- Count i of the pattern; 1 above ndim (R148). -/
def Port.count (p : Port) (i : Nat) : Nat :=
  if i ≤ (p.ctl.extractLsb' 4 2).toNat then (p.counts.extractLsb' (16 * i) 16).toNat else 1
/-- N of R148. -/
def Port.total (p : Port) : Nat := p.count 0 * p.count 1 * p.count 2 * p.count 3
def Port.stride (p : Port) (i : Nat) : Word := p.strides.getD i 0
/-- addr(k) of R148. -/
def Port.addr (p : Port) (k : Nat) : Word :=
  let i0 := k % p.count 0
  let i1 := k / p.count 0 % p.count 1
  let i2 := k / (p.count 0 * p.count 1) % p.count 2
  let i3 := k / (p.count 0 * p.count 1 * p.count 2)
  p.base + BitVec.ofNat 64 i0 * p.stride 0 + BitVec.ofNat 64 i1 * p.stride 1 + BitVec.ofNat 64 i2 * p.stride 2 +
    BitVec.ofNat 64 i3 * p.stride 3

/-- A read kind: affine read, indirect read, link in (R147). -/
def Port.isRead (p : Port) : Bool := decide (p.kind ≤ 2)

/-- Words held ready, or accepted and not performed (R158). -/
def Port.readyWords (p : Port) : Nat := (p.held.length + p.pushes.length) * p.g

/-- The neighbour of a compute core within its cluster: 0 west, 1 east, 2 north, 3 south (R155). -/
def neighbour (core dir : Nat) : Option Nat :=
  let row := core % 128 / 16
  let col := core % 16
  if isOpt core then none else
  match dir with
  | 0 => if col = 0 then none else some (core - 1)
  | 1 => if col = 15 then none else some (core + 1)
  | 2 => if row = 0 then none else some (core - 16)
  | _ => if row = 7 then none else some (core + 16)

/-- The direction opposite. -/
def opposite (dir : Nat) : Nat := if dir % 2 = 0 then dir + 1 else dir - 1

/-- The words waiting in the FIFO that a core's link out of a direction fills (R155). -/
def State.fifoOut (s : State) (core dir : Nat) : List (Word × Nat) :=
  match neighbour core dir with
  | some n => amGetD (s.core n).fifos (opposite dir) []
  | none => []

/-- Puts words into the FIFO of a core's link out; each can be popped from the next cycle on (R155, R323). -/
def State.pushLink (s : State) (core dir : Nat) (ws : List Word) : State :=
  match neighbour core dir with
  | some n => s.modCore n fun c => { c with
      fifos := amPut c.fifos (opposite dir) (amGetD c.fifos (opposite dir) [] ++ ws.map fun w => (w, s.cycle)) }
  | none => s

/-- Pushes of a slot's thread, accepted and not performed, whose targets the test accepts (R154). -/
def State.pushesTo (s : State) (slot : Nat) (f : Except Nat Target → Bool) : List Nat :=
  match s.thread? slot with
  | some t => t.ports.flatMap fun hp => (hp.2.pushes.filter fun q => (List.range q.words.length).any fun i =>
      f (s.resolve (coreOf slot) t.tenant (masterOf t.tenant (coreOf slot)) (q.addr + BitVec.ofNat 64 (8 * i)).toNat .store).2).map (·.ident)
  | none => []

/-- The target is a word that the test accepts. -/
def atWord (f : Nat → Bool) : Except Nat Target → Bool
  | .ok x => match x.key with | some k => f k | none => false
  | .error _ => false

/-- A store of the slot's own instructions on its way to a home. -/
def Flight.ofThread (f : Flight) (slot : Nat) : Bool := f.slot == slot && f.job.isNone && f.port.isNone

/-- The earlier stores of a thread that an access of word k follows at its home (R118, R154, R292): those in the store buffer,
those in flight, its port pushes; and a sibling's store to the word that it has read early (R289). -/
def State.ownBefore (s : State) (core slot k : Nat) : List Nat :=
  let seen : List Nat := match s.thread? slot with | some t => t.seen | none => []
  (((s.core core).sb.filter fun e =>
    (e.slot == slot && e.words.any fun w => sameOrder w.1 k) || (seen.contains e.ident && e.words.any fun w => w.1 == k)).map (·.ident)) ++
  (s.flights.filter fun f => f.ofThread slot && sameOrder f.key k).map (·.ident) ++
  s.pushesTo slot (atWord fun w => sameOrder w k)

/-- A load takes word k from its core's store buffer: the siblings' entries whose bytes it may have read are kept (R289). -/
def State.sees (s : State) (core slot k : Nat) : State :=
  let l := ((s.core core).sb.filter fun e => e.slot != slot && e.words.any fun w => w.1 == k).map (·.ident)
  if l.isEmpty then s else
  s.modThread slot fun t => { t with seen := (t.seen.filter fun i => (s.core core).sb.any (·.ident == i)) ++ l }

/-- A plain load by a slot of the bytes of word k that need names (R290, R292): after the thread's pushes to the word; from the
store buffer where its entries cover the bytes; else at the home, after the thread's earlier stores there. -/
def State.findWord (s : State) (core slot k : Nat) (need : BitVec 8) : State × Found :=
  match s.pushesTo slot (atWord fun w => w == k) with
  | i :: is => (s, .wait (i :: is))
  | [] =>
    let v := sbView (s.core core).sb k
    if v.1 &&& need = need then (s.sees core slot k, .value v.2) else
    match s.ownBefore core slot k with
    | i :: is => (s, .wait (i :: is))
    | [] => s.loadWord core k need

/-- Where word va of a port's element lies, or the cause of a failure (R152, R153). -/
def State.portTarget (s : State) (slot : Nat) (t : Thread) (va : Word) (a : Access) : State × Except Nat Target :=
  match s.resolve (coreOf slot) t.tenant (masterOf t.tenant (coreOf slot)) va.toNat a with
  | (s1, .ok (.belay off)) => (s1, .error (belayRefuse off))
  | r => r

/-- The home of a word takes a port's request: the word lies outside the package, or no other request waits there (R103). -/
def State.portAt (s : State) (core k : Nat) : Option State := if isAway k then some s else s.unitAt core k

/-- One word of a port's element at address va, read as a plain load: the word, the cause of a failure, or nothing where it cannot be
read yet (R152). -/
def State.portWord (s : State) (slot : Nat) (t : Thread) (va : Word) : State × Option (Except Nat Word) :=
  match s.portTarget slot t va .load with
  | (s1, .error c) => (s1, some (.error c))
  | (s1, .ok x) =>
    let k := x.key.getD 0
    match s1.portAt (coreOf slot) k with
    | none => (s1, none)
    | some s2 => match s2.findWord (coreOf slot) slot k 0xFF#8 with
      | (s3, .value v) => (s3, some (.ok v))
      | (s3, .bad c) => (s3, some (.error c))
      | (s3, .outside) => (match s3.askOutside x with | (s4, r) => (s4, some r))
      | (s3, .wait _) => (s3, none)

/-- The next n words of a port's element at address a, those before being ws: the element, where all of it can be read. -/
def State.portRead (s : State) (slot : Nat) (t : Thread) (a : Word) : Nat → List Word → State × Option Element
  | 0, ws => (s, some ⟨ws, none, none⟩)
  | n + 1, ws =>
    let va := a + BitVec.ofNat 64 (8 * ws.length)
    match s.portWord slot t va with
    | (s1, some (.ok v)) => s1.portRead slot t a n (ws ++ [v])
    | (s1, some (.error c)) => (s1, some ⟨[], some (c, va), none⟩)
    | (s1, none) => (s1, none)

/-- Word i of an element asked for with sync 1 is requested, as lde (R152). -/
def State.askWord (s : State) (slot h no i : Nat) (va : Word) : Except Nat Target → State
  | .error c => s.gotWord slot h no i va (.error c)
  | .ok x =>
    let k := x.key.getD 0
    if isAway k then match s.askOutside x (.sync slot 0 0) with | (s1, r) => s1.gotWord slot h no i va r
    else ((s.portAt (coreOf slot) k).getD s).arriveHeld
      ⟨slot, k, 0, va, some h, (match x.place with | some p => p.2 | none => 0), no, i⟩

/-- The port asks with sync 1 for the element at address a, every word of it with the semantics of lde; not where one of the words
cannot be asked for yet (R152). -/
def State.askElement (s : State) (slot h : Nat) (t : Thread) (p : Port) (a : Word) (ix : Option Word) : State :=
  let vas := (List.range p.g).map fun i => a + BitVec.ofNat 64 (8 * i)
  let r := vas.foldl (fun (r : State × List (Except Nat Target)) va =>
    match r.1.portTarget slot t va .tag with | (s1, x) => (s1, r.2 ++ [x])) (s, [])
  let waits := r.2.any fun x => match x with
    | .ok x => !(r.1.ownBefore (coreOf slot) slot (x.key.getD 0)).isEmpty || (r.1.portAt (coreOf slot) (x.key.getD 0)).isNone
    | .error _ => false
  if waits then s else
  ((vas.zip r.2).zipIdx).foldl (fun s x => s.askWord slot h p.askNo x.2 x.1.1 x.1.2) <| r.1.modPort slot h fun q => { q with
    asks := q.asks ++ [⟨p.askNo, List.replicate p.g none, none, ix⟩], askNo := p.askNo + 1
    again := if ix.isSome then q.again.drop 1 else q.again }

/-- The request of the element at address a; ix is the index word that names it, the first of those the port keeps (R148, R152). -/
def State.wantElement (s : State) (slot h : Nat) (t : Thread) (p : Port) (a : Word) (ix : Option Word) : State :=
  if p.sync = 1 then s.askElement slot h t p a ix else
  match s.portRead slot t a p.g [] with
  | (s1, some e) => s1.modPort slot h fun q => { q with
      held := q.held ++ [{ e with ix := ix }], again := if ix.isSome then q.again.drop 1 else q.again }
  | (_, none) => s

/-- A read port has room for another element, and holds no fault (R152, R153). -/
def Port.roomy (p : Port) : Bool :=
  !(p.held.any (·.fault.isSome) || p.asks.any (·.fault.isSome)) && decide (p.readyWords + (p.asks.length + 1) * p.g ≤ 16)

/-- A link-in port draws a word from its FIFO, where it has room (R155). A word can be drawn from the cycle after its push on, without
a turn of the local store's port, which it does not use (DEDUCED, notes/assumptions/85.md). -/
def State.drawLink (s : State) (slot h : Nat) : State :=
  match s.port? slot h with
  | none => s
  | some p =>
    if p.kind ≠ 2 || !p.roomy then s else
    let core := coreOf slot
    match amGetD (s.core core).fifos p.dir [] with
    | (w, at') :: ws =>
      if at' = s.cycle then s else
      (s.modCore core fun c => { c with fifos := amPut c.fifos p.dir ws }).modPort slot h fun p => { p with held := p.held ++ [⟨[w], none, none⟩] }
    | [] => s

/-- As drawLink, up to n words. -/
def State.drawLinks (s : State) (slot h : Nat) : Nat → State
  | 0 => s
  | n + 1 => (s.drawLink slot h).drawLinks slot h n

/-- An index word as the port's ixw reads it (R147). -/
def Port.index (p : Port) (w : Word) : Word := if p.ctl.getLsbD 15 then w else (w.extractLsb' 0 32).setWidth 64

/-- Whether the forwarding FIFO behind a link-in port has no place (R155). -/
def State.forwardFull (s : State) (slot : Nat) (p : Port) : Bool :=
  decide (p.kind = 2) && p.fwd && decide (4 ≤ (s.fifoOut (coreOf slot) (opposite p.dir)).length)

/-- Pops n held elements of a port; a forwarding link in passes its words on (R155). -/
def State.popHeld (s : State) (slot h n : Nat) : State :=
  match s.port? slot h with
  | none => s
  | some p =>
    let s1 := s.modPort slot h fun p => { p with held := p.held.drop n, pos := p.pos + n }
    if p.kind = 2 && p.fwd then s1.pushLink (coreOf slot) (opposite p.dir) ((p.held.take n).flatMap (·.words)) else s1

/-- An indirect port with no index word left over pops one that its index port holds; a fault held there is held here too (R148,
R153). -/
def State.takeIndex (s : State) (slot h : Nat) (p : Port) : State :=
  if !p.again.isEmpty then s else
  match s.port? slot p.ixh with
  | some q => match q.held with
    | ⟨_, some f, _⟩ :: _ => s.modPort slot h fun p => { p with held := p.held ++ [⟨[], some f, none⟩] }
    | ⟨w :: _, none, _⟩ :: _ =>
      if s.forwardFull slot q then s else (s.popHeld slot p.ixh 1).modPort slot h fun p => { p with again := [w] }
    | _ => s
  | none => s

/-- A read port's request of its next element, when it has room and holds no fault (R148, R152): in pattern order, or that of the
next index word. -/
def State.fetchPort (s : State) (slot h : Nat) : State :=
  match s.thread? slot, s.port? slot h with
  | some t, some p =>
    if !p.roomy then s
    else if p.kind = 0 then
      let k := p.pos + p.held.length + p.asks.length
      if p.total ≤ k then s else s.wantElement slot h t p (p.addr k) none
    else if p.kind = 1 then
      let s1 := s.takeIndex slot h p
      match s1.port? slot h with
      | some q => match q.again with
        | w :: _ => s1.wantElement slot h t q (q.base + q.index w * q.stride 0) (some w)
        | [] => s1
      | none => s1
    else s.drawLink slot h
  | _, _ => s

/-- Elements a port no longer holds: those of an indirect port will be requested again by the index words they had (R152). -/
def Port.discard (p : Port) (n : Nat) : Port :=
  { p with held := p.held.take n, again := (p.held.drop n).filterMap (·.ix) ++ p.again }

/-- No element remains for a read port (R148, R153). -/
def Thread.portEnded (t : Thread) (p : Port) : Bool :=
  match p.kind with
  | 0 => decide (p.total ≤ p.pos)
  | 1 => p.held.isEmpty && p.asks.isEmpty && p.again.isEmpty && match amGet t.ports p.ixh with
    | some q => decide (q.kind = 0) && decide (q.total ≤ q.pos)
    | none => true
  | 3 => decide (p.total ≤ p.pos)
  | _ => false

/-- An element that stands for the fault held on the index port, whose word is not popped (R153). -/
def Port.ofIndex (p : Port) (e : Element) : Bool := decide (p.kind = 1) && e.fault.isSome && e.ix.isNone

/-- Elements that remain for a port; none for a link port, which has no end (R148, R160, R161). -/
def Thread.remaining (t : Thread) (p : Port) : Option Nat :=
  match p.kind with
  | 0 | 3 => some (p.total - p.pos)
  | 1 => match amGet t.ports p.ixh with
    | some q =>
      if q.kind = 0 then some ((p.held.filter fun e => !p.ofIndex e).length + p.asks.length + p.again.length + (q.total - q.pos)) else none
    | none => some 0
  | _ => none

/-- The port that draws on a link, or whose index port does, has an element to skip (R160). -/
def State.canSkip (s : State) (slot h : Nat) : Bool :=
  let word (h : Nat) : Bool := match (s.drawLink slot h).port? slot h with
    | some q => !q.held.isEmpty && !s.forwardFull slot q
    | none => false
  match s.port? slot h with
  | some p => if p.kind = 1 then !(p.held.isEmpty && p.asks.isEmpty && p.again.isEmpty) || word p.ixh else word h
  | none => true

/-! The windows of isect (R161) -/

/-- k: 16, or fewer where a link FIFO has less room. -/
def State.isectK (s : State) (core : Nat) (a b q : Port) : Nat :=
  let room (dir : Nat) : Nat := 4 - (s.fifoOut core dir).length
  let less (p : Port) (k : Nat) : Nat := if p.kind = 2 && p.fwd then min k (room (opposite p.dir)) else k
  less b (less a (if q.kind = 4 then min 16 (room q.dir) else 16))

/-- The elements of a window of k. -/
def Thread.window (t : Thread) (k : Nat) (p : Port) : Nat := match t.remaining p with | some r => min k r | none => k

/-- The address of a fault held within a window. -/
def Thread.windowFault (t : Thread) (k : Nat) (p : Port) : Option Word :=
  ((p.held.take (t.window k p)).find? (·.fault.isSome)).bind fun e => e.fault.map (·.2)

/-- isect with the handles of v parks: k is taken anew each time (R161). -/
def State.isectWaits (s : State) (slot : Nat) (v : Word) : Bool :=
  let ha := (v.extractLsb' 0 4).toNat
  let hb := (v.extractLsb' 4 4).toNat
  let hq := (v.extractLsb' 8 4).toNat
  let s0 := (s.drawLinks slot ha 16).drawLinks slot hb 16
  match s0.port? slot ha, s0.port? slot hb, s0.port? slot hq, s0.thread? slot with
  | some a, some b, some q, some t =>
    let k := s0.isectK (coreOf slot) a b q
    let lacks (p : Port) : Bool := decide (p.held.length < t.window k p) && (t.windowFault k p).isNone
    decide (k = 0) || lacks a || lacks b || (decide (q.kind = 3) && !q.pushes.isEmpty)
  | _, _, _, _ => false

/-- The registers a port's group covers. -/
def Port.covers (p : Port) (n : Nat) : Bool :=
  match p.bound with
  | some b => decide (b ≤ n) && decide (n < b + p.g)
  | none => false

/-- The port whose group holds register n. -/
def Thread.portOf (t : Thread) (n : Nat) : Option (Nat × Port) :=
  t.ports.find? fun hp => hp.2.covers n

/-- The value an instruction sees of register n: the element at its port's head, or the register (R150). -/
def Thread.src (t : Thread) (n : Nat) : Word :=
  match t.portOf n with
  | some (_, p) =>
    match p.bound, p.held with
    | some b, e :: _ => e.words.getD (n - b) 0
    | _, _ => t.x n
  | none => t.x n

/-! Issue -/

/-- A register an instruction names: its number, how many registers it covers, read or written. -/
structure RegUse where
  n : Nat
  span : Nat := 1
  read : Bool := true
  write : Bool := false

def RegUse.regs (u : RegUse) : List Nat := (List.range u.span).map (u.n + ·)

/-- A source operand. -/
def rs (n : Nat) (span : Nat := 1) : RegUse := { n, span }
/-- A destination operand. -/
def rdst (n : Nat) (span : Nat := 1) : RegUse := { n, span, read := false, write := true }
/-- An operand read and written. -/
def rmod (n : Nat) (span : Nat := 1) : RegUse := { n, span, write := true }
/-- A register only named. -/
def rname (n : Nat) (span : Nat := 1) : RegUse := { n, span, read := false }

/-- The instruction being executed: its slot, its thread as issue found it, its final word, and the successor (R32). -/
structure Ctx where
  slot : Nat
  t : Thread
  w : Word
  npc : Word
  uses : List RegUse

/-- The core of the executing thread. -/
def Ctx.core (c : Ctx) : Nat := coreOf c.slot
/-- The operand value of register n. -/
def Ctx.x (c : Ctx) (n : Nat) : Word := c.t.src n
def Ctx.master (c : Ctx) : Nat := masterOf c.t.tenant c.core

/-- The first port, of those given, for which the test answers. -/
def firstPort {α : Type} (t : Thread) (hs : List Nat) (f : Nat → Port → Option α) : Option α :=
  hs.findSome? fun h => (amGet t.ports h).bind (f h)

/-- The handles of the bound groups a list of operands touches. -/
def touchedPorts (t : Thread) (us : List RegUse) : List Nat :=
  (t.ports.filter fun hp => us.any fun u => u.regs.any hp.2.covers).map (·.1)

/-- A use of a bound group that R151 forbids. -/
def portMisuse (t : Thread) (us : List RegUse) : Bool :=
  t.ports.any fun hp => us.any fun u =>
    (u.read || u.write) && u.regs.any hp.2.covers &&
      (!(hp.2.bound == some u.n && hp.2.g == u.span) || (u.write && hp.2.isRead) || (u.read && !hp.2.isRead))

/-- The link-in ports among those named draw what waits in their FIFOs. -/
def State.drawPorts (s : State) (slot : Nat) (hs : List Nat) : State := hs.foldl (fun s h => s.drawLinks slot h 16) s

/-- A port's requests restart at the element of its held fault: nothing from there on is held or asked for (R153). -/
def State.restartPort (s : State) (slot h : Nat) : State :=
  (s.dropAsk slot h).modPort slot h fun p => p.discard (p.held.takeWhile (·.fault.isNone)).length

/-- Drops the held fault of a port, and its index port's, so that its requests restart there (R153). -/
def State.dropFault (s : State) (slot h : Nat) : State :=
  match s.port? slot h with
  | some p =>
    let s1 := s.restartPort slot h
    if p.kind = 1 then s1.restartPort slot p.ixh else s1
  | none => s

/-- The trap of a stopped pitch body is taken at the thread's boundary; the body records the resume address (R167). A held
fault that it reports is dropped (R153). -/
def State.takeStop (s : State) (slot : Nat) : State :=
  match s.thread? slot with
  | none => s
  | some t =>
    match t.body.bind fun b => if b.taken then none else b.stop.map fun x => (b, x) with
    | some (b, c, v) =>
      let s0 := match (if c = 0x0A then firstPort t b.heldPorts fun h p => match p.held with
          | ⟨_, some (_, a), _⟩ :: _ => if a = v then some h else none
          | _ => none else none) with
        | some h => s.dropFault slot h
        | none => s
      let s1 := (s0.modThread slot fun t => { t with body := t.body.map fun b => { b with taken := true, resumeAt := some t.pc } }).trapAt
        slot c v t.pc
      s1.modThread slot fun t => { t with body := t.body.map fun b => { b with byAct := t.run == .parked .activation } }
    | none => s

/-- What the ports an instruction names demand before it may issue (R150, R153, R154): nothing, a trap, or a wait. -/
def State.portGate (s : State) (slot : Nat) (t : Thread) (us : List RegUse) : Option State :=
  let reads := touchedPorts t (us.filter (·.read))
  let writes := touchedPorts t (us.filter (·.write))
  match firstPort (α := State) t reads fun h p =>
      match p.held with
      | ⟨_, some (_, a), _⟩ :: _ =>
        -- the fault that stops a pitch body goes when its trap is taken (R167)
        some ((if s.latch.replay ≠ 0 then s else s.dropFault slot h).trap slot 0x0A a)
      | [] => if t.portEnded p then some (s.trap slot 0x0A 0) else none
      | _ => none with
  | some r => some r
  | none =>
    match firstPort (α := State) t writes fun _ p =>
        match p.failed with
        | some (_, a) => some (s.trap slot 0x0A a)
        | none => if p.kind = 3 && t.portEnded p then some (s.trap slot 0x0A 0) else none with
    | some r => some r
    | none =>
      match firstPort (α := State) t reads fun h p =>
          if p.held.isEmpty || s.forwardFull slot p then some (s.park slot (.portWords h p.g)) else none with
      | some r => some r
      | none =>
        firstPort (α := State) t writes fun h p =>
          if (decide (p.kind = 4) && decide (4 ≤ (s.fifoOut (coreOf slot) p.dir).length)) ||
             (decide (p.kind = 3) && decide (16 < p.readyWords + p.g)) then some (s.park slot (.portRoom h p.g))
          else none

/-- The lowest of the named registers at or above the thread's window limit (R38). -/
def overWindow (t : Thread) (us : List RegUse) : Option Nat :=
  ((us.flatMap (·.regs)).filter (fun n => decide (t.limit ≤ n))).min?

/-- The lowest empty source register, bound groups apart (R74, R174). -/
def emptySource (t : Thread) (us : List RegUse) : Option Nat :=
  (((us.filter (·.read)).flatMap (·.regs)).filter fun n => !(t.reg n).full && (t.portOf n).isNone).min?

/-- The lowest source register whose parity is wrong (R178). -/
def badParity (t : Thread) (us : List RegUse) : Option Nat :=
  (((us.filter (·.read)).flatMap (·.regs)).filter fun n => (t.reg n).perr && (t.portOf n).isNone).min?

/-- A register, or the port bound to one, is of a pitch body's held set (R165). -/
def heldRegs (t : Thread) (ns : List Nat) : Bool :=
  match t.body with
  | some b => ns.any fun n =>
      b.heldRegs.contains n || match t.portOf n with | some (h, _) => b.heldPorts.contains h | none => false
  | none => false

/-- An operand is of a pitch body's held set (R165). -/
def heldByBody (t : Thread) (us : List RegUse) : Bool := heldRegs t ((us.filter fun u => u.read || u.write).flatMap (·.regs))

/-- The thread retires: the words of its instruction are dropped and instret counts it (R79); a replay of a pitch body
counts once and moves no pc (R165). -/
def State.retire (s : State) (slot : Nat) (pc : Word) : State :=
  if s.latch.replay ≠ 0 then { s.modThread slot (fun t => { t with instret := t.instret + 1 }) with latch := {} } else
  { s.modThread slot (fun t => { t with
      pc := pc, run := .ready, hold := none, pend := none, instret := t.instret + 1, stepped := t.stepOne, carried := none }) with
    latch := {} }

/-- The extension of a field by reach (R38). -/
def Latch.rd (l : Latch) (f : BitVec 5) : Nat := (match l.reach with | some h => h.1.toNat * 32 | none => 0) + f.toNat
def Latch.rs1 (l : Latch) (f : BitVec 5) : Nat := (match l.reach with | some h => h.2.1.toNat * 32 | none => 0) + f.toNat
def Latch.rs2 (l : Latch) (f : BitVec 5) : Nat := (match l.reach with | some h => h.2.2.toNat * 32 | none => 0) + f.toNat

/-- The guard lets the instruction execute (R40). -/
def Latch.guardOk (l : Latch) (pw : Word) : Bool :=
  match l.guard with
  | some (neg, b) => pw.getLsbD b.toNat != neg
  | none => true

/-- The final word, zero-extended, as xtval reports it. -/
def Latch.tval (l : Latch) : Word := l.word.setWidth 64

/-- The sequential successor (R32). -/
def Latch.next (l : Latch) (pc : Word) : Word := pc + BitVec.ofNat 64 (4 * (l.n + 1))

/-- The issue of an instruction of the thread that State.cur names: the decode checks (R41), the guard (R40), then the
ports (R151), the held set of a pitch body (R165), empty registers (R74), parity (R178) and the ports' elements and room
(R150); then its body. illegal: a combination R46 does not allow. -/
def issueT (s : State) (t : Thread) (illegal : Bool) (uses : List RegUse) (body : State → Ctx → State) : State :=
  let slot := s.cur
  let l := s.latch
  let npc := l.next t.pc
  if illegal || uses.any (fun u => u.n % u.span != 0) then s.trap slot 0x01 l.tval else
  match overWindow t uses with
  | some n => s.trap slot 0x02 (BitVec.ofNat 64 n)
  | none =>
    if !l.guardOk t.pw then s.retire slot npc else
    if portMisuse t uses then s.trap slot 0x01 l.tval else
    if l.replay == 0 && heldByBody t uses then s.park slot (.heldBy (uses.flatMap (·.regs)) []) else
    match emptySource t uses with
    | some n => s.park slot (.fullReg n)
    | none =>
      match badParity t uses with
      | some n => (s.check 2 slot).trap slot 0x0E (BitVec.ofNat 64 n)
      | none =>
        if (touchedPorts t uses).isEmpty then body s ⟨slot, t, l.tval, npc, uses⟩ else
        let s1 := s.drawPorts slot (touchedPorts t (uses.filter (·.read)))
        match s1.thread? slot with
        | none => s1
        | some t1 =>
          match s1.portGate slot t1 uses with
          | some s2 => s2
          | none => body s1 ⟨slot, t1, l.tval, npc, uses⟩

/-- An encoded instruction: it runs in the slot State.cur names. -/
def issue (s : State) (illegal : Bool) (uses : List RegUse) (body : State → Ctx → State) :
    Host.Outcome State Fault Refusal :=
  if s.tripped then .fault .clockStopped else
  match s.thread? s.cur with
  | none => .fault .noThread
  | some t => .next (issueT s t illegal uses body)

/-- A step of another agent. -/
def event (s : State) (f : State → State) : Host.Outcome State Fault Refusal :=
  if s.tripped then .fault .clockStopped else .next (f { s with latch := {} })

/-- Pops the element at the head of each read port named, forwarding popped link words (R150, R155). -/
def State.popHandles (s : State) (slot : Nat) (hs : List Nat) : State :=
  hs.foldl (fun s h => match s.port? slot h with
    | some p => if p.held.isEmpty then s else s.popHeld slot h 1
    | none => s) s

/-- The read ports the instruction names. -/
def Ctx.handles (c : Ctx) : List Nat := touchedPorts c.t (c.uses.filter (·.read))

/-- Pops every read group the instruction names, once each. -/
def State.popPorts (s : State) (c : Ctx) : State := s.popHandles c.slot c.handles

/-- Writes words to registers from n on; a bound output group takes them as its next element (R150, R154). -/
def State.writeRegs (s : State) (slot n : Nat) (ws : List Word) : State :=
  match s.thread? slot with
  | none => s
  | some t =>
    match (if ws.isEmpty then none else t.portOf n) with
    | some (h, p) =>
      if p.kind = 4 then
        (s.pushLink (coreOf slot) p.dir ws).modPort slot h fun p => { p with pos := p.pos + 1 }
      else
        let s1 : State := { s with nextId := s.nextId + 1 }
        s1.modPort slot h fun p =>
          { p with pushes := p.pushes ++ [⟨s.nextId, p.addr p.pos, ws⟩], pos := p.pos + 1 }
    | none => s.setThread slot ((ws.zipIdx).foldl (fun t w => t.setX (n + w.2) w.1) t)

/-- The instruction retires: its ports are popped, its results written and set full, the pc moves on. -/
def State.finish (s : State) (c : Ctx) (n : Nat) (ws : List Word) : State :=
  ((s.popPorts c).writeRegs c.slot n ws).retire c.slot c.npc

/-- As finish, with no result. -/
def State.done (s : State) (c : Ctx) : State := (s.popPorts c).retire c.slot c.npc

/-- As finish, continuing at another address (R68). -/
def State.jumpTo (s : State) (c : Ctx) (pc : Word) (n : Nat) (ws : List Word) : State :=
  ((s.popPorts c).writeRegs c.slot n ws).retire c.slot pc

/-- The instruction's request is outstanding; the thread issues nothing until the reply (R75). -/
def State.request (s : State) (c : Ctx) (p : Pend) : State :=
  { s.modThread c.slot (fun t => { t with run := .waiting .reply, pend := some { p with pops := c.handles } }) with latch := {} }

/-- What an access reports that waits for the walk of a page: no cause, but above all of them. -/
def walkCause (page : Nat) : Nat := 2 ^ 32 + page

/-- What a fetch reports that waits for its turn at the home of word k. -/
def turnCause (k : Nat) : Nat := 2 ^ 48 + k

/-- A trap of an access of a slot's instruction; or the access waits for a walk (R385) or for its home (R94), after which the
instruction issues again. -/
def State.trapAccess (s : State) (slot cause : Nat) (v : Word) : State :=
  if 2 ^ 48 ≤ cause then s.park slot (.homeTurn (cause - 2 ^ 48))
  else if 2 ^ 32 ≤ cause then s.park slot (.walk (cause - 2 ^ 32) v)
  else s.trap slot cause v

/-- A trap of the instruction at issue, or the wait of its access. -/
def State.trapc (s : State) (c : Ctx) (cause : Nat) (v : Word) : State := s.trapAccess c.slot cause v

/-- The translation that the thread carries over a move serves an address (R352). -/
def Thread.carries (t : Thread) (va : Word) : Option (Word × Word × Nat) :=
  t.carried.filter fun x => decide (x.1.toNat ≤ va.toNat) && decide (va.toNat < x.1.toNat + x.2.2) && decide (va.toNat < Config.ownBase)

/-- Where requests travel, a thread's access of a page that no TLB of its core holds joins or starts a walk (R385), for which the
access waits. The replay of a pitch body walks in its step (notes/assumptions/12.md). -/
def State.miss (s : State) (c : Ctx) (va : Word) : Option State :=
  if s.slow && s.latch.replay == 0 && (c.t.carries va).isNone && s.misses c.core c.t.tenant va.toNat then
    some (s.askWalk (clusterOf c.core) (dieOf c.core) c.t.tenant (va.toNat / 4096)) else none

/-- The operand as a register only named. -/
def RegUse.nameOnly (u : RegUse) : RegUse := { u with read := false, write := false }

/-- An instruction that only a compute core executes: on an optimiser core it raises cause 0x01 at execution, after the
decode checks and the guard (R40, R41, R365). -/
def issueOnCompute (s : State) (uses : List RegUse) (body : State → Ctx → State) : Host.Outcome State Fault Refusal :=
  if isOpt (coreOf s.cur) then issue s false (uses.map RegUse.nameOnly) fun s c => s.trapc c 0x01 c.w
  else issue s false uses body

/-- The checks of R67 step 3 for the executing thread at an address. The instruction pending over a move is performed with
the translation the thread carries (R352). -/
def State.reach (s : State) (c : Ctx) (va : Word) (a : Access) : State × Except Nat Target :=
  match c.t.carries va with
  | some (base, leaf, _) =>
    if !leafAllows leaf a then (s, .error 0x08)
    else (s, s.routed c.t.tenant c.master leaf (ppnOf leaf + (va.toNat - base.toNat)) a)
  | none => match s.miss c va with
    | some s1 => (s1, .error (walkCause (va.toNat / 4096)))
    | none => s.resolve c.core c.t.tenant c.master va.toNat a

/-- A pitch body of another slot of the core codes through table t, until it ends (R217); one that has stopped has not ended (DEDUCED,
notes/assumptions/100.md). -/
def State.tableBusy (s : State) (slot n : Nat) : Bool :=
  s.threads.any fun p => p.1 != slot && coreOf p.1 == coreOf slot && p.2.tabsel.toNat % 4 == n &&
    match p.2.body with
    | some b => b.instrs.any fun i => match i.instr with
      | .qenc .. | .qdec .. => true
      | _ => false
    | none => false

/-- Another slot of the core loads a code table (R216). -/
def State.tableLoads (s : State) (slot : Nat) : Bool :=
  s.threads.any fun p => p.1 != slot && coreOf p.1 == coreOf slot && p.2.pend.any (·.mode == 7)

/-- The thread runs at supervisor level (R378). -/
def Ctx.supervisor (c : Ctx) : Bool := c.t.level == .supervisor

/-- The thread's own accesses that are not performed (R298): its entries in the store buffer, its pushes, its stores outside
the buffer; and the siblings' stores that it has read early, which its later reads may not precede (R289). -/
def State.ownOutstanding (s : State) (slot : Nat) : List Nat :=
  ((s.core (coreOf slot)).sb.filter (·.slot == slot)).map (·.ident) ++
  (match s.thread? slot with
    | some t => t.ports.flatMap (fun hp => hp.2.pushes.map (·.ident)) ++ t.seen
    | none => []) ++
  (s.flights.filter (·.ofThread slot)).map (·.ident)

/-- The ids of the accesses that a release of the thread waits for (R273, R285, R290, R299): every entry in the core's store
buffer, its pushes, its stores outside the buffer. Short of system scope, those that only write outside the package are not waited
for. -/
def State.outstanding (s : State) (slot : Nat) (system : Bool := true) : List Nat :=
  let inside : Except Nat Target → Bool | .ok (.peer ..) | .ok (.host _) => false | _ => true
  (((s.core (coreOf slot)).sb.filter fun e => system || e.words.any fun w => !isAway w.1).map (·.ident)) ++
  s.pushesTo slot (fun x => system || inside x) ++
  (s.flights.filter fun f => f.ofThread slot && (system || !f.away)).map (·.ident)

/-- One of the ids is not performed yet. -/
def State.pending (s : State) (ids : List Nat) : Bool :=
  ids.any fun i => s.cores.any (fun k => k.2.sb.any (·.ident == i)) || s.flights.any (·.ident == i) ||
    s.threads.any (fun t => t.2.ports.any fun hp => hp.2.pushes.any (·.ident == i)) ||
    s.packets.any (fun p => p.ident == i && !p.isReply) || s.combines.any fun e => e.merged.any (·.ident == i)

/-- The body goes on once the accesses of the ids are performed. A thread that waited is known by the ids it waited for. -/
def State.after (s : State) (c : Ctx) (all : List Nat) (go : State → State) : State :=
  let ids := match c.t.hold with
    | some (.drained ids) => ids
    | _ => all
  if s.pending ids then
    { s.modThread c.slot (fun t => { t with run := .waiting (.drained ids), hold := some (.drained ids) }) with latch := {} }
  else go s

/-- The port follows the thread's writes to the host with a zero-length read, and the body goes on once that has completed (R403). -/
def State.flushHost (s : State) (c : Ctx) (go : State → State) : State :=
  if !(s.thread? c.slot).any (·.hostWrites) then go s else
  let s1 := (s.modThread c.slot fun t => { t with hostWrites := false }).leave (.host 0) .flush
  if !s.slow then go s1 else
  let wait : Cond := .drained [s1.nextId]
  let s2 : State := { s1 with
    flights := s1.flights ++ [⟨s1.nextId, c.slot, awayBase + 2 ^ 61, 0, true, none, none, none⟩], nextId := s1.nextId + 1, latch := {} }
  s2.modThread c.slot fun t => { t with run := .waiting wait, hold := some wait }

/-- A release at system scope: the body goes on once everything earlier is performed (R273, R285). -/
def State.release (s : State) (c : Ctx) (go : State → State) : State :=
  s.after c (s.outstanding c.slot) fun s => s.flushHost c go

end Sys2Proof.Machine
end

