-- ==== Sys2Proof/Machine/Base.lean ====
section
/-! DEFINITION. Sys2Proof/Machine/Base.lean: the computational instructions of RV64I and M (R64, R65), the control
transfers (R68), ecall and ebreak (R72), and the prefixes and the hint region (R39, R40, R45). -/

namespace Sys2Proof.Machine

/-- The low 32 bits, sign-extended: the result of a W form (R64). -/
def sext32 (v : Word) : Word := (v.extractLsb' 0 32).signExtend 64

/-- A comparison's result (R64). -/
def ofBool (b : Bool) : Word := if b then 1 else 0

/-- A standard hint (R73): rd is x0 with no reach extension; it retires and does nothing else. Its rs1 and rs2 fields name no
register, so that no window check is made of them (DEDUCED, notes/assumptions/71.md). -/
def State.hint (s : State) : Host.Outcome State Fault Refusal :=
  issue s false [] fun s c => s.done c

/-- A computational form with no register source; f has the instruction's pc (R64). -/
def aluU (s : State) (rd : BitVec 5) (f : Word → Word) : Host.Outcome State Fault Refusal :=
  if rd = 0 && s.latch.reach.isNone then s.hint else
  let d := s.latch.rd rd
  issue s false [rdst d] fun s c => s.finish c d [f c.t.pc]

/-- A computational form of rs1 and an immediate (R64). -/
def aluI (s : State) (rd rs1 : BitVec 5) (f : Word → Word) : Host.Outcome State Fault Refusal :=
  if rd = 0 && s.latch.reach.isNone then s.hint else
  let d := s.latch.rd rd
  let a := s.latch.rs1 rs1
  issue s false [rs a, rdst d] fun s c => s.finish c d [f (c.x a)]

/-- A computational form of rs1 and rs2 (R64). -/
def aluR (s : State) (rd rs1 rs2 : BitVec 5) (f : Word → Word → Word) : Host.Outcome State Fault Refusal :=
  if rd = 0 && s.latch.reach.isNone then s.hint else
  let d := s.latch.rd rd
  let a := s.latch.rs1 rs1
  let b := s.latch.rs2 rs2
  issue s false [rs a, rs b, rdst d] fun s c => s.finish c d [f (c.x a) (c.x b)]

/-- An I immediate (R63). -/
def immI (imm : BitVec 12) : Word := imm.signExtend 64

/-- A U value (R63). -/
def immU (imm : BitVec 20) : Word := (imm ++ 0#12).signExtend 64

/-- The high 64 bits of a product of integers (R64). -/
def mulHigh (a b : Int) : Word := BitVec.ofInt 64 (a * b / 2 ^ 64)

/-- Signed division of R65. -/
def divS {n : Nat} (a b : BitVec n) : BitVec n :=
  if b = 0 then BitVec.allOnes n else BitVec.ofInt n (a.toInt.tdiv b.toInt)

/-- Signed remainder of R65. -/
def remS {n : Nat} (a b : BitVec n) : BitVec n :=
  if b = 0 then a else BitVec.ofInt n (a.toInt.tmod b.toInt)

/-- Unsigned division of R65. -/
def divU {n : Nat} (a b : BitVec n) : BitVec n := if b = 0 then BitVec.allOnes n else BitVec.ofNat n (a.toNat / b.toNat)

/-- Unsigned remainder of R65. -/
def remU {n : Nat} (a b : BitVec n) : BitVec n := if b = 0 then a else BitVec.ofNat n (a.toNat % b.toNat)

/-- The low 32 bits. -/
def low32 (v : Word) : BitVec 32 := v.extractLsb' 0 32

/-- A W form over 32-bit operands (R64). -/
def wide (v : BitVec 32) : Word := v.signExtend 64

/-- addi (R64): X[rs1] plus the immediate. -/
def execAddi (rd rs1 : BitVec 5) (imm : BitVec 12) (s : State) : Host.Outcome State Fault Refusal :=
  aluI s rd rs1 (fun a => a + immI imm)

/-- slti (R64): 1 if X[rs1] is signed-less. -/
def execSlti (rd rs1 : BitVec 5) (imm : BitVec 12) (s : State) : Host.Outcome State Fault Refusal :=
  aluI s rd rs1 (fun a => ofBool (a.slt (immI imm)))

/-- sltiu (R64): 1 if X[rs1] is unsigned-less. -/
def execSltiu (rd rs1 : BitVec 5) (imm : BitVec 12) (s : State) : Host.Outcome State Fault Refusal :=
  aluI s rd rs1 (fun a => ofBool (a.ult (immI imm)))

/-- xori (R64): exclusive or. -/
def execXori (rd rs1 : BitVec 5) (imm : BitVec 12) (s : State) : Host.Outcome State Fault Refusal :=
  aluI s rd rs1 (fun a => a ^^^ immI imm)

/-- ori (R64): or. -/
def execOri (rd rs1 : BitVec 5) (imm : BitVec 12) (s : State) : Host.Outcome State Fault Refusal :=
  aluI s rd rs1 (fun a => a ||| immI imm)

/-- andi (R64): and. -/
def execAndi (rd rs1 : BitVec 5) (imm : BitVec 12) (s : State) : Host.Outcome State Fault Refusal :=
  aluI s rd rs1 (fun a => a &&& immI imm)

/-- addiw (R64): 32-bit sum. -/
def execAddiw (rd rs1 : BitVec 5) (imm : BitVec 12) (s : State) : Host.Outcome State Fault Refusal :=
  aluI s rd rs1 (fun a => sext32 (a + immI imm))

/-- slli (R64): left shift. -/
def execSlli (rd rs1 : BitVec 5) (sh : BitVec 6) (s : State) : Host.Outcome State Fault Refusal :=
  aluI s rd rs1 (fun a => a <<< sh.toNat)

/-- srli (R64): logical right shift. -/
def execSrli (rd rs1 : BitVec 5) (sh : BitVec 6) (s : State) : Host.Outcome State Fault Refusal :=
  aluI s rd rs1 (fun a => a >>> sh.toNat)

/-- srai (R64): arithmetic right shift. -/
def execSrai (rd rs1 : BitVec 5) (sh : BitVec 6) (s : State) : Host.Outcome State Fault Refusal :=
  aluI s rd rs1 (fun a => a.sshiftRight sh.toNat)

/-- slliw (R64): 32-bit left shift. -/
def execSlliw (rd rs1 sh : BitVec 5) (s : State) : Host.Outcome State Fault Refusal :=
  aluI s rd rs1 (fun a => wide (low32 a <<< sh.toNat))

/-- srliw (R64): 32-bit logical right shift. -/
def execSrliw (rd rs1 sh : BitVec 5) (s : State) : Host.Outcome State Fault Refusal :=
  aluI s rd rs1 (fun a => wide (low32 a >>> sh.toNat))

/-- sraiw (R64): 32-bit arithmetic right shift. -/
def execSraiw (rd rs1 sh : BitVec 5) (s : State) : Host.Outcome State Fault Refusal :=
  aluI s rd rs1 (fun a => wide ((low32 a).sshiftRight sh.toNat))

/-- auipc (R64): the pc of the instruction, its first word's address, plus the U value. -/
def execAuipc (rd : BitVec 5) (imm : BitVec 20) (s : State) : Host.Outcome State Fault Refusal :=
  aluU s rd fun pc => pc + immU imm

/-- lui (R64): the U value. -/
def execLui (rd : BitVec 5) (imm : BitVec 20) (s : State) : Host.Outcome State Fault Refusal :=
  aluU s rd fun _ => immU imm

/-- add (R64). -/
def execAdd (rd rs1 rs2 : BitVec 5) (s : State) : Host.Outcome State Fault Refusal :=
  aluR s rd rs1 rs2 fun a b => a + b

/-- sub (R64). -/
def execSub (rd rs1 rs2 : BitVec 5) (s : State) : Host.Outcome State Fault Refusal :=
  aluR s rd rs1 rs2 fun a b => a - b

/-- sll (R64). -/
def execSll (rd rs1 rs2 : BitVec 5) (s : State) : Host.Outcome State Fault Refusal :=
  aluR s rd rs1 rs2 fun a b => a <<< (b.toNat % 64)

/-- slt (R64). -/
def execSlt (rd rs1 rs2 : BitVec 5) (s : State) : Host.Outcome State Fault Refusal :=
  aluR s rd rs1 rs2 fun a b => ofBool (a.slt b)

/-- sltu (R64). -/
def execSltu (rd rs1 rs2 : BitVec 5) (s : State) : Host.Outcome State Fault Refusal :=
  aluR s rd rs1 rs2 fun a b => ofBool (a.ult b)

/-- xor (R64). -/
def execXor (rd rs1 rs2 : BitVec 5) (s : State) : Host.Outcome State Fault Refusal :=
  aluR s rd rs1 rs2 fun a b => a ^^^ b

/-- srl (R64). -/
def execSrl (rd rs1 rs2 : BitVec 5) (s : State) : Host.Outcome State Fault Refusal :=
  aluR s rd rs1 rs2 fun a b => a >>> (b.toNat % 64)

/-- sra (R64). -/
def execSra (rd rs1 rs2 : BitVec 5) (s : State) : Host.Outcome State Fault Refusal :=
  aluR s rd rs1 rs2 fun a b => a.sshiftRight (b.toNat % 64)

/-- or (R64). -/
def execOr (rd rs1 rs2 : BitVec 5) (s : State) : Host.Outcome State Fault Refusal :=
  aluR s rd rs1 rs2 fun a b => a ||| b

/-- and (R64). -/
def execAnd (rd rs1 rs2 : BitVec 5) (s : State) : Host.Outcome State Fault Refusal :=
  aluR s rd rs1 rs2 fun a b => a &&& b

/-- mul (R64). -/
def execMul (rd rs1 rs2 : BitVec 5) (s : State) : Host.Outcome State Fault Refusal :=
  aluR s rd rs1 rs2 fun a b => a * b

/-- mulh (R64). -/
def execMulh (rd rs1 rs2 : BitVec 5) (s : State) : Host.Outcome State Fault Refusal :=
  aluR s rd rs1 rs2 fun a b => mulHigh a.toInt b.toInt

/-- mulhsu (R64). -/
def execMulhsu (rd rs1 rs2 : BitVec 5) (s : State) : Host.Outcome State Fault Refusal :=
  aluR s rd rs1 rs2 fun a b => mulHigh a.toInt b.toNat

/-- mulhu (R64). -/
def execMulhu (rd rs1 rs2 : BitVec 5) (s : State) : Host.Outcome State Fault Refusal :=
  aluR s rd rs1 rs2 fun a b => mulHigh a.toNat b.toNat

/-- div (R65). -/
def execDiv (rd rs1 rs2 : BitVec 5) (s : State) : Host.Outcome State Fault Refusal :=
  aluR s rd rs1 rs2 fun a b => divS a b

/-- divu (R65). -/
def execDivu (rd rs1 rs2 : BitVec 5) (s : State) : Host.Outcome State Fault Refusal :=
  aluR s rd rs1 rs2 fun a b => divU a b

/-- rem (R65). -/
def execRem (rd rs1 rs2 : BitVec 5) (s : State) : Host.Outcome State Fault Refusal :=
  aluR s rd rs1 rs2 fun a b => remS a b

/-- remu (R65). -/
def execRemu (rd rs1 rs2 : BitVec 5) (s : State) : Host.Outcome State Fault Refusal :=
  aluR s rd rs1 rs2 fun a b => remU a b

/-- addw (R64). -/
def execAddw (rd rs1 rs2 : BitVec 5) (s : State) : Host.Outcome State Fault Refusal :=
  aluR s rd rs1 rs2 fun a b => sext32 (a + b)

/-- subw (R64). -/
def execSubw (rd rs1 rs2 : BitVec 5) (s : State) : Host.Outcome State Fault Refusal :=
  aluR s rd rs1 rs2 fun a b => sext32 (a - b)

/-- sllw (R64). -/
def execSllw (rd rs1 rs2 : BitVec 5) (s : State) : Host.Outcome State Fault Refusal :=
  aluR s rd rs1 rs2 fun a b => wide (low32 a <<< (b.toNat % 32))

/-- srlw (R64). -/
def execSrlw (rd rs1 rs2 : BitVec 5) (s : State) : Host.Outcome State Fault Refusal :=
  aluR s rd rs1 rs2 fun a b => wide (low32 a >>> (b.toNat % 32))

/-- sraw (R64). -/
def execSraw (rd rs1 rs2 : BitVec 5) (s : State) : Host.Outcome State Fault Refusal :=
  aluR s rd rs1 rs2 fun a b => wide ((low32 a).sshiftRight (b.toNat % 32))

/-- mulw (R64). -/
def execMulw (rd rs1 rs2 : BitVec 5) (s : State) : Host.Outcome State Fault Refusal :=
  aluR s rd rs1 rs2 fun a b => sext32 (a * b)

/-- divw (R65). -/
def execDivw (rd rs1 rs2 : BitVec 5) (s : State) : Host.Outcome State Fault Refusal :=
  aluR s rd rs1 rs2 fun a b => wide (divS (low32 a) (low32 b))

/-- divuw (R65). -/
def execDivuw (rd rs1 rs2 : BitVec 5) (s : State) : Host.Outcome State Fault Refusal :=
  aluR s rd rs1 rs2 fun a b => wide (divU (low32 a) (low32 b))

/-- remw (R65). -/
def execRemw (rd rs1 rs2 : BitVec 5) (s : State) : Host.Outcome State Fault Refusal :=
  aluR s rd rs1 rs2 fun a b => wide (remS (low32 a) (low32 b))

/-- remuw (R65). -/
def execRemuw (rd rs1 rs2 : BitVec 5) (s : State) : Host.Outcome State Fault Refusal :=
  aluR s rd rs1 rs2 fun a b => wide (remU (low32 a) (low32 b))

/-- A conditional branch (R68): taken to pc plus the B immediate, whose bits [12:1] imm holds; a misaligned target traps
when taken (R31). -/
def branch (s : State) (rs1 rs2 : BitVec 5) (imm : BitVec 12) (f : Word → Word → Bool) : Host.Outcome State Fault Refusal :=
  let a := s.latch.rs1 rs1
  let b := s.latch.rs2 rs2
  issue s false [rs a, rs b] fun s c =>
    if f (c.x a) (c.x b) then
      let t := c.t.pc + (imm ++ 0#1).signExtend 64
      if t.extractLsb' 0 2 ≠ 0 then s.trapc c 0x03 t else s.jumpTo c t 0 []
    else s.done c

/-- beq (R68). -/
def execBeq (rs1 rs2 : BitVec 5) (imm : BitVec 12) (s : State) : Host.Outcome State Fault Refusal :=
  branch s rs1 rs2 imm fun a b => a == b

/-- bne (R68). -/
def execBne (rs1 rs2 : BitVec 5) (imm : BitVec 12) (s : State) : Host.Outcome State Fault Refusal :=
  branch s rs1 rs2 imm fun a b => a != b

/-- blt (R68). -/
def execBlt (rs1 rs2 : BitVec 5) (imm : BitVec 12) (s : State) : Host.Outcome State Fault Refusal :=
  branch s rs1 rs2 imm fun a b => a.slt b

/-- bge (R68). -/
def execBge (rs1 rs2 : BitVec 5) (imm : BitVec 12) (s : State) : Host.Outcome State Fault Refusal :=
  branch s rs1 rs2 imm fun a b => !a.slt b

/-- bltu (R68). -/
def execBltu (rs1 rs2 : BitVec 5) (imm : BitVec 12) (s : State) : Host.Outcome State Fault Refusal :=
  branch s rs1 rs2 imm fun a b => a.ult b

/-- bgeu (R68). -/
def execBgeu (rs1 rs2 : BitVec 5) (imm : BitVec 12) (s : State) : Host.Outcome State Fault Refusal :=
  branch s rs1 rs2 imm fun a b => !a.ult b

/-- jal (R68): the successor to rd, then pc plus the J immediate, whose bits [20:1] imm holds; a misaligned target traps (R31). -/
def execJal (rd : BitVec 5) (imm : BitVec 20) (s : State) : Host.Outcome State Fault Refusal :=
  let d := s.latch.rd rd
  issue s false [rdst d] fun s c =>
    let t := c.t.pc + (imm ++ 0#1).signExtend 64
    if t.extractLsb' 0 2 ≠ 0 then s.trapc c 0x03 t else s.jumpTo c t d [c.npc]

/-- jalr (R68): to X[rs1] + imm with bit 0 cleared; rs1 is read before rd is written. -/
def execJalr (rd rs1 : BitVec 5) (imm : BitVec 12) (s : State) : Host.Outcome State Fault Refusal :=
  let d := s.latch.rd rd
  let a := s.latch.rs1 rs1
  issue s false [rs a, rdst d] fun s c =>
    let t := (c.x a + immI imm) &&& ~~~(1#64)
    if t.extractLsb' 0 2 ≠ 0 then s.trapc c 0x03 t else s.jumpTo c t d [c.npc]

/-- ecall (R72): cause 0x05 with 4 times the words of the instruction. -/
def execEcall  (s : State) : Host.Outcome State Fault Refusal :=
  issue s false [] fun s c => s.trapc c 0x05 (c.npc - c.t.pc)

/-- ebreak (R72): cause 0x04 with 4 times the words of the instruction. -/
def execEbreak  (s : State) : Host.Outcome State Fault Refusal :=
  issue s false [] fun s c => s.trapc c 0x04 (c.npc - c.t.pc)

/-- A prefix word (R41): its bits are latched and the next word of the instruction follows; a second one of its kind
traps. -/
def prefixWord (s : State) (second : Bool) (l : Latch → Latch) : Host.Outcome State Fault Refusal :=
  if s.tripped then .fault .clockStopped else
  match s.thread? s.cur with
  | none => .fault .noThread
  | some _ =>
    if second then .next (s.trap s.cur 0x01 s.latch.tval)
    else .next { s with latch := { l s.latch with n := s.latch.n + 1, more := true } }

/-- reach (R39): the extension bits of the instruction that follows. -/
def execReach (rs2hi rs1hi rdhi : BitVec 2) (s : State) : Host.Outcome State Fault Refusal :=
  prefixWord s s.latch.reach.isSome fun l => { l with reach := some (rdhi, rs1hi, rs2hi) }

/-- when (R40): the guard of the instruction that follows. -/
def execWhen (neg : BitVec 1) (pbit : BitVec 6) (s : State) : Host.Outcome State Fault Refusal :=
  prefixWord s s.latch.guard.isSome fun l => { l with guard := some (neg == 1#1, pbit) }

/-- The hint region (R45): a no-operation; it cannot carry a prefix (R41). -/
def execHintRegion  (s : State) : Host.Outcome State Fault Refusal :=
  if s.latch.n ≠ 0 then issue s true [] fun s _ => s else issue s false [] fun s c => s.done c

end Sys2Proof.Machine
end

