-- ==== Sys2Proof/Machine/Flags.lean ====
section
/-! DEFINITION. Sys2Proof/Machine/Flags.lean: number formats (R185 to R187), rounding, special values and flags (R188 to
R191), quantising (R192), conversions (R193), code tables (R195 to R198). Arithmetic is exact on values m * 2^e and narrowed
once. -/

namespace Sys2Proof.Machine

/-- A floating-point format (R185). special 0: infinities and NaNs at the top exponent; 1: e4m3, NaN at the top code alone;
2: e2m1, no special value. -/
structure Fmt where
  ebits : Nat
  mbits : Nat
  bias : Int
  special : Nat := 0
deriving DecidableEq, Repr

def f64 : Fmt := ⟨11, 52, 1023, 0⟩
def f32 : Fmt := ⟨8, 23, 127, 0⟩
def f16 : Fmt := ⟨5, 10, 15, 0⟩
def bf16 : Fmt := ⟨8, 7, 127, 0⟩
def e8m10 : Fmt := ⟨8, 10, 127, 0⟩
def e4m3 : Fmt := ⟨4, 3, 7, 1⟩
def e5m2 : Fmt := ⟨5, 2, 15, 0⟩
def e2m1 : Fmt := ⟨2, 1, 1, 2⟩

def Fmt.width (f : Fmt) : Nat := 1 + f.ebits + f.mbits

/-- The canonical NaN (R185); e2m1 has none, and gives 0 (R192). -/
def Fmt.nan (f : Fmt) : Nat :=
  match f.special with
  | 0 => if f = e5m2 then 0x7E else (2 ^ f.ebits - 1) * 2 ^ f.mbits + 2 ^ (f.mbits - 1)
  | 1 => 2 ^ (f.ebits + f.mbits) - 1
  | _ => 0

/-- The sign bit at its place. -/
def Fmt.sign (f : Fmt) (neg : Bool) : Nat := if neg then 2 ^ (f.ebits + f.mbits) else 0

/-- The bits of infinity (R185). -/
def Fmt.infBits (f : Fmt) (neg : Bool) : Nat := (2 ^ f.ebits - 1) * 2 ^ f.mbits + f.sign neg

/-- The bits of the largest finite value (R185). -/
def Fmt.maxBits (f : Fmt) (neg : Bool) : Nat :=
  (match f.special with
    | 0 => (2 ^ f.ebits - 1) * 2 ^ f.mbits - 1
    | 1 => 2 ^ (f.ebits + f.mbits) - 2
    | _ => 2 ^ (f.ebits + f.mbits) - 1) + f.sign neg

/-- A value: NaN (signalling or not), an infinity, or (-1)^neg * m * 2^e. -/
inductive Fv where
  | nan (sig : Bool)
  | inf (neg : Bool)
  | fin (neg : Bool) (m : Nat) (e : Int)
deriving DecidableEq, Repr

/-- The value of an encoding (R185, R190). -/
def Fmt.decode (f : Fmt) (b : Nat) : Fv :=
  let neg := b / 2 ^ (f.ebits + f.mbits) % 2 = 1
  let e := b / 2 ^ f.mbits % 2 ^ f.ebits
  let m := b % 2 ^ f.mbits
  let top := 2 ^ f.ebits - 1
  if f.special = 0 ∧ e = top then
    if m = 0 then .inf neg else .nan (decide (f.mbits ≠ 2 ∧ f ≠ e8m10 ∧ m < 2 ^ (f.mbits - 1)))
  else if f.special = 1 ∧ e = top ∧ m = 2 ^ f.mbits - 1 then .nan false
  else if e = 0 then .fin neg m (1 - f.bias - f.mbits)
  else .fin neg (2 ^ f.mbits + m) ((e : Int) - f.bias - f.mbits)

/-- The rounding modes (R188). -/
inductive Mode where
  | rne | rtz | rdn | rup | rmm
deriving DecidableEq, Repr

/-- The mode an frm value selects; 101 to 111 select none (R78). -/
def modeOf (frm : Nat) : Option Mode :=
  match frm with
  | 0 => some .rne
  | 1 => some .rtz
  | 2 => some .rdn
  | 3 => some .rup
  | 4 => some .rmm
  | _ => none

/-- Flags in the order of fcsr [4:0] (R78). -/
def flNV : BitVec 5 := 16#5
def flDZ : BitVec 5 := 8#5
def flOF : BitVec 5 := 4#5
def flUF : BitVec 5 := 2#5
def flNX : BitVec 5 := 1#5

/-- m * 2^e, a little more with sticky, to an integer multiple of 2^q in the mode: the multiple and whether it is
inexact. -/
def roundTo (mode : Mode) (neg : Bool) (m : Nat) (e : Int) (sticky : Bool) (q : Int) : Nat × Bool :=
  if q ≤ e then (m * 2 ^ (e - q).toNat, sticky) else
  let d := (q - e).toNat
  let t := m / 2 ^ d
  let r := m % 2 ^ d
  let h := 2 ^ (d - 1)
  let inexact := decide (r ≠ 0) || sticky
  let up := match mode with
    | .rne => decide (h < r) || (decide (r = h) && (sticky || decide (t % 2 = 1)))
    | .rmm => decide (h ≤ r)
    | .rtz => false
    | .rdn => neg && inexact
    | .rup => !neg && inexact
  (if up then t + 1 else t, inexact)

/-- A rounded result: its bits and flags. -/
structure Res where
  bits : Nat
  flags : BitVec 5 := 0
deriving DecidableEq, Repr

/-- The exponent of a value's last place at the format's precision, exponent range unbounded. -/
def Fmt.place (f : Fmt) (m : Nat) (e : Int) : Int := e + (Nat.log2 m : Int) - f.mbits

/-- The exponent of the subnormal spacing. -/
def Fmt.floor (f : Fmt) : Int := 1 - f.bias - f.mbits

/-- Overflow in a format with an infinity (R189). -/
def Fmt.overflow (f : Fmt) (mode : Mode) (neg : Bool) : Nat :=
  match mode, neg with
  | .rne, _ | .rmm, _ => f.infBits neg
  | .rtz, _ => f.maxBits neg
  | .rdn, false => f.maxBits false
  | .rdn, true => f.infBits true
  | .rup, false => f.infBits false
  | .rup, true => f.maxBits true

/-- The bits of k * 2^q, a value of the format not above its largest (k has at most the format's precision, or is one
above it). -/
def Fmt.pack (f : Fmt) (neg : Bool) (k : Nat) (q : Int) : Nat :=
  let (k, q) := if k = 2 ^ (f.mbits + 1) then (2 ^ f.mbits, q + 1) else (k, q)
  (if k < 2 ^ f.mbits then k
   else (q + f.mbits + f.bias).toNat * 2 ^ f.mbits + (k - 2 ^ f.mbits)) + f.sign neg

/-- k * 2^q exceeds the largest finite value. -/
def Fmt.exceeds (f : Fmt) (k : Nat) (q : Int) : Bool :=
  match f.decode (f.maxBits false) with
  | .fin _ m e => if q ≥ e then decide (m < k * 2 ^ (q - e).toNat) else decide (m * 2 ^ (e - q).toNat < k)
  | _ => false

/-- round(x, fmt, mode) of R188 and R189 for a finite x = m * 2^e, a little more with sticky, with its flags (R191). -/
def Fmt.round (f : Fmt) (mode : Mode) (neg : Bool) (m : Nat) (e : Int) (sticky : Bool := false) : Res :=
  if m = 0 then ⟨f.sign neg, if sticky then flUF ||| flNX else 0⟩ else
  let q := f.place m e
  let (ku, _) := roundTo mode neg m e sticky q
  let tiny := decide (q + (Nat.log2 ku : Int) < 1 - f.bias)
  let q' := max q f.floor
  let (k, inexact) := roundTo mode neg m e sticky q'
  if f.exceeds k q' then ⟨f.overflow mode neg, flOF ||| flNX⟩
  else ⟨f.pack neg k q', (if inexact then flNX else 0) ||| (if tiny && inexact then flUF else 0)⟩

/-- A value in the format: NaN is canonical (R190). -/
def Fmt.ofFv (f : Fmt) (mode : Mode) (v : Fv) : Res :=
  match v with
  | .nan _ => ⟨f.nan, 0⟩
  | .inf n => ⟨f.infBits n, 0⟩
  | .fin n m e => f.round mode n m e

/-- A signalling NaN sets NV as an operand of arithmetic (R190). -/
def Fv.sigFlag : Fv → BitVec 5
  | .nan true => flNV
  | _ => 0

def Fv.isNan : Fv → Bool
  | .nan _ => true
  | _ => false

def Fv.isZero : Fv → Bool
  | .fin _ 0 _ => true
  | _ => false

def Fv.neg : Fv → Fv
  | .nan s => .nan s
  | .inf n => .inf (!n)
  | .fin n m e => .fin (!n) m e

/-- The exact product, with NV for infinity times zero (R190). -/
def Fv.mul (a b : Fv) : Fv × BitVec 5 :=
  match a, b with
  | .nan s, .nan t => (.nan false, if s || t then flNV else 0)
  | .nan s, _ => (.nan false, if s then flNV else 0)
  | _, .nan s => (.nan false, if s then flNV else 0)
  | .inf n, .inf k => (.inf (n != k), 0)
  | .inf n, .fin k m _ => if m = 0 then (.nan false, flNV) else (.inf (n != k), 0)
  | .fin k m _, .inf n => if m = 0 then (.nan false, flNV) else (.inf (n != k), 0)
  | .fin n m e, .fin k l g => (.fin (n != k) (m * l) (e + g), 0)

/-- A signed multiple of 2^e. -/
def finOf (z : Int) (e : Int) (zeroNeg : Bool) : Fv :=
  if z = 0 then .fin zeroNeg 0 e else .fin (decide (z < 0)) z.natAbs e

/-- The exact sum, with NV for opposite infinities; a zero sum of unlike signs is -0 only under RDN (R190). -/
def Fv.add (mode : Mode) (a b : Fv) : Fv × BitVec 5 :=
  match a, b with
  | .nan s, .nan t => (.nan false, if s || t then flNV else 0)
  | .nan s, _ => (.nan false, if s then flNV else 0)
  | _, .nan s => (.nan false, if s then flNV else 0)
  | .inf n, .inf k => if n = k then (.inf n, 0) else (.nan false, flNV)
  | .inf n, _ => (.inf n, 0)
  | _, .inf n => (.inf n, 0)
  | .fin n m e, .fin k l g =>
    let q := min e g
    let x : Int := (m * 2 ^ (e - q).toNat : Nat)
    let y : Int := (l * 2 ^ (g - q).toNat : Nat)
    (finOf ((if n then -x else x) + (if k then -y else y)) q (if n = k then n else decide (mode = .rdn)), 0)

/-- Rounds an operation's value, its flags added. -/
def Fmt.finish (f : Fmt) (mode : Mode) (r : Fv × BitVec 5) : Res :=
  let x := f.ofFv mode r.1
  ⟨x.bits, x.flags ||| r.2⟩

/-- round(a + b) (R204). -/
def Fmt.add (f : Fmt) (mode : Mode) (a b : Nat) : Res := f.finish mode ((f.decode a).add mode (f.decode b))

/-- round(a - b). -/
def Fmt.sub (f : Fmt) (mode : Mode) (a b : Nat) : Res := f.finish mode ((f.decode a).add mode (f.decode b).neg)

/-- round(a * b). -/
def Fmt.mul (f : Fmt) (mode : Mode) (a b : Nat) : Res := f.finish mode ((f.decode a).mul (f.decode b))

/-- round(c + a * b), one rounding; with minus, round(c - a * b). -/
def Fmt.fma (f : Fmt) (mode : Mode) (minus : Bool) (c a b : Nat) : Res :=
  let p := (f.decode a).mul (f.decode b)
  let r := (f.decode c).add mode (if minus then p.1.neg else p.1)
  f.finish mode (r.1, r.2 ||| p.2)

/-- round(a / b): DZ for a finite non-zero value over zero (R191). -/
def Fmt.div (f : Fmt) (mode : Mode) (a b : Nat) : Res :=
  match f.decode a, f.decode b with
  | .nan s, y => ⟨f.nan, (if s then flNV else 0) ||| y.sigFlag⟩
  | _, .nan s => ⟨f.nan, if s then flNV else 0⟩
  | .inf _, .inf _ => ⟨f.nan, flNV⟩
  | .inf n, .fin k _ _ => ⟨f.infBits (n != k), 0⟩
  | .fin n _ _, .inf k => ⟨f.sign (n != k), 0⟩
  | .fin n m e, .fin k l g =>
    if l = 0 then (if m = 0 then ⟨f.nan, flNV⟩ else ⟨f.infBits (n != k), flDZ⟩) else
    let d := f.mbits + 3 + (Nat.log2 l + 1) - Nat.log2 m
    let x := m * 2 ^ d
    if m = 0 then ⟨f.sign (n != k), 0⟩
    else f.round mode (n != k) (x / l) (e - g - d) (decide (x % l ≠ 0))

/-- The integer square root of n, of i bits. -/
def isqrt (n : Nat) : Nat → Nat
  | 0 => 0
  | i + 1 =>
    -- the high bits of the root of n / 4^i come first
    let r := 2 * isqrt (n / 4) i
    if (r + 1) * (r + 1) ≤ n then r + 1 else r

/-- round(sqrt a) (R205). -/
def Fmt.sqrt (f : Fmt) (mode : Mode) (a : Nat) : Res :=
  match f.decode a with
  | .nan s => ⟨f.nan, if s then flNV else 0⟩
  | .inf false => ⟨f.infBits false, 0⟩
  | .inf true => ⟨f.nan, flNV⟩
  | .fin n m e =>
    if m = 0 then ⟨f.sign n, 0⟩
    else if n then ⟨f.nan, flNV⟩ else
    let d0 := 2 * f.mbits + 8
    let d := if (e - d0) % 2 = 0 then d0 else d0 + 1
    let x := m * 2 ^ d
    let r := isqrt x (Nat.log2 x / 2 + 1)
    f.round mode false r ((e - d) / 2) (decide (r * r ≠ x))

/-- The order of two values that are not NaN: -1, 0 or 1; -0 and +0 are equal. -/
def Fv.cmp (a b : Fv) : Int :=
  match a, b with
  | .inf n, .inf k => if n = k then 0 else if n then -1 else 1
  | .inf n, _ => if n then -1 else 1
  | _, .inf n => if n then 1 else -1
  | .fin n m e, .fin k l g =>
    let q := min e g
    let x : Int := (m * 2 ^ (e - q).toNat : Nat)
    let y : Int := (l * 2 ^ (g - q).toNat : Nat)
    let x := if n then -x else x
    let y := if k then -y else y
    if x < y then -1 else if x = y then 0 else 1
  | _, _ => 0

/-- A quantised element (R192): its bits, flags, and whether it counts as saturated. -/
structure Quant where
  bits : Nat
  flags : BitVec 5
  sat : Bool
deriving DecidableEq, Repr

/-- The quantising conversion of x with scale s to a format (R192). -/
def Fmt.quantise (f : Fmt) (x s : Fv) : Quant :=
  let (p, fl) := x.mul s
  match p with
  | .nan _ => ⟨f.nan, fl, false⟩
  | .inf n => if f.special = 0 then ⟨f.infBits n, fl, false⟩ else ⟨f.maxBits n, fl ||| flOF ||| flNX, true⟩
  | .fin n m e =>
    if m = 0 then ⟨f.sign n, fl, false⟩ else
    let q := f.place m e
    let (k, _) := roundTo .rne n m e false q
    if f.exceeds k q then ⟨f.maxBits n, fl ||| flOF ||| flNX, true⟩
    else
      let r := f.round .rne n m e
      ⟨r.bits, fl ||| r.flags, false⟩

/-- A floating-point value to an integer of w bits, in the mode (R193): NaN gives 0 and a value outside the range its
nearest end, both with NV. -/
def toInteger (w : Nat) (signed : Bool) (mode : Mode) (v : Fv) : Int × BitVec 5 :=
  let lo : Int := if signed then -(2 ^ (w - 1) : Nat) else 0
  let hi : Int := if signed then (2 ^ (w - 1) : Nat) - 1 else (2 ^ w : Nat) - 1
  match v with
  | .nan _ => (0, flNV)
  | .inf n => (if n then lo else hi, flNV)
  | .fin n m e =>
    let (k, inexact) := roundTo mode n m e false 0
    let z : Int := if n then -(k : Int) else k
    if z < lo then (lo, flNV) else if hi < z then (hi, flNV) else (z, if inexact then flNX else 0)

/-- An integer rounded to a format (R193). -/
def Fmt.ofInt (f : Fmt) (mode : Mode) (z : Int) : Res := f.round mode (decide (z < 0)) z.natAbs 0

/-! Code tables (R195 to R198) -/

/-- The value of a stored entry (R195, R198). -/
def entryValue (e : BitVec 32) : Fv :=
  match (e.extractLsb' 30 2).toNat with
  | 0 => match e8m10.decode (e.extractLsb' 0 19).toNat with
    | .nan _ => .nan false
    | v => v
  | 1 => .nan false
  | 2 => .inf false
  | _ => .inf true

/-- Entry c of a table; before the first tabld every entry is kind 0 with value +0 (R215). -/
def CodeTable.value (t : CodeTable) (c : Nat) : Fv := entryValue (t.entries.getD c 0)

/-- The finite values of a table with their codes, in code order. -/
def CodeTable.finite (t : CodeTable) : List (Nat × Fv) :=
  ((List.range 256).map fun c => (c, t.value c)).filter fun x => match x.2 with | .fin .. => true | _ => false

/-- Of two coded values the one the test prefers; on a tie of values the lower code stays (R196). -/
def pickCode (better : Fv → Fv → Bool) (l : List (Nat × Fv)) : Option (Nat × Fv) :=
  l.foldl (fun best x => match best with
    | none => some x
    | some b => if better x.2 b.2 then some x else some b) none

/-- v0 and v(m-1) with their codes (R196). -/
def CodeTable.least (t : CodeTable) : Option (Nat × Fv) := pickCode (fun a b => a.cmp b == -1) t.finite
def CodeTable.greatest (t : CodeTable) : Option (Nat × Fv) := pickCode (fun a b => a.cmp b == 1) t.finite

/-- The lowest code whose value satisfies the test. -/
def CodeTable.lowest (t : CodeTable) (p : Fv → Bool) : Option Nat := (List.range 256).find? fun c => p (t.value c)

/-- The exact difference of finite values. -/
def Fv.dist (a b : Fv) : Fv := (a.add .rne b.neg).1

/-- Encodes a value through a table (R197). An infinity through a table that has neither a code for it nor a finite value is code 0,
saturated (DESIGN CHOICE, notes/assumptions/96.md). -/
def CodeTable.encode (t : CodeTable) (p : Fv) (fl : BitVec 5) : Quant :=
  let sat (c : Nat) : Quant := ⟨c, fl ||| flOF ||| flNX, true⟩
  match p with
  | .nan _ =>
    match t.lowest Fv.isNan with
    | some c => ⟨c, fl, false⟩
    | none => ⟨0, fl ||| flNV, false⟩
  | .inf n =>
    match t.lowest fun v => v == .inf n with
    | some c => ⟨c, fl, false⟩
    | none => sat ((((if n then t.least else t.greatest)).map (·.1)).getD 0)
  | .fin .. =>
    match t.least, t.greatest with
    | some lo, some hi =>
      if p.cmp hi.2 == 1 then sat hi.1
      else if p.cmp lo.2 == -1 then sat lo.1
      else
        let below := pickCode (fun a b => a.cmp b == 1) (t.finite.filter fun x => x.2.cmp p != 1)
        let above := pickCode (fun a b => a.cmp b == -1) (t.finite.filter fun x => x.2.cmp p == 1)
        match below, above with
        | some b, some a =>
          if b.2.cmp p == 0 then ⟨b.1, fl, false⟩ else
          let d := (p.dist b.2).cmp (a.2.dist p)
          ⟨if d == -1 then b.1 else if d == 1 then a.1 else min b.1 a.1, fl ||| flNX, false⟩
        | some b, none => ⟨b.1, fl ||| (if b.2.cmp p == 0 then 0 else flNX), false⟩
        | none, _ => ⟨0, fl, false⟩
    | _, _ => sat 0

/-- The quantising conversion through a table (R192, R197). -/
def CodeTable.quantise (t : CodeTable) (x s : Fv) : Quant :=
  let (p, fl) := x.mul s
  t.encode p fl

end Sys2Proof.Machine
end

