-- ==== Sys2Proof/Machine/Send.lean ====
section
/-! DEFINITION. Sys2Proof/Machine/Send.lean: what a message names and its refusal (R338, R339, R341), and the move of a
traversing thread (R352, R353). -/

namespace Sys2Proof.Machine

/-- The slot and register that a waiting delivery names. -/
def Message.names : Message → Option (Nat × Nat × Word)
  | .reg x r v | .reply x r v | .result x r v => some (x, r, v)
  | _ => none

/-- The target word of a message that was not sent with one, or whose thread has moved (R338). -/
def Message.target : Message → Word
  | .reg x r _ | .reply x r _ | .result x r _ => BitVec.ofNat 64 (r * 2 ^ 20 + x % 2 ^ 20)
  | .dec core i _ => BitVec.ofNat 64 (i * 2 ^ 20 + core * 64)
  | .call core h .. => BitVec.ofNat 64 (h * 2 ^ 20 + core * 64)

/-- A delivery for another slot: a saved thread's, where it resumes (R341). -/
def Message.toSlot (m : Message) (slot : Nat) : Message :=
  match m with
  | .reg _ r v => .reg slot r v
  | .reply _ r v => .reply slot r v
  | .result _ r v => .result slot r v
  | m => m

/-- A message is refused: a record of kind 3 (R339). -/
def State.refuseMessage (s : State) (w : Waiting) (code : Nat) : State := s.post w.tenant w.sender code 0 3 0 w.word

/-- Deliveries waiting at a core for a slot are refused with code 2 when its thread leaves it (R341). -/
def State.refuseWaiting (s : State) (slot : Nat) : State :=
  let core := coreOf slot
  let mine (w : Waiting) : Bool := match w.msg.names with | some n => n.1 == slot | none => false
  let gone := (s.core core).msgs.filter mine ++ ((s.thread? slot).map (·.waitingDeliveries)).getD []
  gone.foldl (fun s w => s.refuseMessage w 2) ((s.modCore core fun c => { c with msgs := c.msgs.filter fun w => !mine w }).modThread slot
    fun t => { t with waitingDeliveries := [] })

/-- Frees a slot: its thread is gone (R310). -/
def State.freeSlot (s : State) (slot : Nat) : State := { s with threads := amDel s.threads slot }

/-- The core that owns what a target address names, for a traversing thread (R352): the core of a cluster or package
window address, the owner field of a homed page. -/
def ownerOf : Target → Option Nat
  | .store t _ own => if own then none else some t
  | .mem _ (some leaf) =>
    if leaf.getLsbD 5 then some ((leaf.extractLsb' 59 3).toNat * 2048 + (leaf.extractLsb' 55 4).toNat * 128 +
      (leaf.extractLsb' 48 7).toNat % 128) else none
  | _ => none

/-- A context is shipped to a core: a control packet of 2 flits, then a register packet of C/8 (R353). -/
def State.sendContext (s : State) (src dst : Nat) (t : Thread) : State :=
  (s.send false src dst (.context t dst)).send false src dst (.registers s.nextId (t.ctx / 8))

/-- Moves the executing thread to a core (R353): its own accesses are performed first (R298), its body ended and its replies
landed; then it leaves its slot and its context is shipped, with the translation of va if it has one. moved gives the context
that lands. -/
def State.ship (s : State) (c : Ctx) (core : Nat) (va : Word) (moved : Thread → Thread) : State :=
  if c.t.body.isSome then s.park c.slot .noBody
  else if !c.t.calls.isEmpty then s.park c.slot .replies
  else s.after c (s.ownOutstanding c.slot) fun s =>
    let entry := tlbFind (s.core c.core).tlb c.t.tenant va.toNat
    let t1 := moved { c.t with
      run := .traversing, hold := none, pend := none, seen := []
      carried := entry.map fun e => (BitVec.ofNat 64 e.base, e.leaf, e.size) }
    let s1 := ((s.withdraw c.slot).refuseWaiting c.slot).freeSlot c.slot
    { s1.sendContext c.core core t1 with latch := {} }

/-- A traversing thread's access of an address owned by another core moves it there, its instruction still to be performed
(R352); an owner not assigned to the tenant raises cause 0x09 (R354). Otherwise the access goes on. -/
def State.orMove (s : State) (c : Ctx) (va : Word) (t : Target) (go : State → State) : State :=
  match (if c.t.ctx = 0 then none else ownerOf t) with
  | some o =>
    if o = c.core then go s
    else if !s.assigned o c.t.tenant then s.trapc c 0x09 va
    else s.ship c o va id
  | none => go s

end Sys2Proof.Machine
end

