-- ==== Sys2Proof/Machine/Belay.lean ====
section
/-! DEFINITION. Sys2Proof/Machine/Belay.lean: the belay unit's barriers, mutexes and event lines (R331 to R336), reached by
ld and sd through the belay window. -/

namespace Sys2Proof.Machine

/-- ld may read the word; sd may write it (R331). -/
def BelayOp.loads : BelayOp → Bool
  | .mutRelease _ | .evSet _ | .evClear _ => false
  | _ => true
def BelayOp.stores : BelayOp → Bool
  | .barCfg _ | .mutRelease _ | .evSet _ | .evClear _ | .evCfg _ => true
  | _ => false

def Cluster.barrier (c : Cluster) (i : Nat) : Barrier := amGetD c.barriers i {}
def Cluster.mutex (c : Cluster) (i : Nat) : Mutex := amGetD c.mutexes i {}
def Cluster.eventLine (c : Cluster) (i : Nat) : EventLine := amGetD c.events i {}

def State.setBarrier (s : State) (cl i : Nat) (b : Barrier) : State :=
  s.modCluster cl fun c => { c with barriers := amPut c.barriers i b }
def State.setMutex (s : State) (cl i : Nat) (m : Mutex) : State :=
  s.modCluster cl fun c => { c with mutexes := amPut c.mutexes i m }
def State.setEvent (s : State) (cl i : Nat) (e : EventLine) : State :=
  s.modCluster cl fun c => { c with events := amPut c.events i e }

/-- Answers belay waiters with a value. -/
def State.answerAll (s : State) (slots : List Nat) (v : Word) : State :=
  slots.foldl (fun s x => s.answer x 0 (.ok v)) s

/-- n of a barrier's cfg (R332). -/
def Barrier.n (b : Barrier) : Nat := (b.cfg.extractLsb' 0 16).toNat

/-- A barrier fires: its phase moves on, its phase's waiters are released with the new phase, and the children whose
arrival counted in it get a release (R333). -/
def State.fireBarrier (s : State) (cl i : Nat) : State :=
  let b := (s.cluster cl).barrier i
  let p1 := (b.phase + 1) % 2 ^ 32
  let out := b.waiters.filter (·.phase == b.phase)
  let kids := b.children.filter (·.2.2 == b.phase)
  let s1 := s.setBarrier cl i { b with
    phase := p1, count := b.early, early := 0, closing := false
    waiters := b.waiters.filter (·.phase != b.phase), children := b.children.filter (·.2.2 != b.phase) }
  let s2 := s1.answerAll (out.map (·.slot)) (BitVec.ofNat 64 p1)
  kids.foldl (fun s k => s.send false (epBelay cl) (epBelay k.1) (.parentRelease k.1 k.2.1)) s2

/-- A barrier whose count has reached n fires, or closes and sends its arrival to its parent (R333). -/
def State.settleBarrier (s : State) (cl i : Nat) : State :=
  let b := (s.cluster cl).barrier i
  if b.n = 0 ∨ b.closing ∨ b.count < b.n then s
  else if b.cfg.getLsbD 41 then
    let parent := cl / 16 * 16 + (b.cfg.extractLsb' 32 4).toNat
    let tn := ((s.tenants.find? fun t => t.2.clusters.getLsbD cl).map (·.1)).getD 0
    (s.setBarrier cl i { b with closing := true }).send false (epBelay cl) (epBelay parent)
      (.childArrival tn parent (b.cfg.extractLsb' 36 5).toNat cl i)
  else s.fireBarrier cl i

/-- An arrival is counted (R333). A closed barrier keeps its count of n until it fires, and counts apart the arrivals of the
next phase, which its count then is (DEDUCED, notes/assumptions/58.md). -/
def Barrier.counted (b : Barrier) : Barrier :=
  if b.closing then { b with early := b.early + 1 } else { b with count := b.count + 1 }

/-- The phase in which an arrival at the barrier counts now: the next one while it is closed (R333). -/
def Barrier.arrivalPhase (b : Barrier) : Nat := if b.closing then (b.phase + 1) % 2 ^ 32 else b.phase

/-- The rectangle of a rect word (R301): die, grow0, gcol0, h, w. -/
structure Rect where
  die : Nat
  row : Nat
  col : Nat
  h : Nat
  w : Nat
deriving DecidableEq, Repr

/-- The rectangle a rect word names, of compute cores or, with opt, of slices (R301, R365). -/
def rectOf (r : Word) : Rect :=
  let cl := (r.extractLsb' 4 4).toNat
  { die := (r.extractLsb' 0 3).toNat
    row := cl / 4 * 8 + (r.extractLsb' 12 3).toNat
    col := cl % 4 * 16 + (r.extractLsb' 8 4).toNat
    h := (r.extractLsb' 24 5).toNat + 1
    w := (r.extractLsb' 16 6).toNat + 1 }

/-- The die-level coordinates of a compute core (R301): grow and gcol. -/
def growOf (core : Nat) : Nat := core / 128 % 16 / 4 * 8 + core % 128 / 16
def gcolOf (core : Nat) : Nat := core / 128 % 4 * 16 + core % 16

/-- The compute core at die-level coordinates. -/
def coreAt (die grow gcol : Nat) : Nat := die * 2048 + (grow / 8 * 4 + gcol / 16) * 128 + grow % 8 * 16 + gcol % 16

/-- A sub-rectangle aligned in a launch's rectangle (R303). -/
def alignedIn (outer inner : Rect) : Bool :=
  outer.die == inner.die && decide (outer.row ≤ inner.row) && decide (outer.col ≤ inner.col) &&
  decide (outer.w % inner.w = 0) && decide (outer.h % inner.h = 0) &&
  decide ((inner.row - outer.row) % inner.h = 0) && decide ((inner.col - outer.col) % inner.w = 0) &&
  decide (inner.row + inner.h ≤ outer.row + outer.h) && decide (inner.col + inner.w ≤ outer.col + outer.w)

/-- The barrier's rectangle in die-level coordinates (R332). -/
def Barrier.rect (b : Barrier) (cl : Nat) : Rect :=
  { die := cl / 16
    row := cl % 16 / 4 * 8 + (b.cfg.extractLsb' 20 3).toNat
    col := cl % 4 * 16 + (b.cfg.extractLsb' 16 4).toNat
    h := (b.cfg.extractLsb' 27 3).toNat + 1
    w := (b.cfg.extractLsb' 23 4).toNat + 1 }

/-- A thread's own arrival is allowed (R332): n is not 0, its core lies in the rectangle, which is aligned in its
launch. -/
def State.arrivalOk (s : State) (slot i : Nat) : Bool :=
  let core := coreOf slot
  let cl := clusterOf core
  let b := (s.cluster cl).barrier i
  let r := b.rect cl
  decide (b.n ≠ 0) && decide (r.row ≤ growOf core) && decide (growOf core < r.row + r.h) &&
  decide (r.col ≤ gcolOf core) && decide (gcolOf core < r.col + r.w) &&
  match (s.thread? slot).bind fun t => amGet s.launches t.launch with
  | some l => alignedIn (rectOf l.rectNow) r
  | none => false

/-- What a unit answers: a value now, or nothing yet. -/
abbrev BelayAnswer := State × Option Word

/-- A thread's arrival (R333): counted in the phase, it waits for the firing or gets the phase at once. -/
def State.barrierArrive (s : State) (slot i : Nat) (wait : Bool) : BelayAnswer :=
  let cl := clusterOf (coreOf slot)
  let b := (s.cluster cl).barrier i
  let p := b.arrivalPhase
  let b1 := { b.counted with waiters := if wait then b.waiters ++ [⟨slot, p⟩] else b.waiters }
  let s1 := (s.setBarrier cl i b1).modThread slot fun t => { t with pend := t.pend.map fun q => { q with phase := p } }
  (s1.settleBarrier cl i, if wait then none else some (BitVec.ofNat 64 p))

/-- A cfg store (R333): the count becomes 0, closing is cleared and every waiter gets all-ones. -/
def State.barrierCfg (s : State) (cl i : Nat) (v : Word) : State :=
  let b := (s.cluster cl).barrier i
  (s.setBarrier cl i { b with cfg := v &&& 0x3FF3FFFFFFF#64, count := 0, early := 0, closing := false, waiters := [] }).answerAll
    (b.waiters.map (·.slot)) (BitVec.allOnes 64)

/-- Status of a barrier (R333). -/
def Barrier.status (b : Barrier) : Word :=
  BitVec.ofNat 64 (b.phase * 2 ^ 32 + b.count % 65536 * 65536 + if b.closing then 1 else 0)

/-- An acquire (R334). -/
def State.mutexAcquire (s : State) (slot i : Nat) : BelayAnswer :=
  let cl := clusterOf (coreOf slot)
  let m := (s.cluster cl).mutex i
  match m.owner with
  | none => (s.setMutex cl i { m with owner := some slot, abandoned := false }, some 1)
  | some o => if o = slot then (s, some 2) else (s.setMutex cl i { m with waiters := m.waiters ++ [slot] }, none)

/-- A try (R334). -/
def State.mutexTry (s : State) (slot i : Nat) : BelayAnswer :=
  let cl := clusterOf (coreOf slot)
  let m := (s.cluster cl).mutex i
  match m.owner with
  | none => (s.setMutex cl i { m with owner := some slot, abandoned := false }, some 1)
  | some _ => (s, some 0)

/-- The mutex goes to its oldest waiter, or is free (R334). -/
def State.mutexPass (s : State) (cl i : Nat) (abandoned : Bool) : State :=
  let m := (s.cluster cl).mutex i
  match m.waiters with
  | w :: rest => (s.setMutex cl i { owner := some w, abandoned := false, waiters := rest }).answer w 0 (.ok 1)
  | [] => s.setMutex cl i { owner := none, abandoned := abandoned, waiters := [] }

/-- Status of a mutex (R334). -/
def Mutex.status (m : Mutex) : Word :=
  BitVec.ofNat 64 ((match m.owner with | some o => o % 2 ^ 20 + 2 ^ 20 | none => 0) +
    (if m.abandoned then 2 ^ 21 else 0) + min 255 m.waiters.length * 2 ^ 24)

/-- A wait on an event line (R335). -/
def State.eventWait (s : State) (slot i : Nat) : BelayAnswer :=
  let cl := clusterOf (coreOf slot)
  let e := (s.cluster cl).eventLine i
  if e.set then (s.setEvent cl i { e with set := !e.cfg.getLsbD 0 }, some e.value)
  else (s.setEvent cl i { e with waiters := e.waiters ++ [slot] }, none)

/-- A set (R335): with auto the oldest waiter is released and the bit cleared, otherwise all are; with fwd the set is sent
on. -/
def State.eventSet (s : State) (cl i : Nat) (v : Word) : State :=
  let e := (s.cluster cl).eventLine i
  let s1 :=
    if e.cfg.getLsbD 0 then
      match e.waiters with
      | w :: rest => (s.setEvent cl i { e with value := v, set := false, waiters := rest }).answer w 0 (.ok v)
      | [] => s.setEvent cl i { e with value := v, set := true }
    else (s.setEvent cl i { e with value := v, set := true, waiters := [] }).answerAll e.waiters v
  if e.cfg.getLsbD 1 then
    let dst := cl / 16 * 16 + (e.cfg.extractLsb' 4 4).toNat
    s1.send false (epBelay cl) (epBelay dst) (.forwardedSet dst (e.cfg.extractLsb' 8 6).toNat v)
  else s1

/-- Status of an event line (R335). -/
def EventLine.status (e : EventLine) : Word :=
  BitVec.ofNat 64 (e.waiters.length % 65536 + if e.set then 65536 else 0)

/-- A mutex release store by a thread that is not the owner changes nothing and traps (R334). -/
def State.mutexRelease (s : State) (slot i : Nat) : State × Bool :=
  let cl := clusterOf (coreOf slot)
  if ((s.cluster cl).mutex i).owner = some slot then (s.mutexPass cl i false, true) else (s, false)

/-- A load's act at the unit (R331). -/
def State.belayLoad (s : State) (slot : Nat) : BelayOp → BelayAnswer
  | .barCfg i => (s, some ((s.cluster (clusterOf (coreOf slot))).barrier i).cfg)
  | .barWait i => s.barrierArrive slot i true
  | .barArrive i => s.barrierArrive slot i false
  | .barStatus i => (s, some ((s.cluster (clusterOf (coreOf slot))).barrier i).status)
  | .mutAcquire i => s.mutexAcquire slot i
  | .mutTry i => s.mutexTry slot i
  | .mutStatus i => (s, some ((s.cluster (clusterOf (coreOf slot))).mutex i).status)
  | .evWait i => s.eventWait slot i
  | .evCfg i => (s, some ((s.cluster (clusterOf (coreOf slot))).eventLine i).cfg)
  | .evStatus i => (s, some ((s.cluster (clusterOf (coreOf slot))).eventLine i).status)
  | .mutRelease _ | .evSet _ | .evClear _ => (s, none)

/-- A store's act at the unit; false: it traps with cause 0x08 (R331). -/
def State.belayStore (s : State) (slot : Nat) (v : Word) : BelayOp → State × Bool
  | .barCfg i => (s.barrierCfg (clusterOf (coreOf slot)) i v, true)
  | .mutRelease i => s.mutexRelease slot i
  | .evSet i => (s.eventSet (clusterOf (coreOf slot)) i v, true)
  | .evClear i =>
    let cl := clusterOf (coreOf slot)
    (s.setEvent cl i { (s.cluster cl).eventLine i with set := false }, true)
  | .evCfg i =>
    let cl := clusterOf (coreOf slot)
    (s.setEvent cl i { (s.cluster cl).eventLine i with cfg := v &&& 0x3FF3#64 }, true)
  | _ => (s, false)

/-- An arrival is a release (R336). -/
def BelayOp.releases : BelayOp → Bool
  | .barWait _ | .barArrive _ | .mutRelease _ | .evSet _ => true
  | _ => false

/-- A load that acts at the unit by a step of its own; a read of cfg or status is answered at once. -/
def BelayOp.acts : BelayOp → Bool
  | .barCfg _ | .barStatus _ | .mutStatus _ | .evCfg _ | .evStatus _ => false
  | _ => true

/-- ld of the belay window (R331, R336). A load that waits leaves its request outstanding; State.slow leaves every one
to the unit's own step. -/
def belayLd (s : State) (c : Ctx) (va : Word) (off rd : Nat) : State :=
  match belayAt off with
  | none => s.trapc c 0x07 va
  | some op =>
    if !op.loads then s.trapc c 0x08 va
    else if !s.assigned c.core c.t.tenant then s.trapc c 0x09 va
    else
      let arrives := match op with | .barWait i | .barArrive i => some i | _ => none
      if (match arrives with | some i => !s.arrivalOk c.slot i | none => false) then s.trapc c 0x08 va else
      let go (s : State) : State :=
        let p : Pend := ⟨.scalar 8 0 false, rd, c.npc, [0], [], [], 2, 0, va, []⟩
        let s1 := s.request c p
        if s.slow && op.acts then s1 else
        match s1.belayLoad c.slot op with
        | (s2, some v) => s2.finish c rd [v]
        | (s2, none) => s2
      if op.releases then s.release c go else go s

/-- sd of the belay window (R331, R336). With State.slow the store waits for the unit's own step, its value in got. -/
def belaySd (s : State) (c : Ctx) (va : Word) (off : Nat) (v : Word) : State :=
  match belayAt off with
  | none => s.trapc c 0x07 va
  | some op =>
    if !op.stores then s.trapc c 0x08 va
    else if !s.assigned c.core c.t.tenant then s.trapc c 0x09 va
    else
      let own : Bool := match op with
        | .mutRelease i => ((s.cluster (clusterOf c.core)).mutex i).owner == some c.slot
        | _ => true
      let go (s : State) : State :=
        if !own then s.trapc c 0x08 va
        else if s.slow then s.request c ⟨.none, 0, c.npc, [0], [(1, v)], [], 2, 0, va, []⟩
        else (s.belayStore c.slot v op).1.done c
      if op.releases then s.release c go else go s

end Sys2Proof.Machine
end

