-- ==== Sys2Proof/Machine/LoadStore.lean ====
section
/-! DEFINITION. Sys2Proof/Machine/LoadStore.lean: loads and stores (R66, R67), group, unaligned and masked access (R120 to
R122), and the replies that complete an outstanding request (R75). -/

namespace Sys2Proof.Machine

/-- Bytes off to off + size - 1 of a word, extended (R66). -/
def scalarOf (v : Word) (size off : Nat) (signed : Bool) : Word :=
  let x := v >>> (8 * off)
  match size with
  | 1 => if signed then (x.setWidth 8).signExtend 64 else (x.setWidth 8).setWidth 64
  | 2 => if signed then (x.setWidth 16).signExtend 64 else (x.setWidth 16).setWidth 64
  | 4 => if signed then (x.setWidth 32).signExtend 64 else (x.setWidth 32).setWidth 64
  | _ => x

/-- Eight bytes from byte off of two words (R121). -/
def unalignedOf (w0 w1 : Word) (off : Nat) : Word :=
  if off = 0 then w0 else (w0 >>> (8 * off)) ||| (w1 <<< (64 - 8 * off))

/-- The result an instruction makes of the words it asked for. -/
def Asm.result (a : Asm) (ws : List Word) : List Word :=
  match a with
  | .scalar size off signed => [scalarOf (ws.getD 0 0) size off signed]
  | .group => ws
  | .unaligned off => [unalignedOf (ws.getD 0 0) (ws.getD 1 0) off]
  | .boxed off => [scalarOf (ws.getD 0 0) 4 off false ||| 0xFFFFFFFF00000000#64]
  | .none => []

/-- The table a 1,024-byte image holds (R195): two entries a word. -/
def tableOfWords (ws : List Word) : CodeTable :=
  { loaded := true, entries := ws.flatMap fun w => [w.extractLsb' 0 32, w.extractLsb' 32 32] }

/-- What the first failing word raises: its cause, and the address of R67, R120 and R121. -/
def Pend.failure (p : Pend) : Option (Nat × Word) :=
  p.lacks.bind fun k => (p.bad.find? (·.1 == k)).map fun b =>
    (b.2, match p.keys.idxOf k with
      | 0 => p.ea
      | i => (p.ea &&& ~~~7#64) + BitVec.ofNat 64 (8 * i))

/-- The reply arrives: the instruction writes its result and retires, or traps with what the reply reports (R75). A table is
loaded once no sibling's running body reads it (R217). -/
def State.reply (s : State) (slot : Nat) : State :=
  match (s.thread? slot).bind (·.pend) with
  | none => s
  | some p =>
    if !p.complete then s else
    match p.failure with
    | some (c, v) => s.trap slot c v
    | none =>
      -- a record that spawn reads (R318)
      if p.mode = 14 then s.modThread slot fun t => { t with run := .ready } else
      if p.mode = 7 && s.tableBusy slot p.phase then s else
      let ws := p.keys.map fun k => ((p.got.find? (·.1 == k)).map (·.2)).getD 0
      let s := if p.mode = 7 then  -- a tabld whose image lies outside the package
          s.modCore (coreOf slot) fun k => { k with tables := amPut k.tables p.phase (tableOfWords ws) }
        else s
      ((s.popHandles slot p.pops).writeRegs slot p.rd (p.asm.result ws)).retire slot p.npc

/-- A delivery landed in this cycle in a register that the slot's instruction is to write: its write completes in a later one, for a
cycle's own writes come before its deliveries (R176). -/
def State.replyLate (s : State) (slot : Nat) : Bool :=
  match s.thread? slot with
  | some t => t.pend.any fun p => (List.range (max 2 p.keys.length)).any fun i => p.rd != 0 && t.took s.cycle (p.rd + i)
  | none => false

/-- The mask of size bytes at byte off of a word. -/
def byteMask (size off : Nat) : BitVec 8 := (BitVec.ofNat 8 (2 ^ size - 1)) <<< off

/-- One word of a load: its address, the address a failure reports, and the bytes needed. -/
structure WordReq where
  va : Word
  tval : Word
  need : BitVec 8 := 0xFF

/-- How the words of a load are found: each with its value, or as a word outside the package; the ids of stores they wait
for; or the words before one that fails, with its cause and the address it reports. -/
inductive Words where
  | all (l : List (Sum Word Target))
  | wait (ids : List Nat)
  | fail (before : List (Sum Word Target)) (cause : Nat) (tval : Word)

/-- The words of a load in order, each with its checks of R67 steps 3 and 4; entries of the store buffer that cover a word in
part, and the thread's earlier stores to it, are waited for (R290, R292). -/
def findAll (c : Ctx) (a : Access) : List WordReq → List (Sum Word Target) → State → State × Words
  | [], l, s => (s, .all l)
  | r :: rest, l, s =>
    match s.reach c r.va a with
    | (s1, .error e) => (s1, .fail l e r.tval)
    | (s1, .ok (.belay off)) => (s1, .fail l (belayRefuse off) r.tval)
    | (s1, .ok t) =>
      match s1.findWord c.core c.slot (t.key.getD 0) r.need with
      | (s2, .value v) => findAll c a rest (l ++ [.inl v]) s2
      | (s2, .wait ids) => (s2, .wait ids)
      | (s2, .bad e) => (s2, .fail l e r.tval)
      | (s2, .outside) => findAll c a rest (l ++ [.inr t]) s2

/-- Loads words and goes on with their values. The first failure traps. far is what happens when words lead out of the package
(R403, R412): they, and what fails after them. -/
def loadAll (c : Ctx) (a : Access) (far : State → List (Sum Word Target) → Option (Nat × Word) → State) (rs : List WordReq)
    (s : State) (k : State → List Word → State) : State :=
  match findAll c a rs [] s with
  | (s1, .wait ids) => s1.park c.slot (.drained ids)
  | (s1, .fail l e v) => if l.all (·.isLeft) then s1.trapc c e v else far s1 l (some (e, v))
  | (s1, .all l) => if l.all (·.isLeft) then k s1 (l.filterMap (·.getLeft?)) else far s1 l none

/-- Requests for the words of an instruction some of which lie outside the package: they are asked for, and its reply waits
for them; a failure after them is the last word. -/
def State.askFar (s : State) (c : Ctx) (p : Pend) (l : List (Sum Word Target)) (fail : Option (Nat × Word)) : State :=
  let n := l.length
  let got : List (Nat × Word) := l.zipIdx.filterMap fun x => x.1.getLeft?.map fun v => (farKey x.2, v)
  let s1 := s.request c { p with
    keys := (List.range n).map farKey ++ (if fail.isSome then [farKey n] else []), got
    bad := match fail with | some f => [(farKey n, f.1)] | none => [] }
  l.zipIdx.foldl (fun s x => match x.1 with
    | .inr t => s.leave t (.read c.slot (farKey x.2))
    | .inl _ => s) s1

/-- Where the words of an instruction lie, up to the first whose checks of R67 step 3 fail. -/
def addrAll (c : Ctx) (a : Access) : List WordReq → State → State × List (WordReq × Except Nat Target)
  | [], s => (s, [])
  | r :: rest, s =>
    match s.reach c r.va a with
    | (s1, .error e) => (s1, [(r, .error e)])
    | (s1, .ok (.belay off)) => (s1, [(r, .error (belayRefuse off))])
    | (s1, .ok t) => match addrAll c a rest s1 with | (s2, l) => (s2, (r, .ok t) :: l)

/-- The packets that ask for words: one for each word, but one for all those of one local store that a group reads (R100,
R113). -/
def loadRequests (group : Bool) : List (Nat × Nat) → List (List Nat × Nat)
  | [] => []
  | (k, cls) :: rest =>
    let rs := loadRequests group rest
    match rs with
    | (k' :: ks, cls') :: more =>
      if group && decide (Config.hbmEnd ≤ 8 * k) && homeEp (8 * k) == homeEp (8 * k') then (k :: k' :: ks, cls') :: more else ([k], cls) :: rs
    | _ => ([k], cls) :: rs

/-- The loads of an instruction, as requests on the fabric: the store buffer's words come at once, the others' packets
travel to their homes (R94, R290); those outside the package leave it. -/
def loadSlow (s : State) (c : Ctx) (p : Pend) (rs : List WordReq) : State :=
  match addrAll c .load rs s with
  | (s1, (r, .error e) :: _) => s1.trapc c e r.tval
  | (s1, l) =>
    let sb := (s1.core c.core).sb
    let word (x : WordReq × Except Nat Target) : Option Nat := match x.2 with | .ok t => t.key | .error _ => none
    let covered (x : WordReq × Except Nat Target) (k : Nat) : Bool := (sbView sb k).1 &&& x.1.need == x.1.need
    let waits (x : WordReq × Except Nat Target) : List Nat := match word x with
      | some k =>
        s1.pushesTo c.slot (atWord fun w => w == k) ++
        if covered x k then [] else
        (if (sbView sb k).1 &&& x.1.need == 0 then [] else sbTouching sb k) ++ s1.ownBefore c.core c.slot k
      | none => []
    match l.flatMap waits with
    | i :: is => s1.park c.slot (.drained (i :: is))
    | [] =>
      let key (x : (WordReq × Except Nat Target) × Nat) : Nat := match word x.1 with
        | some k => if isAway k then farKey x.2 else k
        | none => farKey x.2
      let found := l.zipIdx.filterMap fun x => (word x.1).bind fun k => if covered x.1 k then some (k, key x, (sbView sb k).2) else none
      let bad := l.zipIdx.filterMap fun x => match x.1.2 with | .error e => some (farKey x.2, e) | .ok _ => none
      let s2 := s1.request c { p with keys := l.zipIdx.map key, got := found.map (·.2), bad }
      let s3 := found.foldl (fun s g => s.sees c.core c.slot g.1) s2
      let s4 := l.zipIdx.foldl (fun s x => match x.1.2 with
        | .ok t => if (t.key.getD 0 |> covered x.1) then s else s.leave t (.read c.slot (farKey x.2))
        | .error _ => s) s3
      let away := l.filterMap fun x => match x.2 with
        | .ok t => if covered x (t.key.getD 0) then none else t.place.map fun p => (p.1 / 8, p.2)
        | .error _ => none
      (loadRequests (p.asm == .group) away).foldl (fun s q => s.sendHome c.core c.slot c.t.tenant [q.2] (.load q.1)) s4

/-- A group that one local store holds is read as a whole (R113): where entries of the store buffer touch some of its words and do not
cover them all, it waits for those entries, and reads at its home (R290). -/
def State.groupWaits (s : State) (c : Ctx) (rs : List WordReq) : List Nat :=
  let ks := (addrAll c .load rs s).2.filterMap fun x => match x.2 with | .ok t => t.key | .error _ => none
  let sb := (s.core c.core).sb
  let together := ks.length == rs.length && ks.all fun k => decide (Config.hbmEnd ≤ 8 * k) && !isAway k && homeEp (8 * k) == homeEp (8 * ks.headD 0)
  if !together || ks.all (fun k => (sbView sb k).1 == 0xFF#8) then [] else ks.flatMap (sbTouching sb)

/-- The loads of an instruction and its result (R66, R120, R121). -/
def loadWords (s : State) (c : Ctx) (rd : Nat) (asm : Asm) (ea : Word) (rs : List WordReq) : State :=
  let p : Pend := ⟨asm, rd, c.npc, [], [], [], 1, 0, ea, []⟩
  match (if asm = .group then s.groupWaits c rs else []) with
  | i :: is => s.park c.slot (.drained (i :: is))
  | [] =>
  if s.slow then loadSlow s c p rs
  else loadAll c .load (fun s l f => s.askFar c p l f) rs s fun s vs => s.finish c rd (asm.result vs)

/-- A traversing thread's checks at the origin and its move to the owner of an address (R352), then the access. Where the thread has
landed with the translation of the address, its instruction is performed with that. -/
def moveOr (s : State) (c : Ctx) (ea : Word) (a : Access) (go : State → State) : State :=
  if c.t.ctx = 0 || (c.t.carries ea).isSome then go s else
  match s.miss c ea with
  | some s1 => s1.trapc c (walkCause (ea.toNat / 4096)) ea
  | none =>
    match s.origin c.core c.t.tenant ea.toNat a with
    | (s1, .error e) => s1.trapc c e ea
    | (s1, .ok t) => s1.orMove c ea t go

/-- A load of R66. -/
def load (s : State) (rd rs1 : BitVec 5) (imm : BitVec 12) (size : Nat) (signed : Bool) :
    Host.Outcome State Fault Refusal :=
  let d := s.latch.rd rd
  let a := s.latch.rs1 rs1
  issue s false [rs a, rdst d] fun s c =>
    let ea := c.x a + imm.signExtend 64
    if ea.toNat % size ≠ 0 then s.trapc c 0x03 ea else
    moveOr s c ea .load fun s =>
      match windowOf c.core ea.toNat with
      | some (.belay off) => if size = 8 then belayLd s c ea off d else s.trapc c (belayRefuse off) ea
      | _ =>
        let off := ea.toNat % 8
        loadWords s c d (.scalar size off signed) ea [⟨ea, ea, byteMask size off⟩]

def execLb (rd rs1 : BitVec 5) (imm : BitVec 12) (s : State) : Host.Outcome State Fault Refusal := load s rd rs1 imm 1 true
def execLh (rd rs1 : BitVec 5) (imm : BitVec 12) (s : State) : Host.Outcome State Fault Refusal := load s rd rs1 imm 2 true
def execLw (rd rs1 : BitVec 5) (imm : BitVec 12) (s : State) : Host.Outcome State Fault Refusal := load s rd rs1 imm 4 true
def execLd (rd rs1 : BitVec 5) (imm : BitVec 12) (s : State) : Host.Outcome State Fault Refusal := load s rd rs1 imm 8 true
def execLbu (rd rs1 : BitVec 5) (imm : BitVec 12) (s : State) : Host.Outcome State Fault Refusal := load s rd rs1 imm 1 false
def execLhu (rd rs1 : BitVec 5) (imm : BitVec 12) (s : State) : Host.Outcome State Fault Refusal := load s rd rs1 imm 2 false
def execLwu (rd rs1 : BitVec 5) (imm : BitVec 12) (s : State) : Host.Outcome State Fault Refusal := load s rd rs1 imm 4 false

/-- One word of a store: its address, the address a failure reports, the byte mask and the data in place. -/
structure WordPut where
  va : Word
  tval : Word
  mask : BitVec 8
  data : Word

/-- The store-limit check of R67 step 2. -/
def belowLimit (c : Ctx) (rs1 : Nat) (ea : Word) : Bool := rs1 == 2 && ea.ult c.t.sbound

/-- The plain stores of an instruction: every word is checked, in order, before any is written; then they enter the core's
store buffer as one entry (R67, R120, R290), whatever their homes. group: the words are one stg, which a local store performs at once
(R113). -/
def storeWords (s : State) (c : Ctx) (rs1 : Nat) (ws : List WordPut) (group : Bool := false) : State :=
  let rec checkAll : List WordPut → State → (State → List (Target × WordPut) → State) → State
    | [], s, k => k s []
    | w :: rest, s, k =>
      if belowLimit c rs1 w.va then s.trapc c 0x06 w.tval else
      match s.reach c w.va .store with
      | (s1, .error e) => s1.trapc c e w.tval
      | (s1, .ok (.belay off)) => s1.trapc c (belayRefuse off) w.tval
      | (s1, .ok t) => checkAll rest s1 fun s l => k s ((t, w) :: l)
  checkAll ws s fun s l =>
    if 16 ≤ (s.core c.core).sb.length then s.holdBack c.slot .bufferRoom else
    let words := l.map fun x => (x.1.key.getD 0, x.2.mask, x.2.data)
    let classes := l.map fun x => match x.1.place with | some p => p.2 | none => 0
    let whole := group && l.all fun x => match x.1 with | .store .. => true | _ => false
    let s1 : State := { s with nextId := s.nextId + 1 }
    (s1.modCore c.core fun k => { k with sb := k.sb ++ [⟨s.nextId, c.slot, words, whole, [], c.t.tenant, classes⟩] }).done c

/-- A store of R66. -/
def store (s : State) (rs2 rs1 : BitVec 5) (imm : BitVec 12) (size : Nat) : Host.Outcome State Fault Refusal :=
  let a := s.latch.rs1 rs1
  let b := s.latch.rs2 rs2
  issue s false [rs a, rs b] fun s c =>
    let ea := c.x a + imm.signExtend 64
    if ea.toNat % size ≠ 0 then s.trapc c 0x03 ea
    else if belowLimit c a ea then s.trapc c 0x06 ea
    else moveOr s c ea .store fun s =>
      match windowOf c.core ea.toNat with
      | some (.belay off) => if size = 8 then belaySd s c ea off (c.x b) else s.trapc c (belayRefuse off) ea
      | _ =>
        let off := ea.toNat % 8
        storeWords s c a [⟨ea, ea, byteMask size off, c.x b <<< (8 * off)⟩]

def execSb (rs2 rs1 : BitVec 5) (imm : BitVec 12) (s : State) : Host.Outcome State Fault Refusal := store s rs2 rs1 imm 1
def execSh (rs2 rs1 : BitVec 5) (imm : BitVec 12) (s : State) : Host.Outcome State Fault Refusal := store s rs2 rs1 imm 2
def execSw (rs2 rs1 : BitVec 5) (imm : BitVec 12) (s : State) : Host.Outcome State Fault Refusal := store s rs2 rs1 imm 4
def execSd (rs2 rs1 : BitVec 5) (imm : BitVec 12) (s : State) : Host.Outcome State Fault Refusal := store s rs2 rs1 imm 8

/-- N of a span field (R34). -/
def spanOf (span : BitVec 2) : Nat := 2 ^ span.toNat

/-- The offset of ldg and stg (R36). -/
def groupOffset (imm : BitVec 10) : Word := imm.signExtend 64 * 8

/-- The address of word k of a group at ea: past the end of a local store there is none (R120). -/
def groupWord (core : Nat) (ea : Word) (k : Nat) : Word :=
  let va := ea + BitVec.ofNat 64 (8 * k)
  match windowOf core ea.toNat, windowOf core va.toNat with
  | some (.store x _ _), some (.store y _ _) => if x = y then va else 0x7FFFFFFFFFF8#64
  | _, _ => va

/-- ldg (R120). -/
def execLdg (span : BitVec 2) (rd rs1 : BitVec 5) (imm : BitVec 10) (s : State) : Host.Outcome State Fault Refusal :=
  let n := spanOf span
  let d := s.latch.rd rd
  let a := s.latch.rs1 rs1
  issue s false [rs a, rdst d n] fun s c =>
    let ea := c.x a + groupOffset imm
    if ea.toNat % 8 ≠ 0 then s.trapc c 0x03 ea else
    moveOr s c ea .load fun s =>
      loadWords s c d .group ea ((List.range n).map fun k => ⟨groupWord c.core ea k, ea + BitVec.ofNat 64 (8 * k), 0xFF⟩)

/-- stg (R120). -/
def execStg (span : BitVec 2) (rs2 rs1 : BitVec 5) (imm : BitVec 10) (s : State) : Host.Outcome State Fault Refusal :=
  let n := spanOf span
  let a := s.latch.rs1 rs1
  let b := s.latch.rs2 rs2
  issue s false [rs a, rs b n] fun s c =>
    let ea := c.x a + groupOffset imm
    if ea.toNat % 8 ≠ 0 then s.trapc c 0x03 ea
    else if belowLimit c a ea then s.trapc c 0x06 ea
    else moveOr s c ea .store fun s =>
      storeWords s c a ((List.range n).map fun k =>
        ⟨groupWord c.core ea k, ea + BitVec.ofNat 64 (8 * k), 0xFF, c.x (b + k)⟩) true

/-- ldx (R121). -/
def execLdx (rd rs1 : BitVec 5) (s : State) : Host.Outcome State Fault Refusal :=
  let d := s.latch.rd rd
  let a := s.latch.rs1 rs1
  issue s false [rs a, rdst d] fun s c =>
    let ea := c.x a
    let off := ea.toNat % 8
    let w0 := ea - BitVec.ofNat 64 off
    moveOr s c ea .load fun s =>
      loadWords s c d (.unaligned off) ea
        (if off = 0 then [⟨w0, ea, 0xFF⟩]
         else [⟨w0, ea, (0xFF : BitVec 8) <<< off⟩, ⟨w0 + 8, w0 + 8, byteMask off 0⟩])

/-- stx (R122): rm is the mask register; with a mask of 0 it retires. A failing word reports the lowest byte written where it is
the first that is checked, and its own address where it is the second (DEDUCED, notes/assumptions/25.md). -/
def execStx (rs2 rs1 rm : BitVec 5) (s : State) : Host.Outcome State Fault Refusal :=
  let a := s.latch.rs1 rs1
  let b := s.latch.rs2 rs2
  let r := s.latch.rd rm
  issue s false [rs a, rs b, rs r] fun s c =>
    let m := (c.x r).setWidth 8
    let ea := c.x a
    if m = 0 then s.done c else
    let bits := (List.range 8).filter fun i => m.getLsbD i
    let lo := ea + BitVec.ofNat 64 (bits.headD 0)
    let off := ea.toNat % 8
    let w0 := ea - BitVec.ofNat 64 off
    let v := c.x b
    if belowLimit c a lo then s.trapc c 0x06 lo else
    moveOr s c lo .store fun s =>
      let m0 := m <<< off
      let m1 := m >>> (8 - off)
      let p0 : WordPut := ⟨w0, lo, m0, v <<< (8 * off)⟩
      let p1 : WordPut := ⟨w0 + 8, if m0 = 0 then lo else w0 + 8, m1, if off = 0 then 0 else v >>> (64 - 8 * off)⟩
      -- a word that holds no selected byte lies outside lo to hi, and is not checked
      let words := (if m0 ≠ 0 then [p0] else []) ++ (if off ≠ 0 ∧ m1 ≠ 0 then [p1] else [])
      storeWords s c 0 words

end Sys2Proof.Machine
end

