-- ==== Sys2Proof/Machine/Sync.lean ====
section
/-! DEFINITION. Sys2Proof/Machine/Sync.lean: what a home does for a thread's request (R94), and the instructions that act on one
word there: full/empty loads and stores, the tag operations (R270 to R273), waiting on an address and waking (R275 to R277). -/

namespace Sys2Proof.Machine

/-! At the home -/

/-- The new value an atomic writes (R278); floating-point adds round by RNE and set no flag (R280). -/
def amNew {n : Nat} (f : Fmt) (op : AmOp) (old b c : BitVec n) : BitVec n :=
  match op with
  | .add => old + b
  | .and => old &&& b
  | .or => old ||| b
  | .xor => old ^^^ b
  | .min => if b.slt old then b else old
  | .max => if old.slt b then b else old
  | .minn => if b.ult old then b else old
  | .maxn => if old.ult b then b else old
  | .swp => b
  | .cas => if old = c then b else old
  | .fadd | .faddc => BitVec.ofNat n (f.add .rne old.toNat b.toNat).bits

/-- A 64-bit or 32-bit atomic on the word as it stands: its new content and which bytes are written; off is the byte
offset of a 32-bit one (R279). -/
def amWord (op : AmOp) (wide : Bool) (off : Nat) (w b c : Word) : BitVec 8 × Word :=
  if wide then (0xFF#8, amNew f64 op w b c)
  else
    let new := amNew f32 op ((w >>> (8 * off)).setWidth 32) (b.setWidth 32) (c.setWidth 32)
    (byteMask 4 off, new.setWidth 64 <<< (8 * off))

/-- An atomic at its home, in one step (R279): the whole word as it was, or poison with the word unchanged. -/
def State.atomicHome (s : State) (op : AmOp) (wide : Bool) (ad : Nat) (b c : Word) : State × Except Nat Word :=
  match s.readWord (ad / 8) with
  | (s1, .error e) => (s1, .error e)
  | (s1, .ok w) =>
    let r := amWord op wide (ad % 8) w b c
    (s1.writeWord (ad / 8) r.1 r.2 none, .ok w)

/-- Waiters of the slice of word k: 256 at most (R276). -/
def State.watchFull (s : State) (k : Nat) : Bool :=
  decide (256 ≤ (s.watches.filter fun w => sliceOf (8 * w.key) == sliceOf (8 * k)).length)

/-- A request of a slot for one word is performed at its home (R94): what the home answers now, if it does. -/
def State.homeAct (s : State) (slot : Nat) : HomeOp → State × Option (Except Nat Word)
  | .atomic op wide _ ad a b => match s.atomicHome op wide ad a b with | (s1, r) => (s1, some r)
  | .tagrd k => (s, some (.ok (ofBool (s.mem.full k))))
  | .tagset k b => (s.changeTag k b, some (.ok (ofBool (s.mem.full k))))
  | .wait k old =>
    match s.readWord k with
    | (s1, .error e) => (s1, some (.error e))
    | (s1, .ok v) =>
      if v ≠ old || s1.watchFull k then (s1, some (.ok v)) else ({ s1 with watches := s1.watches ++ [⟨some slot, 0, 0, k⟩] }, none)
  | .wake k n =>
    let out := (s.watches.filter (·.key == k)).take n.toNat
    (out.foldl (fun (s : State) w => State.releaseWatch { s with watches := s.watches.erase w } w) s,
      some (.ok (BitVec.ofNat 64 out.length)))
  | .put ident k v =>
    let s1 := s.writeWord k 0xFF#8 v (some true)
    ({ s1 with flights := s1.flights.filter (·.ident != ident) }, none)
  | .sync kind k v => (s.arriveHeld { slot := slot, key := k, kind := kind, data := v }, none)
  | .load _ | .store .. => (s, none)

/-! The requests of an instruction -/

/-- An access at one word by its home, outside the store buffer: the checks of R67 steps 1 and 3, the move of a traversing
thread (R352), the thread's own earlier stores there (R118, R292); then here, with the memory address and its page's class. far:
the access leads out of the package (R282, R412). -/
def atHome (s : State) (c : Ctx) (ea : Word) (a : Access) (far : State → Target → State) (here : State → Nat → Nat → State) : State :=
  if ea.toNat % 8 ≠ 0 then s.trapc c 0x03 ea else
  moveOr s c ea a fun s =>
    match s.reach c ea a with
    | (s1, .error e) => s1.trapc c e ea
    | (s1, .ok (.belay off)) => s1.trapc c (belayRefuse off) ea
    | (s1, .ok t) =>
      match s1.ownBefore c.core c.slot (t.key.getD 0) with
      | [] => (match t.place with | some p => here s1 p.1 p.2 | none => far s1 t)
      | ids => s1.park c.slot (.drained ids)

/-- The request of a form waits for its reply. -/
def syncPend (c : Ctx) (asm : Asm) (rd mode k : Nat) (ea : Word) : Pend :=
  ⟨asm, rd, c.npc, [k], [], [], mode, 0, ea, []⟩

/-- The request of a form leaves the package: code numbers the form, as the peer is asked for it (R282). -/
def askAway (c : Ctx) (asm : Asm) (rd mode : Nat) (ea : Word) (what : OutsideOp) (s : State) (t : Target) : State :=
  (s.request c (syncPend c asm rd mode (farKey 0) ea)).leave t what

/-- A form's request at the home of its word: answered in this step, or with State.slow sent there (R94). -/
def viaHome (s : State) (c : Ctx) (p : Pend) (cls : Nat) (op : HomeOp) : State :=
  if s.slow then (s.request c p).sendHome c.core c.slot c.t.tenant [cls] op
  else match s.homeAct c.slot op with
    | (s1, some (.ok v)) => s1.finish c p.rd (p.asm.result [v])
    | (s1, some (.error e)) => s1.trapc c e p.ea
    | (s1, none) => s1.request c p

/-- A synchronising form's request: it may be held at the home (R271), so that its answer finds the request outstanding. -/
def viaHold (s : State) (c : Ctx) (p : Pend) (cls : Nat) (kind k : Nat) (v : Word) : State :=
  let s1 := s.request c p
  if s.slow then s1.sendHome c.core c.slot c.t.tenant [cls] (.sync kind k v)
  else (s1.arriveHeld { slot := c.slot, key := k, kind := kind, data := v, cls := cls }).reply c.slot

/-- lde and ldt (R270): kind 0 and 1 of a held request. -/
def syncLoad (s : State) (rd rs1 : BitVec 5) (kind : Nat) : Host.Outcome State Fault Refusal :=
  let d := s.latch.rd rd
  let a := s.latch.rs1 rs1
  issue s false [rs a, rdst d] fun s c =>
    let ea := c.x a
    atHome s c ea (if kind = 0 then .tag else .readWrite) (askAway c .group d 1 ea (.sync c.slot kind 0)) fun s ad cls =>
      viaHold s c (syncPend c .group d 4 (ad / 8) ea) cls kind (ad / 8) 0

/-- lde (R270): waits for a full word and reads it. -/
def execLde (rd rs1 : BitVec 5) (s : State) : Host.Outcome State Fault Refusal := syncLoad s rd rs1 0

/-- ldt (R270): waits for a full word, reads it and empties it. -/
def execLdt (rd rs1 : BitVec 5) (s : State) : Host.Outcome State Fault Refusal := syncLoad s rd rs1 1

/-- stf (R270): after the thread's earlier accesses, waits for an empty word, writes it and fills it. -/
def execStf (rs1 rs2 : BitVec 5) (s : State) : Host.Outcome State Fault Refusal :=
  let a := s.latch.rs1 rs1
  let b := s.latch.rs2 rs2
  issue s false [rs a, rs b] fun s c =>
    let ea := c.x a
    if ea.toNat % 8 = 0 && belowLimit c a ea then s.trapc c 0x06 ea else
    atHome s c ea .readWrite (fun s t => s.release c fun s => askAway c .none 0 1 ea (.sync c.slot 2 (c.x b)) s t) fun s ad cls =>
      s.release c fun s => viaHold s c (syncPend c .none 0 4 (ad / 8) ea) cls 2 (ad / 8) (c.x b)

/-- stp (R270): after the thread's earlier accesses, writes the word and fills it; it retires when it is sent (R273). -/
def execStp (rs1 rs2 : BitVec 5) (s : State) : Host.Outcome State Fault Refusal :=
  let a := s.latch.rs1 rs1
  let b := s.latch.rs2 rs2
  issue s false [rs a, rs b] fun s c =>
    let ea := c.x a
    if ea.toNat % 8 = 0 && belowLimit c a ea then s.trapc c 0x06 ea else
    atHome s c ea .readWrite (fun s t => s.release c fun s => (s.leaveWrite c.slot t (.sync c.slot 3 (c.x b)) (c.x b)).done c) fun s ad cls =>
      s.release c fun s =>
        if s.slow then
          (({ s with flights := s.flights ++ [⟨s.nextId, c.slot, ad / 8, c.x b, false, none, none, none⟩] } : State).sendHome c.core c.slot c.t.tenant
            [cls] (.put s.nextId (ad / 8) (c.x b))).done c
        else (s.writeWord (ad / 8) 0xFF#8 (c.x b) (some true)).done c

/-- tagrd (R270): the word's tag. -/
def execTagrd (rd rs1 : BitVec 5) (s : State) : Host.Outcome State Fault Refusal :=
  let d := s.latch.rd rd
  let a := s.latch.rs1 rs1
  issue s false [rs a, rdst d] fun s c =>
    let ea := c.x a
    atHome s c ea .tag (askAway c .group d 1 ea (.sync c.slot 4 0)) fun s ad cls =>
      viaHome s c (syncPend c .group d 1 (ad / 8) ea) cls (.tagrd (ad / 8))

/-- tagset (R270): the old tag to rd, the tag from bit 0 of X[rs2]. -/
def execTagset (rd rs1 rs2 : BitVec 5) (s : State) : Host.Outcome State Fault Refusal :=
  let d := s.latch.rd rd
  let a := s.latch.rs1 rs1
  let b := s.latch.rs2 rs2
  issue s false [rs a, rs b, rdst d] fun s c =>
    let ea := c.x a
    atHome s c ea .readWrite (askAway c .group d 1 ea (.sync c.slot 5 (c.x b))) fun s ad cls =>
      viaHome s c (syncPend c .group d 1 (ad / 8) ea) cls (.tagset (ad / 8) ((c.x b).getLsbD 0))

/-- wait.a (R275): parks until the word differs from X[rs2] or a wake releases it; a full watch table releases it at
once. -/
def execWaitA (rd rs1 rs2 : BitVec 5) (s : State) : Host.Outcome State Fault Refusal :=
  let d := s.latch.rd rd
  let a := s.latch.rs1 rs1
  let b := s.latch.rs2 rs2
  issue s false [rs a, rs b, rdst d] fun s c =>
    let ea := c.x a
    atHome s c ea .wait (askAway c .group d 13 ea (.sync c.slot 6 (c.x b))) fun s ad cls =>
      viaHome s c (syncPend c .group d 5 (ad / 8) ea) cls (.wait (ad / 8) (c.x b))

/-- wake (R277): after the thread's earlier accesses, releases the oldest X[rs2] waiters on the word; their number to
rd. -/
def execWake (rd rs1 rs2 : BitVec 5) (s : State) : Host.Outcome State Fault Refusal :=
  let d := s.latch.rd rd
  let a := s.latch.rs1 rs1
  let b := s.latch.rs2 rs2
  issue s false [rs a, rs b, rdst d] fun s c =>
    let ea := c.x a
    atHome s c ea .wake (fun s t => s.release c fun s => askAway c .group d 1 ea (.sync c.slot 7 (c.x b)) s t) fun s ad cls =>
      s.release c fun s => viaHome s c (syncPend c .group d 1 (ad / 8) ea) cls (.wake (ad / 8) (c.x b))

end Sys2Proof.Machine
end

