-- ==== Sys2Proof/Machine/Atomic.lean ====
section
/-! DEFINITION. Sys2Proof/Machine/Atomic.lean: the atomics (R278 to R282). -/

namespace Sys2Proof.Machine

/-- How the old value is widened (R279). -/
def amAsm (op : AmOp) (wide : Bool) (off : Nat) : Asm :=
  if wide then .scalar 8 0 false
  else match op with
    | .fadd | .faddc => .boxed off
    | _ => .scalar 4 off true

/-- The cause an atomic raises at an address above those translated (R279). -/
def amWindow (core : Nat) (ea : Word) : Option Nat :=
  if ea.toNat < Config.ownBase then none
  else if 0x800000000000 ≤ ea.toNat then some 0x07
  else match windowOf core ea.toNat with
    | some (.belay off) => some (belayRefuse off)
    | some _ => some 0x08
    | none => some 0x07

/-- An atomic instruction (R279). -/
def amo (s : State) (op : AmOp) (size ar : BitVec 1) (rd rs2 rs1 : BitVec 5) : Host.Outcome State Fault Refusal :=
  let d := s.latch.rd rd
  let a := s.latch.rs1 rs1
  let b := s.latch.rs2 rs2
  let wide := size == 1#1
  let dst := if op = .cas then rmod d else rdst d
  issue s false [rs a, rs b, dst] fun s c =>
    let ea := c.x a
    let cmp := if op = .cas then c.x d else 0
    if ea.toNat % (if wide then 8 else 4) ≠ 0 then s.trapc c 0x03 ea else
    match amWindow c.core ea with
    | some e => s.trapc c e ea
    | none =>
      let rel (go : State → State) (s : State) : State := if ar = 1#1 then s.release c go else go s
      moveOr s c ea .atomic fun s =>
        match s.reach c ea .atomic with
        | (s1, .error e) => s1.trapc c e ea
        | (s1, .ok t) =>
          match s1.ownBefore c.core c.slot (t.key.getD 0) with
          | i :: is => s1.park c.slot (.drained (i :: is))
          | [] =>
            match t.place with
            | some (ad, cls) => rel (fun s => viaHome s c (syncPend c (amAsm op wide (ad % 8)) d 1 (ad / 8) ea) cls
                (.atomic op wide (ar == 1#1) ad (c.x b) cmp)) s1
            | none =>
              -- the peer performs it, and amfadd.c as amfadd (R282)
              let op' := if op = .faddc then .fadd else op
              rel (fun s => askAway c (amAsm op wide (ea.toNat % 8)) d 1 ea (.atomic c.slot op' wide (c.x b) cmp) s t) s1

/-- amadd (R278): writes the sum. -/
def execAmadd (size ar : BitVec 1) (rd rs2 rs1 : BitVec 5) (s : State) : Host.Outcome State Fault Refusal :=
  amo s .add size ar rd rs2 rs1

/-- amand (R278): writes and. -/
def execAmand (size ar : BitVec 1) (rd rs2 rs1 : BitVec 5) (s : State) : Host.Outcome State Fault Refusal :=
  amo s .and size ar rd rs2 rs1

/-- amor (R278): writes or. -/
def execAmor (size ar : BitVec 1) (rd rs2 rs1 : BitVec 5) (s : State) : Host.Outcome State Fault Refusal :=
  amo s .or size ar rd rs2 rs1

/-- amxor (R278): writes exclusive or. -/
def execAmxor (size ar : BitVec 1) (rd rs2 rs1 : BitVec 5) (s : State) : Host.Outcome State Fault Refusal :=
  amo s .xor size ar rd rs2 rs1

/-- ammin (R278): writes the signed minimum. -/
def execAmmin (size ar : BitVec 1) (rd rs2 rs1 : BitVec 5) (s : State) : Host.Outcome State Fault Refusal :=
  amo s .min size ar rd rs2 rs1

/-- ammax (R278): writes the signed maximum. -/
def execAmmax (size ar : BitVec 1) (rd rs2 rs1 : BitVec 5) (s : State) : Host.Outcome State Fault Refusal :=
  amo s .max size ar rd rs2 rs1

/-- amminn (R278): writes the unsigned minimum. -/
def execAmminn (size ar : BitVec 1) (rd rs2 rs1 : BitVec 5) (s : State) : Host.Outcome State Fault Refusal :=
  amo s .minn size ar rd rs2 rs1

/-- ammaxn (R278): writes the unsigned maximum. -/
def execAmmaxn (size ar : BitVec 1) (rd rs2 rs1 : BitVec 5) (s : State) : Host.Outcome State Fault Refusal :=
  amo s .maxn size ar rd rs2 rs1

/-- amswp (R278): writes X[rs2]. -/
def execAmswp (size ar : BitVec 1) (rd rs2 rs1 : BitVec 5) (s : State) : Host.Outcome State Fault Refusal :=
  amo s .swp size ar rd rs2 rs1

/-- amcas (R278): writes X[rs2] if the old value equals X[rd]. -/
def execAmcas (size ar : BitVec 1) (rd rs2 rs1 : BitVec 5) (s : State) : Host.Outcome State Fault Refusal :=
  amo s .cas size ar rd rs2 rs1

/-- amfadd (R278): writes the floating-point sum (R280). -/
def execAmfadd (size ar : BitVec 1) (rd rs2 rs1 : BitVec 5) (s : State) : Host.Outcome State Fault Refusal :=
  amo s .fadd size ar rd rs2 rs1

/-- amfadd.c (R278): writes the floating-point sum, which may combine (R280). -/
def execAmfaddC (size ar : BitVec 1) (rd rs2 rs1 : BitVec 5) (s : State) : Host.Outcome State Fault Refusal :=
  amo s .faddc size ar rd rs2 rs1

end Sys2Proof.Machine
end

