-- ==== Sys2Proof/Machine/BelaySteps.lean ====
section
/-! DEFINITION. Sys2Proof/Machine/BelaySteps.lean: the belay unit's own steps (R333 to R335): a load or store of the belay
window that reached the unit and has not acted, and the traffic between clusters. With State.slow false a load or store acts
in its issuing step (Belay.lean). -/

namespace Sys2Proof.Machine

/-- The slot waits in one of its cluster's barriers, mutexes or event lines. -/
def State.belayQueued (s : State) (slot : Nat) : Bool :=
  let c := s.cluster (clusterOf (coreOf slot))
  c.barriers.any (fun b => b.2.waiters.any (·.slot == slot)) || c.mutexes.any (fun m => m.2.waiters.contains slot) ||
  c.events.any fun e => e.2.waiters.contains slot

/-- The unit's word that a slot's outstanding request names, until the unit has acted on it; a store's value with it. -/
def State.belayAsked (s : State) (slot : Nat) : Option (BelayOp × Option Word) :=
  match (s.thread? slot).bind (·.pend) with
  | some p =>
    if p.mode ≠ 2 || !p.bad.isEmpty || p.got.any (·.1 == 0) || s.belayQueued slot then none
    else (belayAt (p.ea.toNat - Config.belayBase)).map fun op => (op, (p.got.find? (·.1 == 1)).map (·.2))
  | none => none

/-- The unit's reply reaches the slot: its instruction ends, and its next issues in a later cycle (R75, R315). -/
def State.belayReply (s : State) (slot : Nat) (r : Except Nat Word) : State :=
  if s.replyLate slot then s.answer slot 0 r else ((s.answer slot 0 r).reply slot).landNow slot

/-- A load acts at the unit: its value, where it has one, is the reply. -/
def State.belayAct (s : State) (slot : Nat) (op : BelayOp) : State :=
  if s.belayAsked slot ≠ some (op, none) then s
  else if (match op with | .barWait i | .barArrive i => !s.arrivalOk slot i | _ => false) then
    s.belayReply slot (.error 0x08)
  else match s.belayLoad slot op with
  | (s1, some v) => s1.belayReply slot (.ok v)
  | (s1, none) => s1

/-- A store of a cluster acts at the unit: the first slot that asked for it. -/
def State.belayPut (s : State) (cl : Nat) (op : BelayOp) (v : Word) : State :=
  match s.threads.find? fun p => clusterOf (coreOf p.1) == cl && !isOpt (coreOf p.1) &&
      decide (s.belayAsked p.1 = some (op, some v)) with
  | some (slot, _) => (s.belayStore slot v op).1.belayReply slot (.ok 0)
  | none => s

/-- BARRIER_CFG_WRITE (R333). -/
def execBarrierCfgWrite (cluster idx : Nat) (v : Word) (s : State) : Host.Outcome State Fault Refusal :=
  event s fun s => s.belayPut cluster (.barCfg idx) v

/-- BARRIER_ARRIVE_WAIT (R333). -/
def execBarrierArriveWait (slot idx : Nat) (s : State) : Host.Outcome State Fault Refusal :=
  event s fun s => s.belayAct slot (.barWait idx)

/-- BARRIER_ARRIVE (R333). -/
def execBarrierArrive (slot idx : Nat) (s : State) : Host.Outcome State Fault Refusal :=
  event s fun s => s.belayAct slot (.barArrive idx)

/-- BARRIER_CHILD_ARRIVAL (R333): it counts in the parent's phase, or is refused when the parent's cluster is another
tenant's or its n is 0; then the child stays closed. -/
def execBarrierChildArrival (pkt : Nat) (s : State) : Host.Outcome State Fault Refusal :=
  event s fun s =>
    match s.packet? pkt with
    | none => s
    | some p =>
      match p.payload with
      | .childArrival tenant cl i fromCl fromIdx =>
        if !p.landed then s else
        let s1 := s.dropPacket pkt
        let b := (s1.cluster cl).barrier i
        if b.n = 0 || !(s1.tenant tenant).clusters.getLsbD cl then s1.post tenant 0 0 0 4 0 0
        else (s1.setBarrier cl i { b.counted with
          children := b.children ++ [(fromCl, fromIdx, b.arrivalPhase)] }).settleBarrier cl i
      | _ => s

/-- BARRIER_PARENT_RELEASE (R333): the closed barrier fires. -/
def execBarrierParentRelease (pkt : Nat) (s : State) : Host.Outcome State Fault Refusal :=
  event s fun s =>
    match s.packet? pkt with
    | none => s
    | some p =>
      match p.payload with
      | .parentRelease cl i =>
        if !p.landed then s else
        let s1 := s.dropPacket pkt
        if ((s1.cluster cl).barrier i).closing then (s1.fireBarrier cl i).settleBarrier cl i else s1
      | _ => s

/-- MUTEX_ACQUIRE (R334). -/
def execMutexAcquire (slot idx : Nat) (s : State) : Host.Outcome State Fault Refusal :=
  event s fun s => s.belayAct slot (.mutAcquire idx)

/-- MUTEX_TRY (R334). -/
def execMutexTry (slot idx : Nat) (s : State) : Host.Outcome State Fault Refusal :=
  event s fun s => s.belayAct slot (.mutTry idx)

/-- MUTEX_RELEASE (R334). -/
def execMutexRelease (slot idx : Nat) (s : State) : Host.Outcome State Fault Refusal :=
  event s fun s =>
    match s.belayAsked slot with
    | some (.mutRelease i, some _) =>
      if i ≠ idx then s else
      match s.mutexRelease slot idx with
      | (s1, true) => s1.belayReply slot (.ok 0)
      | (s1, false) => s1.belayReply slot (.error 0x08)
    | _ => s

/-- EVENT_WAIT (R335). -/
def execEventWait (slot idx : Nat) (s : State) : Host.Outcome State Fault Refusal :=
  event s fun s => s.belayAct slot (.evWait idx)

/-- EVENT_SET (R335). -/
def execEventSet (cluster idx : Nat) (v : Word) (s : State) : Host.Outcome State Fault Refusal :=
  event s fun s => s.belayPut cluster (.evSet idx) v

/-- EVENT_CLEAR (R335). -/
def execEventClear (cluster idx : Nat) (s : State) : Host.Outcome State Fault Refusal :=
  event s fun s =>
    match s.threads.find? fun p => clusterOf (coreOf p.1) == cluster && !isOpt (coreOf p.1) &&
        (match s.belayAsked p.1 with | some (.evClear i, some _) => i == idx | _ => false) with
    | some (slot, _) => (s.belayStore slot 0 (.evClear idx)).1.belayReply slot (.ok 0)
    | none => s

/-- EVENT_CFG_WRITE (R335). -/
def execEventCfgWrite (cluster idx : Nat) (v : Word) (s : State) : Host.Outcome State Fault Refusal :=
  event s fun s => s.belayPut cluster (.evCfg idx) v

/-- EVENT_FORWARDED_SET (R335): the forwarded set is applied at its line. -/
def execEventForwardedSet (pkt : Nat) (s : State) : Host.Outcome State Fault Refusal :=
  event s fun s =>
    match s.packet? pkt with
    | none => s
    | some p =>
      match p.payload with
      | .forwardedSet cl i v => if p.landed then (s.dropPacket pkt).eventSet cl i v else s
      | _ => s

end Sys2Proof.Machine
end

