-- ==== Sys2Proof/WellFormed.lean ====
section
/-! DEFINITION. Sys2Proof/WellFormed.lean: which terms of Instr name an instruction or a step of the K9: the encodings of
fence.s that R36 calls illegal are none, and a step names units that exist (R2, R3, R20). -/

namespace Sys2Proof

/-- A thread slot by its slotid value (R77): bit 20 clear, the slot address of R3; bit 20 set, slice << 6 | slot. -/
def isSlot (n : Nat) : Bool := decide (n < 0x108000)

/-- A core: 0 to 16,383 compute, 16,384 + slice optimiser (R20). -/
def isCore (n : Nat) : Bool := decide (n < 16896)

/-- A compute die (R2). -/
def isDie (n : Nat) : Bool := decide (n < 8)

/-- An octet of the package (R20). -/
def isOctet (n : Nat) : Bool := decide (n < 2048)

/-- A cluster of the package (R20). -/
def isCluster (n : Nat) : Bool := decide (n < 128)

/-- A host work queue (R404). -/
def isQueue (n : Nat) : Bool := decide (n < 4096)

/-- A tenant (R407). -/
def isTenant (n : Nat) : Bool := decide (n < 16)

/-- A traffic class (R97). -/
def isClass (n : Nat) : Bool := decide (n < 16)

/-- A router: die * 48 + row * 8 + column of a compute die's mesh of 6 rows by 8 columns, and the col die, 384 (R96). -/
def isNode (n : Nat) : Bool := decide (n < 385)

/-- An output of a router: 0 local, 1 west, 2 east, 3 north, 4 south, 5 the link to another die; at the col die, 8 + die (R96,
R103). -/
def isPort (n : Nat) : Bool := decide (n < 16)

/-- A register of the step REGISTER_WRITE names a queue, tenant or slot that exists. -/
def regNameWf : RegName → Bool
  | .queueCompletion q => isQueue q
  | .queueChead q => isQueue q
  | .tenantCsr t _ => isTenant t
  | .threadCsr slot _ => isSlot slot
  | .mailboxWord i => decide (i < 16)

/-- The part a home performs names a core that exists; an entry holds at most eight words (R120, R290). -/
def homeReqWf : HomeReq → Bool
  | .buffered core _ idx => isCore core && decide (idx < 8)
  | .packet _ => true

/-- A link that exists. -/
def linkWf : LinkName → Bool
  | .dieLink node port => isNode node && isPort port
  | .peer _ => true
  | .cxl => true

/-- The instruction is one that the table lists: for an encoded instruction, its fields select no illegal encoding; for a
step, the units it names exist. -/
def Instr.wf : Instr → Bool
  | .lb .. => true
  | .lh .. => true
  | .lw .. => true
  | .ld .. => true
  | .lbu .. => true
  | .lhu .. => true
  | .lwu .. => true
  | .fence .. => true
  | .fenceI => true
  | .addi .. => true
  | .slti .. => true
  | .sltiu .. => true
  | .xori .. => true
  | .ori .. => true
  | .andi .. => true
  | .slli .. => true
  | .srli .. => true
  | .srai .. => true
  | .auipc .. => true
  | .addiw .. => true
  | .slliw .. => true
  | .srliw .. => true
  | .sraiw .. => true
  | .sb .. => true
  | .sh .. => true
  | .sw .. => true
  | .sd .. => true
  | .add .. => true
  | .sub .. => true
  | .sll .. => true
  | .slt .. => true
  | .sltu .. => true
  | .xor .. => true
  | .srl .. => true
  | .sra .. => true
  | .or .. => true
  | .and .. => true
  | .mul .. => true
  | .mulh .. => true
  | .mulhsu .. => true
  | .mulhu .. => true
  | .div .. => true
  | .divu .. => true
  | .rem .. => true
  | .remu .. => true
  | .lui .. => true
  | .addw .. => true
  | .subw .. => true
  | .sllw .. => true
  | .srlw .. => true
  | .sraw .. => true
  | .mulw .. => true
  | .divw .. => true
  | .divuw .. => true
  | .remw .. => true
  | .remuw .. => true
  | .beq .. => true
  | .bne .. => true
  | .blt .. => true
  | .bge .. => true
  | .bltu .. => true
  | .bgeu .. => true
  | .jalr .. => true
  | .jal .. => true
  | .ecall => true
  | .ebreak => true
  | .csrrw .. => true
  | .csrrs .. => true
  | .csrrc .. => true
  | .csrrwi .. => true
  | .csrrsi .. => true
  | .csrrci .. => true
  | .fadd .. => true
  | .fsub .. => true
  | .fmul .. => true
  | .fmac .. => true
  | .fmsc .. => true
  | .fmin .. => true
  | .fmax .. => true
  | .fdiv .. => true
  | .fsqrt .. => true
  | .frcpe .. => true
  | .frsqe .. => true
  | .fsgnj .. => true
  | .fsgnjn .. => true
  | .fsgnjx .. => true
  | .fsum .. => true
  | .fmaxa .. => true
  | .spanAdd .. => true
  | .spanSub .. => true
  | .spanMin .. => true
  | .spanMax .. => true
  | .spanMaxn .. => true
  | .spanMul .. => true
  | .spanMulh .. => true
  | .spanAnd .. => true
  | .spanOr .. => true
  | .spanXor .. => true
  | .spanSll .. => true
  | .spanSrl .. => true
  | .spanSra .. => true
  | .fsl .. => true
  | .fsr .. => true
  | .gmax .. => true
  | .cmpeq .. => true
  | .cmplt .. => true
  | .cmple .. => true
  | .cmpltn .. => true
  | .cvt .. => true
  | .cvtr .. => true
  | .clz .. => true
  | .popc .. => true
  | .abs .. => true
  | .neg .. => true
  | .perm .. => true
  | .gsum .. => true
  | .fclass .. => true
  | .lmsk .. => true
  | .lexp .. => true
  | .qenc .. => true
  | .qdec .. => true
  | .qfp8 .. => true
  | .qfp8x .. => true
  | .dfp8 .. => true
  | .dfp8x .. => true
  | .tabld .. => true
  | .ldg .. => true
  | .stg .. => true
  | .lde .. => true
  | .ldt .. => true
  | .stf .. => true
  | .stp .. => true
  | .tagrd .. => true
  | .tagset .. => true
  | .waitA .. => true
  | .wake .. => true
  | .ldx .. => true
  | .stx .. => true
  | .amadd .. => true
  | .amand .. => true
  | .amor .. => true
  | .amxor .. => true
  | .ammin .. => true
  | .ammax .. => true
  | .amminn .. => true
  | .ammaxn .. => true
  | .amswp .. => true
  | .amcas .. => true
  | .amfadd .. => true
  | .amfaddC .. => true
  | .fenceS kind scope => decide (kind ≠ 3#2) && decide (scope ≠ 7#3)
  | .fenceE => true
  | .pbind .. => true
  | .punb .. => true
  | .pstat .. => true
  | .psave .. => true
  | .prest .. => true
  | .pskip .. => true
  | .isect .. => true
  | .tlook .. => true
  | .tins .. => true
  | .tinv .. => true
  | .reach .. => true
  | .when .. => true
  | .pitch .. => true
  | .mmBf16 .. => true
  | .mmF16 .. => true
  | .mmE4m3 .. => true
  | .mmE5m2 .. => true
  | .mmE4m3E5m2 .. => true
  | .mmE5m2E4m3 .. => true
  | .mmC8 .. => true
  | .mmBf16C8 .. => true
  | .mmE2m1 .. => true
  | .mmI8 .. => true
  | .mmF32x .. => true
  | .mbload .. => true
  | .mst .. => true
  | .mwait .. => true
  | .mpoll .. => true
  | .mrestart .. => true
  | .mclr .. => true
  | .hcopy .. => true
  | .hcopy2 .. => true
  | .hcopyn .. => true
  | .hgath .. => true
  | .hscat .. => true
  | .hpair .. => true
  | .hwait .. => true
  | .hpoll .. => true
  | .jobint .. => true
  | .salloc .. => true
  | .sfree .. => true
  | .sset .. => true
  | .supd .. => true
  | .sroll .. => true
  | .sscale .. => true
  | .sscaleH .. => true
  | .sread .. => true
  | .sgen .. => true
  | .sflush .. => true
  | .sscaleG .. => true
  | .spawn .. => true
  | .exit => true
  | .yield => true
  | .trav .. => true
  | .msgReg .. => true
  | .msgDec .. => true
  | .ctrSet .. => true
  | .ctrRd .. => true
  | .hcall .. => true
  | .hret .. => true
  | .xempty .. => true
  | .ixret => true
  | .ropeForm .. => true
  | .ropeEnd => true
  | .unclip .. => true
  | .clip .. => true
  | .collRed .. => true
  | .gqPush .. => true
  | .gqPop .. => true
  | .gqWin .. => true
  | .tret .. => true
  | .xret => true
  | .beat => true
  | .cairnOpen .. => true
  | .cairnClose .. => true
  | .hintRegion => true
  | .packageReset => true
  | .cxlLinkReset => true
  | .powerMeasure _ => true
  | .thermalThrottle => true
  | .thermalTrip => true
  | .patrolScrub _ => true
  | .queueDoorbell q _ => isQueue q
  | .queueEnable q _ => isQueue q
  | .registerWrite r _ => regNameWf r
  | .dispatchRecord => true
  | .launchAccept die => isDie die
  | .launchEligible _ => true
  | .dependenceReread _ => true
  | .launchPlace die => isDie die
  | .threadStart slot => isSlot slot
  | .launchComplete _ => true
  | .createTenant t _ _ _ => isTenant t
  | .assign t _ _ => isTenant t
  | .writeAccessTableWord _ _ _ => true
  | .writeRouteEntry t cls _ => isTenant t && decide (cls < 16)
  | .bindQueue q t => isQueue q && isTenant t
  | .setHdmRange range _ _ _ t cls => decide (range < 16) && isTenant t && isClass cls
  | .resetTenant t => isTenant t
  | .destroyTenant t => isTenant t
  | .setPowerLimit _ => true
  | .haltOrRelease _ _ _ => true
  | .setBivouac t _ _ => isTenant t
  | .hostRead _ len => decide (0 < len)
  | .hostWrite _ bytes => decide (0 < bytes.length)
  | .spdmCertificate => true
  | .spdmMeasurements => true
  | .peerAccess port tenant cls _ _ => decide (port < 24) && isTenant tenant && isClass cls
  | .linkReplay link => linkWf link
  | .linkFailure link => linkWf link
  | .routerForward node port _ => isNode node && isPort port
  | .combineWindowClose node _ _ => isNode node
  | .ageIncrement _ => true
  | .depotSpill node port => isNode node && isPort port
  | .depotReinject node port => isNode node && isPort port
  | .homeAccess r => homeReqWf r
  | .memoryReply slot _ => isSlot slot
  | .holdRetry slot => isSlot slot
  | .messageArrival _ => true
  | .messageRetry _ => true
  | .registerDelivery core idx => isCore core && decide (idx < 2048)
  | .counterDecrement core => isCore core
  | .taskStart core => isCore core
  | .handlerStart core => isCore core
  | .traverseLanding _ => true
  | .bivouacRefill core => isCore core
  | .arrivalResend _ => true
  | .threadWake slot => isSlot slot
  | .jobAccept octet _ => isOctet octet
  | .haulJobStart octet _ => isOctet octet
  | .haulJobFinal octet => isOctet octet
  | .mbloadJob octet _ => isOctet octet
  | .multiplyJob octet _ => isOctet octet
  | .mstJob octet _ => isOctet octet
  | .mclrJob octet => isOctet octet
  | .matrixJobFinal octet => isOctet octet
  | .summitUpdateApply _ => true
  | .userInterruptDelivery slot => isSlot slot
  | .portPrefetch slot port => isSlot slot && decide (port < 16)
  | .portPushPerform slot port => isSlot slot && decide (port < 16)
  | .pitchReplay slot => isSlot slot
  | .ropeStep _ => true
  | .barrierCfgWrite cluster idx _ => isCluster cluster && decide (idx < 32)
  | .barrierArriveWait slot idx => isSlot slot && decide (idx < 32)
  | .barrierArrive slot idx => isSlot slot && decide (idx < 32)
  | .barrierChildArrival _ => true
  | .barrierParentRelease _ => true
  | .mutexAcquire slot idx => isSlot slot && decide (idx < 32)
  | .mutexTry slot idx => isSlot slot && decide (idx < 32)
  | .mutexRelease slot idx => isSlot slot && decide (idx < 32)
  | .eventWait slot idx => isSlot slot && decide (idx < 64)
  | .eventSet cluster idx _ => isCluster cluster && decide (idx < 64)
  | .eventClear cluster idx => isCluster cluster && decide (idx < 64)
  | .eventCfgWrite cluster idx _ => isCluster cluster && decide (idx < 64)
  | .eventForwardedSet _ => true
  | .collRoundComplete _ _ => true
  | .collRoundFail _ => true
  | .gqCreditGrant t q => isTenant t && decide (q < 65536)
  | .gqEntryArrival _ => true
  | .cairnBackgroundCapture t _ => isTenant t
  | .pageWalk cluster t _ => isCluster cluster && isTenant t
  | .walkComplete die _ => isDie die
  | .stlbinv t _ => isTenant t
  | .sprePark die => isDie die
  | .spreSpill die => isDie die
  | .spreSpillStores die => isDie die
  | .spreResume die => isDie die
  | .spreHalt die => isDie die
  | .spreReleaseHalt die => isDie die
  | .sxvalRead core => isCore core
  | .sxvalWrite core _ => isCore core
  | .activationStart core => isCore core
  | .watchdogFire _ => true
  | .spawnReply slot => isSlot slot
  | .peerGroupLeave _ _ => true

end Sys2Proof
end

