-- ==== Sys2Proof/Decode.lean ====
section
/-! DEFINITION. Sys2Proof/Decode.lean: the decoder of one 32-bit word (R30 to R37, R46 to R52, R63 to R76) and, after it,
the encoder. A prefixed instruction (R41) is a sequence of words, each decoded by itself here. -/

namespace Sys2Proof

/-- The fields on whose boundaries every layout of R34 to R37 and R63 is cut, from high bits to low:
[31:30], [29], [28:25], [24:20], [19:15], [14:12], [11:7], [6:0]. -/
structure Parts where
  top : BitVec 2
  b29 : BitVec 1
  mid : BitVec 4
  rs2 : BitVec 5
  rs1 : BitVec 5
  f3 : BitVec 3
  rd : BitVec 5
  op : BitVec 7
deriving DecidableEq, Repr

/-- Cuts a word into its fields. -/
def Parts.ofWord (w : BitVec 32) : Parts :=
  { top := w.extractLsb' 30 2, b29 := w.extractLsb' 29 1, mid := w.extractLsb' 25 4, rs2 := w.extractLsb' 20 5,
    rs1 := w.extractLsb' 15 5, f3 := w.extractLsb' 12 3, rd := w.extractLsb' 7 5, op := w.extractLsb' 0 7 }

/-- The word that has the given fields. -/
def Parts.toWord (p : Parts) : BitVec 32 :=
  p.top ++ (p.b29 ++ (p.mid ++ (p.rs2 ++ (p.rs1 ++ (p.f3 ++ (p.rd ++ p.op))))))

/-- Why a word is no instruction of the opcode table (R46). -/
inductive Reject where
  /-- bits [1:0] are not 0b11, or [4:2] are 0b111: the 16-bit or the longer space (R30) -/
  | otherLength
  /-- a major opcode that R33 marks illegal -/
  | illegalMajor
  /-- an encoding that a defined major opcode leaves undefined (R46, R64, R66, R68, R70, R72) -/
  | undefinedForm
  /-- a matrix issue with pair code 11 to 15, which traps at issue validation (R46, R228) -/
  | reservedPair (s3 : BitVec 3) (pair : BitVec 4) (rd rs1 rs2 : BitVec 5)
  /-- fewer than the four bytes of a word are given -/
  | tooShort
deriving DecidableEq, Repr


/-- The forms of major opcode 0x03 (R66). -/
def decodeLoad (p : Parts) : Except Reject Instr :=
  match p.f3.toNat with
  | 0 => .ok (.lb p.rd p.rs1 (p.top ++ p.b29 ++ p.mid ++ p.rs2))
  | 1 => .ok (.lh p.rd p.rs1 (p.top ++ p.b29 ++ p.mid ++ p.rs2))
  | 2 => .ok (.lw p.rd p.rs1 (p.top ++ p.b29 ++ p.mid ++ p.rs2))
  | 3 => .ok (.ld p.rd p.rs1 (p.top ++ p.b29 ++ p.mid ++ p.rs2))
  | 4 => .ok (.lbu p.rd p.rs1 (p.top ++ p.b29 ++ p.mid ++ p.rs2))
  | 5 => .ok (.lhu p.rd p.rs1 (p.top ++ p.b29 ++ p.mid ++ p.rs2))
  | 6 => .ok (.lwu p.rd p.rs1 (p.top ++ p.b29 ++ p.mid ++ p.rs2))
  | _ => .error .undefinedForm

/-- The forms of major opcode 0x0B (R34, R49). -/
def decodeCustom0 (p : Parts) : Except Reject Instr :=
  if p.f3.getLsbD 2 = false then
    match p.mid.toNat with
    | 0 => .ok (.fadd p.top p.b29 (p.f3.extractLsb' 0 2) p.rd p.rs1 p.rs2)
    | 1 => .ok (.fsub p.top p.b29 (p.f3.extractLsb' 0 2) p.rd p.rs1 p.rs2)
    | 2 => .ok (.fmul p.top p.b29 (p.f3.extractLsb' 0 2) p.rd p.rs1 p.rs2)
    | 3 => .ok (.fmac p.top p.b29 (p.f3.extractLsb' 0 2) p.rd p.rs1 p.rs2)
    | 4 => .ok (.fmsc p.top p.b29 (p.f3.extractLsb' 0 2) p.rd p.rs1 p.rs2)
    | 5 => .ok (.fmin p.top p.b29 (p.f3.extractLsb' 0 2) p.rd p.rs1 p.rs2)
    | 6 => .ok (.fmax p.top p.b29 (p.f3.extractLsb' 0 2) p.rd p.rs1 p.rs2)
    | 7 => .ok (.fdiv p.top p.b29 (p.f3.extractLsb' 0 2) p.rd p.rs1 p.rs2)
    | 8 => .ok (.fsqrt p.top p.b29 (p.f3.extractLsb' 0 2) p.rd p.rs1 p.rs2)
    | 9 => .ok (.frcpe p.top p.b29 (p.f3.extractLsb' 0 2) p.rd p.rs1 p.rs2)
    | 10 => .ok (.frsqe p.top p.b29 (p.f3.extractLsb' 0 2) p.rd p.rs1 p.rs2)
    | 11 => .ok (.fsgnj p.top p.b29 (p.f3.extractLsb' 0 2) p.rd p.rs1 p.rs2)
    | 12 => .ok (.fsgnjn p.top p.b29 (p.f3.extractLsb' 0 2) p.rd p.rs1 p.rs2)
    | 13 => .ok (.fsgnjx p.top p.b29 (p.f3.extractLsb' 0 2) p.rd p.rs1 p.rs2)
    | 14 => .ok (.fsum p.top p.b29 (p.f3.extractLsb' 0 2) p.rd p.rs1 p.rs2)
    | 15 => .ok (.fmaxa p.top p.b29 (p.f3.extractLsb' 0 2) p.rd p.rs1 p.rs2)
    | _ => .error .undefinedForm
  else
    match p.mid.toNat with
    | 0 => .ok (.spanAdd p.top p.b29 (p.f3.extractLsb' 0 2) p.rd p.rs1 p.rs2)
    | 1 => .ok (.spanSub p.top p.b29 (p.f3.extractLsb' 0 2) p.rd p.rs1 p.rs2)
    | 2 => .ok (.spanMin p.top p.b29 (p.f3.extractLsb' 0 2) p.rd p.rs1 p.rs2)
    | 3 => .ok (.spanMax p.top p.b29 (p.f3.extractLsb' 0 2) p.rd p.rs1 p.rs2)
    | 4 => .ok (.spanMaxn p.top p.b29 (p.f3.extractLsb' 0 2) p.rd p.rs1 p.rs2)
    | 5 => .ok (.spanMul p.top p.b29 (p.f3.extractLsb' 0 2) p.rd p.rs1 p.rs2)
    | 6 => .ok (.spanMulh p.top p.b29 (p.f3.extractLsb' 0 2) p.rd p.rs1 p.rs2)
    | 7 => .ok (.spanAnd p.top p.b29 (p.f3.extractLsb' 0 2) p.rd p.rs1 p.rs2)
    | 8 => .ok (.spanOr p.top p.b29 (p.f3.extractLsb' 0 2) p.rd p.rs1 p.rs2)
    | 9 => .ok (.spanXor p.top p.b29 (p.f3.extractLsb' 0 2) p.rd p.rs1 p.rs2)
    | 10 => .ok (.spanSll p.top p.b29 (p.f3.extractLsb' 0 2) p.rd p.rs1 p.rs2)
    | 11 => .ok (.spanSrl p.top p.b29 (p.f3.extractLsb' 0 2) p.rd p.rs1 p.rs2)
    | 12 => .ok (.spanSra p.top p.b29 (p.f3.extractLsb' 0 2) p.rd p.rs1 p.rs2)
    | 13 => .ok (.fsl p.top p.b29 (p.f3.extractLsb' 0 2) p.rd p.rs1 p.rs2)
    | 14 => .ok (.fsr p.top p.b29 (p.f3.extractLsb' 0 2) p.rd p.rs1 p.rs2)
    | 15 => .ok (.gmax p.top p.b29 (p.f3.extractLsb' 0 2) p.rd p.rs1 p.rs2)
    | _ => .error .undefinedForm

/-- The forms of major opcode 0x0F (R70, R71). -/
def decodeMiscMem (p : Parts) : Except Reject Instr :=
  match p.f3.toNat with
  | 0 => .ok (.fence (p.top ++ p.b29 ++ (p.mid.extractLsb' 3 1)) ((p.mid.extractLsb' 0 3) ++ (p.rs2.extractLsb' 4 1)) (p.rs2.extractLsb' 0 4))
  | 1 => .ok .fenceI
  | _ => .error .undefinedForm

/-- The forms of major opcode 0x13 (R64). -/
def decodeOpImm (p : Parts) : Except Reject Instr :=
  match p.f3.toNat with
  | 0 => .ok (.addi p.rd p.rs1 (p.top ++ p.b29 ++ p.mid ++ p.rs2))
  | 1 =>
    match (p.top ++ p.b29 ++ p.mid.extractLsb' 1 3).toNat with
    | 0 => .ok (.slli p.rd p.rs1 ((p.mid.extractLsb' 0 1) ++ p.rs2))
    | _ => .error .undefinedForm
  | 2 => .ok (.slti p.rd p.rs1 (p.top ++ p.b29 ++ p.mid ++ p.rs2))
  | 3 => .ok (.sltiu p.rd p.rs1 (p.top ++ p.b29 ++ p.mid ++ p.rs2))
  | 4 => .ok (.xori p.rd p.rs1 (p.top ++ p.b29 ++ p.mid ++ p.rs2))
  | 5 =>
    match (p.top ++ p.b29 ++ p.mid.extractLsb' 1 3).toNat with
    | 0 => .ok (.srli p.rd p.rs1 ((p.mid.extractLsb' 0 1) ++ p.rs2))
    | 16 => .ok (.srai p.rd p.rs1 ((p.mid.extractLsb' 0 1) ++ p.rs2))
    | _ => .error .undefinedForm
  | 6 => .ok (.ori p.rd p.rs1 (p.top ++ p.b29 ++ p.mid ++ p.rs2))
  | 7 => .ok (.andi p.rd p.rs1 (p.top ++ p.b29 ++ p.mid ++ p.rs2))
  | _ => .error .undefinedForm

/-- The forms of major opcode 0x1B (R64). -/
def decodeOpImm32 (p : Parts) : Except Reject Instr :=
  match p.f3.toNat with
  | 0 => .ok (.addiw p.rd p.rs1 (p.top ++ p.b29 ++ p.mid ++ p.rs2))
  | 1 =>
    match (p.top ++ p.b29 ++ p.mid).toNat with
    | 0 => .ok (.slliw p.rd p.rs1 p.rs2)
    | _ => .error .undefinedForm
  | 5 =>
    match (p.top ++ p.b29 ++ p.mid).toNat with
    | 0 => .ok (.srliw p.rd p.rs1 p.rs2)
    | 32 => .ok (.sraiw p.rd p.rs1 p.rs2)
    | _ => .error .undefinedForm
  | _ => .error .undefinedForm

/-- The forms of major opcode 0x23 (R66). -/
def decodeStore (p : Parts) : Except Reject Instr :=
  match p.f3.toNat with
  | 0 => .ok (.sb p.rs2 p.rs1 (p.top ++ p.b29 ++ p.mid ++ p.rd))
  | 1 => .ok (.sh p.rs2 p.rs1 (p.top ++ p.b29 ++ p.mid ++ p.rd))
  | 2 => .ok (.sw p.rs2 p.rs1 (p.top ++ p.b29 ++ p.mid ++ p.rd))
  | 3 => .ok (.sd p.rs2 p.rs1 (p.top ++ p.b29 ++ p.mid ++ p.rd))
  | _ => .error .undefinedForm

/-- The forms of major opcode 0x2B (R35, R50). -/
def decodeCustom1 (p : Parts) : Except Reject Instr :=
  match (p.b29 ++ p.mid).toNat with
  | 0 => .ok (.cmpeq p.top p.f3 p.rd p.rs1 p.rs2)
  | 1 => .ok (.cmplt p.top p.f3 p.rd p.rs1 p.rs2)
  | 2 => .ok (.cmple p.top p.f3 p.rd p.rs1 p.rs2)
  | 3 => if p.f3.getLsbD 2 = true then .ok (.cmpltn p.top (p.f3.extractLsb' 0 2) p.rd p.rs1 p.rs2) else .error .undefinedForm
  | 4 => .ok (.cvt p.top p.f3 p.rd p.rs1 p.rs2)
  | 5 => .ok (.cvtr p.top p.f3 p.rd p.rs1 p.rs2)
  | 6 => if p.f3.getLsbD 2 = true then .ok (.clz p.top (p.f3.extractLsb' 0 2) p.rd p.rs1) else .error .undefinedForm
  | 7 => if p.f3.getLsbD 2 = true then .ok (.popc p.top (p.f3.extractLsb' 0 2) p.rd p.rs1) else .error .undefinedForm
  | 8 => .ok (.abs p.top p.f3 p.rd p.rs1)
  | 9 => .ok (.neg p.top p.f3 p.rd p.rs1)
  | 10 => .ok (.perm p.top p.f3 p.rd p.rs1 p.rs2)
  | 11 => if p.f3.getLsbD 2 = true then .ok (.gsum p.top (p.f3.extractLsb' 0 2) p.rd p.rs1) else .error .undefinedForm
  | 12 => if p.f3.getLsbD 2 = false then .ok (.fclass p.top (p.f3.extractLsb' 0 2) p.rd p.rs1) else .error .undefinedForm
  | 13 => .ok (.lmsk p.top p.f3 p.rd p.rs1)
  | 14 => .ok (.lexp p.top p.f3 p.rd p.rs1)
  | 16 => if p.f3.getLsbD 2 = false then .ok (.qenc p.top (p.f3.extractLsb' 0 2) p.rd p.rs1 p.rs2) else .error .undefinedForm
  | 17 => if p.f3.getLsbD 2 = false then .ok (.qdec p.top (p.f3.extractLsb' 0 2) p.rd p.rs1 p.rs2) else .error .undefinedForm
  | 18 => if p.f3.getLsbD 2 = false then .ok (.qfp8 p.top (p.f3.extractLsb' 0 2) p.rd p.rs1 p.rs2) else .error .undefinedForm
  | 19 => if p.f3.getLsbD 2 = false then .ok (.qfp8x p.top (p.f3.extractLsb' 0 2) p.rd p.rs1 p.rs2) else .error .undefinedForm
  | 20 => if p.f3.getLsbD 2 = false then .ok (.dfp8 p.top (p.f3.extractLsb' 0 2) p.rd p.rs1 p.rs2) else .error .undefinedForm
  | 21 => if p.f3.getLsbD 2 = false then .ok (.dfp8x p.top (p.f3.extractLsb' 0 2) p.rd p.rs1 p.rs2) else .error .undefinedForm
  | 22 => if p.top = 0#2 then .ok (.tabld (p.rs2.extractLsb' 0 2) p.rs1) else .error .undefinedForm
  | _ => .error .undefinedForm

/-- The forms of major opcode 0x33 (R64). -/
def decodeOp (p : Parts) : Except Reject Instr :=
  match p.f3.toNat with
  | 0 =>
    match (p.top ++ p.b29 ++ p.mid).toNat with
    | 0 => .ok (.add p.rd p.rs1 p.rs2)
    | 1 => .ok (.mul p.rd p.rs1 p.rs2)
    | 32 => .ok (.sub p.rd p.rs1 p.rs2)
    | _ => .error .undefinedForm
  | 1 =>
    match (p.top ++ p.b29 ++ p.mid).toNat with
    | 0 => .ok (.sll p.rd p.rs1 p.rs2)
    | 1 => .ok (.mulh p.rd p.rs1 p.rs2)
    | _ => .error .undefinedForm
  | 2 =>
    match (p.top ++ p.b29 ++ p.mid).toNat with
    | 0 => .ok (.slt p.rd p.rs1 p.rs2)
    | 1 => .ok (.mulhsu p.rd p.rs1 p.rs2)
    | _ => .error .undefinedForm
  | 3 =>
    match (p.top ++ p.b29 ++ p.mid).toNat with
    | 0 => .ok (.sltu p.rd p.rs1 p.rs2)
    | 1 => .ok (.mulhu p.rd p.rs1 p.rs2)
    | _ => .error .undefinedForm
  | 4 =>
    match (p.top ++ p.b29 ++ p.mid).toNat with
    | 0 => .ok (.xor p.rd p.rs1 p.rs2)
    | 1 => .ok (.div p.rd p.rs1 p.rs2)
    | _ => .error .undefinedForm
  | 5 =>
    match (p.top ++ p.b29 ++ p.mid).toNat with
    | 0 => .ok (.srl p.rd p.rs1 p.rs2)
    | 1 => .ok (.divu p.rd p.rs1 p.rs2)
    | 32 => .ok (.sra p.rd p.rs1 p.rs2)
    | _ => .error .undefinedForm
  | 6 =>
    match (p.top ++ p.b29 ++ p.mid).toNat with
    | 0 => .ok (.or p.rd p.rs1 p.rs2)
    | 1 => .ok (.rem p.rd p.rs1 p.rs2)
    | _ => .error .undefinedForm
  | 7 =>
    match (p.top ++ p.b29 ++ p.mid).toNat with
    | 0 => .ok (.and p.rd p.rs1 p.rs2)
    | 1 => .ok (.remu p.rd p.rs1 p.rs2)
    | _ => .error .undefinedForm
  | _ => .error .undefinedForm

/-- The forms of major opcode 0x3B (R64). -/
def decodeOp32 (p : Parts) : Except Reject Instr :=
  match p.f3.toNat with
  | 0 =>
    match (p.top ++ p.b29 ++ p.mid).toNat with
    | 0 => .ok (.addw p.rd p.rs1 p.rs2)
    | 1 => .ok (.mulw p.rd p.rs1 p.rs2)
    | 32 => .ok (.subw p.rd p.rs1 p.rs2)
    | _ => .error .undefinedForm
  | 1 =>
    match (p.top ++ p.b29 ++ p.mid).toNat with
    | 0 => .ok (.sllw p.rd p.rs1 p.rs2)
    | _ => .error .undefinedForm
  | 4 =>
    match (p.top ++ p.b29 ++ p.mid).toNat with
    | 1 => .ok (.divw p.rd p.rs1 p.rs2)
    | _ => .error .undefinedForm
  | 5 =>
    match (p.top ++ p.b29 ++ p.mid).toNat with
    | 0 => .ok (.srlw p.rd p.rs1 p.rs2)
    | 1 => .ok (.divuw p.rd p.rs1 p.rs2)
    | 32 => .ok (.sraw p.rd p.rs1 p.rs2)
    | _ => .error .undefinedForm
  | 6 =>
    match (p.top ++ p.b29 ++ p.mid).toNat with
    | 1 => .ok (.remw p.rd p.rs1 p.rs2)
    | _ => .error .undefinedForm
  | 7 =>
    match (p.top ++ p.b29 ++ p.mid).toNat with
    | 1 => .ok (.remuw p.rd p.rs1 p.rs2)
    | _ => .error .undefinedForm
  | _ => .error .undefinedForm

/-- The forms of major opcode 0x5B (R36, R51). -/
def decodeCustom2 (p : Parts) : Except Reject Instr :=
  match p.f3.toNat with
  | 0 => .ok (.ldg p.top p.rd p.rs1 (p.b29 ++ p.mid ++ p.rs2))
  | 1 => .ok (.stg p.top p.rs2 p.rs1 (p.b29 ++ p.mid ++ p.rd))
  | 2 =>
    match (p.b29 ++ p.mid).toNat with
    | 0 => .ok (.lde p.rd p.rs1)
    | 1 => .ok (.ldt p.rd p.rs1)
    | 2 => .ok (.stf p.rs1 p.rs2)
    | 3 => .ok (.stp p.rs1 p.rs2)
    | 4 => .ok (.tagrd p.rd p.rs1)
    | 5 => .ok (.tagset p.rd p.rs1 p.rs2)
    | 6 => .ok (.waitA p.rd p.rs1 p.rs2)
    | 7 => .ok (.wake p.rd p.rs1 p.rs2)
    | 8 => .ok (.ldx p.rd p.rs1)
    | 9 => .ok (.stx p.rs2 p.rs1 p.rd)
    | _ => .error .undefinedForm
  | 3 =>
    match (p.b29 ++ p.mid).toNat with
    | 0 => .ok (.amadd (p.top.extractLsb' 1 1) (p.top.extractLsb' 0 1) p.rd p.rs2 p.rs1)
    | 1 => .ok (.amand (p.top.extractLsb' 1 1) (p.top.extractLsb' 0 1) p.rd p.rs2 p.rs1)
    | 2 => .ok (.amor (p.top.extractLsb' 1 1) (p.top.extractLsb' 0 1) p.rd p.rs2 p.rs1)
    | 3 => .ok (.amxor (p.top.extractLsb' 1 1) (p.top.extractLsb' 0 1) p.rd p.rs2 p.rs1)
    | 4 => .ok (.ammin (p.top.extractLsb' 1 1) (p.top.extractLsb' 0 1) p.rd p.rs2 p.rs1)
    | 5 => .ok (.ammax (p.top.extractLsb' 1 1) (p.top.extractLsb' 0 1) p.rd p.rs2 p.rs1)
    | 6 => .ok (.amminn (p.top.extractLsb' 1 1) (p.top.extractLsb' 0 1) p.rd p.rs2 p.rs1)
    | 7 => .ok (.ammaxn (p.top.extractLsb' 1 1) (p.top.extractLsb' 0 1) p.rd p.rs2 p.rs1)
    | 8 => .ok (.amswp (p.top.extractLsb' 1 1) (p.top.extractLsb' 0 1) p.rd p.rs2 p.rs1)
    | 9 => .ok (.amcas (p.top.extractLsb' 1 1) (p.top.extractLsb' 0 1) p.rd p.rs2 p.rs1)
    | 10 => .ok (.amfadd (p.top.extractLsb' 1 1) (p.top.extractLsb' 0 1) p.rd p.rs2 p.rs1)
    | 11 => .ok (.amfaddC (p.top.extractLsb' 1 1) (p.top.extractLsb' 0 1) p.rd p.rs2 p.rs1)
    | _ => .error .undefinedForm
  | 4 =>
    match (p.b29 ++ p.mid).toNat with
    | 0 => if (p.rs2.extractLsb' 3 2) = 3#2 then .error .undefinedForm else
        if (p.rs2.extractLsb' 0 3) = 7#3 then .error .undefinedForm else .ok (.fenceS (p.rs2.extractLsb' 3 2) (p.rs2.extractLsb' 0 3))
    | 1 => .ok .fenceE
    | _ => .error .undefinedForm
  | 5 =>
    match (p.b29 ++ p.mid).toNat with
    | 0 => .ok (.pbind p.rd p.rs1 p.rs2)
    | 1 => .ok (.punb p.rd p.rs1)
    | 2 => .ok (.pstat p.rd p.rs1)
    | 3 => .ok (.psave p.rs1 p.rs2)
    | 4 => .ok (.prest p.rd p.rs1 p.rs2)
    | 5 => .ok (.pskip p.rd p.rs1 p.rs2)
    | 6 => .ok (.isect p.rd p.rs1)
    | _ => .error .undefinedForm
  | 6 =>
    match (p.b29 ++ p.mid).toNat with
    | 0 => .ok (.tlook p.rd p.rs1 p.rs2)
    | 1 => .ok (.tins p.rd p.rs1 p.rs2)
    | 2 => .ok (.tinv p.rd p.rs1 p.rs2)
    | _ => .error .undefinedForm
  | _ => .error .undefinedForm

/-- The forms of major opcode 0x63 (R68). -/
def decodeBranch (p : Parts) : Except Reject Instr :=
  match p.f3.toNat with
  | 0 => .ok (.beq p.rs1 p.rs2 ((p.top.extractLsb' 1 1) ++ (p.rd.extractLsb' 0 1) ++ (p.top.extractLsb' 0 1) ++ p.b29 ++ p.mid ++ (p.rd.extractLsb' 1 4)))
  | 1 => .ok (.bne p.rs1 p.rs2 ((p.top.extractLsb' 1 1) ++ (p.rd.extractLsb' 0 1) ++ (p.top.extractLsb' 0 1) ++ p.b29 ++ p.mid ++ (p.rd.extractLsb' 1 4)))
  | 4 => .ok (.blt p.rs1 p.rs2 ((p.top.extractLsb' 1 1) ++ (p.rd.extractLsb' 0 1) ++ (p.top.extractLsb' 0 1) ++ p.b29 ++ p.mid ++ (p.rd.extractLsb' 1 4)))
  | 5 => .ok (.bge p.rs1 p.rs2 ((p.top.extractLsb' 1 1) ++ (p.rd.extractLsb' 0 1) ++ (p.top.extractLsb' 0 1) ++ p.b29 ++ p.mid ++ (p.rd.extractLsb' 1 4)))
  | 6 => .ok (.bltu p.rs1 p.rs2 ((p.top.extractLsb' 1 1) ++ (p.rd.extractLsb' 0 1) ++ (p.top.extractLsb' 0 1) ++ p.b29 ++ p.mid ++ (p.rd.extractLsb' 1 4)))
  | 7 => .ok (.bgeu p.rs1 p.rs2 ((p.top.extractLsb' 1 1) ++ (p.rd.extractLsb' 0 1) ++ (p.top.extractLsb' 0 1) ++ p.b29 ++ p.mid ++ (p.rd.extractLsb' 1 4)))
  | _ => .error .undefinedForm

/-- The forms of major opcode 0x73 (R72, R76). -/
def decodeSystem (p : Parts) : Except Reject Instr :=
  match p.f3.toNat with
  | 0 =>
    if p.rs1 = 0#5 then
      if p.rd = 0#5 then
        match (p.top ++ p.b29 ++ p.mid ++ p.rs2).toNat with
        | 0 => .ok .ecall
        | 1 => .ok .ebreak
        | _ => .error .undefinedForm
      else .error .undefinedForm
    else .error .undefinedForm
  | 1 => .ok (.csrrw (p.top ++ p.b29 ++ p.mid ++ p.rs2) p.rd p.rs1)
  | 2 => .ok (.csrrs (p.top ++ p.b29 ++ p.mid ++ p.rs2) p.rd p.rs1)
  | 3 => .ok (.csrrc (p.top ++ p.b29 ++ p.mid ++ p.rs2) p.rd p.rs1)
  | 5 => .ok (.csrrwi (p.top ++ p.b29 ++ p.mid ++ p.rs2) p.rd p.rs1)
  | 6 => .ok (.csrrsi (p.top ++ p.b29 ++ p.mid ++ p.rs2) p.rd p.rs1)
  | 7 => .ok (.csrrci (p.top ++ p.b29 ++ p.mid ++ p.rs2) p.rd p.rs1)
  | _ => .error .undefinedForm

/-- The forms of major opcode 0x7B (R37, R52). -/
def decodeCustom3 (p : Parts) : Except Reject Instr :=
  match p.f3.toNat with
  | 0 =>
    match (p.top ++ p.b29).toNat with
    | 0 => .ok (.reach (p.rs2.extractLsb' 0 2) (p.rs1.extractLsb' 0 2) (p.rd.extractLsb' 0 2))
    | 1 => .ok (.when (p.mid.extractLsb' 3 1) ((p.rs2.extractLsb' 0 1) ++ p.rs1))
    | 2 => .ok (.pitch p.mid p.rs2 p.rs1 (p.rd.extractLsb' 4 1) (p.rd.extractLsb' 3 1) (p.rd.extractLsb' 2 1) (p.rd.extractLsb' 0 2))
    | _ => .error .undefinedForm
  | 1 =>
    match p.mid.toNat with
    | 0 => .ok (.mmBf16 (p.top ++ p.b29) p.rd p.rs1 p.rs2)
    | 1 => .ok (.mmF16 (p.top ++ p.b29) p.rd p.rs1 p.rs2)
    | 2 => .ok (.mmE4m3 (p.top ++ p.b29) p.rd p.rs1 p.rs2)
    | 3 => .ok (.mmE5m2 (p.top ++ p.b29) p.rd p.rs1 p.rs2)
    | 4 => .ok (.mmE4m3E5m2 (p.top ++ p.b29) p.rd p.rs1 p.rs2)
    | 5 => .ok (.mmE5m2E4m3 (p.top ++ p.b29) p.rd p.rs1 p.rs2)
    | 6 => .ok (.mmC8 (p.top ++ p.b29) p.rd p.rs1 p.rs2)
    | 7 => .ok (.mmBf16C8 (p.top ++ p.b29) p.rd p.rs1 p.rs2)
    | 8 => .ok (.mmE2m1 (p.top ++ p.b29) p.rd p.rs1 p.rs2)
    | 9 => .ok (.mmI8 (p.top ++ p.b29) p.rd p.rs1 p.rs2)
    | 10 => .ok (.mmF32x (p.top ++ p.b29) p.rd p.rs1 p.rs2)
    | _ => if p.mid = 0xb#4 ∨ p.mid = 0xc#4 ∨ p.mid = 0xd#4 ∨ p.mid = 0xe#4 ∨ p.mid = 0xf#4 then .error (.reservedPair (p.top ++ p.b29) p.mid p.rd p.rs1 p.rs2) else .error .undefinedForm
  | 2 =>
    match (p.b29 ++ p.mid).toNat with
    | 0 => .ok (.mbload p.rd p.rs1)
    | 1 => .ok (.mst p.rd p.rs1)
    | 2 => .ok (.mwait p.rd p.rs1)
    | 3 => .ok (.mpoll p.rd p.rs1)
    | 4 => .ok (.mrestart p.rd p.rs1)
    | 5 => .ok (.mclr p.rd p.rs1)
    | 8 => .ok (.hcopy p.rd p.rs1)
    | 9 => .ok (.hcopy2 p.rd p.rs1)
    | 10 => .ok (.hcopyn p.rd p.rs1)
    | 11 => .ok (.hgath p.rd p.rs1)
    | 12 => .ok (.hscat p.rd p.rs1)
    | 13 => .ok (.hpair p.rd p.rs1)
    | 14 => .ok (.hwait p.rd p.rs1)
    | 15 => .ok (.hpoll p.rd p.rs1)
    | 16 => .ok (.jobint p.rd p.rs1)
    | _ => .error .undefinedForm
  | 3 =>
    match (p.b29 ++ p.mid).toNat with
    | 0 => .ok (.salloc p.rd p.rs1)
    | 1 => .ok (.sfree p.rd p.rs1)
    | 2 => .ok (.sset p.rd p.rs1 p.rs2)
    | 3 => .ok (.supd p.rs1 p.rs2 p.rd)
    | 4 => .ok (.sroll p.rd p.rs1 p.rs2)
    | 5 => .ok (.sscale p.rd p.rs1 p.rs2)
    | 6 => .ok (.sscaleH p.rd p.rs1 p.rs2)
    | 7 => .ok (.sread p.rd p.rs1 p.rs2)
    | 8 => .ok (.sgen p.rd p.rs1)
    | 9 => .ok (.sflush p.rd)
    | 10 => .ok (.sscaleG p.rd p.rs1 p.rs2)
    | _ => .error .undefinedForm
  | 4 =>
    match (p.b29 ++ p.mid).toNat with
    | 0 => .ok (.spawn p.rd p.rs1)
    | 1 => .ok .exit
    | 2 => .ok .yield
    | 3 => .ok (.trav p.rd p.rs1)
    | 4 => .ok (.msgReg p.rs1 p.rs2)
    | 5 => .ok (.msgDec p.rs1 p.rs2)
    | 6 => .ok (.ctrSet p.rd p.rs1 p.rs2)
    | 7 => .ok (.ctrRd p.rd p.rs1)
    | 8 => .ok (.hcall p.rd p.rs1 p.rs2)
    | 9 => .ok (.hret p.rs1)
    | 10 => .ok (.xempty (p.rs2.extractLsb' 0 2) p.rd)
    | 11 => .ok .ixret
    | _ => .error .undefinedForm
  | 5 =>
    match (p.b29 ++ p.mid).toNat with
    | 0 => .ok (.ropeForm p.rd p.rs1)
    | 1 => .ok .ropeEnd
    | 2 => .ok (.unclip p.rd)
    | 3 => .ok (.clip p.rd p.rs1)
    | 8 => .ok (.collRed p.rd p.rs1 p.rs2)
    | 10 => .ok (.gqPush p.rs1 p.rs2)
    | 11 => .ok (.gqPop p.rd p.rs1)
    | 12 => .ok (.gqWin p.rd p.rs1 p.rs2)
    | _ => .error .undefinedForm
  | 6 =>
    match (p.b29 ++ p.mid).toNat with
    | 0 => .ok (.tret p.rs1)
    | 1 => .ok .xret
    | 2 => .ok .beat
    | 3 => .ok (.cairnOpen p.rd p.rs1)
    | 4 => .ok (.cairnClose p.rd p.rs1)
    | _ => .error .undefinedForm
  | 7 => .ok .hintRegion
  | _ => .error .undefinedForm

/-- The major opcodes (R33). -/
def decodeParts (p : Parts) : Except Reject Instr :=
  match p.op.toNat with
  | 0x03 => decodeLoad p
  | 0x0b => decodeCustom0 p
  | 0x0f => decodeMiscMem p
  | 0x13 => decodeOpImm p
  | 0x17 => .ok (.auipc p.rd (p.top ++ p.b29 ++ p.mid ++ p.rs2 ++ p.rs1 ++ p.f3))
  | 0x1b => decodeOpImm32 p
  | 0x23 => decodeStore p
  | 0x2b => decodeCustom1 p
  | 0x33 => decodeOp p
  | 0x37 => .ok (.lui p.rd (p.top ++ p.b29 ++ p.mid ++ p.rs2 ++ p.rs1 ++ p.f3))
  | 0x3b => decodeOp32 p
  | 0x5b => decodeCustom2 p
  | 0x63 => decodeBranch p
  | 0x67 => if p.f3 = 0#3 then .ok (.jalr p.rd p.rs1 (p.top ++ p.b29 ++ p.mid ++ p.rs2)) else .error .undefinedForm
  | 0x6f => .ok (.jal p.rd ((p.top.extractLsb' 1 1) ++ p.rs1 ++ p.f3 ++ (p.rs2.extractLsb' 0 1) ++ (p.top.extractLsb' 0 1) ++ p.b29 ++ p.mid ++ (p.rs2.extractLsb' 1 4)))
  | 0x73 => decodeSystem p
  | 0x7b => decodeCustom3 p
  | _ => if p.op.extractLsb' 0 2 ≠ 3#2 ∨ p.op.extractLsb' 2 3 = 7#3 then .error .otherLength else .error .illegalMajor

/-- The instruction word w, or why it is none. -/
def decodeWord (w : BitVec 32) : Except Reject Instr := decodeParts (Parts.ofWord w)

/-- The 32-bit little-endian word of four bytes (R5). -/
def wordOfBytes (b0 b1 b2 b3 : Byte) : BitVec 32 := b3 ++ b2 ++ b1 ++ b0

/-- Reads one instruction word from the front of a list of bytes. -/
def decodeBytes : List Byte → Except Reject (Instr × List Byte)
  | b0 :: b1 :: b2 :: b3 :: rest => (decodeWord (wordOfBytes b0 b1 b2 b3)).map (·, rest)
  | _ => .error .tooShort

/-- The instruction the decoder reads from an instruction of nbits bits with value w: its words as they lie in memory
(R5, R30), bits above nbits zero. -/
def decodeTableWord (nbits w : Nat) : Option Instr :=
  let v := BitVec.ofNat 32 (w % 2 ^ nbits)
  match decodeBytes [v.extractLsb' 0 8, v.extractLsb' 8 8, v.extractLsb' 16 8, v.extractLsb' 24 8] with
  | .ok (i, _) => some i
  | .error _ => none

/-- The fields of the word of an encoded instruction, reserved fields zero as yunas writes them (R44); none for the steps
of other agents, which have no encoding. -/
def encodeParts : Instr → Option Parts
  | .lb rd rs1 imm => some ⟨imm.extractLsb' 10 2, imm.extractLsb' 9 1, imm.extractLsb' 5 4, imm.extractLsb' 0 5, rs1, 0#3, rd, 3#7⟩
  | .lh rd rs1 imm => some ⟨imm.extractLsb' 10 2, imm.extractLsb' 9 1, imm.extractLsb' 5 4, imm.extractLsb' 0 5, rs1, 1#3, rd, 3#7⟩
  | .lw rd rs1 imm => some ⟨imm.extractLsb' 10 2, imm.extractLsb' 9 1, imm.extractLsb' 5 4, imm.extractLsb' 0 5, rs1, 2#3, rd, 3#7⟩
  | .ld rd rs1 imm => some ⟨imm.extractLsb' 10 2, imm.extractLsb' 9 1, imm.extractLsb' 5 4, imm.extractLsb' 0 5, rs1, 3#3, rd, 3#7⟩
  | .lbu rd rs1 imm => some ⟨imm.extractLsb' 10 2, imm.extractLsb' 9 1, imm.extractLsb' 5 4, imm.extractLsb' 0 5, rs1, 4#3, rd, 3#7⟩
  | .lhu rd rs1 imm => some ⟨imm.extractLsb' 10 2, imm.extractLsb' 9 1, imm.extractLsb' 5 4, imm.extractLsb' 0 5, rs1, 5#3, rd, 3#7⟩
  | .lwu rd rs1 imm => some ⟨imm.extractLsb' 10 2, imm.extractLsb' 9 1, imm.extractLsb' 5 4, imm.extractLsb' 0 5, rs1, 6#3, rd, 3#7⟩
  | .fence fm pred succ => some ⟨fm.extractLsb' 2 2, fm.extractLsb' 1 1, (fm.extractLsb' 0 1) ++ (pred.extractLsb' 1 3), (pred.extractLsb' 0 1) ++ succ, 0#5, 0#3, 0#5, 0xf#7⟩
  | .fenceI => some ⟨0#2, 0#1, 0#4, 0#5, 0#5, 1#3, 0#5, 0xf#7⟩
  | .addi rd rs1 imm => some ⟨imm.extractLsb' 10 2, imm.extractLsb' 9 1, imm.extractLsb' 5 4, imm.extractLsb' 0 5, rs1, 0#3, rd, 0x13#7⟩
  | .slti rd rs1 imm => some ⟨imm.extractLsb' 10 2, imm.extractLsb' 9 1, imm.extractLsb' 5 4, imm.extractLsb' 0 5, rs1, 2#3, rd, 0x13#7⟩
  | .sltiu rd rs1 imm => some ⟨imm.extractLsb' 10 2, imm.extractLsb' 9 1, imm.extractLsb' 5 4, imm.extractLsb' 0 5, rs1, 3#3, rd, 0x13#7⟩
  | .xori rd rs1 imm => some ⟨imm.extractLsb' 10 2, imm.extractLsb' 9 1, imm.extractLsb' 5 4, imm.extractLsb' 0 5, rs1, 4#3, rd, 0x13#7⟩
  | .ori rd rs1 imm => some ⟨imm.extractLsb' 10 2, imm.extractLsb' 9 1, imm.extractLsb' 5 4, imm.extractLsb' 0 5, rs1, 6#3, rd, 0x13#7⟩
  | .andi rd rs1 imm => some ⟨imm.extractLsb' 10 2, imm.extractLsb' 9 1, imm.extractLsb' 5 4, imm.extractLsb' 0 5, rs1, 7#3, rd, 0x13#7⟩
  | .slli rd rs1 sh => some ⟨0#2, 0#1, 0#3 ++ (sh.extractLsb' 5 1), sh.extractLsb' 0 5, rs1, 1#3, rd, 0x13#7⟩
  | .srli rd rs1 sh => some ⟨0#2, 0#1, 0#3 ++ (sh.extractLsb' 5 1), sh.extractLsb' 0 5, rs1, 5#3, rd, 0x13#7⟩
  | .srai rd rs1 sh => some ⟨1#2, 0#1, 0#3 ++ (sh.extractLsb' 5 1), sh.extractLsb' 0 5, rs1, 5#3, rd, 0x13#7⟩
  | .auipc rd imm => some ⟨imm.extractLsb' 18 2, imm.extractLsb' 17 1, imm.extractLsb' 13 4, imm.extractLsb' 8 5, imm.extractLsb' 3 5, imm.extractLsb' 0 3, rd, 0x17#7⟩
  | .addiw rd rs1 imm => some ⟨imm.extractLsb' 10 2, imm.extractLsb' 9 1, imm.extractLsb' 5 4, imm.extractLsb' 0 5, rs1, 0#3, rd, 0x1b#7⟩
  | .slliw rd rs1 sh => some ⟨0#2, 0#1, 0#4, sh, rs1, 1#3, rd, 0x1b#7⟩
  | .srliw rd rs1 sh => some ⟨0#2, 0#1, 0#4, sh, rs1, 5#3, rd, 0x1b#7⟩
  | .sraiw rd rs1 sh => some ⟨1#2, 0#1, 0#4, sh, rs1, 5#3, rd, 0x1b#7⟩
  | .sb rs2 rs1 imm => some ⟨imm.extractLsb' 10 2, imm.extractLsb' 9 1, imm.extractLsb' 5 4, rs2, rs1, 0#3, imm.extractLsb' 0 5, 0x23#7⟩
  | .sh rs2 rs1 imm => some ⟨imm.extractLsb' 10 2, imm.extractLsb' 9 1, imm.extractLsb' 5 4, rs2, rs1, 1#3, imm.extractLsb' 0 5, 0x23#7⟩
  | .sw rs2 rs1 imm => some ⟨imm.extractLsb' 10 2, imm.extractLsb' 9 1, imm.extractLsb' 5 4, rs2, rs1, 2#3, imm.extractLsb' 0 5, 0x23#7⟩
  | .sd rs2 rs1 imm => some ⟨imm.extractLsb' 10 2, imm.extractLsb' 9 1, imm.extractLsb' 5 4, rs2, rs1, 3#3, imm.extractLsb' 0 5, 0x23#7⟩
  | .add rd rs1 rs2 => some ⟨0#2, 0#1, 0#4, rs2, rs1, 0#3, rd, 0x33#7⟩
  | .sub rd rs1 rs2 => some ⟨1#2, 0#1, 0#4, rs2, rs1, 0#3, rd, 0x33#7⟩
  | .sll rd rs1 rs2 => some ⟨0#2, 0#1, 0#4, rs2, rs1, 1#3, rd, 0x33#7⟩
  | .slt rd rs1 rs2 => some ⟨0#2, 0#1, 0#4, rs2, rs1, 2#3, rd, 0x33#7⟩
  | .sltu rd rs1 rs2 => some ⟨0#2, 0#1, 0#4, rs2, rs1, 3#3, rd, 0x33#7⟩
  | .xor rd rs1 rs2 => some ⟨0#2, 0#1, 0#4, rs2, rs1, 4#3, rd, 0x33#7⟩
  | .srl rd rs1 rs2 => some ⟨0#2, 0#1, 0#4, rs2, rs1, 5#3, rd, 0x33#7⟩
  | .sra rd rs1 rs2 => some ⟨1#2, 0#1, 0#4, rs2, rs1, 5#3, rd, 0x33#7⟩
  | .or rd rs1 rs2 => some ⟨0#2, 0#1, 0#4, rs2, rs1, 6#3, rd, 0x33#7⟩
  | .and rd rs1 rs2 => some ⟨0#2, 0#1, 0#4, rs2, rs1, 7#3, rd, 0x33#7⟩
  | .mul rd rs1 rs2 => some ⟨0#2, 0#1, 1#4, rs2, rs1, 0#3, rd, 0x33#7⟩
  | .mulh rd rs1 rs2 => some ⟨0#2, 0#1, 1#4, rs2, rs1, 1#3, rd, 0x33#7⟩
  | .mulhsu rd rs1 rs2 => some ⟨0#2, 0#1, 1#4, rs2, rs1, 2#3, rd, 0x33#7⟩
  | .mulhu rd rs1 rs2 => some ⟨0#2, 0#1, 1#4, rs2, rs1, 3#3, rd, 0x33#7⟩
  | .div rd rs1 rs2 => some ⟨0#2, 0#1, 1#4, rs2, rs1, 4#3, rd, 0x33#7⟩
  | .divu rd rs1 rs2 => some ⟨0#2, 0#1, 1#4, rs2, rs1, 5#3, rd, 0x33#7⟩
  | .rem rd rs1 rs2 => some ⟨0#2, 0#1, 1#4, rs2, rs1, 6#3, rd, 0x33#7⟩
  | .remu rd rs1 rs2 => some ⟨0#2, 0#1, 1#4, rs2, rs1, 7#3, rd, 0x33#7⟩
  | .lui rd imm => some ⟨imm.extractLsb' 18 2, imm.extractLsb' 17 1, imm.extractLsb' 13 4, imm.extractLsb' 8 5, imm.extractLsb' 3 5, imm.extractLsb' 0 3, rd, 0x37#7⟩
  | .addw rd rs1 rs2 => some ⟨0#2, 0#1, 0#4, rs2, rs1, 0#3, rd, 0x3b#7⟩
  | .subw rd rs1 rs2 => some ⟨1#2, 0#1, 0#4, rs2, rs1, 0#3, rd, 0x3b#7⟩
  | .sllw rd rs1 rs2 => some ⟨0#2, 0#1, 0#4, rs2, rs1, 1#3, rd, 0x3b#7⟩
  | .srlw rd rs1 rs2 => some ⟨0#2, 0#1, 0#4, rs2, rs1, 5#3, rd, 0x3b#7⟩
  | .sraw rd rs1 rs2 => some ⟨1#2, 0#1, 0#4, rs2, rs1, 5#3, rd, 0x3b#7⟩
  | .mulw rd rs1 rs2 => some ⟨0#2, 0#1, 1#4, rs2, rs1, 0#3, rd, 0x3b#7⟩
  | .divw rd rs1 rs2 => some ⟨0#2, 0#1, 1#4, rs2, rs1, 4#3, rd, 0x3b#7⟩
  | .divuw rd rs1 rs2 => some ⟨0#2, 0#1, 1#4, rs2, rs1, 5#3, rd, 0x3b#7⟩
  | .remw rd rs1 rs2 => some ⟨0#2, 0#1, 1#4, rs2, rs1, 6#3, rd, 0x3b#7⟩
  | .remuw rd rs1 rs2 => some ⟨0#2, 0#1, 1#4, rs2, rs1, 7#3, rd, 0x3b#7⟩
  | .beq rs1 rs2 imm => some ⟨(imm.extractLsb' 11 1) ++ (imm.extractLsb' 9 1), imm.extractLsb' 8 1, imm.extractLsb' 4 4, rs2, rs1, 0#3, (imm.extractLsb' 0 4) ++ (imm.extractLsb' 10 1), 0x63#7⟩
  | .bne rs1 rs2 imm => some ⟨(imm.extractLsb' 11 1) ++ (imm.extractLsb' 9 1), imm.extractLsb' 8 1, imm.extractLsb' 4 4, rs2, rs1, 1#3, (imm.extractLsb' 0 4) ++ (imm.extractLsb' 10 1), 0x63#7⟩
  | .blt rs1 rs2 imm => some ⟨(imm.extractLsb' 11 1) ++ (imm.extractLsb' 9 1), imm.extractLsb' 8 1, imm.extractLsb' 4 4, rs2, rs1, 4#3, (imm.extractLsb' 0 4) ++ (imm.extractLsb' 10 1), 0x63#7⟩
  | .bge rs1 rs2 imm => some ⟨(imm.extractLsb' 11 1) ++ (imm.extractLsb' 9 1), imm.extractLsb' 8 1, imm.extractLsb' 4 4, rs2, rs1, 5#3, (imm.extractLsb' 0 4) ++ (imm.extractLsb' 10 1), 0x63#7⟩
  | .bltu rs1 rs2 imm => some ⟨(imm.extractLsb' 11 1) ++ (imm.extractLsb' 9 1), imm.extractLsb' 8 1, imm.extractLsb' 4 4, rs2, rs1, 6#3, (imm.extractLsb' 0 4) ++ (imm.extractLsb' 10 1), 0x63#7⟩
  | .bgeu rs1 rs2 imm => some ⟨(imm.extractLsb' 11 1) ++ (imm.extractLsb' 9 1), imm.extractLsb' 8 1, imm.extractLsb' 4 4, rs2, rs1, 7#3, (imm.extractLsb' 0 4) ++ (imm.extractLsb' 10 1), 0x63#7⟩
  | .jalr rd rs1 imm => some ⟨imm.extractLsb' 10 2, imm.extractLsb' 9 1, imm.extractLsb' 5 4, imm.extractLsb' 0 5, rs1, 0#3, rd, 0x67#7⟩
  | .jal rd imm => some ⟨(imm.extractLsb' 19 1) ++ (imm.extractLsb' 9 1), imm.extractLsb' 8 1, imm.extractLsb' 4 4, (imm.extractLsb' 0 4) ++ (imm.extractLsb' 10 1), imm.extractLsb' 14 5, imm.extractLsb' 11 3, rd, 0x6f#7⟩
  | .ecall => some ⟨0#2, 0#1, 0#4, 0#5, 0#5, 0#3, 0#5, 0x73#7⟩
  | .ebreak => some ⟨0#2, 0#1, 0#4, 1#5, 0#5, 0#3, 0#5, 0x73#7⟩
  | .csrrw csr rd rs1 => some ⟨csr.extractLsb' 10 2, csr.extractLsb' 9 1, csr.extractLsb' 5 4, csr.extractLsb' 0 5, rs1, 1#3, rd, 0x73#7⟩
  | .csrrs csr rd rs1 => some ⟨csr.extractLsb' 10 2, csr.extractLsb' 9 1, csr.extractLsb' 5 4, csr.extractLsb' 0 5, rs1, 2#3, rd, 0x73#7⟩
  | .csrrc csr rd rs1 => some ⟨csr.extractLsb' 10 2, csr.extractLsb' 9 1, csr.extractLsb' 5 4, csr.extractLsb' 0 5, rs1, 3#3, rd, 0x73#7⟩
  | .csrrwi csr rd uimm => some ⟨csr.extractLsb' 10 2, csr.extractLsb' 9 1, csr.extractLsb' 5 4, csr.extractLsb' 0 5, uimm, 5#3, rd, 0x73#7⟩
  | .csrrsi csr rd uimm => some ⟨csr.extractLsb' 10 2, csr.extractLsb' 9 1, csr.extractLsb' 5 4, csr.extractLsb' 0 5, uimm, 6#3, rd, 0x73#7⟩
  | .csrrci csr rd uimm => some ⟨csr.extractLsb' 10 2, csr.extractLsb' 9 1, csr.extractLsb' 5 4, csr.extractLsb' 0 5, uimm, 7#3, rd, 0x73#7⟩
  | .fadd span bc ty rd rs1 rs2 => some ⟨span, bc, 0#4, rs2, rs1, 0#1 ++ ty, rd, 0xb#7⟩
  | .fsub span bc ty rd rs1 rs2 => some ⟨span, bc, 1#4, rs2, rs1, 0#1 ++ ty, rd, 0xb#7⟩
  | .fmul span bc ty rd rs1 rs2 => some ⟨span, bc, 2#4, rs2, rs1, 0#1 ++ ty, rd, 0xb#7⟩
  | .fmac span bc ty rd rs1 rs2 => some ⟨span, bc, 3#4, rs2, rs1, 0#1 ++ ty, rd, 0xb#7⟩
  | .fmsc span bc ty rd rs1 rs2 => some ⟨span, bc, 4#4, rs2, rs1, 0#1 ++ ty, rd, 0xb#7⟩
  | .fmin span bc ty rd rs1 rs2 => some ⟨span, bc, 5#4, rs2, rs1, 0#1 ++ ty, rd, 0xb#7⟩
  | .fmax span bc ty rd rs1 rs2 => some ⟨span, bc, 6#4, rs2, rs1, 0#1 ++ ty, rd, 0xb#7⟩
  | .fdiv span bc ty rd rs1 rs2 => some ⟨span, bc, 7#4, rs2, rs1, 0#1 ++ ty, rd, 0xb#7⟩
  | .fsqrt span bc ty rd rs1 rs2 => some ⟨span, bc, 8#4, rs2, rs1, 0#1 ++ ty, rd, 0xb#7⟩
  | .frcpe span bc ty rd rs1 rs2 => some ⟨span, bc, 9#4, rs2, rs1, 0#1 ++ ty, rd, 0xb#7⟩
  | .frsqe span bc ty rd rs1 rs2 => some ⟨span, bc, 0xa#4, rs2, rs1, 0#1 ++ ty, rd, 0xb#7⟩
  | .fsgnj span bc ty rd rs1 rs2 => some ⟨span, bc, 0xb#4, rs2, rs1, 0#1 ++ ty, rd, 0xb#7⟩
  | .fsgnjn span bc ty rd rs1 rs2 => some ⟨span, bc, 0xc#4, rs2, rs1, 0#1 ++ ty, rd, 0xb#7⟩
  | .fsgnjx span bc ty rd rs1 rs2 => some ⟨span, bc, 0xd#4, rs2, rs1, 0#1 ++ ty, rd, 0xb#7⟩
  | .fsum span bc ty rd rs1 rs2 => some ⟨span, bc, 0xe#4, rs2, rs1, 0#1 ++ ty, rd, 0xb#7⟩
  | .fmaxa span bc ty rd rs1 rs2 => some ⟨span, bc, 0xf#4, rs2, rs1, 0#1 ++ ty, rd, 0xb#7⟩
  | .spanAdd span bc ty rd rs1 rs2 => some ⟨span, bc, 0#4, rs2, rs1, 1#1 ++ ty, rd, 0xb#7⟩
  | .spanSub span bc ty rd rs1 rs2 => some ⟨span, bc, 1#4, rs2, rs1, 1#1 ++ ty, rd, 0xb#7⟩
  | .spanMin span bc ty rd rs1 rs2 => some ⟨span, bc, 2#4, rs2, rs1, 1#1 ++ ty, rd, 0xb#7⟩
  | .spanMax span bc ty rd rs1 rs2 => some ⟨span, bc, 3#4, rs2, rs1, 1#1 ++ ty, rd, 0xb#7⟩
  | .spanMaxn span bc ty rd rs1 rs2 => some ⟨span, bc, 4#4, rs2, rs1, 1#1 ++ ty, rd, 0xb#7⟩
  | .spanMul span bc ty rd rs1 rs2 => some ⟨span, bc, 5#4, rs2, rs1, 1#1 ++ ty, rd, 0xb#7⟩
  | .spanMulh span bc ty rd rs1 rs2 => some ⟨span, bc, 6#4, rs2, rs1, 1#1 ++ ty, rd, 0xb#7⟩
  | .spanAnd span bc ty rd rs1 rs2 => some ⟨span, bc, 7#4, rs2, rs1, 1#1 ++ ty, rd, 0xb#7⟩
  | .spanOr span bc ty rd rs1 rs2 => some ⟨span, bc, 8#4, rs2, rs1, 1#1 ++ ty, rd, 0xb#7⟩
  | .spanXor span bc ty rd rs1 rs2 => some ⟨span, bc, 9#4, rs2, rs1, 1#1 ++ ty, rd, 0xb#7⟩
  | .spanSll span bc ty rd rs1 rs2 => some ⟨span, bc, 0xa#4, rs2, rs1, 1#1 ++ ty, rd, 0xb#7⟩
  | .spanSrl span bc ty rd rs1 rs2 => some ⟨span, bc, 0xb#4, rs2, rs1, 1#1 ++ ty, rd, 0xb#7⟩
  | .spanSra span bc ty rd rs1 rs2 => some ⟨span, bc, 0xc#4, rs2, rs1, 1#1 ++ ty, rd, 0xb#7⟩
  | .fsl span bc ty rd rs1 rs2 => some ⟨span, bc, 0xd#4, rs2, rs1, 1#1 ++ ty, rd, 0xb#7⟩
  | .fsr span bc ty rd rs1 rs2 => some ⟨span, bc, 0xe#4, rs2, rs1, 1#1 ++ ty, rd, 0xb#7⟩
  | .gmax span bc ty rd rs1 rs2 => some ⟨span, bc, 0xf#4, rs2, rs1, 1#1 ++ ty, rd, 0xb#7⟩
  | .cmpeq span ty rd rs1 rs2 => some ⟨span, 0#1, 0#4, rs2, rs1, ty, rd, 0x2b#7⟩
  | .cmplt span ty rd rs1 rs2 => some ⟨span, 0#1, 1#4, rs2, rs1, ty, rd, 0x2b#7⟩
  | .cmple span ty rd rs1 rs2 => some ⟨span, 0#1, 2#4, rs2, rs1, ty, rd, 0x2b#7⟩
  | .cmpltn span ty rd rs1 rs2 => some ⟨span, 0#1, 3#4, rs2, rs1, 1#1 ++ ty, rd, 0x2b#7⟩
  | .cvt span ty rd rs1 sel => some ⟨span, 0#1, 4#4, sel, rs1, ty, rd, 0x2b#7⟩
  | .cvtr span ty rd rs1 sel => some ⟨span, 0#1, 5#4, sel, rs1, ty, rd, 0x2b#7⟩
  | .clz span ty rd rs1 => some ⟨span, 0#1, 6#4, 0#5, rs1, 1#1 ++ ty, rd, 0x2b#7⟩
  | .popc span ty rd rs1 => some ⟨span, 0#1, 7#4, 0#5, rs1, 1#1 ++ ty, rd, 0x2b#7⟩
  | .abs span ty rd rs1 => some ⟨span, 0#1, 8#4, 0#5, rs1, ty, rd, 0x2b#7⟩
  | .neg span ty rd rs1 => some ⟨span, 0#1, 9#4, 0#5, rs1, ty, rd, 0x2b#7⟩
  | .perm span ty rd rs1 rs2 => some ⟨span, 0#1, 0xa#4, rs2, rs1, ty, rd, 0x2b#7⟩
  | .gsum span ty rd rs1 => some ⟨span, 0#1, 0xb#4, 0#5, rs1, 1#1 ++ ty, rd, 0x2b#7⟩
  | .fclass span ty rd rs1 => some ⟨span, 0#1, 0xc#4, 0#5, rs1, 0#1 ++ ty, rd, 0x2b#7⟩
  | .lmsk span ty rd rs1 => some ⟨span, 0#1, 0xd#4, 0#5, rs1, ty, rd, 0x2b#7⟩
  | .lexp span ty rd rs1 => some ⟨span, 0#1, 0xe#4, 0#5, rs1, ty, rd, 0x2b#7⟩
  | .qenc span ty rd rs1 rs2 => some ⟨span, 1#1, 0#4, rs2, rs1, 0#1 ++ ty, rd, 0x2b#7⟩
  | .qdec span ty rd rs1 rs2 => some ⟨span, 1#1, 1#4, rs2, rs1, 0#1 ++ ty, rd, 0x2b#7⟩
  | .qfp8 span ty rd rs1 rs2 => some ⟨span, 1#1, 2#4, rs2, rs1, 0#1 ++ ty, rd, 0x2b#7⟩
  | .qfp8x span ty rd rs1 rs2 => some ⟨span, 1#1, 3#4, rs2, rs1, 0#1 ++ ty, rd, 0x2b#7⟩
  | .dfp8 span ty rd rs1 rs2 => some ⟨span, 1#1, 4#4, rs2, rs1, 0#1 ++ ty, rd, 0x2b#7⟩
  | .dfp8x span ty rd rs1 rs2 => some ⟨span, 1#1, 5#4, rs2, rs1, 0#1 ++ ty, rd, 0x2b#7⟩
  | .tabld t rs1 => some ⟨0#2, 1#1, 6#4, 0#3 ++ t, rs1, 0#3, 0#5, 0x2b#7⟩
  | .ldg span rd rs1 imm => some ⟨span, imm.extractLsb' 9 1, imm.extractLsb' 5 4, imm.extractLsb' 0 5, rs1, 0#3, rd, 0x5b#7⟩
  | .stg span rs2 rs1 imm => some ⟨span, imm.extractLsb' 9 1, imm.extractLsb' 5 4, rs2, rs1, 1#3, imm.extractLsb' 0 5, 0x5b#7⟩
  | .lde rd rs1 => some ⟨0#2, 0#1, 0#4, 0#5, rs1, 2#3, rd, 0x5b#7⟩
  | .ldt rd rs1 => some ⟨0#2, 0#1, 1#4, 0#5, rs1, 2#3, rd, 0x5b#7⟩
  | .stf rs1 rs2 => some ⟨0#2, 0#1, 2#4, rs2, rs1, 2#3, 0#5, 0x5b#7⟩
  | .stp rs1 rs2 => some ⟨0#2, 0#1, 3#4, rs2, rs1, 2#3, 0#5, 0x5b#7⟩
  | .tagrd rd rs1 => some ⟨0#2, 0#1, 4#4, 0#5, rs1, 2#3, rd, 0x5b#7⟩
  | .tagset rd rs1 rs2 => some ⟨0#2, 0#1, 5#4, rs2, rs1, 2#3, rd, 0x5b#7⟩
  | .waitA rd rs1 rs2 => some ⟨0#2, 0#1, 6#4, rs2, rs1, 2#3, rd, 0x5b#7⟩
  | .wake rd rs1 rs2 => some ⟨0#2, 0#1, 7#4, rs2, rs1, 2#3, rd, 0x5b#7⟩
  | .ldx rd rs1 => some ⟨0#2, 0#1, 8#4, 0#5, rs1, 2#3, rd, 0x5b#7⟩
  | .stx rs2 rs1 rm => some ⟨0#2, 0#1, 9#4, rs2, rs1, 2#3, rm, 0x5b#7⟩
  | .amadd size ar rd rs2 rs1 => some ⟨size ++ ar, 0#1, 0#4, rs2, rs1, 3#3, rd, 0x5b#7⟩
  | .amand size ar rd rs2 rs1 => some ⟨size ++ ar, 0#1, 1#4, rs2, rs1, 3#3, rd, 0x5b#7⟩
  | .amor size ar rd rs2 rs1 => some ⟨size ++ ar, 0#1, 2#4, rs2, rs1, 3#3, rd, 0x5b#7⟩
  | .amxor size ar rd rs2 rs1 => some ⟨size ++ ar, 0#1, 3#4, rs2, rs1, 3#3, rd, 0x5b#7⟩
  | .ammin size ar rd rs2 rs1 => some ⟨size ++ ar, 0#1, 4#4, rs2, rs1, 3#3, rd, 0x5b#7⟩
  | .ammax size ar rd rs2 rs1 => some ⟨size ++ ar, 0#1, 5#4, rs2, rs1, 3#3, rd, 0x5b#7⟩
  | .amminn size ar rd rs2 rs1 => some ⟨size ++ ar, 0#1, 6#4, rs2, rs1, 3#3, rd, 0x5b#7⟩
  | .ammaxn size ar rd rs2 rs1 => some ⟨size ++ ar, 0#1, 7#4, rs2, rs1, 3#3, rd, 0x5b#7⟩
  | .amswp size ar rd rs2 rs1 => some ⟨size ++ ar, 0#1, 8#4, rs2, rs1, 3#3, rd, 0x5b#7⟩
  | .amcas size ar rd rs2 rs1 => some ⟨size ++ ar, 0#1, 9#4, rs2, rs1, 3#3, rd, 0x5b#7⟩
  | .amfadd size ar rd rs2 rs1 => some ⟨size ++ ar, 0#1, 0xa#4, rs2, rs1, 3#3, rd, 0x5b#7⟩
  | .amfaddC size ar rd rs2 rs1 => some ⟨size ++ ar, 0#1, 0xb#4, rs2, rs1, 3#3, rd, 0x5b#7⟩
  | .fenceS kind scope => some ⟨0#2, 0#1, 0#4, kind ++ scope, 0#5, 4#3, 0#5, 0x5b#7⟩
  | .fenceE => some ⟨0#2, 0#1, 1#4, 0#5, 0#5, 4#3, 0#5, 0x5b#7⟩
  | .pbind rd rs1 rs2 => some ⟨0#2, 0#1, 0#4, rs2, rs1, 5#3, rd, 0x5b#7⟩
  | .punb rd rs1 => some ⟨0#2, 0#1, 1#4, 0#5, rs1, 5#3, rd, 0x5b#7⟩
  | .pstat rd rs1 => some ⟨0#2, 0#1, 2#4, 0#5, rs1, 5#3, rd, 0x5b#7⟩
  | .psave rs1 rs2 => some ⟨0#2, 0#1, 3#4, rs2, rs1, 5#3, 0#5, 0x5b#7⟩
  | .prest rd rs1 rs2 => some ⟨0#2, 0#1, 4#4, rs2, rs1, 5#3, rd, 0x5b#7⟩
  | .pskip rd rs1 rs2 => some ⟨0#2, 0#1, 5#4, rs2, rs1, 5#3, rd, 0x5b#7⟩
  | .isect rd rs1 => some ⟨0#2, 0#1, 6#4, 0#5, rs1, 5#3, rd, 0x5b#7⟩
  | .tlook rd rs1 rs2 => some ⟨0#2, 0#1, 0#4, rs2, rs1, 6#3, rd, 0x5b#7⟩
  | .tins rd rs1 rs2 => some ⟨0#2, 0#1, 1#4, rs2, rs1, 6#3, rd, 0x5b#7⟩
  | .tinv rd rs1 rs2 => some ⟨0#2, 0#1, 2#4, rs2, rs1, 6#3, rd, 0x5b#7⟩
  | .reach rs2hi rs1hi rdhi => some ⟨0#2, 0#1, 0#4, 0#3 ++ rs2hi, 0#3 ++ rs1hi, 0#3, 0#3 ++ rdhi, 0x7b#7⟩
  | .when neg pbit => some ⟨0#2, 1#1, neg ++ 0#3, 0#4 ++ (pbit.extractLsb' 5 1), pbit.extractLsb' 0 5, 0#3, 0#5, 0x7b#7⟩
  | .pitch len stag rs1 sd sa sb rot => some ⟨1#2, 0#1, len, stag, rs1, 0#3, sd ++ sa ++ sb ++ rot, 0x7b#7⟩
  | .mmBf16 s3 rd rs1 rs2 => some ⟨s3.extractLsb' 1 2, s3.extractLsb' 0 1, 0#4, rs2, rs1, 1#3, rd, 0x7b#7⟩
  | .mmF16 s3 rd rs1 rs2 => some ⟨s3.extractLsb' 1 2, s3.extractLsb' 0 1, 1#4, rs2, rs1, 1#3, rd, 0x7b#7⟩
  | .mmE4m3 s3 rd rs1 rs2 => some ⟨s3.extractLsb' 1 2, s3.extractLsb' 0 1, 2#4, rs2, rs1, 1#3, rd, 0x7b#7⟩
  | .mmE5m2 s3 rd rs1 rs2 => some ⟨s3.extractLsb' 1 2, s3.extractLsb' 0 1, 3#4, rs2, rs1, 1#3, rd, 0x7b#7⟩
  | .mmE4m3E5m2 s3 rd rs1 rs2 => some ⟨s3.extractLsb' 1 2, s3.extractLsb' 0 1, 4#4, rs2, rs1, 1#3, rd, 0x7b#7⟩
  | .mmE5m2E4m3 s3 rd rs1 rs2 => some ⟨s3.extractLsb' 1 2, s3.extractLsb' 0 1, 5#4, rs2, rs1, 1#3, rd, 0x7b#7⟩
  | .mmC8 s3 rd rs1 rs2 => some ⟨s3.extractLsb' 1 2, s3.extractLsb' 0 1, 6#4, rs2, rs1, 1#3, rd, 0x7b#7⟩
  | .mmBf16C8 s3 rd rs1 rs2 => some ⟨s3.extractLsb' 1 2, s3.extractLsb' 0 1, 7#4, rs2, rs1, 1#3, rd, 0x7b#7⟩
  | .mmE2m1 s3 rd rs1 rs2 => some ⟨s3.extractLsb' 1 2, s3.extractLsb' 0 1, 8#4, rs2, rs1, 1#3, rd, 0x7b#7⟩
  | .mmI8 s3 rd rs1 rs2 => some ⟨s3.extractLsb' 1 2, s3.extractLsb' 0 1, 9#4, rs2, rs1, 1#3, rd, 0x7b#7⟩
  | .mmF32x s3 rd rs1 rs2 => some ⟨s3.extractLsb' 1 2, s3.extractLsb' 0 1, 0xa#4, rs2, rs1, 1#3, rd, 0x7b#7⟩
  | .mbload rd rs1 => some ⟨0#2, 0#1, 0#4, 0#5, rs1, 2#3, rd, 0x7b#7⟩
  | .mst rd rs1 => some ⟨0#2, 0#1, 1#4, 0#5, rs1, 2#3, rd, 0x7b#7⟩
  | .mwait rd rs1 => some ⟨0#2, 0#1, 2#4, 0#5, rs1, 2#3, rd, 0x7b#7⟩
  | .mpoll rd rs1 => some ⟨0#2, 0#1, 3#4, 0#5, rs1, 2#3, rd, 0x7b#7⟩
  | .mrestart rd rs1 => some ⟨0#2, 0#1, 4#4, 0#5, rs1, 2#3, rd, 0x7b#7⟩
  | .mclr rd rs1 => some ⟨0#2, 0#1, 5#4, 0#5, rs1, 2#3, rd, 0x7b#7⟩
  | .hcopy rd rs1 => some ⟨0#2, 0#1, 8#4, 0#5, rs1, 2#3, rd, 0x7b#7⟩
  | .hcopy2 rd rs1 => some ⟨0#2, 0#1, 9#4, 0#5, rs1, 2#3, rd, 0x7b#7⟩
  | .hcopyn rd rs1 => some ⟨0#2, 0#1, 0xa#4, 0#5, rs1, 2#3, rd, 0x7b#7⟩
  | .hgath rd rs1 => some ⟨0#2, 0#1, 0xb#4, 0#5, rs1, 2#3, rd, 0x7b#7⟩
  | .hscat rd rs1 => some ⟨0#2, 0#1, 0xc#4, 0#5, rs1, 2#3, rd, 0x7b#7⟩
  | .hpair rd rs1 => some ⟨0#2, 0#1, 0xd#4, 0#5, rs1, 2#3, rd, 0x7b#7⟩
  | .hwait rd rs1 => some ⟨0#2, 0#1, 0xe#4, 0#5, rs1, 2#3, rd, 0x7b#7⟩
  | .hpoll rd rs1 => some ⟨0#2, 0#1, 0xf#4, 0#5, rs1, 2#3, rd, 0x7b#7⟩
  | .jobint rd rs1 => some ⟨0#2, 1#1, 0#4, 0#5, rs1, 2#3, rd, 0x7b#7⟩
  | .salloc rd rs1 => some ⟨0#2, 0#1, 0#4, 0#5, rs1, 3#3, rd, 0x7b#7⟩
  | .sfree rd rs1 => some ⟨0#2, 0#1, 1#4, 0#5, rs1, 3#3, rd, 0x7b#7⟩
  | .sset rd rs1 rs2 => some ⟨0#2, 0#1, 2#4, rs2, rs1, 3#3, rd, 0x7b#7⟩
  | .supd rs1 rs2 rt => some ⟨0#2, 0#1, 3#4, rs2, rs1, 3#3, rt, 0x7b#7⟩
  | .sroll rd rs1 rs2 => some ⟨0#2, 0#1, 4#4, rs2, rs1, 3#3, rd, 0x7b#7⟩
  | .sscale rd rs1 rs2 => some ⟨0#2, 0#1, 5#4, rs2, rs1, 3#3, rd, 0x7b#7⟩
  | .sscaleH rd rs1 rs2 => some ⟨0#2, 0#1, 6#4, rs2, rs1, 3#3, rd, 0x7b#7⟩
  | .sread rd rs1 rs2 => some ⟨0#2, 0#1, 7#4, rs2, rs1, 3#3, rd, 0x7b#7⟩
  | .sgen rd rs1 => some ⟨0#2, 0#1, 8#4, 0#5, rs1, 3#3, rd, 0x7b#7⟩
  | .sflush rd => some ⟨0#2, 0#1, 9#4, 0#5, 0#5, 3#3, rd, 0x7b#7⟩
  | .sscaleG rd rs1 rs2 => some ⟨0#2, 0#1, 0xa#4, rs2, rs1, 3#3, rd, 0x7b#7⟩
  | .spawn rd rs1 => some ⟨0#2, 0#1, 0#4, 0#5, rs1, 4#3, rd, 0x7b#7⟩
  | .exit => some ⟨0#2, 0#1, 1#4, 0#5, 0#5, 4#3, 0#5, 0x7b#7⟩
  | .yield => some ⟨0#2, 0#1, 2#4, 0#5, 0#5, 4#3, 0#5, 0x7b#7⟩
  | .trav rd rs1 => some ⟨0#2, 0#1, 3#4, 0#5, rs1, 4#3, rd, 0x7b#7⟩
  | .msgReg rs1 rs2 => some ⟨0#2, 0#1, 4#4, rs2, rs1, 4#3, 0#5, 0x7b#7⟩
  | .msgDec rs1 rs2 => some ⟨0#2, 0#1, 5#4, rs2, rs1, 4#3, 0#5, 0x7b#7⟩
  | .ctrSet rd rs1 rs2 => some ⟨0#2, 0#1, 6#4, rs2, rs1, 4#3, rd, 0x7b#7⟩
  | .ctrRd rd rs1 => some ⟨0#2, 0#1, 7#4, 0#5, rs1, 4#3, rd, 0x7b#7⟩
  | .hcall rd rs1 rs2 => some ⟨0#2, 0#1, 8#4, rs2, rs1, 4#3, rd, 0x7b#7⟩
  | .hret rs1 => some ⟨0#2, 0#1, 9#4, 0#5, rs1, 4#3, 0#5, 0x7b#7⟩
  | .xempty nlog rd => some ⟨0#2, 0#1, 0xa#4, 0#3 ++ nlog, 0#5, 4#3, rd, 0x7b#7⟩
  | .ixret => some ⟨0#2, 0#1, 0xb#4, 0#5, 0#5, 4#3, 0#5, 0x7b#7⟩
  | .ropeForm rd rs1 => some ⟨0#2, 0#1, 0#4, 0#5, rs1, 5#3, rd, 0x7b#7⟩
  | .ropeEnd => some ⟨0#2, 0#1, 1#4, 0#5, 0#5, 5#3, 0#5, 0x7b#7⟩
  | .unclip rd => some ⟨0#2, 0#1, 2#4, 0#5, 0#5, 5#3, rd, 0x7b#7⟩
  | .clip rd rs1 => some ⟨0#2, 0#1, 3#4, 0#5, rs1, 5#3, rd, 0x7b#7⟩
  | .collRed rd rs1 rs2 => some ⟨0#2, 0#1, 8#4, rs2, rs1, 5#3, rd, 0x7b#7⟩
  | .gqPush rs1 rs2 => some ⟨0#2, 0#1, 0xa#4, rs2, rs1, 5#3, 0#5, 0x7b#7⟩
  | .gqPop rd rs1 => some ⟨0#2, 0#1, 0xb#4, 0#5, rs1, 5#3, rd, 0x7b#7⟩
  | .gqWin rd rs1 rs2 => some ⟨0#2, 0#1, 0xc#4, rs2, rs1, 5#3, rd, 0x7b#7⟩
  | .tret rs1 => some ⟨0#2, 0#1, 0#4, 0#5, rs1, 6#3, 0#5, 0x7b#7⟩
  | .xret => some ⟨0#2, 0#1, 1#4, 0#5, 0#5, 6#3, 0#5, 0x7b#7⟩
  | .beat => some ⟨0#2, 0#1, 2#4, 0#5, 0#5, 6#3, 0#5, 0x7b#7⟩
  | .cairnOpen rd rs1 => some ⟨0#2, 0#1, 3#4, 0#5, rs1, 6#3, rd, 0x7b#7⟩
  | .cairnClose rd rs1 => some ⟨0#2, 0#1, 4#4, 0#5, rs1, 6#3, rd, 0x7b#7⟩
  | .hintRegion => some ⟨0#2, 0#1, 0#4, 0#5, 0#5, 7#3, 0#5, 0x7b#7⟩
  | .packageReset .. => none
  | .cxlLinkReset .. => none
  | .powerMeasure .. => none
  | .thermalThrottle .. => none
  | .thermalTrip .. => none
  | .patrolScrub .. => none
  | .queueDoorbell .. => none
  | .queueEnable .. => none
  | .registerWrite .. => none
  | .dispatchRecord .. => none
  | .launchAccept .. => none
  | .launchEligible .. => none
  | .dependenceReread .. => none
  | .launchPlace .. => none
  | .threadStart .. => none
  | .launchComplete .. => none
  | .createTenant .. => none
  | .assign .. => none
  | .writeAccessTableWord .. => none
  | .writeRouteEntry .. => none
  | .bindQueue .. => none
  | .setHdmRange .. => none
  | .resetTenant .. => none
  | .destroyTenant .. => none
  | .setPowerLimit .. => none
  | .haltOrRelease .. => none
  | .setBivouac .. => none
  | .hostRead .. => none
  | .hostWrite .. => none
  | .spdmCertificate .. => none
  | .spdmMeasurements .. => none
  | .peerAccess .. => none
  | .linkReplay .. => none
  | .linkFailure .. => none
  | .routerForward .. => none
  | .combineWindowClose .. => none
  | .ageIncrement .. => none
  | .depotSpill .. => none
  | .depotReinject .. => none
  | .homeAccess .. => none
  | .memoryReply .. => none
  | .holdRetry .. => none
  | .messageArrival .. => none
  | .messageRetry .. => none
  | .registerDelivery .. => none
  | .counterDecrement .. => none
  | .taskStart .. => none
  | .handlerStart .. => none
  | .traverseLanding .. => none
  | .bivouacRefill .. => none
  | .arrivalResend .. => none
  | .threadWake .. => none
  | .jobAccept .. => none
  | .haulJobStart .. => none
  | .haulJobFinal .. => none
  | .mbloadJob .. => none
  | .multiplyJob .. => none
  | .mstJob .. => none
  | .mclrJob .. => none
  | .matrixJobFinal .. => none
  | .summitUpdateApply .. => none
  | .userInterruptDelivery .. => none
  | .portPrefetch .. => none
  | .portPushPerform .. => none
  | .pitchReplay .. => none
  | .ropeStep .. => none
  | .barrierCfgWrite .. => none
  | .barrierArriveWait .. => none
  | .barrierArrive .. => none
  | .barrierChildArrival .. => none
  | .barrierParentRelease .. => none
  | .mutexAcquire .. => none
  | .mutexTry .. => none
  | .mutexRelease .. => none
  | .eventWait .. => none
  | .eventSet .. => none
  | .eventClear .. => none
  | .eventCfgWrite .. => none
  | .eventForwardedSet .. => none
  | .collRoundComplete .. => none
  | .collRoundFail .. => none
  | .gqCreditGrant .. => none
  | .gqEntryArrival .. => none
  | .cairnBackgroundCapture .. => none
  | .pageWalk .. => none
  | .walkComplete .. => none
  | .stlbinv .. => none
  | .sprePark .. => none
  | .spreSpill .. => none
  | .spreSpillStores .. => none
  | .spreResume .. => none
  | .spreHalt .. => none
  | .spreReleaseHalt .. => none
  | .sxvalRead .. => none
  | .sxvalWrite .. => none
  | .activationStart .. => none
  | .watchdogFire .. => none
  | .spawnReply .. => none
  | .peerGroupLeave .. => none

/-- The word of an encoded instruction (R34 to R37, R48 to R52, R63). -/
def encode (i : Instr) : Option (BitVec 32) := (encodeParts i).map Parts.toWord

end Sys2Proof
end

