-- ==== Sys2Proof/Machine/Issue.lean ====
section
/-! DEFINITION. Sys2Proof/Machine/Issue.lean: fetching an instruction's words (R41, R71), the conditions threads wait for
(R310), the barrel's choice of a slot (R311 to R313), and the reading of a prefixed instruction word by word (R41). -/

namespace Sys2Proof.Machine

/-- The global core number of a job's issuing core. -/
def JobRef.coreNo (j : JobRef) : Nat := j.octet * 8 + j.core

/-- The state kept for a job (R140, R230): state 5 when it is none of the core's last 64. -/
def State.jobState (s : State) (j : JobRef) : JobState :=
  let c := s.core j.coreNo
  ((if j.matrix then c.matStates else c.haulStates).find? (·.seq == j.seq)).getD ⟨j.seq, 5, 0, 0, 0⟩

/-- A job that is neither queued nor running (R286). -/
def State.jobFinal (s : State) (j : JobRef) : Bool := decide (2 ≤ (s.jobState j).state)

/-- Bodies on a core's four pitch sequencers (R164, R167); a stopped body keeps its own (DESIGN CHOICE, notes/assumptions/90.md). -/
def State.bodiesOn (s : State) (core : Nat) : Nat := ((s.onCore core).filter fun p => p.2.body.isSome).length

/-- The lowest pitch sequencer of a core that runs no body (R164). -/
def State.freeSequencer (s : State) (core : Nat) : Nat :=
  ((List.range 4).find? fun q => !(s.onCore core).any fun p => p.2.body.any (·.seq == q)).getD 0

/-- The granules of an epoch: 64-byte units of its present pages within its range, by physical address / 64 (R371). -/
def Epoch.granules (e : Epoch) : List Nat :=
  e.pages.flatMap fun p =>
    ((List.range (p.2.2.1 / 64)).filter fun i => decide (e.base ≤ p.1 + 64 * i) && decide (p.1 + 64 * i < e.base + e.len)).map
      fun i => p.2.1 / 64 + i

/-- The condition a thread waits for has cleared (R310). -/
def State.clear (s : State) (slot : Nat) (t : Thread) : Cond → Bool
  | .fullReg n => (t.reg n).full
  | .heldBy regs ports => match t.body with
    | some b => !(regs.any b.heldRegs.contains || ports.any b.heldPorts.contains)
    | none => true
  | .noBody => t.body.isNone
  | .sequencer => decide (s.bodiesOn (coreOf slot) < 4)
  | .drained ids => !s.pending ids
  | .bufferRoom => decide ((s.core (coreOf slot)).sb.length < 16)
  | .reply => t.pend.isNone
  | .portWords h n =>
    match (s.drawLinks slot h 16).thread? slot with
    | some t1 => match amGet t1.ports h with
      | some p => !(decide (p.held.length * p.g < n) && !t1.portEnded p) && !s.forwardFull slot p
      | none => true
    | none => false
  | .skipWords h => s.canSkip slot h
  | .isectWords v => !s.isectWaits slot v
  | .replies => t.calls.isEmpty
  | .homeTurn k => !s.packets.any fun p => p.atHome && p.payload.keys.contains k && decide (p.came < s.cycle)
  | .dropped tn v ids => !s.pending ids && !s.contexts.any fun x => x.tenant == tn && match x.carried with
    | some y => v.getLsbD 0 || (decide (y.1.toNat ≤ v.toNat / 4096 * 4096) && decide (v.toNat / 4096 * 4096 < y.1.toNat + y.2.2))
    | none => false
  | .portRoom h n => match amGet t.ports h with
    | some p => if p.kind = 4 then decide ((s.fifoOut (coreOf slot) p.dir).length + n ≤ 4) else decide (p.readyWords + n ≤ 16)
    | none => true
  | .portIdle h => match amGet t.ports h with
    | some p => p.pushes.isEmpty
    | none => true
  | .jobsFinal js => js.all s.jobFinal
  | .acceptance m => !(s.octet (octetOf (coreOf slot))).candidates.contains (slot, m)
  | .spawnRoom => decide (t.spawns.length < 16)
  | .updates most => decide (t.updates.length ≤ most)
  | .credit q => t.windows.any fun w => w.queue == q && decide (0 < w.credits)
  | .entry q =>
    let h := amGetD (s.tenant t.tenant).queues q {}
    decide (h.head < h.tail) && (h.waiters.isEmpty || h.waiters.head? == some slot)
  | .collective pg => t.colls.isEmpty && (decide (pg = 0) || match amGet s.groupHolder pg with
    | some l => l == t.launch
    | none => true)
  | .captured => match (s.tenant t.tenant).epoch with
    | some e => e.failed || e.granules.all e.captured.contains
    | none => true
  | .activation => false
  | .resume => false
  | .clip _ => false
  | .partners => false
  | .ropeStep => false
  | .tableFree n => !s.tableBusy slot n && !s.tableLoads slot
  | .otherCycle c => s.cycle != c
  | .walk page _ => !(s.die (dieOf (coreOf slot))).walks.any fun w =>
      w.tenant == t.tenant && w.page == page && w.clusters.contains (clusterOf (coreOf slot))

/-- Ready, with nothing that keeps its next instruction from issuing (R311), and no delivery, reply or wake of this cycle
(R176, R315). -/
def State.eligible (s : State) (slot : Nat) (t : Thread) : Bool :=
  (t.run == .ready) && !t.frozen && !t.halted && !s.launchStopped t.launch && !s.inStream slot && t.landedAt != some s.cycle &&
  match t.hold with
  | some c => s.clear slot t c
  | none => true

/-- The first of the slot numbers after p, in rising order with wrap, that the test accepts. -/
def firstAfter (p : Nat) (f : Nat → Bool) : Option Nat :=
  ((List.range 64).map fun i => (p + 1 + i) % 64).find? f

/-- A slot of a core that row 1 of R311 may grant. -/
def State.canIssue (s : State) (core n : Nat) : Bool :=
  match s.thread? (core * 64 + n) with
  | some t => s.eligible (core * 64 + n) t
  | none => false

/-- Row 1 of R311 applies on a core. -/
def State.rowOne (s : State) (core : Nat) : Bool :=
  decide (s.cycle % 8 = 7) && (firstAfter (s.core core).fairPtr (s.canIssue core)).isSome

/-- The owner of an ordinary turn: the first occupied non-rope slot after the ordinary pointer (R313). -/
def State.owner (s : State) (core : Nat) : Option Nat :=
  firstAfter (s.core core).ordPtr fun n => (s.thread? (core * 64 + n)).isSome && !s.inStream (core * 64 + n)

/-- The slot the barrel grants this cycle on a core, with its new pointers (R311 rows 1 and 3, R313). -/
def State.grant (s : State) (core : Nat) : Option Nat × Core :=
  let c := s.core core
  let can (n : Nat) : Bool := s.canIssue core n
  let lend (n : Nat) : Bool := can n && match s.thread? (core * 64 + n) with | some t => !t.yielded | none => false
  let row3 : Option Nat × Core :=
    match s.owner core with
    | none => (none, c)
    | some o =>
      let c1 := { c with ordPtr := o }
      if can o then (some o, c1) else
      let launchOf (n : Nat) : Option (Nat × Bool) := (s.thread? (core * 64 + n)).map fun t => (t.launch, decide (n = 63))
      match firstAfter o fun n => lend n && launchOf n == launchOf o with
      | some n => (some n, c1)
      | none => (firstAfter o lend, c1)
  if s.cycle % 8 = 7 then
    match firstAfter c.fairPtr can with
    | some n => (some n, { c with fairPtr := n })
    | none => row3
  else row3

/-- A core's grant of this cycle is made (R311): its pointers move, and the owner of an ordinary turn yields no longer (R318). -/
def State.afterGrant (s : State) (core : Nat) : State :=
  let s1 := s.setCore core { (s.grant core).2 with issuedAt := some s.cycle }
  if s.rowOne core then s1 else
  match s.owner core with
  | some o => s1.modThread (core * 64 + o) fun t => { t with yielded := false }
  | none => s1

/-- The turn of the slot granted begins: it is refused no longer (R166). span: it enters the span pipe. -/
def State.turn (s : State) (core n : Nat) (span : Bool) : State :=
  let s1 := s.afterGrant core
  let s2 := if span then s1.modCore core fun c => { c with pipeAt := some s.cycle } else s1
  s2.modThread (core * 64 + n) fun t => { t with spanRefused := 0 }

/-- The granule of the fetch buffer that holds an address, read from its home on a miss (R71); an access that fails gives
its cause. -/
def State.granule (s : State) (slot : Nat) (t : Thread) (a : Word) : State × Except Nat Granule :=
  let core := coreOf slot
  let g := a.toNat / 64
  match amGet (s.core core).fetch g with
  | some x => (s, .ok x)
  | none =>
    let keep (s : State) (x : Granule) : State := s.modCore core fun c => { c with fetch := amPut c.fetch g x }
    -- a rope's stream fetches in its step (notes/assumptions/12.md)
    if s.slow && (s.ropeOf slot).isNone && s.misses core t.tenant a.toNat then
      (s.askWalk (clusterOf core) (dieOf core) t.tenant (a.toNat / 4096), .error (walkCause (a.toNat / 4096))) else
    match s.resolve core t.tenant (masterOf t.tenant core) a.toNat .fetch with
    | (s1, .error c) => (s1, .error c)
    | (s1, .ok (.mem ad _)) =>
      let k := ad / 64 * 8
      if (s1.unitAt core k).isNone && (s.ropeOf slot).isNone then (s1, .error (turnCause k)) else
      let s2 := (List.range 8).foldl (fun s i => s.settle (k + i)) ((s1.unitAt core k).getD s1)
      let x : Granule := ⟨(List.range 8).map fun i => s2.mem.word (k + i), (List.range 8).filter fun i => s2.mem.poisoned (k + i)⟩
      (keep s2 x, .ok x)
    | (s1, .ok y) =>
      -- memory outside the package (R403, R412): the words that come back are not of this state
      match s1.askOutside y with
      | (s2, .ok _) =>
        let x : Granule := ⟨(List.range 8).map fun i => Config.freeWord (s2.fresh + i), []⟩
        (keep { s2 with fresh := s2.fresh + 8 } x, .ok x)
      | (s2, .error c) => (s2, .error c)

/-- fetch32 of R41: the word at an address, or the trap's cause. -/
def State.fetch32 (s : State) (slot : Nat) (t : Thread) (a : Word) : State × Except Nat (BitVec 32) :=
  match s.granule slot t a with
  | (s1, .error c) => (s1, .error c)
  | (s1, .ok x) =>
    let i := a.toNat % 64 / 8
    if x.poison.contains i then (s1, .error 0x0E)
    else (s1, .ok ((x.words.getD i 0).extractLsb' (if a.getLsbD 2 then 32 else 0) 32))

/-- One instruction of the slot State.cur names: its words are fetched and decoded one after the other; a prefix latches
its bits and the next word follows (R41). ex gives each decoded word its meaning; pairs 11 to 15 have theirs (R228). -/
def runWords (ex : Instr → State → Host.Outcome State Fault Refusal)
    (badPair : BitVec 3 → BitVec 5 → BitVec 5 → BitVec 5 → State → Host.Outcome State Fault Refusal) :
    Nat → State → Host.Outcome State Fault Refusal
  | 0, s => .next s
  | fuel + 1, s =>
    match s.thread? s.cur with
    | none => .fault .noThread
    | some t =>
      match s.fetch32 s.cur t (t.pc + BitVec.ofNat 64 (4 * s.latch.n)) with
      | (s1, .error c) => .next (s1.trapAccess s1.cur c (t.pc + BitVec.ofNat 64 (4 * s.latch.n)))
      | (s1, .ok w) =>
        let s2 : State := { s1 with latch := { s1.latch with word := w } }
        match decodeWord w with
        | .error (.reservedPair s3 _ rd rs1 rs2) => badPair s3 rd rs1 rs2 s2
        | .error _ => .next (s2.trap s2.cur 0x01 (w.setWidth 64))
        | .ok i =>
          match ex i s2 with
          | .next s3 => if s3.latch.more then runWords ex badPair fuel { s3 with latch := { s3.latch with more := false } } else .next s3
          | r => r

/-- The words of the instruction at the thread's pc, by its core's fetch buffer (R321, R41). kinds has the prefixes read so
far; a second one of a kind is the last word read. -/
def State.streamWords (s : State) (slot : Nat) (t : Thread) :
    (fuel n : Nat) → (kinds : List Bool) → State × Except (Nat × Word) (List (BitVec 32))
  | 0, _, _ => (s, .ok [])
  | fuel + 1, n, kinds =>
    let a := t.pc + BitVec.ofNat 64 (4 * n)
    match s.fetch32 slot t a with
    | (s1, .error c) => (s1, .error (c, a))
    | (s1, .ok w) =>
      let kind : Option Bool := match decodeWord w with
        | .ok (.reach ..) => some false
        | .ok (.when ..) => some true
        | _ => none
      match kind with
      | some k =>
        if kinds.contains k then (s1, .ok [w]) else
        match s1.streamWords slot t fuel (n + 1) (k :: kinds) with
        | (s2, .ok ws) => (s2, .ok (w :: ws))
        | r => r
      | none => (s1, .ok [w])

/-- The core is still to issue such an instruction in this cycle: the slot it grants, or a rope's member, is at one. -/
def State.issuesNext (s : State) (core : Nat) (f : Instr → Bool) : Bool :=
  let such (ws : List (BitVec 32)) : Bool := match decodeWord (ws.getLastD 0) with | .ok i => f i | .error _ => false
  let next (slot : Nat) (t : Thread) : Bool :=
    match (s.ropeOf slot).filter fun r => s.inStream slot && r.2.members.head? != some slot with
    | some (_, r) =>
      !r.done.contains slot && (r.stream.find? fun e => e.1 + r.members.idxOf slot == r.step).any fun e => such e.2.2.1
    | none => match (s.streamWords slot t 3 0 []).2 with | .ok ws => such ws | .error _ => false
  (s.core core).issuedAt != some s.cycle &&
    (((s.grant core).1.bind fun n => (s.thread? (core * 64 + n)).map (next (core * 64 + n))).getD false ||
      s.threads.any fun p => coreOf p.1 == core && s.inStream p.1 && p.2.run == .ready && next p.1 p.2)

/-- The core is still to issue a ctr.set in this cycle (R346). -/
def State.armsNext (s : State) (core : Nat) : Bool :=
  s.issuesNext core fun i => match i with | .ctrSet .. => true | _ => false

/-- The instruction issues a job of the kind (R128, R129, R227). -/
def issuesJob (matrix : Bool) : Instr → Bool
  | .hcopy .. | .hcopy2 .. | .hcopyn .. | .hgath .. | .hscat .. | .hpair .. => !matrix
  | .mmBf16 .. | .mmF16 .. | .mmE4m3 .. | .mmE5m2 .. | .mmE4m3E5m2 .. | .mmE5m2E4m3 .. | .mmC8 .. | .mmBf16C8 .. | .mmE2m1 ..
  | .mmI8 .. | .mmF32x .. | .mbload .. | .mst .. | .mclr .. => matrix
  | _ => false

/-- A thread that has executed its one instruction under act 3 halts again (R399). -/
def State.haltStep (s : State) (slot : Nat) : State :=
  match s.thread? slot with
  | some t => (s.modThread slot fun t => { t with stepOne := false, stepped := false, halted := true }).supervisorTrap slot 0x11 0
      (s.streamPc slot t)
  | none => s

/-- The turn of a slot: a stopped pitch body's trap is taken first (R167), then a misaligned pc traps (R399), then the
instruction runs; at most three words (R41). A thread that steps once halts after it (R399). -/
def runSlot (ex : Instr → State → Host.Outcome State Fault Refusal)
    (badPair : BitVec 3 → BitVec 5 → BitVec 5 → BitVec 5 → State → Host.Outcome State Fault Refusal)
    (slot : Nat) (s : State) : Host.Outcome State Fault Refusal :=
  let s0 : State := { s with cur := slot, latch := {} }
  match s0.thread? slot with
  | none => .fault .noThread
  | some t =>
    match t.body.bind fun b => if b.taken then none else b.stop with
    | some _ => .next (s0.takeStop slot)
    | none =>
      if t.pc.extractLsb' 0 2 ≠ 0 then .next (s0.trapAt slot 0x03 t.pc t.pc)
      else if t.stepped then .next (s0.haltStep slot)
      else runWords ex badPair 3 s0

/-- Removes place i of a list. -/
def dropAt {α : Type} (l : List α) (i : Nat) : List α := l.take i ++ l.drop (i + 1)

/-- The 64-byte granule whose first words are the low bits of w, and zeros. -/
def fetchGranule (off nbits w : Nat) : Granule :=
  ⟨(List.range 8).map fun i => BitVec.ofNat 64 ((w % 2 ^ nbits) * 2 ^ (8 * off) / 2 ^ (64 * i)), []⟩

/-- A state in which a thread of the focus core's slot 0 is ready, and what its pc names in the fetch buffer is w. -/
def withWord (s : State) (nbits w : Nat) : State :=
  let slot := s.focus * 64
  let t : Thread := match s.thread? slot with
    | some t => { t with run := .ready, hold := none, frozen := false, halted := false, stepOne := false, stepped := false, body := none, landedAt := none,
                         pc := t.pc / 64 * 64 }
    | none => { pc := 0, limit := 128 }
  let s1 : State := { s.setThread slot t with
    agenda := [(1, .issue s.focus)], latch := {}, tripped := false, ropes := s.ropes.filter fun r => !r.2.members.contains slot, launches := amDel s.launches t.launch }
  s1.modCore s.focus fun c => { c with
    ordPtr := 63, fairPtr := 63, issuedAt := none, pipeAt := none, fetch := amPut c.fetch (t.pc.toNat / 64) (fetchGranule 0 nbits w) }

end Sys2Proof.Machine
end

