-- ==== Sys2Proof/Machine/Ports.lean ====
section
/-! DEFINITION. Sys2Proof/Machine/Ports.lean: the port instructions pbind, punb, pstat, psave, prest, pskip and isect (R145
to R149, R156 to R162). -/

namespace Sys2Proof.Machine

/-- Ports of a core's pool that are leased (R145). -/
def State.poolUsed (s : State) (core : Nat) : Nat :=
  ((s.onCore core).map fun p => p.2.ports.length).foldl (· + ·) 0

/-- The FIFO ends a port claims: (link out?, direction) (R155). -/
def Port.claims (p : Port) : List (Bool × Nat) :=
  match p.kind with
  | 2 => (false, p.dir) :: if p.fwd then [(true, opposite p.dir)] else []
  | 4 => [(true, p.dir)]
  | _ => []

/-- A FIFO end of a core that is claimed, by a port or by a rope other than the thread's own (R155, R321). -/
def State.claimed (s : State) (core slot : Nat) (e : Bool × Nat) : Bool :=
  (s.onCore core).any (fun t => t.2.ports.any fun hp => hp.2.claims.contains e) ||
  (s.core core).ropeClaims.any fun r => r.1 == e.1 && r.2.1 == e.2 &&
    match amGet s.ropes r.2.2 with | some x => !x.members.contains slot || x.left.contains slot | none => true

/-- An index port fit for an indirect port (R149, code 20). -/
def indexFit (t : Thread) (ixh : Nat) : Bool :=
  (match amGet t.ports ixh with
    | some q => q.bound.isNone && (decide (q.kind = 0) || decide (q.kind = 2)) && decide (q.g = 1)
    | none => false) &&
  !(t.ports.any fun hp => decide (hp.2.kind = 1) && hp.2.ixh == ixh)

/-- The dimensions a port's strides and counts use (R147, R148). -/
def Port.dims (p : Port) : Nat := if p.kind = 1 then 1 else (p.ctl.extractLsb' 4 2).toNat + 1

/-- A descriptor R149 refuses with cause 0x01. -/
def Port.illegal (p : Port) : Bool :=
  decide (4 < p.kind) || decide (2 ≤ p.sync) ||
  ((decide (p.kind = 2) || decide (p.kind = 4)) && decide (p.g ≠ 1)) ||
  (decide (p.kind ≠ 2) && decide (p.kind ≠ 4) && (List.range p.dims).any fun i => (p.stride i).toNat % 8 != 0) ||
  ((decide (p.kind = 0) || decide (p.kind = 3)) &&
    ((List.range p.dims).any (fun i => p.count i == 0) || decide (2 ^ 40 ≤ p.total)))

/-- The port a descriptor's words describe (R146), unbound at position 0. -/
def portOfDesc (ws : List Word) : Port :=
  { ctl := ws.getD 0 0, base := ws.getD 1 0, counts := ws.getD 2 0, strides := (ws.drop 3).take 4
    pos := 0, bound := none, ixh := ((ws.getD 0 0).extractLsb' 32 4).toNat, held := [], pushes := [], failed := none }

/-- The failure code of R149, if any. -/
def State.bindCode (s : State) (slot : Nat) (t : Thread) (p : Port) (xb : Nat) : Option Nat :=
  let core := coreOf slot
  let bound := t.ports.filter fun hp => hp.2.bound.isSome
  if 16 ≤ t.ports.length ∨ 16 ≤ s.poolUsed core then some 16
  else if xb ≠ 0 ∧ 4 ≤ bound.length then some 17
  else if xb ≠ 0 && (List.range p.g).any (fun i => bound.any fun hp => hp.2.covers (xb + i)) then some 18
  else if p.claims.any fun e => s.claimed core slot e || (neighbour core e.2).isNone then some 19
  else if p.kind = 1 && !indexFit t p.ixh then some 20
  else if t.ctx ≠ 0 then some 21
  else none

/-- The lowest free handle of a thread (R149). -/
def freeHandle (t : Thread) : Nat := ((List.range 16).find? fun h => (amGet t.ports h).isNone).getD 0

/-- The checks and the lease that pbind and prest share, once the descriptor's words are read (R149, R159). xb is the
register to bind, or 0. -/
def bindPort (s : State) (c : Ctx) (d : Nat) (p : Port) (xb : Nat) : State :=
  if (p.kind = 0 ∨ p.kind = 1 ∨ p.kind = 3) ∧ p.base.toNat % 8 ≠ 0 then s.trapc c 0x03 p.base
  else if p.illegal then s.trapc c 0x01 c.w
  else if xb % p.g ≠ 0 then s.trapc c 0x01 c.w
  else if xb ≠ 0 ∧ c.t.limit < xb + p.g then s.trapc c 0x02 (BitVec.ofNat 64 (max xb c.t.limit))
  else if xb ≠ 0 && heldRegs c.t ((List.range p.g).map (xb + ·)) then s.park c.slot (.heldBy ((List.range p.g).map (xb + ·)) [])
  else
    match s.bindCode c.slot c.t p xb with
    | some k => s.finish c d [BitVec.ofNat 64 k]
    | none =>
      let h := freeHandle c.t
      -- rd is written as it was named, before the binding
      (s.finish c d [BitVec.ofNat 64 h]).modThread c.slot fun t => { t with
        ports := amPut t.ports h { p with bound := if xb = 0 then none else some xb } }

/-- The eight words of a descriptor at an address of the own window (R149); the checks of its address come first. -/
def descWords (s : State) (c : Ctx) (at' : Word) (go : State → List Word → State) : State :=
  if at'.toNat % 64 ≠ 0 then s.trapc c 0x03 at'
  else if at'.toNat < Config.ownBase ∨ Config.ownBase + storeSize c.core < at'.toNat + 64 then s.trapc c 0x08 at'
  else loadAll c .load (fun s _ _ => s) ((List.range 8).map fun i => let va := at' + BitVec.ofNat 64 (8 * i); ⟨va, va, 0xFF⟩) s go

/-- pbind (R149). -/
def execPbind (rd rs1 rs2 : BitVec 5) (s : State) : Host.Outcome State Fault Refusal :=
  let d := s.latch.rd rd
  let a := s.latch.rs1 rs1
  let xb := s.latch.rs2 rs2
  issue s false [rs a, rname xb, rdst d] fun s c =>
    descWords s c (c.x a) fun s ws => bindPort s c d (portOfDesc ws) xb

/-- An instruction that names a port of a running or stopped pitch body waits until the body has ended (R156, R165). -/
def freeOfBody (s : State) (c : Ctx) (h : Nat) (go : State → State) : State :=
  match c.t.body with
  | some b => if b.heldPorts.contains h then s.park c.slot (.heldBy [] [h]) else go s
  | none => go s

/-- The handle of X[r][4:0] (R156). -/
def handleOf (v : Word) : Nat := (v.extractLsb' 0 5).toNat

/-- punb (R157). -/
def execPunb (rd rs1 : BitVec 5) (s : State) : Host.Outcome State Fault Refusal :=
  let d := s.latch.rd rd
  let a := s.latch.rs1 rs1
  issue s false [rs a, rdst d] fun s c =>
    let h := handleOf (c.x a)
    match amGet c.t.ports h with
    | none => s.finish c d [1]
    | some p =>
      freeOfBody s c h fun s =>
        if c.t.ports.any fun hp => decide (hp.2.kind = 1) && hp.2.ixh == h then s.finish c d [2]
        else if !p.pushes.isEmpty then s.park c.slot (.portIdle h)
        else ((s.dropAsk c.slot h).modThread c.slot fun t => { t with ports := amDel t.ports h }).finish c d
          [if p.failed.isSome then 3 else 0]

/-- The status word of a leased port (R158). -/
def Port.status (t : Thread) (h : Nat) (p : Port) : Word :=
  let fault : Option (Nat × Word) := match p.held.find? (·.fault.isSome) with
    | some e => e.fault
    | none => p.failed
  let ready := ((p.held.filter (·.fault.isNone)).length + p.pushes.length) * p.g
  BitVec.ofNat 64 (p.pos % 2 ^ 40 * 2 ^ 24 + (match fault with | some f => f.1 | none => 0) * 2 ^ 16 + min 16 ready * 2 ^ 11 +
    (if t.portEnded p then 2 ^ 10 else 0) + (if fault.isSome then 2 ^ 9 else 0) + (if p.bound.isSome then 2 ^ 8 else 0) +
    2 ^ 7 + p.kind * 16 + h)

/-- The status word of a pitch body (R167). -/
def PitchBody.status (b : PitchBody) : Word :=
  BitVec.ofNat 64 (b.iter % 2 ^ 32 * 2 ^ 32 + b.index % 16 * 2 ^ 28 +
    match b.stop with
    | some (c, _) => c % 256 * 2 ^ 16 + 2
    | none => 1)

/-- pstat (R158, R167). It waits for a running body that uses the port (R156), and reads the port of a stopped one, as the handler
of the stop's trap does in the manual's example (DEDUCED, notes/assumptions/14.md). -/
def execPstat (rd rs1 : BitVec 5) (s : State) : Host.Outcome State Fault Refusal :=
  let d := s.latch.rd rd
  let a := s.latch.rs1 rs1
  issue s false [rs a, rdst d] fun s c =>
    let h := handleOf (c.x a)
    if h = 16 then s.finish c d [match c.t.body with | some b => b.status | none => 0]
    else
      let status (s : State) : State := s.finish c d [match amGet c.t.ports h with | some p => p.status c.t h | none => 0]
      if c.t.body.any (·.stop.isSome) then status s else freeOfBody s c h status

/-- Word 7 of a save image (R146). -/
def Port.posWord (p : Port) : Word :=
  BitVec.ofNat 64 (p.pos % 2 ^ 40 + match p.bound with | some b => b % 128 * 2 ^ 40 + 2 ^ 47 | none => 0)

/-- The eight words of a save image (R146, R159). -/
def Port.image (p : Port) : List Word :=
  [p.ctl, p.base, p.counts, p.stride 0, p.stride 1, p.stride 2, p.stride 3, p.posWord]

/-- psave (R159): its eight words are performed at their home, after the thread's earlier stores there. -/
def execPsave (rs1 rs2 : BitVec 5) (s : State) : Host.Outcome State Fault Refusal :=
  let a := s.latch.rs1 rs1
  let b := s.latch.rs2 rs2
  issue s false [rs a, rs b] fun s c =>
    let h := handleOf (c.x a)
    let at' := c.x b
    match amGet c.t.ports h with
    | none => s.trapc c 0x01 c.w
    | some p =>
      if at'.toNat % 64 ≠ 0 then s.trapc c 0x03 at'
      else if at'.toNat < Config.ownBase ∨ Config.ownBase + storeSize c.core < at'.toNat + 64 then s.trapc c 0x08 at'
      else freeOfBody s c h fun s =>
        if !p.pushes.isEmpty then s.park c.slot (.portIdle h) else
        let k := (storeBase c.core + (at'.toNat - Config.ownBase)) / 8
        match s.ownBefore c.core c.slot k with
        | i :: is => s.park c.slot (.drained (i :: is))
        | [] => ((p.image.zipIdx).foldl (fun s w => s.writeWord (k + w.2) 0xFF#8 w.1 none) s).done c

/-- prest (R159): pbind from a save image. -/
def execPrest (rd rs1 rs2 : BitVec 5) (s : State) : Host.Outcome State Fault Refusal :=
  let d := s.latch.rd rd
  let a := s.latch.rs1 rs1
  let b := s.latch.rs2 rs2
  issue s false [rs a, rs b, rdst d] fun s c =>
    descWords s c (c.x a) fun s ws =>
      let w7 := ws.getD 7 0
      let p := portOfDesc ws
      let p1 := { p with
        pos := (w7.extractLsb' 0 40).toNat
        ixh := if p.kind = 1 then ((c.x b).extractLsb' 0 4).toNat else p.ixh }
      bindPort s c d p1 (if w7.getLsbD 47 then (w7.extractLsb' 40 7).toNat else 0)

/-- Skips k of the elements that remain for a port with an end (R160): those it holds, those it has asked for, those that index words
left over name, then those of its index port's words. -/
def State.skipElements (s : State) (slot h k : Nat) (p : Port) : State :=
  let held := p.held.filter fun e => !p.ofIndex e
  let past := k - held.length - p.asks.length - p.again.length
  let s1 := (if held.length < k then s.dropAsk slot h else s).modPort slot h fun q => { q with
    held := held.drop k ++ if past = 0 then p.held.filter p.ofIndex else []
    again := q.again.drop (k - held.length), pos := q.pos + k }
  if p.kind = 1 ∧ past ≠ 0 then
    (s1.dropAsk slot p.ixh).modPort slot p.ixh fun q => { q with held := q.held.drop past, pos := q.pos + past }
  else s1

/-- Skips an element of a port that draws on a link, which can be skipped now (R160); that of an indirect port goes with its index
word, unread where it is not held. -/
def State.skipOne (s : State) (slot h : Nat) : State :=
  match s.port? slot h with
  | none => s
  | some p =>
    if p.kind ≠ 1 then (s.drawLink slot h).popHeld slot h 1
    else if !p.held.isEmpty then s.modPort slot h fun q => { q with held := q.held.drop 1, pos := q.pos + 1 }
    else
      let s1 := s.dropAsk slot h
      let left := !(p.asks.isEmpty && p.again.isEmpty)
      (if left then s1 else (s1.drawLink slot p.ixh).popHeld slot p.ixh 1).modPort slot h fun q => { q with
        again := q.again.drop 1, pos := q.pos + 1 }

/-- Skips up to n elements of a port that draws on a link, as they come (R160): the number skipped. -/
def State.skipLink (s : State) (slot h : Nat) : Nat → State × Nat
  | 0 => (s, 0)
  | n + 1 => if s.canSkip slot h then (match (s.skipOne slot h).skipLink slot h n with | (s1, k) => (s1, k + 1)) else (s, 0)

/-- pskip (R160). Words of a link are discarded as they come; the port keeps the count of those a waiting pskip has discarded, so
that one that is abandoned goes on from there when it is executed again (DESIGN CHOICE, notes/assumptions/86.md). -/
def execPskip (rd rs1 rs2 : BitVec 5) (s : State) : Host.Outcome State Fault Refusal :=
  let d := s.latch.rd rd
  let a := s.latch.rs1 rs1
  let b := s.latch.rs2 rs2
  issue s false [rs a, rs b, rdst d] fun s c =>
    let h := handleOf (c.x a)
    let n := (c.x b).toNat
    if h = 16 then (s.modThread c.slot fun t => { t with body := none }).finish c d [0] else
    match amGet c.t.ports h with
    | none => s.trapc c 0x01 c.w
    | some p =>
      freeOfBody s c h fun s =>
        if p.kind = 4 then s.finish c d [0] else
        match c.t.remaining p with
        | some r => (s.skipElements c.slot h (min n r) p).finish c d [BitVec.ofNat 64 (min n r)]
        | none =>
          let before := match p.skipping with | some (pc, k) => if pc = c.t.pc then k else 0 | none => 0
          let r := s.skipLink c.slot h (min 32 (n - before))
          let keep (k : Option (Word × Nat)) : State := r.1.modPort c.slot h fun q => { q with skipping := k }
          if n ≤ before + r.2 then (keep none).finish c d [BitVec.ofNat 64 n]
          else (keep (some (c.t.pc, before + r.2))).park c.slot (.skipWords h)

/-- The longest prefix whose elements are at most lim (R161). -/
def prefixUpTo (lim : Word) (l : List Word) : List Word := l.takeWhile fun w => w.ule lim

/-- isect (R161). With one handle as A and B the elements of both prefixes are popped from the one port, A's first (DESIGN CHOICE,
notes/assumptions/91.md). -/
def execIsect (rd rs1 : BitVec 5) (s : State) : Host.Outcome State Fault Refusal :=
  let d := s.latch.rd rd
  let a := s.latch.rs1 rs1
  issue s false [rs a, rdst d] fun s c =>
    let v := c.x a
    let ha := (v.extractLsb' 0 4).toNat
    let hb := (v.extractLsb' 4 4).toNat
    let hq := (v.extractLsb' 8 4).toNat
    let feeder (h : Nat) (read : Bool) : Bool := match amGet c.t.ports h with
      | some p => p.bound.isNone && decide (p.g = 1) && p.isRead == read
      | none => false
    if !(feeder ha true && feeder hb true && feeder hq false) then s.trapc c 0x01 c.w else
    if s.isectWaits c.slot v then s.park c.slot (.isectWords v) else
    let s0 := (s.drawLinks c.slot ha 16).drawLinks c.slot hb 16
    match s0.thread? c.slot with
    | none => s0
    | some t =>
    match amGet t.ports ha, amGet t.ports hb, amGet t.ports hq with
    | some pa, some pb, some pq =>
      let k := s0.isectK c.core pa pb pq
      let need (p : Port) : Nat := t.window k p
      let fault (p : Port) : Option Word := t.windowFault k p
      match fault pa, fault pb with
        | some x, _ => (s0.dropFault c.slot ha).trapc c 0x0A x
        | none, some x => (s0.dropFault c.slot hb).trapc c 0x0A x
        | none, none =>
          let words (p : Port) : List Word := (p.held.take (need p)).map fun e => e.words.getD 0 0
          let wa := words pa
          let wb := words pb
          let ends (s : State) (n : Nat) : Word :=
            match s.thread? c.slot with
            | none => BitVec.ofNat 64 n
            | some t =>
              let e (h : Nat) : Bool := match amGet t.ports h with | some p => t.portEnded p | none => true
              BitVec.ofNat 64 (n + (if e ha then 2 ^ 63 else 0) + if e hb then 2 ^ 62 else 0)
          if wa.isEmpty || wb.isEmpty then s0.finish c d [ends s0 0] else
          let x := wa.getLastD 0
          let y := wb.getLastD 0
          let lim := if x.ult y then x else y
          let fa := prefixUpTo lim wa
          let fb := prefixUpTo lim wb
          let none' := fa.isEmpty && fb.isEmpty
          let na := if none' then 1 else fa.length
          let nb := if none' then 1 else fb.length
          let m := fa.filter fb.contains
          match (if m.isEmpty then none else pq.failed) with
          | some f => s0.trapc c 0x0A f.2
          | none =>
            if pq.kind = 3 ∧ pq.total - pq.pos < m.length then s0.trapc c 0x0A 0 else
            let s1 := (s0.popHeld c.slot ha na).popHeld c.slot hb nb
            let s2 := if pq.kind = 4 then
                (s1.pushLink c.core pq.dir m).modPort c.slot hq fun p => { p with pos := p.pos + m.length }
              else ({ s1 with nextId := s1.nextId + m.length } : State).modPort c.slot hq fun p =>
                { p with
                  pushes := p.pushes ++ m.zipIdx.map fun w => ⟨s1.nextId + w.2, p.addr (p.pos + w.2), [w.1]⟩
                  pos := p.pos + m.length }
            s2.finish c d [ends s2 m.length]
    | _, _, _ => s0

/-- The thread's read ports discard the elements they hold and have not popped, and those they have asked for, which are read
again (R152). Words drawn from a link cannot be read again, and stay. -/
def State.discardHeld (s : State) (slot : Nat) : State :=
  (s.dropAsks slot).modThread slot fun t => { t with
    ports := t.ports.map fun hp => (hp.1, if hp.2.kind ≤ 1 then hp.2.discard 0 else hp.2) }

end Sys2Proof.Machine
end

