-- ==== Sys2Proof/Machine/Launch.lean ====
section
/-! DEFINITION. Sys2Proof/Machine/Launch.lean: launch records (R300 to R303, R365), dependences (R304), placement (R305,
R306, R308, R348), thread start (R307, R319, R321), completion (R309), the bivouac's blocks (R383) and host completion
entries (R405). -/

namespace Sys2Proof.Machine

/-! The record -/

def Record.w (r : Record) (i : Nat) : Word := r.words.getD i 0
def Record.entry (r : Record) : Word := r.w 0
def Record.rect (r : Record) : Word := r.w 1
def Record.cfg (r : Record) : Word := r.w 2
def Record.nargs (r : Record) : Nat := (r.cfg.extractLsb' 32 6).toNat
def Record.opt (r : Record) : Bool := r.cfg.getLsbD 27
def Record.persist (r : Record) : Bool := r.cfg.getLsbD 26
/-- prio, lowered to the spawning launch's (R303). -/
def Record.prio (r : Record) : Nat := min (r.cfg.extractLsb' 24 2).toNat r.prioCap
/-- The rope length L. -/
def Record.rope (r : Record) : Nat := (r.cfg.extractLsb' 20 4).toNat + 1
def Record.ctx (r : Record) : Nat := (r.cfg.extractLsb' 16 2).toNat
/-- W. -/
def Record.window (r : Record) : Nat := 8 * (r.cfg.extractLsb' 8 5).toNat
def Record.slots (r : Record) : Nat := (r.cfg.extractLsb' 0 6).toNat
def Record.deadline (r : Record) : Nat := ((r.w 7).extractLsb' 0 32).toNat
def Record.stk (r : Record) : Nat := ((r.w 7).extractLsb' 32 14).toNat

/-- The die a rect word names. -/
def rectDie (rect : Word) : Nat := (rect.extractLsb' 0 3).toNat

/-- The cores of a rectangle by linear index (R301, R307, R365). -/
def coresOf (rect : Word) (opt : Bool) : List Nat :=
  let r := rectOf rect
  if opt then
    (List.range r.w).map fun i =>
      Config.computeCores + 64 * r.die + ((rect.extractLsb' 4 4).toNat * 16 + (rect.extractLsb' 8 4).toNat) + i
  else (List.range (r.h * r.w)).map fun i => coreAt r.die (r.row + i / r.w) (r.col + i % r.w)

/-- The rectangle lies outside the die (R303 code 1, R365). -/
def rectOutside (rect : Word) (opt : Bool) : Bool :=
  let r := rectOf rect
  if opt then
    decide (3 < (rect.extractLsb' 4 4).toNat) || decide (r.h ≠ 1) || decide ((rect.extractLsb' 12 3).toNat ≠ 0) ||
    decide (64 < (rect.extractLsb' 4 4).toNat * 16 + (rect.extractLsb' 8 4).toNat + r.w)
  else decide (64 < r.col + r.w) || decide (32 < r.row + r.h)

/-- An address a launch unit may decrement or wait on (R303 code 11). -/
def badWordAddress (a : Word) : Bool := decide (a.toNat % 8 ≠ 0) || decide (Config.ownBase ≤ a.toNat)

/-- Launches of a die accepted and not placed (R303 code 10). -/
def State.pendingOn (s : State) (die : Nat) : Nat :=
  ((s.die die).launches.filter fun l => match amGet s.launches l with
    | some x => decide (x.state ≤ 1)
    | none => false).length

/-- The first code of R303 that refuses a record at acceptance. -/
def State.recordCode (s : State) (r : Record) : Option Nat :=
  let w := (rectOf r.rect).w
  let W := r.window
  if rectOutside r.rect r.opt then some 1
  else if r.slots = 0 ∨ 62 < r.slots then some 2
  else if W = 0 ∨ 128 < W ∨ (r.ctx ≠ 0 ∧ W ≠ 8 * r.ctx) then some 3
  else if w % r.rope ≠ 0 ∨ (r.ctx ≠ 0 ∧ r.rope ≠ 1) ∨ (r.opt = true ∧ (r.rope ≠ 1 ∨ r.ctx ≠ 0)) then some 4
  else if 32 < r.nargs then some 5
  else if r.entry.toNat % 4 ≠ 0 then some 6
  else if r.stk ≠ 0 ∧ 131072 < r.slots * 16 * r.stk then some 7
  else if 2016 < r.slots * W then some 8
  else if (coresOf r.rect r.opt).any fun c => !s.assigned c r.tenant then some 9
  else if 1024 ≤ s.pendingOn (rectDie r.rect) then some 10
  else if badWordAddress (r.w 3) || badWordAddress (r.w 4) || badWordAddress (r.w 5) then some 11
  else if (s.tenant r.tenant).sbivlen = 0 then some 14
  else none

/-! Host completion entries -/

/-- A ring address of a queue leads to memory of the package (R80, R81, R84) within an HDM range of the queue's tenant (R404), whose
class the slice's access table lets the queue unit use (R409; DEDUCED, notes/assumptions/89.md). -/
def State.ringWord (s : State) (h : HostQueue) (a level : Nat) : Bool :=
  usablePa a && s.hdm.any fun r => r.2.tenant == h.tenant && decide (r.2.base ≤ a) && decide (a < r.2.base + r.2.len) &&
    s.accessOk (sliceOf a) (h.tenant * 8 + 6) r.2.cls level

/-- Writes a completion entry of a queue (R405): word 1, word 0, then ctail; returns the given number of reservations. An entry whose
place the queue unit may not write is dropped, with a machine-check record (DESIGN CHOICE, notes/assumptions/89.md). -/
def State.hostEntry (s : State) (q status code idx ident used : Nat) : State :=
  let h := s.queue q
  let base := (h.word1.extractLsb' 4 44).toNat * 16
  let n := 2 ^ (h.word1.extractLsb' 0 4).toNat
  let k := (base + 16 * (h.ctail % n)) / 8
  let w0 := BitVec.ofNat 64 (status * 2 ^ 56 + code % 256 * 2 ^ 48 + idx % 2 ^ 16 * 2 ^ 32 + ident % 2 ^ 32)
  let s1 := if s.ringWord h (8 * k) 2 && s.ringWord h (8 * k + 8) 2 then
      (s.writeWord (k + 1) 0xFF#8 (BitVec.ofNat 64 s.cycle) none).writeWord k 0xFF#8 w0 none
    else s.check 5 (8 * k)
  s1.setQueue q { s1.queue q with ctail := (h.ctail + 1) % 2 ^ 32, reserved := h.reserved - used }

/-- The word that reports a refusal (R318). -/
def refusalWord (code : Nat) : Word := BitVec.ofNat 64 (2 ^ 63 + code)

/-- The launch unit's reply to a waiting spawn. -/
def State.replySpawn (s : State) (slot : Nat) (v : Word) : State :=
  s.modThread slot fun t => match t.pend with
    | some p => if p.mode = 9 then { t with pend := some { p with got := [(0, v)] } } else t
    | none => t

/-- The thread waits for the reply to its spawn. -/
def State.spawning (s : State) (slot : Nat) : Bool :=
  match (s.thread? slot).bind (·.pend) with
  | some p => p.mode == 9
  | none => false

/-- The thread waits for the reply to the spawn of that launch, whose acceptance the unit has answered (R318). -/
def State.spawningOf (s : State) (slot ident : Nat) : Bool :=
  match (s.thread? slot).bind (·.pend) with
  | some p => p.mode == 9 && p.got == [(0, BitVec.ofNat 64 ident)]
  | none => false

/-- A launch unit takes a record: it refuses it, or accepts it as a pending launch (R303, R304, R318). -/
def State.acceptRecord (s : State) (r : Record) : State :=
  let die := rectDie r.rect
  match s.recordCode r with
  | some code =>
    match r.spawner, r.queue with
    | some slot, _ => s.replySpawn slot (refusalWord code)
    | none, some (q, i) => s.hostEntry q 1 code i 0 2
    | none, none => s
  | none =>
    let d := s.die die
    let ident := die * 2 ^ 29 + d.seq
    let dep (i : Nat) : Option Word := if r.w i = 0 then some 0 else none
    let l : Launch := {
      ident := ident, record := r, state := 0, arrival := s.nextId, deps := [dep 3, dep 4]
      cores := coresOf r.rect r.opt, rectNow := r.rect }
    let s1 : State := { s with nextId := s.nextId + 1 }
    let s2 := (s1.setLaunch ident l).setDie die { d with seq := (d.seq + 1) % 2 ^ 29, launches := d.launches ++ [ident] }
    match r.spawner, r.queue with
    | some slot, _ => (s2.replySpawn slot (BitVec.ofNat 64 ident)).modThread slot fun t => { t with spawns := t.spawns ++ [ident] }
    | none, some (q, i) => s2.hostEntry q 0 0 i ident 1
    | none, none => s2

/-- The spawn of a launch is outstanding no longer (R318). -/
def State.spawnEnds (s : State) (ident : Nat) : State := s.mapThreads fun t => { t with spawns := t.spawns.filter (· != ident) }

/-- A launch's record leaves its unit. -/
def State.dropLaunch (s : State) (l : Launch) : State :=
  ({ s with
    launches := amDel s.launches l.ident
    watches := s.watches.filter fun w => w.slot.isSome || w.launch != l.ident } : State).modDie (rectDie l.record.rect) fun d =>
      { d with launches := d.launches.filter (· != l.ident) }

/-- A launch is refused after acceptance (R304, R308, R318, R319, R405). -/
def State.refuseLaunch (s : State) (l : Launch) (code cause : Nat) (addr : Word) : State :=
  let waiting : Bool := match l.record.spawner with | some slot => s.spawningOf slot l.ident | none => false
  let s1 := (s.dropLaunch l).spawnEnds l.ident
  let s2 := match l.record.spawner, l.record.queue with
    | some slot, _ => if waiting then s1.replySpawn slot (refusalWord code) else s1
    | none, some (q, i) => s1.hostEntry q 1 code i l.ident 1
    | none, none => s1
  if code = 15 ∨ (l.record.spawner.isSome ∧ waiting = false) then
    s2.post l.record.tenant 0 code cause 5 addr (BitVec.ofNat 64 l.ident)
  else s2

/-! Dependences -/

/-- The unit reads dependence word i of a launch (R304): zero, or it waits as a watcher; a failure refuses the launch. An entry that
the walk finds upset is poisoned (R92). -/
def State.readDep (s : State) (lid i : Nat) : State :=
  match amGet s.launches lid with
  | none => s
  | some l =>
    let va := l.record.w (3 + i)
    let s := s.settleWalk l.record.tenant va.toNat
    match s.deviceTarget l.record.tenant va.toNat .wait with
    | .error c => s.refuseLaunch l 12 c va
    | .ok (.mem a _) =>
      match s.readWord (a / 8) with
      | (s1, .error c) => s1.refuseLaunch l 12 c va
      | (s1, .ok v) =>
        let s2 := s1.modLaunch lid fun l => { l with deps := l.deps.set i (some v) }
        let full := 256 ≤ (s2.watches.filter fun w => sliceOf (8 * w.key) == sliceOf a).length
        if v = 0 ∨ full then s2 else { s2 with watches := s2.watches ++ [⟨none, lid, i, a / 8⟩] }
    | .ok t =>
      -- a peer's word is read at its home there, and read again as one whose watch table is full (R411, R412)
      match s.askOutside t with
      | (s1, .error c) => s1.refuseLaunch l 12 c va
      | (s1, .ok v) => s1.modLaunch lid fun l => { l with deps := l.deps.set i (some v) }

/-- Some rope of the launch would cross a cluster edge (R319, code 13). -/
def ropeCrosses (r : Record) : Bool :=
  let x := rectOf r.rect
  decide (1 < r.rope) && (List.range (x.w / r.rope)).any fun j =>
    (x.col + j * r.rope) / 16 != (x.col + j * r.rope + r.rope - 1) / 16

/-- LAUNCH_ELIGIBLE (R304, R319). -/
def execLaunchEligible (lid : Nat) (s : State) : Host.Outcome State Fault Refusal :=
  event s fun s =>
    let unread (s : State) (i : Nat) : Bool := match amGet s.launches lid with
      | some l => decide (l.state = 0) && decide (l.deps.getD i (some 0) = none)
      | none => false
    let s1 := if unread s 0 then s.readDep lid 0 else s
    let s2 := if unread s1 1 then s1.readDep lid 1 else s1
    match amGet s2.launches lid with
    | none => s2
    | some l =>
      if l.state = 0 ∧ l.deps.all (· == some 0) then
        if ropeCrosses l.record then s2.refuseLaunch l 13 0 0 else s2.modLaunch lid fun l => { l with state := 1 }
      else s2

/-- DEPENDENCE_REREAD (R304): a word that was not zero, with no watcher of its own, is read again. -/
def execDependenceReread (lid : Nat) (s : State) : Host.Outcome State Fault Refusal :=
  event s fun s =>
    let again (s : State) (i : Nat) : Bool := match amGet s.launches lid with
      | some l => decide (l.state = 0) && (match l.deps.getD i none with | some v => v != 0 | none => false) &&
          !s.watches.any fun w => w.slot.isNone && w.launch == lid && w.dep == i
      | none => false
    let s1 := if again s 0 then s.readDep lid 0 else s
    if again s1 1 then s1.readDep lid 1 else s1

/-- LAUNCH_ACCEPT (R303): the die's launch unit takes the record that arrived first. -/
def execLaunchAccept (die : Nat) (s : State) : Host.Outcome State Fault Refusal :=
  event s fun s =>
    match (s.die die).inbox with
    | r :: rest => (s.modDie die fun d => { d with inbox := rest }).acceptRecord r
    | [] => s

/-! The bivouac's blocks -/

/-- The bivouac's length in blocks of 512 bytes (R383). -/
def Tenant.capacity (t : Tenant) : Nat := t.sbivlen.toNat * 4096

/-- The lowest run of n free blocks (R383). -/
def Tenant.freeRun (t : Tenant) (n : Nat) : Option Nat :=
  let fits (b : Nat) : Bool := decide (b + n ≤ t.capacity) && t.blocks.all fun u => decide (b + n ≤ u.1) || decide (u.1 + u.2 ≤ b)
  ((0 :: t.blocks.map fun u => u.1 + u.2).filter fits).min?

/-- The virtual address of a block. -/
def Tenant.blockVa (t : Tenant) (b : Nat) : Nat := t.sbiv.toNat + 512 * b

def blocksFor (bytes : Nat) : Nat := (bytes + 511) / 512

/-- Takes blocks for an item of the given size, first-fit (R383). -/
def State.takeBlocks (s : State) (tn bytes : Nat) : Option (Nat × State) :=
  let n := blocksFor bytes
  ((s.tenant tn).freeRun n).map fun b => (b, s.modTenant tn fun t => { t with blocks := (b, n) :: t.blocks })

def State.freeBlock (s : State) (tn b : Nat) : State :=
  s.modTenant tn fun t => { t with blocks := t.blocks.filter (·.1 != b) }

/-- The device writes an image whose layout the manual does not give: the words of its blocks are free values. The image
itself is kept beside memory. -/
def State.imageWords (s : State) (tn b bytes : Nat) : State :=
  (List.range (blocksFor bytes * 64)).foldl (fun s i =>
    match s.deviceStep tn ((s.tenant tn).blockVa b + 8 * i) (.device true) with
    | (s, .ok a) => { s.writeWord (a / 8) 0xFF#8 (Config.freeWord s.fresh) none with fresh := s.fresh + 1 }
    | (s, .error _) => s) s

/-- The bytes of a spilled thread or arrival (R383). -/
def contextBytes (t : Thread) : Nat := 1536 + 8 * t.limit

/-! Placement -/

/-- Slots of a core that launches may take and no thread or start holds (R306). -/
def State.freeSlots (s : State) (core : Nat) : List Nat :=
  (List.range 63).filter fun n => (s.thread? (core * 64 + n)).isNone &&
    !s.launches.any fun l => l.2.starting.any fun x => x.1 == core && x.2.1 == n

/-- The windows of a core's slots below 63: base and length (R306). -/
def State.windowsOn (s : State) (core : Nat) : List (Nat × Nat) :=
  ((s.threads.filter fun p => coreOf p.1 == core && decide (p.1 % 64 ≠ 63)).map fun p => (p.2.base, p.2.limit)) ++
  s.launches.flatMap fun l => (l.2.starting.filter (·.1 == core)).map fun x => (x.2.2.2, l.2.record.window)

/-- The lowest base of a free window of W entries among 0 to 2,015 (R306). -/
def lowestBase (taken : List (Nat × Nat)) (W : Nat) : Option Nat :=
  ((List.range 252).map (8 * ·)).find? fun b =>
    decide (b + W ≤ 2016) && taken.all fun u => decide (b + W ≤ u.1) || decide (u.1 + u.2 ≤ b)

/-- First-fit windows of the given lengths, in order (R306). -/
def fitWindows (taken : List (Nat × Nat)) : List Nat → Option (List Nat)
  | [] => some []
  | W :: rest =>
    match lowestBase taken W with
    | none => none
    | some b => (fitWindows ((b, W) :: taken) rest).map (b :: ·)

/-- A slot and window for one thread of W registers on a core (R347, R354). -/
def State.roomFor (s : State) (core W : Nat) : Option (Nat × Nat) :=
  match s.freeSlots core, lowestBase (s.windowsOn core) W with
  | n :: _, some b => some (n, b)
  | _, _ => none

/-- The window of a task (R347): W of its launch, or its context size; 32 for one that a handler armed, which is of no launch
(DESIGN CHOICE, notes/assumptions/62.md). -/
def State.taskWindow (s : State) (lid : Nat) : Nat :=
  match amGet s.launches lid with
  | some l => if l.record.ctx = 0 then l.record.window else 8 * l.record.ctx
  | none => 32

/-- A launch whose tasks and arrivals may start: it runs, and is not under pre-emption (R390). -/
def State.running (s : State) (lid : Nat) : Bool :=
  match amGet s.launches lid with
  | some l => decide (l.state = 2) && l.seqn.isNone && !(s.tenant l.record.tenant).frozen
  | none => false

/-- A task may start: its launch runs, or it is of none and its tenant is not frozen. -/
def State.taskRuns (s : State) (t : Task) : Bool :=
  if t.launch = 2 ^ 32 then !(s.tenant t.tenant).frozen else s.running t.launch

/-- The head of the ready queue, or of the arrival queue, is a candidate that fits (R348). -/
def State.candidateFits (s : State) (core : Nat) : Bool :=
  (match (s.core core).readyQ with
    | t :: _ => s.taskRuns t && (s.roomFor core (s.taskWindow t.launch)).isSome
    | [] => false) ||
  (match (s.core core).arrivals with
    | t :: _ => s.running t.launch && (s.roomFor core t.limit).isSome
    | [] => false)

/-- The contexts that a launch placed again brings to a place of its rectangle, in order of the slots they had. -/
def Launch.contextsAt (l : Launch) (i : Nat) : List SavedContext :=
  (l.contexts.filter fun x => x.place == i && !x.arrival)

/-- The window lengths a launch needs on the core at a place: its slots, or its saved contexts (R305, R391). -/
def Launch.needs (l : Launch) (i : Nat) : List Nat :=
  if l.state = 6 then (l.contextsAt i).map (·.thread.limit) else List.replicate l.record.slots l.record.window

/-- Another launch with a stack holds slots on the core (R305). -/
def State.stackHeld (s : State) (lid core : Nat) : Bool :=
  s.launches.any fun p => p.1 != lid && decide (p.2.record.stk ≠ 0) &&
    (p.2.starting.any (·.1 == core) || s.threads.any fun t => coreOf t.1 == core && t.2.launch == p.1)

/-- The number a spilled context has while it has no slot. -/
def spilledName (tenant block : Nat) : Nat := 2 ^ 40 + tenant * 2 ^ 32 + block

/-- A core has free ports, sequencers and FIFO ends for the contexts a launch brings back to it (R155, R162, R168). -/
def State.resumeFits (s : State) (l : Launch) (core i : Nat) : Bool :=
  let ts := (l.contextsAt i).map (·.thread)
  let claims := (ts.flatMap fun t => t.ports.flatMap fun hp => hp.2.claims) ++
    (s.ropes.filter (·.2.launch == l.ident)).flatMap fun r => (r.2.claims.filter fun c =>
      (l.contextsAt i).any fun x => some (spilledName l.record.tenant x.block) == r.2.members[c.1]?).map fun c => (c.2.1, c.2.2)
  decide (s.poolUsed core + (ts.map (·.ports.length)).sum ≤ 16) &&
  decide (s.bodiesOn core + (ts.filter (·.body.isSome)).length ≤ 4) &&
  claims.all fun e => !(s.onCore core).any (fun t => t.2.ports.any fun hp => hp.2.claims.contains e) &&
    !(s.core core).ropeClaims.any fun r => r.1 == e.1 && r.2.1 == e.2

/-- The slots and bases for a launch on each of its cores: place, core, slot, ordinal, base (R305, R306); none where it does
not fit. -/
def State.fitLaunch (s : State) (l : Launch) : Option (List (Nat × Nat × Nat × Nat × Nat)) :=
  (l.cores.zipIdx).foldr (fun (core, i) acc =>
    match acc with
    | none => none
    | some rest =>
      let need := l.needs i
      let slots := (s.freeSlots core).take need.length
      if slots.length < need.length || (decide (l.record.stk ≠ 0) && s.stackHeld l.ident core) || s.candidateFits core ||
          (decide (l.state = 6) && !s.resumeFits l core i) then none
      else (fitWindows (s.windowsOn core) need).map fun bases =>
        ((slots.zip bases).zipIdx.map fun x => (i, core, x.1.1, x.2, x.1.2)) ++ rest) (some [])

/-- A slot's number changes where other units name it: its rope, its collective rounds, its belay arrival. -/
def State.renameSlot (s : State) (a b : Nat) : State :=
  let r (n : Nat) : Nat := if n = a then b else n
  { s with
    ropes := s.ropes.map fun p => (p.1, { p.2 with
      members := p.2.members.map r, done := p.2.done.map r, solo := p.2.solo.map r, left := p.2.left.map r })
    rounds := s.rounds.map fun p => (p.1, { p.2 with
      contributions := p.2.contributions.map fun c => (c.1, r c.2.1, c.2.2) })
    clusters := s.clusters.map fun c => (c.1, { c.2 with
      barriers := c.2.barriers.map fun p => (p.1, { p.2 with waiters := p.2.waiters.map fun w => { w with slot := r w.slot } }) }) }

/-- The context of a thread of a discarded launch (R243): with the mark it goes on at its label, if it has one, and what it was parked
in, or moved for, is abandoned with its trap. -/
def Thread.relabel (t : Thread) : Thread :=
  if !t.mark then t else
  if t.mlabel = 0 then { t with mark := false } else
  { t with mark := false, pc := t.mlabel, kept := none, pend := none, hold := none, carried := none }

/-- What a stopped thread waited in goes on (R276, R330, R336): a clip, a barrier arrival in the phase it counted in, a wait.a with the
word it reads now; else the thread is ready. -/
def State.resumePend (s : State) (slot : Nat) : State :=
  match (s.thread? slot).bind (·.pend) with
  | some p =>
    let s1 := s.modThread slot fun t => { t with run := if p.mode = 11 then .parked (.clip p.ea) else .waiting .reply }
    if p.mode ≠ 5 ∨ !p.got.isEmpty then s1 else s1.releaseWatch ⟨some slot, 0, 0, p.keys.headD 0⟩
  | none => s.modThread slot fun t => { t with run := .ready }

/-- A resumed thread goes on (R391): at its label (R243), or with the trap kept for it, or as it stopped. -/
def State.resumeThread (s : State) (slot : Nat) : State :=
  let s1 := (if (s.thread? slot).any fun t => t.mark && t.mlabel != 0 then s.leaveBarriers slot else s).modThread slot Thread.relabel
  match (s1.thread? slot).bind (·.kept) with
  | some (c, v, pc) => (s1.modThread slot fun t => { t with kept := none, run := .ready }).deliver slot c v pc
  | none => s1.resumePend slot

/-- The thread of a saved context in its new slot (R391). -/
def State.readmit (s : State) (tn : Nat) (x : SavedContext) (slot base : Nat) : State :=
  let t := x.thread
  let t := { t with base := base, body := t.body.map fun b => { b with seq := s.freeSequencer (coreOf slot) } }
  let s1 := ((s.setThread slot t).freeBlock tn x.block).renameSlot (spilledName tn x.block) slot
  let s3 := s1.modThread slot fun t => { t with
    waitingDeliveries := t.waitingDeliveries.map fun d => { d with msg := d.msg.toSlot slot, word := (d.msg.toSlot slot).target } }
  -- an arrival whose waiter the unit has released gets its value at once (R336)
  let s4 := match t.pend with
    | some p =>
      if p.mode ≠ 2 ∨ !p.bad.isEmpty ∨ !p.got.isEmpty ∨ s3.barrierOf slot then s3 else
      let i := match belayAt (p.ea.toNat - Config.belayBase) with | some (.barWait i) => i | _ => 0
      let now := ((s3.cluster (clusterOf (coreOf x.slot))).barrier i).phase
      s3.answer slot 0 (.ok (if now = p.phase then BitVec.allOnes 64 else BitVec.ofNat 64 ((p.phase + 1) % 2 ^ 32)))
    | none => s3
  s4.resumeThread slot

/-- A fired task joins the ready queue, or follows the tasks of its core in the bivouac; with no room it stays in its counter
(R347, R383). -/
def State.queueTask (s : State) (core : Nat) (t : Task) : State :=
  let c := s.core core
  let t1 := { t with arrived := s.nextId }
  let s1 : State := { s with nextId := s.nextId + 1 }
  if c.readyQ.length < 16 ∧ c.taskSpill.isEmpty then s1.modCore core fun c => { c with readyQ := c.readyQ ++ [t1] } else
  match s1.takeBlocks t.tenant 32 with
  | none => s
  | some (b, s2) => (s2.imageWords t.tenant b 32).modCore core fun c => { c with taskSpill := c.taskSpill ++ [(b, t1)] }

/-- What a core takes back at re-admission (R391): tables, counters, queues, FIFO contents, and after act 2 its store. -/
def State.restoreCore (s : State) (tn core : Nat) (x : SavedCore) : State :=
  let base := storeBase core
  let merge (m : AMap (List (Word × Nat))) : AMap (List (Word × Nat)) := x.fifos.foldl (fun m f => amPut m f.1 f.2) m
  let s1 := s.modCore core fun c => { c with
    tables := x.tables, counters := x.counters.foldl (fun m k => amPut m k.1 k.2) c.counters
    fifos := merge c.fifos, msgs := c.msgs ++ x.msgs }
  let s1 := (x.readyQ.foldl (fun s t => s.queueTask core t) s1).modCore core fun c => { c with taskSpill := c.taskSpill ++ x.taskSpill }
  let s2 := if x.withStore then
      let m := s1.mem.clear base (storeSize core)
      let m1 := { m with cells := x.cells.foldl (fun c b => setCell c (base + b.1) b.2) m.cells
                         empties := x.empties.foldl (fun l k => nsIns l (base / 8 + k)) m.empties
                         poisons := x.poisons.foldl (fun l k => nsIns l (base / 8 + k)) m.poisons
                         upsets := x.upsets.foldl (fun l k => nsIns l (base / 8 + k)) m.upsets }
      { s1 with mem := m1 }
    else s1
  if x.withStore then (s2.freeBlock tn x.block).freeBlock tn x.storeBlock else s2.freeBlock tn x.block

/-- A rope holds a FIFO end of a core (R321). -/
def State.holdEnd (s : State) (rope core : Nat) (out : Bool) (dir : Nat) : State :=
  s.modCore core fun c => { c with
    ropeClaims := (c.ropeClaims.filter fun x => !(x.1 == out && x.2.1 == dir)) ++ [(out, dir, rope)] }

/-- A resumed rope holds on its members' new cores the ends it claimed (R330). -/
def State.holdAgain (s : State) (rope : Nat) (r : Rope) : State :=
  r.claims.foldl (fun s c => match r.members[c.1]? with
    | some m => s.holdEnd rope (coreOf m) c.2.1 c.2.2
    | none => s) s

/-- A FIFO end of a core a rope claims (R321): free of ports, and not held by a rope with a lower slot there. -/
def State.claimEnd (s : State) (rope slot : Nat) (out : Bool) (dir : Nat) : State :=
  let core := coreOf slot
  let byPort := s.threads.any fun p => coreOf p.1 == core && p.2.ports.any fun hp =>
    match hp.2.kind with
    | 2 => (!out && hp.2.dir == dir) || (out && hp.2.fwd && opposite hp.2.dir == dir)
    | 4 => out && hp.2.dir == dir
    | _ => false
  let lower := s.ropes.any fun r => r.1 != rope && r.2.members.any fun m =>
    coreOf m == core && decide (m < slot) && !r.2.left.contains m
  if byPort || lower then s else
  (s.holdEnd rope core out dir).modRope rope fun r => { r with claims := r.claims ++ [(r.members.idxOf slot, out, dir)] }

/-- A rope claims every free west-in end of its members but the leader, and every free east-out end of those but the last
(R321). -/
def State.claimEnds (s : State) (rope : Nat) (members : List Nat) : State :=
  let s1 := (members.drop 1).foldl (fun s m => s.claimEnd rope m false 0) s
  (members.dropLast).foldl (fun s m => s.claimEnd rope m true 1) s1

/-- The status that a core's spre reads (R389): that of its last request, whichever ends. -/
def State.spreDone (s : State) (core no code : Nat) : State :=
  s.modCore core fun c => if c.spreNo = no then { c with spre := BitVec.ofNat 64 (if code = 0 then 2 else code * 256 + 3) } else c

/-- A launch is put on its cores (R306, R308, R391). fit is what fitLaunch gave. -/
def State.placeLaunch (s : State) (l : Launch) (fit : List (Nat × Nat × Nat × Nat × Nat)) : State :=
  let tn := l.record.tenant
  let s0 := l.cores.foldl (fun s c => s.modCore c fun k => { k with fetch := [] }) s
  if l.state = 6 then
    let s1 := (l.cores.zipIdx).foldl (fun s (core, i) =>
      (l.saved.filter (·.place == i)).foldl (fun s x => s.restoreCore tn core x) s) s0
    let s2 := (s1.modLaunch l.ident fun l => { l with
      state := 2, contexts := [], saved := [], placedAt := s.cycle, beatAt := s.cycle, seqn := none })
    let s2 := match l.seqn with | some (_, core, no) => s2.spreDone core no 0 | none => s2
    let s3 := (l.cores.zipIdx).foldl (fun s (core, i) =>
      s.modCore core fun c => { c with
        arrivalSpill := c.arrivalSpill ++ (l.contexts.filter fun x => x.place == i && x.arrival).map fun x => (x.block, x.thread.relabel) }) s2
    let s4 := fit.foldl (fun s f =>
      match (l.contextsAt f.1)[f.2.2.2.1]? with
      | some x => s.readmit tn x (f.2.1 * 64 + f.2.2.1) f.2.2.2.2
      | none => s) s3
    (s4.ropes.filter (·.2.launch == l.ident)).foldl (fun s r => s.holdAgain r.1 r.2) s4
  else
    s0.modLaunch l.ident fun l => { l with
      state := 2, placedAt := s.cycle, beatAt := s.cycle
      starting := fit.map fun f => (f.2.1, f.2.2.1, f.2.2.2.1, f.2.2.2.2) }

/-- Words written by a device for a tenant from an address on, all checked before any is written: the failing cause and address,
or the state after (R308). -/
def State.deviceWrite (s : State) (tn va : Nat) (ws : List Word) : Except (Nat × Nat) State :=
  let s := ws.zipIdx.foldl (fun s w => s.settleWalk tn (va + 8 * w.2)) s
  let places := ws.zipIdx.map fun w => (va + 8 * w.2, s.device tn (va + 8 * w.2) (.device true), w.1)
  match places.findSome? fun p => match p.2.1 with | .error c => some (c, p.1) | .ok _ => none with
  | some e => .error e
  | none => .ok (places.foldl (fun s p => match p.2.1 with | .ok a => s.writeWord (a / 8) 0xFF#8 p.2.2 none | .error _ => s) s)

/-- The launch's copy of its record in the bivouac (R308): no room leaves it eligible (none); a failing page refuses it. -/
def State.copyRecord (s : State) (l : Launch) : Option (Except (Nat × Word) State) :=
  let tn := l.record.tenant
  let n := 8 + l.record.nargs
  match s.takeBlocks tn (8 * n) with
  | none => none
  | some (b, s1) =>
    let va := (s1.tenant tn).blockVa b
    match s1.deviceWrite tn va ((List.range n).map l.record.w) with
    | .error (c, v) => some (.error (c, BitVec.ofNat 64 v))
    | .ok s2 => some (.ok (s2.modLaunch l.ident fun l => { l with copy := BitVec.ofNat 64 va, copyBlock := b }))

/-- One placement over the eligible launches in their order (R305): a launch passed over claims its cores. -/
def State.placeFirst (s : State) (claimed : List Nat) : List Launch → State
  | [] => s
  | l :: rest =>
    let pass (s : State) : State := s.placeFirst (l.cores ++ claimed) rest
    if l.cores.any claimed.contains then pass s else
    match s.fitLaunch l with
    | none => pass s
    | some fit =>
      if l.state = 6 then s.placeLaunch l fit else
      match s.copyRecord l with
      | none => pass s
      | some (.error (c, va)) => (s.refuseLaunch l 15 c va).placeFirst claimed rest
      | some (.ok s1) => s1.placeLaunch l fit

/-- The earlier of two eligible launches (R305). -/
def placedBefore (a b : Launch) : Bool :=
  decide (b.record.prio < a.record.prio) || (a.record.prio == b.record.prio && decide (a.arrival ≤ b.arrival))

def insertLaunch (x : Launch) : List Launch → List Launch
  | [] => [x]
  | y :: l => if placedBefore x y then x :: y :: l else y :: insertLaunch x l

/-- The eligible launches of a die in the order of R305; a frozen tenant's are not placed (R394). -/
def State.eligibleOn (s : State) (die : Nat) : List Launch :=
  (((s.die die).launches.filterMap fun i => amGet s.launches i).filter fun l =>
    (l.state == 1 || l.state == 6) && !(s.tenant l.record.tenant).frozen).foldr insertLaunch []

/-- LAUNCH_PLACE (R305, R308). -/
def execLaunchPlace (die : Nat) (s : State) : Host.Outcome State Fault Refusal :=
  event s fun s =>
    let before := s.eligibleOn die
    let s1 := s.placeFirst [] before
    -- a spawn is outstanding until its launch is placed (R318)
    before.foldl (fun s l => match amGet s.launches l.ident with
      | some x => if x.state = 2 then s.spawnEnds l.ident else s
      | none => s) s1

/-! Thread start -/

/-- The registers a thread of a launch receives at its start: number and value (R307). -/
def startRegs (l : Launch) (core k : Nat) : List (Nat × Word) :=
  let r := l.record
  let xi := l.cores.idxOf core
  let top := Config.ownBase + storeSize core
  [(2, if r.stk = 0 then 0 else BitVec.ofNat 64 (top - 16 * r.stk * k)), (3, r.w 6), (4, l.copy),
   (5, BitVec.ofNat 64 (xi * r.slots + k)), (6, BitVec.ofNat 64 (l.cores.length * r.slots))] ++
  (List.range 8).map fun i => (10 + i, if i < r.nargs then r.w (8 + i) else 0)

/-- A thread of a launch as it starts (R173, R307). -/
def startedThread (l : Launch) (core k base : Nat) : Thread :=
  let r := l.record
  let t : Thread := {
    pc := r.entry, base := base, limit := r.window, launch := l.ident, tenant := r.tenant, ordinal := k, ctx := r.ctx
    sbound := if r.stk = 0 then 0 else BitVec.ofNat 64 (Config.ownBase + storeSize core - 16 * r.stk * (k + 1)) }
  ((startRegs l core k).filter (·.1 < r.window)).foldl (fun t x => t.setX x.1 x.2) t

/-- A rope forms of slots, the leader first (R319, R321). -/
def State.formRope (s : State) (launch : Nat) (members : List Nat) : State :=
  let id := s.nextId
  let s1 : State := { (s.setRope id
    { launch, members, step := 0, done := [], length := none, solo := [], left := [], leaderOut := false, stream := [] }) with nextId := id + 1 }
  s1.claimEnds id members

/-- A placed thread starts. -/
def State.startOne (s : State) (l : Launch) (x : Nat × Nat × Nat × Nat) : State :=
  let slot := x.1 * 64 + x.2.1
  let t := startedThread l x.1 x.2.2.1 x.2.2.2
  (s.setThread slot { t with frozen := (s.tenant l.record.tenant).frozen, halted := l.halted }).modLaunch l.ident fun l =>
    { l with starting := l.starting.filter (· != x) }

/-- A placed thread starts; the threads of a rope start together, and the rope forms (R307, R319). -/
def State.startSlot (s : State) (slot : Nat) : State :=
  match s.launches.find? fun l => l.2.starting.any fun x => x.1 * 64 + x.2.1 == slot with
  | none => s
  | some (_, l) =>
    match l.starting.find? fun x => x.1 * 64 + x.2.1 == slot with
    | none => s
    | some x =>
      if l.record.rope = 1 then s.startOne l x else
      let L := l.record.rope
      let i := l.cores.idxOf x.1
      let run := (List.range L).map fun c => l.cores.getD (i / L * L + c) 0
      let mates := run.filterMap fun core => l.starting.find? fun y => y.1 == core && y.2.2.1 == x.2.2.1
      (mates.foldl (fun s y => s.startOne l y) s).formRope l.ident (mates.map fun y => y.1 * 64 + y.2.1)

/-- THREAD_START (R307, R319). -/
def execThreadStart (slot : Nat) (s : State) : Host.Outcome State Fault Refusal := event s fun s => s.startSlot slot

/-! Completion -/

/-- A member's clip ends with a value (R329). -/
def State.clipEnds (s : State) (slot : Nat) (v : Word) : State :=
  match (s.thread? slot).bind (·.pend) with
  | some p => ((s.popHandles slot p.pops).writeRegs slot p.rd [v]).retire slot p.npc
  | none => s

/-- A rope ends: its claims are released, and members parked in clip go on solo with 0 (R328, R329). -/
def State.endRope (s : State) (rope : Nat) : State :=
  match amGet s.ropes rope with
  | none => s
  | some r =>
    let s1 : State := { s with
      ropes := amDel s.ropes rope
      cores := s.cores.map fun c => (c.1, { c.2 with ropeClaims := c.2.ropeClaims.filter (·.2.2 != rope) }) }
    (r.members.filter fun m => !r.left.contains m).foldl (fun s m =>
      match s.thread? m with
      | some t => match t.run with
        | .parked (.clip _) => (s.clipEnds m 0).landNow m
        | _ => s
      | none => s) s1

/-- The launch's ropes and peer-group holdings go with it. -/
def State.endGroups (s : State) (lid : Nat) : State :=
  let s1 := (s.ropes.filter (·.2.launch == lid)).foldl (fun s r => s.endRope r.1) s
  { s1 with rounds := s1.rounds.filter (·.2.launch != lid), groupHolder := s1.groupHolder.filter (·.2 != lid) }

/-- A launch has nothing left to run (R309): no thread, no fired task, no job; and no round is open, whose members are still to
be answered (R363). -/
def State.launchOver (s : State) (l : Launch) : Bool :=
  let mine (t : Thread) : Bool := t.launch == l.ident && (match t.level with | .user => true | _ => false)
  l.starting.isEmpty && l.contexts.isEmpty && !s.rounds.any (fun r => r.2.launch == l.ident) &&
  !s.threads.any (fun p => mine p.2) &&
  !s.packets.any (fun p => match p.payload with | .context t _ => mine t | _ => false) &&
  !s.cores.any (fun c => c.2.arrivals.any mine || c.2.arrivalSpill.any (fun x => mine x.2) ||
    c.2.readyQ.any (fun t => t.launch == l.ident) || c.2.taskSpill.any (fun t => t.2.launch == l.ident) ||
    c.2.counters.any fun k => decide (k.2.state = 2) && (match k.2.task with | some t => t.launch == l.ident | none => false)) &&
  !s.dies.any (fun d => d.2.spillEngine.any fun x => mine x.2) &&
  !s.octets.any fun o => o.2.haul.any (·.launch == l.ident) || o.2.matrix.any (·.launch == l.ident)

/-- The counters that a launch still holds armed are freed (R344). -/
def State.freeCounters (s : State) (lid : Nat) : State :=
  { s with cores := s.cores.map fun c => (c.1, { c.2 with
      counters := c.2.counters.filter fun k => match k.2.task with | some t => t.launch != lid | none => true }) }

/-- The completion decrement of sig (R309), at its home in this package or a peer's (R282, R411). -/
def State.signal (s : State) (l : Launch) : State :=
  let va := l.record.w 5
  let bad (s : State) (c : Nat) : State := s.post l.record.tenant 0 0 c 5 va (BitVec.ofNat 64 l.ident)
  if va = 0 then s else
  let s := s.settleWalk l.record.tenant va.toNat
  match s.deviceTarget l.record.tenant va.toNat .atomic with
  | .error c => bad s c
  | .ok (.mem a _) =>
    match s.readWord (a / 8) with
    | (s1, .error c) => bad s1 c
    | (s1, .ok v) => s1.writeWord (a / 8) 0xFF#8 (v - 1) none
  | .ok t => match s.askOutside t (.atomic 0 .add true (BitVec.allOnes 64) 0) with
    | (s1, .error c) => bad s1 c
    | (s1, .ok _) => s1

/-- LAUNCH_COMPLETE (R309, R344, R405). -/
def execLaunchComplete (lid : Nat) (s : State) : Host.Outcome State Fault Refusal :=
  event s fun s =>
    match amGet s.launches lid with
    | none => s
    | some l =>
      if l.state ≠ 2 ∨ l.seqn.isSome ∨ !s.launchOver l then s else
      let s1 := ((s.freeCounters lid).endGroups lid).signal l
      let s2 := match l.record.queue with
        | some (q, i) => s1.hostEntry q 2 0 i lid 1
        | none => s1
      (s2.freeBlock l.record.tenant l.copyBlock).dropLaunch l

end Sys2Proof.Machine
end

