-- ==== Sys2Proof/Machine/Cairn.lean ====
section
/-! DEFINITION. Sys2Proof/Machine/Cairn.lean: cairn capture (R370 to R373). The capture of a granule is in Home.lean. -/

namespace Sys2Proof.Machine

/-- The present leaves of a range: address, physical address, size, and the word of the leaf's entry (R371). -/
def pagesOf (s : State) (tenant : Nat) : (fuel : Nat) → (va stop : Nat) → List (Nat × Nat × Nat × Nat)
  | 0, _, _ => []
  | n + 1, va, stop =>
    if stop ≤ va then [] else
    match s.walk tenant va with
    | .ok (leaf, base, size, k) => (base, ppnOf leaf, size, k) :: pagesOf s tenant n (base + size) stop
    | .error _ => pagesOf s tenant n (va / 4096 * 4096 + 4096) stop

/-- The limits on base, len and dst (R370). -/
def rangeBad (base len dst : Nat) : Bool :=
  base % 0x10000 != 0 || len % 0x10000 != 0 || dst % 0x10000 != 0 || decide (len < 0x10000) || decide (2 ^ 36 < len) ||
  (decide (base < dst + len) && decide (dst < base + len))

/-- The destination's pages are hashed, writable leaves with rec = 0 (R370). -/
def destOk (s : State) (tenant : Nat) : (fuel : Nat) → (va stop : Nat) → Bool
  | 0, _, _ => true
  | n + 1, va, stop =>
    if stop ≤ va then true else
    match s.walk tenant va with
    | .ok (leaf, base, size, _) => !leaf.getLsbD 5 && leaf.getLsbD 2 && !leaf.getLsbD 6 && destOk s tenant n (base + size) stop
    | .error _ => false

/-- cairn.open (R370). The pages are taken as they stand here: leaves changed while the epoch is open change nothing of what is
captured (DESIGN CHOICE, notes/assumptions/69.md: R371 leaves that unspecified). -/
def execCairnOpen (rd rs1 : BitVec 5) (s : State) : Host.Outcome State Fault Refusal :=
  let d := s.latch.rd rd
  let a := s.latch.rs1 rs1
  issue s false [rs a, rdst d] fun s c =>
    let at' := c.x a
    if at'.toNat % 32 ≠ 0 then s.trapc c 0x03 at'
    else if at'.toNat < Config.ownBase ∨ Config.ownBase + storeSize c.core < at'.toNat + 32 then s.trapc c 0x08 at' else
    let req (j : Nat) : WordReq := let x := at' + BitVec.ofNat 64 (8 * j); ⟨x, x, 0xFF⟩
    loadAll c .load (fun s _ _ => s) ((List.range 3).map req) s fun s ws =>
      let base := (ws.getD 0 0).toNat
      let len := (ws.getD 1 0).toNat
      let dst := (ws.getD 2 0).toNat
      if rangeBad base len dst || !destOk s c.t.tenant (len / 4096) dst (dst + len) then s.trapc c 0x01 c.w
      else if (s.tenant c.t.tenant).epoch.isSome then s.finish c d [refusalWord 1]
      else s.release c fun s =>
        let bit := !(s.tenant c.t.tenant).epochBit
        let e : Epoch := {
          base, len, dst, pages := pagesOf s c.t.tenant (len / 4096) base (base + len), core := c.core
          captured := [], byWrites := 0, failed := false }
        (s.modTenant c.t.tenant fun x => { x with epochBit := bit, epoch := some e }).finish c d [if bit then 1 else 0]

/-- cairn.close (R373). -/
def execCairnClose (rd rs1 : BitVec 5) (s : State) : Host.Outcome State Fault Refusal :=
  let d := s.latch.rd rd
  let a := s.latch.rs1 rs1
  issue s false [rs a, rdst d] fun s c =>
    match (s.tenant c.t.tenant).epoch with
    | none => s.finish c d [refusalWord 1]
    | some e =>
      let close (v : Word) : State := (s.modTenant c.t.tenant fun x => { x with epoch := none }).finish c d [v]
      if (c.x a).getLsbD 0 then close (refusalWord 3)
      else if !s.clear c.slot c.t .captured then s.park c.slot .captured
      else close (if e.failed then refusalWord 2 else BitVec.ofNat 64 (min (2 ^ 32 - 1) e.byWrites))

/-- CAIRN_BACKGROUND_CAPTURE (R371): a slice captures its uncaptured granules in increasing order of their physical addresses
(DEDUCED, notes/assumptions/81.md), while no request waits at it. -/
def execCairnBackgroundCapture (t granule : Nat) (s : State) : Host.Outcome State Fault Refusal :=
  event s fun s =>
    match (s.tenant t).epoch with
    | none => s
    | some e =>
      let home := sliceOf (64 * granule)
      let left := e.granules.filter fun g => sliceOf (64 * g) == home && !e.captured.contains g
      let idle := !s.packets.any fun p => p.atHome && p.dst == epSlice home
      if idle && left.contains granule && left.all (decide <| granule ≤ ·) then s.capture State.beforeWrite t granule false else s

end Sys2Proof.Machine
end

