-- ==== Sys2Proof/Machine/Csr.lean ====
section
/-! DEFINITION. Sys2Proof/Machine/Csr.lean: the Zicsr instructions (R76, R79), the user CSRs (R77, R78), the supervisor CSRs
(R381), sxval (R396), and the acts their writes start: stlbinv (R387) and spre (R389). -/

namespace Sys2Proof.Machine

/-- slotid (R77, R365): a slot's number is its slotid value. -/
def slotidOf (slot : Nat) : Word := BitVec.ofNat 64 slot

/-- The slot whose number a slot address names on compute cores: the address itself (R3). -/
def slotAddr (slot : Nat) : Word := BitVec.ofNat 64 (slot % 2 ^ 20)

/-- ropeinfo of a slot (R320). -/
def State.ropeInfo (s : State) (slot : Nat) : Word :=
  match s.ropes.find? fun r => r.2.members.contains slot && !r.2.left.contains slot with
  | none => 0
  | some (_, r) =>
    let solo := r.solo.contains slot
    let lead := r.members.headD 0 % 2 ^ 17
    BitVec.ofNat 64 ((if solo then 2 ^ 26 else 0) + 2 ^ 25 + lead * 2 ^ 8 +
      (r.members.idxOf slot) * 16 + (r.members.length - 1))

/-- The window CSR (R170). -/
def Thread.windowCsr (t : Thread) : Word := BitVec.ofNat 64 (t.limit * 2 ^ 16 + t.base)

/-- A user-level CSR of a thread (R77), none for an address outside the table. -/
def State.userCsr (s : State) (slot : Nat) (t : Thread) (a : BitVec 12) : Option Word :=
  match a.toNat with
  | 0x001 => some ((t.fcsr.extractLsb' 0 5).setWidth 64)
  | 0x002 => some ((t.fcsr.extractLsb' 5 3).setWidth 64)
  | 0x003 => some (t.fcsr.setWidth 64)
  | 0x800 => some t.pw
  | 0x801 => some t.sbound
  | 0x802 => some t.xtvec
  | 0x803 => some t.xcause
  | 0x804 => some t.xepc
  | 0x805 => some t.xtval
  | 0x806 => some t.ivec
  | 0x807 => some t.tabsel
  | 0x808 => some t.mlabel
  | 0xC00 => some (BitVec.ofNat 64 s.cycle)
  | 0xC01 => some (BitVec.ofNat 64 (s.cycle / 7))
  | 0xC02 => some t.instret
  | 0xCC0 => some (slotidOf slot)
  | 0xCC1 => some t.windowCsr
  | 0xCC2 => some (s.ropeInfo slot)
  | 0xCC3 => some (BitVec.ofNat 64 t.tenant)
  | 0xCC4 => some (s.tenant t.tenant).restab
  | _ => none

/-- A write of a user-level CSR: read-only registers and reserved bits are left (R14, R77, R78, R376). -/
def Thread.setCsr (t : Thread) (a : BitVec 12) (v : Word) : Thread :=
  match a.toNat with
  | 0x001 => { t with fcsr := t.fcsr.extractLsb' 5 3 ++ v.extractLsb' 0 5 }
  | 0x002 => { t with fcsr := v.extractLsb' 0 3 ++ t.fcsr.extractLsb' 0 5 }
  | 0x003 => { t with fcsr := v.extractLsb' 0 8 }
  | 0x800 => { t with pw := v }
  | 0x801 => { t with sbound := v }
  | 0x802 => { t with xtvec := v }
  | 0x803 => { t with xcause := v &&& 0x80000000000000FF#64 }
  | 0x804 => { t with xepc := v }
  | 0x805 => { t with xtval := v }
  | 0x806 => { t with ivec := v }
  | 0x807 => { t with tabsel := v &&& 3#64 }
  | 0x808 => { t with mlabel := v }
  | _ => t

/-- The state code of R310. -/
def Thread.code (t : Thread) : Nat :=
  if t.frozen || t.halted then 3 else
  match t.run with
  | .ready => 1
  -- in wait.a, here or at a peer
  | .waiting .reply => if t.pend.any (fun p => p.mode == 5 || p.mode == 13) then 3 else 2
  | .waiting _ => 2
  | .parked _ => 3
  | .spilled => 4
  | .traversing => 5

/-- The thread an activation's sxval reads and writes (R396): its target; the saved handler where it names the service
slot. -/
def State.sxThread (s : State) (a : Activation) : Option Thread :=
  match a.saved with
  | some t => some t
  | none => a.target.bind s.thread?

/-- starget (R381). -/
def State.starget (s : State) (a : Activation) : Word :=
  match a.target with
  | some slot => BitVec.ofNat 64 (slot % 2 ^ 20 + 2 ^ 20 +
      (match s.sxThread a with | some t => t.code | none => 0) * 2 ^ 24)
  | none => 0

/-- The CSR of sxval outside a thread's own (R396): only those of R77 that the state holds for the named slot. -/
def State.sxRead (s : State) (core : Nat) : Word × Word :=
  match (s.core core).act with
  | none => (0, 0)
  | some a =>
    let sel := a.sxsel
    let keep := sel &&& 0x3FFF#64
    match s.sxThread a with
    | none => (0, keep ||| 0x8000#64)
    | some t =>
      if sel.getLsbD 12 then
        match s.userCsr (a.target.getD 0) t (sel.extractLsb' 0 12) with
        | some v => (v, keep ||| (sel &&& 0x4000#64))
        | none => (0, keep ||| 0x8000#64)
      else
        let n := (sel.extractLsb' 0 7).toNat
        if n < t.limit then (t.x n, keep ||| if (t.reg n).full then 0x4000#64 else 0)
        else (0, keep ||| 0x8000#64)

/-- A read of sxval finds a register whose parity is wrong (R178): its number. -/
def State.sxParity (s : State) (core : Nat) : Option Nat :=
  match (s.core core).act with
  | none => none
  | some a =>
    let n := (a.sxsel.extractLsb' 0 7).toNat
    match s.sxThread a with
    | some t => if !a.sxsel.getLsbD 12 && decide (n < t.limit) && (t.reg n).perr then some n else none
    | none => none

/-- The slot whose registers sxval reads. -/
def State.sxSlot (s : State) (core : Nat) : Nat := ((s.core core).act.bind (·.target)).getD 0

/-- A write through sxval (R396): the value, and fw as the register's full/empty bit. -/
def State.sxWrite (s : State) (core : Nat) (v : Word) : State :=
  match (s.core core).act with
  | none => s
  | some a =>
    let sel := a.sxsel
    let put (f : Thread → Thread) (s : State) : State :=
      match a.saved with
      | some t => s.modCore core fun c => { c with act := some { a with saved := some (f t), sxsel := sel &&& 0x7FFF#64 } }
      | none => (match a.target with | some x => s.modThread x f | none => s).modCore core fun c =>
          { c with act := some { a with sxsel := sel &&& 0x7FFF#64 } }
    let bad (s : State) : State := s.modCore core fun c => { c with act := some { a with sxsel := sel ||| 0x8000#64 } }
    match s.sxThread a with
    | none => bad s
    | some t =>
      if sel.getLsbD 12 then
        match s.userCsr (a.target.getD 0) t (sel.extractLsb' 0 12) with
        | some _ => put (fun t => t.setCsr (sel.extractLsb' 0 12) v) s
        | none => bad s
      else
        let n := (sel.extractLsb' 0 7).toNat
        if n < t.limit then
          put (fun t => if n = 0 then t else
            { t with regs := amPut t.regs n { val := v, full := sel.getLsbD 13, perr := false } }) s
        else bad s

/-- The gradient queue sgqsel names (R381). -/
def Tenant.gq (t : Tenant) (q : Nat) : GqHome := amGetD t.queues q {}

/-- A supervisor CSR (R381), with the state its read leaves; none outside the table. -/
def State.supCsr (s : State) (core tn : Nat) (a : BitVec 12) : Option (State × Word) :=
  let t := s.tenant tn
  let act := (s.core core).act
  let ofAct (f : Activation → Word) : Option (State × Word) := some (s, match act with | some x => f x | none => 0)
  match a.toNat with
  | 0x140 => some (s, t.sentry)
  | 0x141 => ofAct (·.scause)
  | 0x142 => ofAct (·.sepc)
  | 0x143 => ofAct (·.stval)
  | 0x144 => ofAct s.starget
  | 0x145 => ofAct (·.sxsel)
  | 0x146 =>
    let r := s.sxRead core
    some (s.modCore core (fun c => { c with act := c.act.map fun x => { x with sxsel := r.2 } }), r.1)
  | 0x147 => some (s, t.sroot &&& 0xFFFFFFFFF000#64)
  | 0x148 => some (s, t.sfq)
  | 0x149 => some (s, t.shtab)
  | 0x14A => some (s, t.srpool)
  | 0x14B => some (s, t.swdog)
  | 0x14C => some (s, 0)
  | 0x14D => some (s, (s.core core).spre)
  | 0x14E => some (s, t.sgqsel)
  | 0x14F => some (s, (t.gq t.sgqsel.toNat).word)
  | 0x150 => some (s, t.sbiv)
  | 0x151 => some (s, t.sbivlen)
  | _ => none

/-- Drops a tenant's translations from every TLB of the package: all of them, or those that cover the page (R387). Walks
under way are of the old tables, and begin again. A translation that a traversing thread carries stays with it (R352): the write
waits for its access. -/
def State.stlbDrop (s : State) (tn : Nat) (v : Word) : State :=
  let va := v.toNat / 4096 * 4096
  let keep (e : TlbEntry) : Bool :=
    !(e.tenant == tn && (v.getLsbD 0 || (decide (e.base ≤ va) && decide (va < e.base + e.size))))
  { s with
    cores := s.cores.map fun c => (c.1, { c.2 with tlb := c.2.tlb.filter keep })
    clusters := s.clusters.map fun c => (c.1, { c.2 with tlb := c.2.tlb.filter keep })
    dies := s.dies.map fun d => (d.1, { d.2 with walks := d.2.walks.map fun w =>
      if w.tenant = tn then { w with running := false } else w }) }

/-- A gradient queue's word is written (R366): F starts at D. With entries in the ring or windows held, contents and grants
are unspecified: what is used and where the ring stands become free values; the grant list is emptied, and the credits that threads hold
stay with them, and a word outside the bounds of R366 is kept (DESIGN CHOICE, notes/assumptions/93.md). -/
def State.setGqWord (s : State) (tn q : Nat) (v : Word) : State :=
  let h := (s.tenant tn).gq q
  let busy := decide (h.head ≠ h.tail) || decide (h.held ≠ 0)
  let h1 : GqHome := if busy then
      { h with word := v &&& 0x80001FF3FFFF01FF#64, used := Config.freeNat s.fresh
               head := Config.freeNat (s.fresh + 1), tail := Config.freeNat (s.fresh + 2), grants := []
               held := h.held, waiters := h.waiters }
    else { word := v &&& 0x80001FF3FFFF01FF#64 }
  { s.modTenant tn (fun t => { t with queues := amPut t.queues q h1 }) with fresh := if busy then s.fresh + 3 else s.fresh }

/-- A write of a supervisor CSR (R381): reserved bits and read-only registers are left. What the device keeps in a bivouac whose
sbiv or sbivlen changes stays as it is (DESIGN CHOICE, notes/assumptions/70.md: R383 leaves it unspecified). -/
def State.setSupCsr (s : State) (core tn : Nat) (a : BitVec 12) (v : Word) : State :=
  let act (f : Activation → Activation) : State := s.modCore core fun c => { c with act := c.act.map f }
  let ten (f : Tenant → Tenant) : State := s.modTenant tn f
  match a.toNat with
  | 0x140 => ten fun t => { t with sentry := v }
  | 0x141 => act fun x => { x with scause := v &&& 0x1FF#64 }
  | 0x142 => act fun x => { x with sepc := v }
  | 0x143 => act fun x => { x with stval := v }
  | 0x145 => act fun x => { x with sxsel := (x.sxsel &&& 0xC000#64) ||| (v &&& 0x3FFF#64) }
  | 0x146 => s.sxWrite core v
  | 0x148 => if (v &&& 0xF#64).toNat < 4 && decide (4096 ≤ v.toNat) then s else ten fun t => { t with sfq := v &&& ~~~(0xFF0#64) }
  | 0x149 => ten fun t => { t with shtab := v }
  | 0x14A => ten fun t => { t with srpool := v &&& 0xFFFFFFFFFFFF1FFF#64 }
  | 0x14B => ten fun t => { t with swdog := v }
  | 0x14C => s.stlbDrop tn v
  | 0x14D => (s.modCore core fun c => { c with spre := 1, spreNo := c.spreNo + 1 }).modDie ((v.extractLsb' 29 3).toNat)
      fun d => { d with spreInbox := d.spreInbox ++ [(v, core, (s.core core).spreNo + 1, tn)] }
  | 0x14E => ten fun t => { t with sgqsel := v &&& 0xFFFF#64 }
  | 0x14F => s.setGqWord tn (s.tenant tn).sgqsel.toNat v
  | 0x150 => ten fun t => { t with sbiv := v &&& ~~~(0x1FFFFF#64) }
  | 0x151 => ten fun t => { t with sbivlen := v &&& 0xFFFFFFFF#64 }
  | _ => s

/-- The CSR an instruction names: the user table (R77), and at supervisor level R381. -/
def State.csrRead (s : State) (c : Ctx) (a : BitVec 12) : Option (State × Word) :=
  match s.userCsr c.slot c.t a with
  | some v => some (s, v)
  | none => if c.supervisor then s.supCsr c.core c.t.tenant a else none

/-- The write of the CSR an instruction names. -/
def State.csrWrite (s : State) (c : Ctx) (a : BitVec 12) (v : Word) : State :=
  match s.userCsr c.slot c.t a with
  | some _ => s.modThread c.slot fun t => t.setCsr a v
  | none => s.setSupCsr c.core c.t.tenant a v

/-- Every access of the package that a home has not performed (R387), requests and updates on their way among them; one that its home
holds has come there and is not waited for (DESIGN CHOICE, notes/assumptions/88.md). -/
def State.allOutstanding (s : State) : List Nat :=
  s.cores.flatMap (fun k => k.2.sb.map (·.ident)) ++ s.flights.map (·.ident) ++
  s.threads.flatMap (fun t => t.2.ports.flatMap fun hp => hp.2.pushes.map (·.ident)) ++
  (s.packets.filter fun p => !p.isReply && match p.payload with | .request .. | .update _ => true | _ => false).map (·.ident) ++
  s.combines.flatMap fun e => e.merged.map (·.ident)

/-- A Zicsr instruction (R76): f gives the new value from the old, when it writes. A write of stlbinv waits first for the
activation's accesses and then for those that dropped entries translated (R387). -/
def csrOp (s : State) (a : BitVec 12) (rd : BitVec 5) (src : List RegUse) (reads : Bool) (f : Ctx → Option (Word → Word)) :
    Host.Outcome State Fault Refusal :=
  let d := s.latch.rd rd
  issue s false (src ++ [rdst d]) fun s c =>
    match (if c.supervisor && a == 0x146#12 && !(reads && d == 0) then s.sxParity c.core else none) with
    | some n => (s.check 2 (s.sxSlot c.core)).trapc c 0x0E (BitVec.ofNat 64 n)
    | none =>
    match s.csrRead c a with
    | none => s.trapc c 0x01 c.w
    | some (sr, old) =>
      let s1 := if reads && d == 0 then s else sr
      match f c with
      | none => s1.finish c d [old]
      | some g =>
        if c.supervisor && a == 0x14C#12 then
          s1.release c fun s =>
            let s2 := (s.csrWrite c a (g old)).finish c d [old]
            let w : Cond := .dropped c.t.tenant (g old) s.allOutstanding
            if s2.clear c.slot c.t w then s2 else s2.modThread c.slot fun t => { t with run := .waiting w }
        else (s1.csrWrite c a (g old)).finish c d [old]

/-- csrrw (R76). -/
def execCsrrw (csr : BitVec 12) (rd rs1 : BitVec 5) (s : State) : Host.Outcome State Fault Refusal :=
  let a := s.latch.rs1 rs1
  csrOp s csr rd [rs a] true fun c => some fun _ => c.x a

/-- csrrs (R76): it writes unless rs1, after extension, is x0. -/
def execCsrrs (csr : BitVec 12) (rd rs1 : BitVec 5) (s : State) : Host.Outcome State Fault Refusal :=
  let a := s.latch.rs1 rs1
  csrOp s csr rd [rs a] false fun c => if a = 0 then none else some fun old => old ||| c.x a

/-- csrrc (R76). -/
def execCsrrc (csr : BitVec 12) (rd rs1 : BitVec 5) (s : State) : Host.Outcome State Fault Refusal :=
  let a := s.latch.rs1 rs1
  csrOp s csr rd [rs a] false fun c => if a = 0 then none else some fun old => old &&& ~~~(c.x a)

/-- csrrwi (R76). -/
def execCsrrwi (csr : BitVec 12) (rd uimm : BitVec 5) (s : State) : Host.Outcome State Fault Refusal :=
  csrOp s csr rd [] true fun _ => some fun _ => uimm.setWidth 64

/-- csrrsi (R76). -/
def execCsrrsi (csr : BitVec 12) (rd uimm : BitVec 5) (s : State) : Host.Outcome State Fault Refusal :=
  csrOp s csr rd [] false fun _ => if uimm = 0 then none else some fun old => old ||| uimm.setWidth 64

/-- csrrci (R76). -/
def execCsrrci (csr : BitVec 12) (rd uimm : BitVec 5) (s : State) : Host.Outcome State Fault Refusal :=
  csrOp s csr rd [] false fun _ => if uimm = 0 then none else some fun old => old &&& ~~~(uimm.setWidth 64)

end Sys2Proof.Machine
end

