-- ==== Sys2Proof/Machine/Threads.lean ====
section
/-! DEFINITION. Sys2Proof/Machine/Threads.lean: spawn, exit and yield (R317, R318), the end of a thread, the reply of a
launch unit and of memory (R75). -/

namespace Sys2Proof.Machine

/-- The words of a launch record as a spawn has read them, which it keeps while it is parked (R318): the first one read alone names
the length (false), then all of them (true). -/
def Thread.spawnRead (t : Thread) : Option (Bool × List Word) :=
  t.pend.bind fun p =>
    let ws := p.keys.map fun k => ((p.got.find? (·.1 == k)).map (·.2)).getD 0
    if p.mode = 12 then some (true, p.got.map (·.2)) else if p.mode = 14 then some (decide (p.phase = 1), ws) else none

/-- spawn (R318): the record is read when the instruction issues, the thread waits for room among its 16 outstanding spawns and for
its accesses (a release), and the record goes to the launch unit of its die. The unit answers in the same step when nothing delays
it. -/
def execSpawn (rd rs1 : BitVec 5) (s : State) : Host.Outcome State Fault Refusal :=
  let d := s.latch.rd rd
  let a := s.latch.rs1 rs1
  issue s false [rs a, rdst d] fun s c =>
    let va := c.x a
    if va.toNat % 64 ≠ 0 then s.trapc c 0x03 va else
    let req (i : Nat) : WordReq := let x := va + BitVec.ofNat 64 (8 * i); ⟨x, x, 0xFF⟩
    let read (phase : Nat) (rs : List WordReq) (s : State) (k : State → List Word → State) : State :=
      let p : Pend := ⟨.none, 0, c.npc, [], [], [], 14, phase, va, []⟩
      if s.slow then loadSlow s c p rs else loadAll c .load (fun s l f => s.askFar c p l f) rs s k
    let go (s : State) (ws : List Word) : State :=
      let s := s.modThread c.slot fun t => { t with pend := some ⟨.none, 0, c.npc, [], ws.map (0, ·), [], 12, 0, va, []⟩ }
      if 16 ≤ c.t.spawns.length then s.park c.slot .spawnRoom else
      s.release c fun s =>
        let cap : Nat := match amGet s.launches c.t.launch with | some l => l.record.prio | none => 3
        let r : Record := { tenant := c.t.tenant, words := ws, spawner := some c.slot, queue := none, prioCap := cap }
        let die := rectDie r.rect
        let s1 := s.request c ⟨.scalar 8 0 false, d, c.npc, [0], [], [], 9, 0, va, []⟩
        if !s.slow && (s.die die).inbox.isEmpty then (s1.acceptRecord r).reply c.slot
        else s1.modDie die fun x => { x with inbox := x.inbox ++ [r] }
    let all (s : State) (cfg : Word) : State := read 1 ((List.range (8 + min ((cfg.extractLsb' 32 6).toNat) 32)).map req) s go
    match c.t.spawnRead with
    | some (true, ws) => go s ws
    | some (false, ws) => all s (ws.getD 0 0)
    | none => read 0 [req 2] s fun s cfg => all s (cfg.getD 0 0)

/-- SPAWN_REPLY (R318). -/
def execSpawnReply (slot : Nat) (s : State) : Host.Outcome State Fault Refusal :=
  event s fun s => if s.spawning slot && !s.replyLate slot then (s.reply slot).landNow slot else s

/-- A rope ends when its stream has ended and every member in it has passed its last instruction, or when no member is
left (R328). -/
def State.settleRope (s : State) (rope : Nat) : State :=
  match amGet s.ropes rope with
  | some r =>
    let out (m : Nat) : Bool := r.left.contains m || (match r.length with
      | some n => r.solo.contains m || decide (n + r.members.idxOf m ≤ r.step)
      | none => false)
    if r.members.all out then s.endRope rope else s
  | none => s

/-- A member leaves its rope for good. The leader's leaving ends the stream at the instruction it executes, or, outside the
stream, at the index of the step that met its delivery, where the words of that instruction were fetched (R325, R328). -/
def State.leaveRope (s : State) (slot : Nat) : State :=
  match s.ropeOf slot with
  | none => s
  | some (id, r) =>
    let lead := r.members.head? == some slot
    let met := if r.done.contains slot then r.step + 1 else r.step
    let length := if !r.leaderOut then r.step + 1 else if r.stream.any (·.1 == met) then met + 1 else met
    (s.setRope id { r with
      left := r.left ++ [slot], solo := r.solo.filter (· != slot)
      length := if lead then some (r.length.getD length) else r.length
      leaderOut := r.leaderOut && !lead }).settleRope id

/-- The windows a thread holds on gradient queues are given up, and their credits returned (R367). -/
def State.returnCredits (s : State) (t : Thread) : State :=
  t.windows.foldl (fun s w => s.modTenant t.tenant fun x =>
    let q := x.gq w.queue
    { x with queues := amPut x.queues w.queue { q with
        used := q.used - w.credits, held := q.held - 1, grants := q.grants.filter (· != w.tag) } }) s

/-- The mutexes a slot owns are released, abandoned (R334). -/
def State.abandonMutexes (s : State) (slot : Nat) : State :=
  if isOpt (coreOf slot) then s else
  let cl := clusterOf (coreOf slot)
  ((s.cluster cl).mutexes.filter fun m => m.2.owner == some slot).foldl (fun s m => s.mutexPass cl m.1 true) s

/-- A thread ends: its leases, armed jobs, requests, mutexes, windows and its place in a rope go, then its slot is free
(R318, R328, R334, R341, R367). -/
def State.endThread (s : State) (slot : Nat) : State :=
  match s.thread? slot with
  | none => s
  | some t =>
    (((((((s.withdraw slot).leaveBarriers slot).refuseWaiting slot).abandonMutexes slot).returnCredits t).leaveRope slot)).freeSlot slot

/-- exit (R318): it waits for its pitch body and, as a release, for its accesses; the service slot may not execute it. -/
def execExit (s : State) : Host.Outcome State Fault Refusal :=
  issue s false [] fun s c =>
    if c.slot % 64 = 63 then s.trapc c 0x01 c.w
    else if c.t.body.isSome then s.park c.slot .noBody
    else s.release c fun s => { s.endThread c.slot with latch := {} }

/-- yield (R318): in a rope stream it has no effect but its step. -/
def execYield (s : State) : Host.Outcome State Fault Refusal :=
  issue s false [] fun s c =>
    let s1 := s.done c
    if s.inStream c.slot then s1 else s1.modThread c.slot fun t => { t with yielded := true }

/-- The replies that have reached a slot's core over the fabric: the words, or those before the first that failed. -/
def State.absorb (s : State) (slot : Nat) : State :=
  let mine (p : Packet) : Bool := p.landed && match p.payload with | .reply x .. => x == slot | _ => false
  (s.packets.filter mine).foldl (fun s p => match p.payload with
      | .reply _ got bad =>
        let s1 := got.foldl (fun s g => s.answer slot g.1 (.ok g.2)) s
        match bad with
        | some b => s1.answer slot b.1 (.error b.2)
        | none => s1
      | _ => s) { s with packets := s.packets.filter fun p => !mine p }

/-- The reply to a slot's outstanding request arrives (R75): answer is what memory outside the package gives (R282, R403, R412). -/
def State.replyArrives (s0 : State) (slot : Nat) (answer : Except Nat Word) : State :=
  let s := s0.absorb slot
  match (s.thread? slot).bind (·.pend) with
  | some p =>
    if p.mode = 8 ∨ p.mode = 9 ∨ p.mode = 12 ∨ (s.thread? slot).map (·.run) ≠ some (.waiting .reply) || s.replyLate slot then s
    else
      let s1 := match p.farKey? with
        | some k => (s.answer slot k answer).reply slot
        | none => s.reply slot
      if (s1.thread? slot).any (fun t => t.pend.isNone || t.run != .waiting .reply) then s1.landNow slot else s1
  | none => s

/-- MEMORY_REPLY (R75). v is the word that memory outside the package gives (R403, R412). -/
def execMemoryReply (slot : Nat) (v : Word) (s : State) : Host.Outcome State Fault Refusal :=
  event s fun s => s.replyArrives slot (.ok v)

end Sys2Proof.Machine
end

