-- ==== Sys2Proof/Machine/Ropes.lean ====
section
/-! DEFINITION. Sys2Proof/Machine/Ropes.lean: rope.form, rope.end, unclip and clip (R326 to R329), and threads that become
ready (R310). The rope's steps are in RopeStep.lean. -/

namespace Sys2Proof.Machine

/-- The run of L cores that holds a core in a launch's rectangle, in order of member index (R319, R327); none where L does
not divide the rectangle's width, or the run crosses a cluster edge. -/
def Launch.run (l : Launch) (core L : Nat) : Option (List Nat) :=
  let x := rectOf l.rectNow
  if L < 2 ∨ 16 < L ∨ x.w % L ≠ 0 ∨ l.record.opt ∨ l.record.ctx ≠ 0 then none else
  let i := l.cores.idxOf core
  let col := gcolOf core - (i % x.w) % L
  if col / 16 ≠ (col + L - 1) / 16 then none
  else some ((List.range L).map fun c => l.cores.getD (i / L * L + c) 0)

/-- The partner of an ordinal on a core: its slot and thread (R327). -/
def State.partner (s : State) (launch ordinal core : Nat) : Option (Nat × Thread) :=
  s.threads.find? fun p => coreOf p.1 == core && p.2.launch == launch && p.2.ordinal == ordinal && p.2.level == .user

/-- The rope length a thread parked in rope.form gave. -/
def Thread.forming (t : Thread) : Option Nat :=
  match t.pend with
  | some p => if p.mode = 10 then some p.phase else none
  | none => none

/-- rope.form of a slot retires with a value. -/
def State.formed (s : State) (slot : Nat) (v : Word) : State :=
  match (s.thread? slot).bind (·.pend) with
  | some p => (((s.popHandles slot p.pops).writeRegs slot p.rd [v]).retire slot p.npc).landNow slot
  | none => s

/-- The park of rope.form ends (R327): the rope forms when every partner gave this L; every waiting partner gets the failure
once one has failed, has exited, has not started, or has given another. -/
def State.tryForm (s : State) (slot : Nat) : State :=
  match s.thread? slot with
  | none => s
  | some t =>
    match t.forming, amGet s.launches t.launch with
    | some L, some l =>
      match l.run (coreOf slot) L with
      | none => s
      | some cores =>
        let mates := cores.map (s.partner t.launch t.ordinal)
        let bad (m : Option (Nat × Thread)) : Bool := match m with
          | none => true
          | some (_, x) => match x.forming with | some n => n != L | none => x.ropeFailed
        let slots := mates.filterMap fun m => m.map (·.1)
        if mates.any bad then
          (mates.filterMap id).foldl (fun s m => if m.2.forming.isSome then
            (s.formed m.1 (refusalWord 2)).modThread m.1 fun t => { t with ropeFailed := true } else s) s
        else if mates.all fun m => match m with | some (_, x) => x.forming == some L | none => false then
          ((slots.zipIdx).foldl (fun s m => s.formed m.1 (BitVec.ofNat 64 m.2)) s).formRope t.launch slots
        else s
    | _, _ => s

/-- rope.form (R327). -/
def execRopeForm (rd rs1 : BitVec 5) (s : State) : Host.Outcome State Fault Refusal :=
  let d := s.latch.rd rd
  let a := s.latch.rs1 rs1
  issue s false [rs a, rdst d] fun s c =>
    let L := ((c.x a).extractLsb' 0 5).toNat
    let fail (code : Nat) : State := (s.modThread c.slot fun t => { t with ropeFailed := true }).finish c d [refusalWord code]
    if (s.ropeOf c.slot).isSome then fail 3 else
    match (amGet s.launches c.t.launch).bind fun l => l.run c.core L with
    | none => fail 1
    | some _ =>
      let s1 := s.request c ⟨.none, d, c.npc, [], [], [], 10, L, 0, []⟩
      (s1.modThread c.slot fun t => { t with run := .waiting .partners, ropeFailed := false }).tryForm c.slot

/-- rope.end (R328): it has no effect outside a live rope. -/
def execRopeEnd (s : State) : Host.Outcome State Fault Refusal :=
  issue s false [] fun s c => (s.done c).leaveRope c.slot

/-- unclip (R329). -/
def execUnclip (rd : BitVec 5) (s : State) : Host.Outcome State Fault Refusal :=
  let d := s.latch.rd rd
  issue s false [rdst d] fun s c =>
    let lead : Bool := match s.ropeOf c.slot with | some (_, r) => r.members.head? == some c.slot | none => false
    if lead then s.finish c d [2]
    else if s.inStream c.slot then (s.finish c d [1]).detach c.slot
    else s.finish c d [0]

/-- clip (R329): a detached member parks until the stream passes its position; the issue cycle is kept in Pend.phase. -/
def execClip (rd rs1 : BitVec 5) (s : State) : Host.Outcome State Fault Refusal :=
  let d := s.latch.rd rd
  let a := s.latch.rs1 rs1
  issue s false [rs a, rdst d] fun s c =>
    let at' := c.x a
    if at'.toNat % 4 ≠ 0 then s.trapc c 0x03 at'
    else if s.inStream c.slot then s.finish c d [2]
    else
      match s.ropeOf c.slot with
      | some (_, r) =>
        if !r.solo.contains c.slot then s.finish c d [0] else
        (s.request c ⟨.none, d, c.npc, [], [], [], 11, s.cycle, at', []⟩).modThread c.slot fun t =>
          { t with run := .parked (.clip at') }
      | none => s.finish c d [0]

/-- THREAD_WAKE (R310): the condition a waiting thread waits for has cleared; a thread that waits for a reply becomes
ready by the reply. -/
def execThreadWake (slot : Nat) (s : State) : Host.Outcome State Fault Refusal :=
  event s fun s =>
    match s.thread? slot with
    | some t =>
      match t.run with
      | .waiting .reply => s
      | .waiting .partners => if t.frozen then s else s.tryForm slot
      | .waiting c => if !t.frozen && s.clear slot t c then (s.modThread slot fun t => { t with run := .ready }).landNow slot else s
      | _ => s
    | none => s

end Sys2Proof.Machine
end

