-- ==== Sys2Proof/Machine/Operands.lean ====
section
/-! DEFINITION. Sys2Proof/Machine/Operands.lean: the lanes of span operands (R201, R202): the registers an operand covers,
reading its lanes, and writing a result. -/

namespace Sys2Proof.Machine

/-- Lane width of a type code (R34, R201). -/
def tyWidth (ty : Nat) : Nat :=
  match ty with
  | 0 | 4 => 64
  | 1 | 5 => 32
  | 2 | 3 | 6 => 16
  | _ => 8

/-- The floating-point types are codes 0 to 3 (R34). -/
def tyIsFp (ty : Nat) : Bool := decide (ty < 4)

/-- The format of a floating-point type code. -/
def tyFmt (ty : Nat) : Fmt :=
  match ty with
  | 0 => f64
  | 1 => f32
  | 2 => f16
  | _ => bf16

/-- Lanes of an operand of a span (R201). -/
def laneCount (span : BitVec 2) (w : Nat) : Nat := if span = 0 then 1 else 2 ^ span.toNat * 64 / w

/-- Registers of n lanes of width w (R202). -/
def regsOf (n w : Nat) : Nat := max 1 (n * w / 64)

/-- The operands of a span instruction, and whether R202 forbids their sizes. -/
structure Shape where
  uses : List RegUse
  illegal : Bool := false

/-- Custom-0 forms (R203, R204): a broadcast rs2 is one register. -/
def shape0 (l : Latch) (span : BitVec 2) (bc : BitVec 1) (ty : Nat) (rd rs1 rs2 : BitVec 5) (readRd readRs2 : Bool) : Shape :=
  let k := regsOf (laneCount span (tyWidth ty)) (tyWidth ty)
  { uses := [rs (l.rs1 rs1) k] ++ (if readRs2 then [rs (l.rs2 rs2) (if bc = 1 then 1 else k)] else []) ++
      [if readRd then rmod (l.rd rd) k else rdst (l.rd rd) k] }

/-- Forms of two sources of one width. -/
def shape2 (l : Latch) (span : BitVec 2) (ty : Nat) (rd rs1 rs2 : BitVec 5) : Shape :=
  shape0 l span 0 ty rd rs1 rs2 false true

/-- Forms of one source of the result's width. -/
def shape1 (l : Latch) (span : BitVec 2) (ty : Nat) (rd rs1 : BitVec 5) : Shape :=
  shape0 l span 0 ty rd rs1 0 false false

/-- cvt and cvtr (R211): the result's registers are counted by its own width. -/
def shapeCvt (l : Latch) (span : BitVec 2) (ty dt : Nat) (rd rs1 : BitVec 5) : Shape :=
  let n := laneCount span (tyWidth ty)
  let k := regsOf n (tyWidth dt)
  { uses := [rs (l.rs1 rs1) (regsOf n (tyWidth ty)), rdst (l.rd rd) k], illegal := decide (8 < k) }

/-- lmsk (R210): one register written. -/
def shapeMask (l : Latch) (span : BitVec 2) (ty : Nat) (rd rs1 : BitVec 5) : Shape :=
  { uses := [rs (l.rs1 rs1) (regsOf (laneCount span (tyWidth ty)) (tyWidth ty)), rdst (l.rd rd)] }

/-- lexp (R210): one register read. -/
def shapeExpand (l : Latch) (span : BitVec 2) (ty : Nat) (rd rs1 : BitVec 5) : Shape :=
  { uses := [rs (l.rs1 rs1), rdst (l.rd rd) (regsOf (laneCount span (tyWidth ty)) (tyWidth ty))] }

/-- qenc, qfp8, qfp8x (R212): bytes packed from lanes. -/
def shapeQuant (l : Latch) (span : BitVec 2) (ty : Nat) (rd rs1 rs2 : BitVec 5) : Shape :=
  let n := laneCount span (tyWidth ty)
  { uses := [rs (l.rs1 rs1) (regsOf n (tyWidth ty)), rs (l.rs2 rs2), rdst (l.rd rd) (regsOf n 8)] }

/-- qdec, dfp8, dfp8x (R213): lanes from packed bytes. -/
def shapeDequant (l : Latch) (span : BitVec 2) (ty : Nat) (rd rs1 rs2 : BitVec 5) : Shape :=
  let n := laneCount span (tyWidth ty)
  { uses := [rs (l.rs1 rs1) (regsOf n 8), rs (l.rs2 rs2), rdst (l.rd rd) (regsOf n (tyWidth ty))] }

/-- Lane i, of width w, of the operand that starts at register r (R201). -/
def Ctx.lane (c : Ctx) (r w i : Nat) : Nat := (c.x (r + i * w / 64)).toNat / 2 ^ (i * w % 64) % 2 ^ w

/-- The lanes of an operand. -/
def Ctx.lanes (c : Ctx) (r w n : Nat) : List Nat := (List.range n).map (c.lane r w)

/-- How the bits above a result's last lane are filled (R202). -/
inductive Fill where
  | ones | sign | zeros
deriving DecidableEq, Repr

/-- The registers of a result (R202): at span 1 the one lane with its fill, otherwise the lanes packed from bit 0. -/
def packLanes (single : Bool) (fill : Fill) (w : Nat) (vs : List Nat) : List Word :=
  if single then
    let v := vs.getD 0 0 % 2 ^ w
    [BitVec.ofNat 64 (match fill with
      | .ones => v + (2 ^ 64 - 2 ^ w)
      | .sign => if v / 2 ^ (w - 1) % 2 = 1 then v + (2 ^ 64 - 2 ^ w) else v
      | .zeros => v)]
  else
    (List.range (regsOf vs.length w)).map fun j =>
      BitVec.ofNat 64 ((List.range (64 / w)).foldl (fun acc i => acc + vs.getD (j * (64 / w) + i) 0 % 2 ^ w * 2 ^ (i * w)) 0)

/-- What a span instruction computes: its lanes, its flags, or the trap it raises. -/
structure Lanes where
  vals : List Nat
  flags : BitVec 5 := 0
  trap : Option (Nat × Word) := none

/-- A span instruction (R203): sources read, the result written, flags ORed into fflags. rounds says that frm is read and
must name a mode (R205). -/
def spanForm (s : State) (sh : Shape) (rounds single : Bool) (fill : Fill) (w d : Nat) (f : State → Ctx → Mode → Lanes) :
    Host.Outcome State Fault Refusal :=
  issue s sh.illegal sh.uses fun s c =>
    match rounds, modeOf (c.t.fcsr.extractLsb' 5 3).toNat with
    | true, none => s.trapc c 0x01 c.w
    | _, m =>
      let r := f s c (m.getD .rne)
      match r.trap with
      | some (k, v) => s.trapc c k v
      | none =>
        (s.modThread c.slot fun t => { t with fcsr := t.fcsr ||| r.flags.setWidth 8 }).finish c d
          (packLanes single fill w r.vals)

/-- Rounded lanes with their flags ORed. -/
def lanesOf (l : List Res) : Lanes := { vals := l.map (·.bits), flags := l.foldl (fun f r => f ||| r.flags) 0 }

end Sys2Proof.Machine
end

