-- ==== Sys2Proof/Machine/Span.lean ====
section
/-! DEFINITION. Sys2Proof/Machine/Span.lean: the custom-0 operations, floating-point and integer (R204 to R206). -/

namespace Sys2Proof.Machine

/-- A lanewise floating-point form of custom-0 (R204): f gives a lane from d, a and b. -/
def fpForm (s : State) (span : BitVec 2) (bc : BitVec 1) (ty : BitVec 2) (rd rs1 rs2 : BitVec 5) (rounds readRd readRs2 : Bool)
    (f : Fmt → Mode → Nat → Nat → Nat → Res) : Host.Outcome State Fault Refusal :=
  let w := tyWidth ty.toNat
  let l := s.latch
  spanForm s (shape0 l span bc ty.toNat rd rs1 rs2 readRd readRs2) rounds (span == 0) .ones w (l.rd rd) fun _ c m =>
    lanesOf ((List.range (laneCount span w)).map fun i =>
      f (tyFmt ty.toNat) m (if readRd then c.lane (l.rd rd) w i else 0) (c.lane (l.rs1 rs1) w i)
        (if readRs2 then c.lane (l.rs2 rs2) w (if bc = 1 then 0 else i) else 0))

/-- A reduction of custom-0 (R206): one value in every lane. -/
def fpReduce (s : State) (span : BitVec 2) (bc : BitVec 1) (ty : BitVec 2) (rd rs1 rs2 : BitVec 5) (rounds : Bool)
    (f : Fmt → Mode → List Nat → Res) : Host.Outcome State Fault Refusal :=
  let w := tyWidth ty.toNat
  let l := s.latch
  spanForm s (shape0 l span bc ty.toNat rd rs1 rs2 false false) rounds (span == 0) .ones w (l.rd rd) fun _ c m =>
    let n := laneCount span w
    let r := f (tyFmt ty.toNat) m (c.lanes (l.rs1 rs1) w n)
    { vals := List.replicate n r.bits, flags := r.flags }

/-- A lanewise integer form of custom-0 (R204): f gives a lane of width w from d, a and b. -/
def intForm (s : State) (span : BitVec 2) (bc : BitVec 1) (ty : BitVec 2) (rd rs1 rs2 : BitVec 5) (readRd : Bool)
    (f : Nat → Nat → Nat → Nat → Nat) : Host.Outcome State Fault Refusal :=
  let w := tyWidth (4 + ty.toNat)
  let l := s.latch
  spanForm s (shape0 l span bc (4 + ty.toNat) rd rs1 rs2 readRd true) false (span == 0) .sign w (l.rd rd) fun _ c _ =>
    { vals := (List.range (laneCount span w)).map fun i =>
        f w (if readRd then c.lane (l.rd rd) w i else 0) (c.lane (l.rs1 rs1) w i)
          (c.lane (l.rs2 rs2) w (if bc = 1 then 0 else i)) }

/-- The signed reading of a lane. -/
def sval (w v : Nat) : Int := if v / 2 ^ (w - 1) % 2 = 1 then (v : Int) - (2 ^ w : Nat) else v

/-- An integer cut to a lane. -/
def cut (w : Nat) (z : Int) : Nat := (z % (2 ^ w : Nat)).toNat

/-- fmin and fmax (R205): less says that the first of two values that are not NaN is taken. -/
def fpPick (f : Fmt) (a b : Nat) (less : Int → Bool → Bool) : Res :=
  let x := f.decode a
  let y := f.decode b
  let fl := x.sigFlag ||| y.sigFlag
  match x.isNan, y.isNan with
  | true, true => ⟨f.nan, fl⟩
  | true, false => ⟨b, fl⟩
  | false, true => ⟨a, fl⟩
  -- values that compare equal are alike, or zeros told apart by a's sign
  | false, false => ⟨if less (x.cmp y) (decide (a / 2 ^ (f.ebits + f.mbits) % 2 = 1)) then a else b, fl⟩

/-- The fraction bits an estimate keeps: q of R205. -/
def estimateBits (f : Fmt) : Nat := min f.mbits 10

/-- An estimate of magnitude m * 2^e, a little more with sticky: truncated to q fraction bits (R205). -/
def estimate (f : Fmt) (neg : Bool) (m : Nat) (e : Int) (sticky : Bool) : Res :=
  let q := estimateBits f
  let g : Fmt := { f with mbits := q }
  let r := g.round .rtz false m e sticky
  if r.flags &&& flOF ≠ 0 then ⟨f.infBits neg, r.flags⟩
  else ⟨r.bits * 2 ^ (f.mbits - q) + f.sign neg, r.flags⟩

/-- frcpe (R205). -/
def recip (f : Fmt) (a : Nat) : Res :=
  match f.decode a with
  | .nan s => ⟨f.nan, if s then flNV else 0⟩
  | .inf n => ⟨f.sign n, 0⟩
  | .fin n m e =>
    if m = 0 then ⟨f.infBits n, flDZ⟩ else
    let d := Nat.log2 m + 16
    estimate f n (2 ^ d / m) (-e - d) (decide (2 ^ d % m ≠ 0))

/-- frsqe (R205). -/
def recipSqrt (f : Fmt) (a : Nat) : Res :=
  match f.decode a with
  | .nan s => ⟨f.nan, if s then flNV else 0⟩
  | .inf n => if n then ⟨f.nan, flNV⟩ else ⟨f.sign false, 0⟩
  | .fin n m e =>
    if m = 0 then ⟨f.infBits n, flDZ⟩ else
    if n then ⟨f.nan, flNV⟩ else
    -- an even exponent, so that its root is a power of 2
    let (m, e) := if e % 2 = 0 then (m, e) else (2 * m, e - 1)
    let d := Nat.log2 m + 20
    let r := isqrt (2 ^ (2 * d) / m) (2 * d)
    estimate f false r (-(e / 2) - d) (decide (r * r * m ≠ 2 ^ (2 * d)))

/-- One level of the pairwise tree of fsum (R206). -/
def sumPairs (f : Fmt) (m : Mode) : List Nat → List Res
  | a :: b :: l => f.add m a b :: sumPairs f m l
  | _ => []

/-- The tree of fsum over 2^n lanes (R206); one lane has a NaN made canonical. -/
def sumTree (f : Fmt) (m : Mode) : Nat → List Nat → Res
  | 0, l => let a := l.getD 0 0; let v := f.decode a; if v.isNan then ⟨f.nan, v.sigFlag⟩ else ⟨a, 0⟩
  | 1, l => ((sumPairs f m l)[0]?).getD ⟨0, 0⟩
  | n + 2, l =>
    let x := lanesOf (sumPairs f m l)
    let r := sumTree f m (n + 1) x.vals
    ⟨r.bits, r.flags ||| x.flags⟩

/-- fmaxa over lanes (R206). -/
def maxAbs (f : Fmt) (l : List Nat) : Res :=
  let ds := l.map f.decode
  if ds.any Fv.isNan then ⟨f.nan, ds.foldl (fun fl v => fl ||| v.sigFlag) 0⟩
  else ⟨(l.map fun a => a % 2 ^ (f.ebits + f.mbits)).foldl max 0, 0⟩

/-- A lane with another sign (R205). -/
def withSign (f : Fmt) (a : Nat) (neg : Bool) : Res := ⟨a % 2 ^ (f.ebits + f.mbits) + f.sign neg, 0⟩

/-- The sign of a lane. -/
def signOf (f : Fmt) (a : Nat) : Bool := decide (a / 2 ^ (f.ebits + f.mbits) % 2 = 1)

/-- fadd (R204). -/
def execFadd (span : BitVec 2) (bc : BitVec 1) (ty : BitVec 2) (rd rs1 rs2 : BitVec 5) (s : State) :
    Host.Outcome State Fault Refusal :=
  fpForm s span bc ty rd rs1 rs2 true false true fun f m _ a b => f.add m a b

/-- fsub (R204). -/
def execFsub (span : BitVec 2) (bc : BitVec 1) (ty : BitVec 2) (rd rs1 rs2 : BitVec 5) (s : State) :
    Host.Outcome State Fault Refusal :=
  fpForm s span bc ty rd rs1 rs2 true false true fun f m _ a b => f.sub m a b

/-- fmul (R204). -/
def execFmul (span : BitVec 2) (bc : BitVec 1) (ty : BitVec 2) (rd rs1 rs2 : BitVec 5) (s : State) :
    Host.Outcome State Fault Refusal :=
  fpForm s span bc ty rd rs1 rs2 true false true fun f m _ a b => f.mul m a b

/-- fmac (R204: rd + rs1 * rs2, one rounding). -/
def execFmac (span : BitVec 2) (bc : BitVec 1) (ty : BitVec 2) (rd rs1 rs2 : BitVec 5) (s : State) :
    Host.Outcome State Fault Refusal :=
  fpForm s span bc ty rd rs1 rs2 true true true fun f m d a b => f.fma m false d a b

/-- fmsc (R204: rd - rs1 * rs2, one rounding). -/
def execFmsc (span : BitVec 2) (bc : BitVec 1) (ty : BitVec 2) (rd rs1 rs2 : BitVec 5) (s : State) :
    Host.Outcome State Fault Refusal :=
  fpForm s span bc ty rd rs1 rs2 true true true fun f m d a b => f.fma m true d a b

/-- fmin (R205). -/
def execFmin (span : BitVec 2) (bc : BitVec 1) (ty : BitVec 2) (rd rs1 rs2 : BitVec 5) (s : State) :
    Host.Outcome State Fault Refusal :=
  fpForm s span bc ty rd rs1 rs2 false false true fun f _ _ a b => fpPick f a b fun o neg => o == -1 || (o == 0 && neg)

/-- fmax (R205). -/
def execFmax (span : BitVec 2) (bc : BitVec 1) (ty : BitVec 2) (rd rs1 rs2 : BitVec 5) (s : State) :
    Host.Outcome State Fault Refusal :=
  fpForm s span bc ty rd rs1 rs2 false false true fun f _ _ a b => fpPick f a b fun o neg => o == 1 || (o == 0 && !neg)

/-- fdiv (R204). -/
def execFdiv (span : BitVec 2) (bc : BitVec 1) (ty : BitVec 2) (rd rs1 rs2 : BitVec 5) (s : State) :
    Host.Outcome State Fault Refusal :=
  fpForm s span bc ty rd rs1 rs2 true false true fun f m _ a b => f.div m a b

/-- fsqrt (R205). -/
def execFsqrt (span : BitVec 2) (bc : BitVec 1) (ty : BitVec 2) (rd rs1 rs2 : BitVec 5) (s : State) :
    Host.Outcome State Fault Refusal :=
  fpForm s span bc ty rd rs1 rs2 true false false fun f m _ a _ => f.sqrt m a

/-- frcpe (R205). -/
def execFrcpe (span : BitVec 2) (bc : BitVec 1) (ty : BitVec 2) (rd rs1 rs2 : BitVec 5) (s : State) :
    Host.Outcome State Fault Refusal :=
  fpForm s span bc ty rd rs1 rs2 false false false fun f _ _ a _ => recip f a

/-- frsqe (R205). -/
def execFrsqe (span : BitVec 2) (bc : BitVec 1) (ty : BitVec 2) (rd rs1 rs2 : BitVec 5) (s : State) :
    Host.Outcome State Fault Refusal :=
  fpForm s span bc ty rd rs1 rs2 false false false fun f _ _ a _ => recipSqrt f a

/-- fsgnj (R205). -/
def execFsgnj (span : BitVec 2) (bc : BitVec 1) (ty : BitVec 2) (rd rs1 rs2 : BitVec 5) (s : State) :
    Host.Outcome State Fault Refusal :=
  fpForm s span bc ty rd rs1 rs2 false false true fun f _ _ a b => withSign f a (signOf f b)

/-- fsgnjn (R205). -/
def execFsgnjn (span : BitVec 2) (bc : BitVec 1) (ty : BitVec 2) (rd rs1 rs2 : BitVec 5) (s : State) :
    Host.Outcome State Fault Refusal :=
  fpForm s span bc ty rd rs1 rs2 false false true fun f _ _ a b => withSign f a (!signOf f b)

/-- fsgnjx (R205). -/
def execFsgnjx (span : BitVec 2) (bc : BitVec 1) (ty : BitVec 2) (rd rs1 rs2 : BitVec 5) (s : State) :
    Host.Outcome State Fault Refusal :=
  fpForm s span bc ty rd rs1 rs2 false false true fun f _ _ a b => withSign f a (signOf f a != signOf f b)

/-- fsum (R206). -/
def execFsum (span : BitVec 2) (bc : BitVec 1) (ty : BitVec 2) (rd rs1 rs2 : BitVec 5) (s : State) :
    Host.Outcome State Fault Refusal :=
  fpReduce s span bc ty rd rs1 rs2 true fun f m l => sumTree f m (Nat.log2 l.length) l

/-- fmaxa (R206). -/
def execFmaxa (span : BitVec 2) (bc : BitVec 1) (ty : BitVec 2) (rd rs1 rs2 : BitVec 5) (s : State) :
    Host.Outcome State Fault Refusal :=
  fpReduce s span bc ty rd rs1 rs2 false fun f _ l => maxAbs f l

/-- add: the sum modulo 2^w (R204). -/
def execSpanAdd (span : BitVec 2) (bc : BitVec 1) (ty : BitVec 2) (rd rs1 rs2 : BitVec 5) (s : State) :
    Host.Outcome State Fault Refusal :=
  intForm s span bc ty rd rs1 rs2 false fun w _ a b => (a + b) % 2 ^ w

/-- sub: the difference modulo 2^w (R204). -/
def execSpanSub (span : BitVec 2) (bc : BitVec 1) (ty : BitVec 2) (rd rs1 rs2 : BitVec 5) (s : State) :
    Host.Outcome State Fault Refusal :=
  intForm s span bc ty rd rs1 rs2 false fun w _ a b => (a + 2 ^ w - b) % 2 ^ w

/-- min: the signed minimum (R204). -/
def execSpanMin (span : BitVec 2) (bc : BitVec 1) (ty : BitVec 2) (rd rs1 rs2 : BitVec 5) (s : State) :
    Host.Outcome State Fault Refusal :=
  intForm s span bc ty rd rs1 rs2 false fun w _ a b => if sval w b < sval w a then b else a

/-- max: the signed maximum (R204). -/
def execSpanMax (span : BitVec 2) (bc : BitVec 1) (ty : BitVec 2) (rd rs1 rs2 : BitVec 5) (s : State) :
    Host.Outcome State Fault Refusal :=
  intForm s span bc ty rd rs1 rs2 false fun w _ a b => if sval w a < sval w b then b else a

/-- maxn: the unsigned maximum (R204). -/
def execSpanMaxn (span : BitVec 2) (bc : BitVec 1) (ty : BitVec 2) (rd rs1 rs2 : BitVec 5) (s : State) :
    Host.Outcome State Fault Refusal :=
  intForm s span bc ty rd rs1 rs2 false fun _ _ a b => max a b

/-- mul: the low half of the product (R204). -/
def execSpanMul (span : BitVec 2) (bc : BitVec 1) (ty : BitVec 2) (rd rs1 rs2 : BitVec 5) (s : State) :
    Host.Outcome State Fault Refusal :=
  intForm s span bc ty rd rs1 rs2 false fun w _ a b => a * b % 2 ^ w

/-- mulh: the high half of the signed product (R204). -/
def execSpanMulh (span : BitVec 2) (bc : BitVec 1) (ty : BitVec 2) (rd rs1 rs2 : BitVec 5) (s : State) :
    Host.Outcome State Fault Refusal :=
  intForm s span bc ty rd rs1 rs2 false fun w _ a b => cut w (sval w a * sval w b / (2 ^ w : Nat))

/-- and (R204). -/
def execSpanAnd (span : BitVec 2) (bc : BitVec 1) (ty : BitVec 2) (rd rs1 rs2 : BitVec 5) (s : State) :
    Host.Outcome State Fault Refusal :=
  intForm s span bc ty rd rs1 rs2 false fun _ _ a b => a &&& b

/-- or (R204). -/
def execSpanOr (span : BitVec 2) (bc : BitVec 1) (ty : BitVec 2) (rd rs1 rs2 : BitVec 5) (s : State) :
    Host.Outcome State Fault Refusal :=
  intForm s span bc ty rd rs1 rs2 false fun _ _ a b => a ||| b

/-- xor (R204). -/
def execSpanXor (span : BitVec 2) (bc : BitVec 1) (ty : BitVec 2) (rd rs1 rs2 : BitVec 5) (s : State) :
    Host.Outcome State Fault Refusal :=
  intForm s span bc ty rd rs1 rs2 false fun _ _ a b => a ^^^ b

/-- sll: a << (b mod w) (R204). -/
def execSpanSll (span : BitVec 2) (bc : BitVec 1) (ty : BitVec 2) (rd rs1 rs2 : BitVec 5) (s : State) :
    Host.Outcome State Fault Refusal :=
  intForm s span bc ty rd rs1 rs2 false fun w _ a b => a * 2 ^ (b % w) % 2 ^ w

/-- srl: a, unsigned, >> (b mod w) (R204). -/
def execSpanSrl (span : BitVec 2) (bc : BitVec 1) (ty : BitVec 2) (rd rs1 rs2 : BitVec 5) (s : State) :
    Host.Outcome State Fault Refusal :=
  intForm s span bc ty rd rs1 rs2 false fun w _ a b => a / 2 ^ (b % w)

/-- sra: a, signed, >> (b mod w) (R204). -/
def execSpanSra (span : BitVec 2) (bc : BitVec 1) (ty : BitVec 2) (rd rs1 rs2 : BitVec 5) (s : State) :
    Host.Outcome State Fault Refusal :=
  intForm s span bc ty rd rs1 rs2 false fun w _ a b => cut w (sval w a / (2 ^ (b % w) : Nat))

/-- fsl: the high word of rd:rs1 shifted left by b mod 2w (R204). -/
def execFsl (span : BitVec 2) (bc : BitVec 1) (ty : BitVec 2) (rd rs1 rs2 : BitVec 5) (s : State) :
    Host.Outcome State Fault Refusal :=
  intForm s span bc ty rd rs1 rs2 true fun w d a b => (d * 2 ^ w + a) * 2 ^ (b % (2 * w)) / 2 ^ w % 2 ^ w

/-- fsr: the low word of rd:rs1 shifted right by b mod 2w (R204). -/
def execFsr (span : BitVec 2) (bc : BitVec 1) (ty : BitVec 2) (rd rs1 rs2 : BitVec 5) (s : State) :
    Host.Outcome State Fault Refusal :=
  intForm s span bc ty rd rs1 rs2 true fun w d a b => (d * 2 ^ w + a) / 2 ^ (b % (2 * w)) % 2 ^ w

/-- gmax (R206): the unsigned maximum of all lanes in every lane. -/
def execGmax (span : BitVec 2) (bc : BitVec 1) (ty : BitVec 2) (rd rs1 rs2 : BitVec 5) (s : State) :
    Host.Outcome State Fault Refusal :=
  let w := tyWidth (4 + ty.toNat)
  let l := s.latch
  spanForm s (shape0 l span bc (4 + ty.toNat) rd rs1 rs2 false false) false (span == 0) .sign w (l.rd rd) fun _ c _ =>
    let n := laneCount span w
    { vals := List.replicate n ((c.lanes (l.rs1 rs1) w n).foldl max 0) }

end Sys2Proof.Machine
end

