-- ==== Sys2Proof/Machine/Coll.lean ====
section
/-! DEFINITION. Sys2Proof/Machine/Coll.lean: collective reductions (R358 to R363). -/

namespace Sys2Proof.Machine

def ctlOp (g : Word) : Nat := (g.extractLsb' 0 3).toNat
def ctlTy (g : Word) : Nat := (g.extractLsb' 4 3).toNat
def ctlScope (g : Word) : Nat := (g.extractLsb' 8 2).toNat
/-- Width and height of a scope 1 sub-rectangle. -/
def ctlW (g : Word) : Nat := (g.extractLsb' 16 6).toNat + 1
def ctlH (g : Word) : Nat := (g.extractLsb' 22 5).toNat + 1
def ctlPg (g : Word) : Nat := if ctlScope g = 2 then (g.extractLsb' 32 10).toNat else 0

/-- A group word that raises cause 0x01 in a launch (R359, R363). -/
def ctlIllegal (l : Launch) (g : Word) : Bool :=
  let x := rectOf l.rectNow
  let ty := ctlTy g
  decide (ctlScope g = 3) || !(ty == 0 || ty == 1 || ty == 4 || ty == 5) || decide (5 < ctlOp g) ||
  (decide (3 ≤ ctlOp g) && decide (ty < 4)) ||
  (decide (ctlScope g = 1) && (decide (x.w % ctlW g ≠ 0) || decide (x.h % ctlH g ≠ 0))) ||
  (decide (ctlScope g = 2) && decide (ctlPg g = 0))

/-- The linear index of the first core of the group that holds the core at an index, and the group's width and height. -/
def groupAt (l : Launch) (g : Word) (i : Nat) : Nat × Nat × Nat :=
  let x := rectOf l.rectNow
  if ctlScope g = 1 then
    let y := i / x.w / ctlH g * ctlH g
    let c := i % x.w / ctlW g * ctlW g
    (y * x.w + c, ctlW g, ctlH g)
  else (0, x.w, x.h)

/-- The index of a member in the group of its core (R360). -/
def memberIndex (l : Launch) (g : Word) (i k : Nat) : Nat :=
  let x := rectOf l.rectNow
  let a := groupAt l g i
  let xi := (i / x.w - a.1 / x.w) * a.2.1 + (i % x.w - a.1 % x.w)
  xi * l.record.slots + k

/-- The members of a group. -/
def groupSize (l : Launch) (g : Word) : Nat :=
  let a := groupAt l g 0
  a.2.1 * a.2.2 * l.record.slots

/-- The bits that members' words must share (R363, code 1). -/
def groupBits (g : Word) : Word := if ctlScope g = 1 then g &&& 0x7FF03F7#64 else g &&& 0x3F7#64

/-- A round and a contribution are of one group (R360): the same cores, and the same packages where the scopes are alike. -/
def Round.sameGroup (r : Round) (l : Launch) (g : Word) (i : Nat) : Bool :=
  groupAt l r.group r.place == groupAt l g i && r.place == (groupAt l g i).1 &&
  (ctlPg r.group == ctlPg g || ctlScope r.group != ctlScope g)

/-- Open rounds of a launch that wait for one another: the words of their members differ, and each lacks a member that waits in
another (R363, code 1). reach: the rounds that a round, by the members it lacks, waits for. -/
def State.roundCycle (s : State) (l : Launch) (id : Nat) : Bool :=
  let open' := s.rounds.filter fun r => r.2.launch == l.ident && r.2.failed.isNone
  let lacks (r : Round) : List Nat :=
    let a := groupAt l r.group r.place
    let w := (rectOf l.rectNow).w
    (List.range a.2.2).flatMap fun y => (List.range a.2.1).flatMap fun x => (List.range l.record.slots).filterMap fun k =>
      let i := r.place + y * w + x
      if r.contributions.any (·.1 == memberIndex l r.group i k) then none else some (i * 64 + k)
  let in' (r : Round) (m : Nat) : Bool :=
    (groupAt l r.group (m / 64)).1 == r.place && r.contributions.any (·.1 == memberIndex l r.group (m / 64) (m % 64))
  let next (ids : List Nat) : List Nat := open'.filterMap fun q => if ids.any (fun i => match amGet open' i with
      | some r => i != q.1 && (lacks r).any (in' q.2)
      | none => false) then some q.1 else none
  let grow (ids : List Nat) : List Nat := (next ids).foldl nsIns ids
  ((List.range open'.length).foldl (fun ids _ => grow ids) (next [id])).contains id

/-- A contribution joins the open round of its group, or opens one (R360). A word that differs in what R363 names fails the round,
and so do rounds of overlapping groups that wait for one another, which only differing words can make. -/
def State.contribute (s : State) (l : Launch) (slot i k : Nat) (g : Word) (reg : Nat) (v : Word) : State :=
  let m := memberIndex l g i k
  let lacks (r : Round) : Bool := r.launch == l.ident && !r.contributions.any fun c => c.2.1 == slot
  let s0 : State := if ctlPg g = 0 then s else { s with
    groupHolder := if (amGet s.groupHolder (ctlPg g)).isSome then s.groupHolder else amPut s.groupHolder (ctlPg g) l.ident }
  let (id, s1) : Nat × State := match s0.rounds.find? fun r => lacks r.2 && r.2.sameGroup l g i with
    | some (id, r) => (id, { s0 with rounds := amPut s0.rounds id { r with
        contributions := r.contributions ++ [(m, slot, reg, v)]
        failed := if groupBits r.group = groupBits g then r.failed else r.failed <|> some 1 } })
    | none => (s0.nextId, { s0 with
        nextId := s0.nextId + 1
        rounds := amPut s0.rounds s0.nextId ⟨l.ident, g, (groupAt l g i).1, [(m, slot, reg, v)], none⟩ })
  if s1.roundCycle l id then
    { s1 with rounds := s1.rounds.map fun r => if r.2.launch = l.ident ∧ s1.roundCycle l r.1 then (r.1, { r.2 with failed := r.2.failed <|> some 1 }) else r }
  else s1

/-- coll.red (R363): only a thread that its launch started at an ordinal is a member of a group. -/
def execCollRed (rd rs1 rs2 : BitVec 5) (s : State) : Host.Outcome State Fault Refusal :=
  let d := s.latch.rd rd
  let a := s.latch.rs1 rs1
  let b := s.latch.rs2 rs2
  issue s false [rs a, rs b, rname d] fun s c =>
    let g := c.x a
    match amGet s.launches c.t.launch with
    | none => s.trapc c 0x01 c.w
    | some l =>
      if ctlIllegal l g || decide (c.t.ctx ≠ 0) || decide (l.record.slots ≤ c.t.ordinal) then s.trapc c 0x01 c.w
      else if heldRegs c.t [d] then s.park c.slot (.heldBy [d] [])
      else if !s.clear c.slot c.t (.collective (ctlPg g)) then s.park c.slot (.collective (ctlPg g))
      else s.release c fun s =>
        let s1 := s.modThread c.slot fun t => { (if d = 0 then t else t.emptyX d) with colls := t.colls ++ [d] }
        (s1.contribute l c.slot (l.cores.idxOf c.core) c.t.ordinal g d (c.x b)).done c

/-- combine of R361 on values of z bits. -/
def combine (g : Word) (a b : Nat) : Nat :=
  let ty := ctlTy g
  let w := if ty % 4 = 0 then 64 else 32
  let f := if ty % 4 = 0 then f64 else f32
  let u := g.getLsbD 7
  let less (x y : Nat) : Bool := if u then decide (x < y) else decide (sval w x < sval w y)
  if ty < 4 then
    match ctlOp g with
    | 0 => (f.add .rne a b).bits
    | 1 => (fpPick f a b fun o neg => o == -1 || (o == 0 && neg)).bits
    | _ => (fpPick f a b fun o neg => o == 1 || (o == 0 && !neg)).bits
  else
    match ctlOp g with
    | 0 => (a + b) % 2 ^ w
    | 1 => if less b a then b else a
    | 2 => if less a b then b else a
    | 3 => a &&& b
    | 4 => a ||| b
    | _ => a ^^^ b

/-- One level of the tree (R361). -/
def pairUp (g : Word) : List Nat → List Nat
  | a :: b :: l => combine g a b :: pairUp g l
  | l => l

/-- The fixed tree over contributions in order of member index (R361); as many levels as values are more than enough. -/
def reduceTree (g : Word) : Nat → List Nat → Nat
  | 0, l => l.headD 0
  | n + 1, l => if l.length ≤ 1 then l.headD 0 else reduceTree g n (pairUp g l)

/-- The scalar a value is in its type (R361). -/
def ctlCut (g : Word) (v : Word) : Nat := if ctlTy g % 4 = 0 then v.toNat else v.toNat % 2 ^ 32

/-- The result in a register (R202): f32 above ones, i32 sign-extended. -/
def ctlWiden (g : Word) (n : Nat) : Word :=
  match ctlTy g with
  | 1 => BitVec.ofNat 64 (0xFFFFFFFF * 2 ^ 32 + n)
  | 5 => (BitVec.ofNat 32 n).signExtend 64
  | _ => BitVec.ofNat 64 n

/-- The number under which the unit that completes rounds sends results: no slot has it. -/
def roundSender : Nat := 2 ^ 40

/-- A round's value goes as a message to each member that contributed (R362, R363), or, while the member is spilled, is kept with
the deliveries that land after it resumes (R341). -/
def State.deliverRound (s : State) (l : Launch) (r : Round) (v : Word) : State :=
  let tn := l.record.tenant
  r.contributions.foldl (fun s c =>
    let m : Message := .result c.2.1 c.2.2.1 v
    if c.2.1 < 2 ^ 40 then s.send false (coreOf c.2.1) (coreOf c.2.1) (.message m tn roundSender m.target)
    else s.modLaunch l.ident fun l => { l with
      contexts := l.contexts.map fun x => if decide (spilledName tn x.block = c.2.1) then
        { x with thread := { x.thread with waitingDeliveries := x.thread.waitingDeliveries ++ [⟨roundSender, tn, m, m.target⟩] } }
      else x }) s

def insertContribution (x : Nat × Nat × Nat × Word) : List (Nat × Nat × Nat × Word) → List (Nat × Nat × Nat × Word)
  | [] => [x]
  | y :: l => if x.1 ≤ y.1 then x :: y :: l else y :: insertContribution x l

/-- The contributions' values in order of member index. -/
def Round.values (r : Round) : List Nat :=
  (r.contributions.foldr insertContribution []).map fun c => ctlCut r.group c.2.2.2

/-- COLL_ROUND_COMPLETE (R360, R361): partners are the results of the other packages of a scope 2 round, in order of their
ranks, one for each of them. A peer group that has not been set up is this package alone. -/
def execCollRoundComplete (round : Nat) (partners : List Word) (s : State) : Host.Outcome State Fault Refusal :=
  event s fun s =>
    match amGet s.rounds round with
    | none => s
    | some r =>
      match amGet s.launches r.launch with
      | none => s
      | some l =>
        if r.failed.isSome || decide (r.contributions.length < groupSize l r.group) then s else
        let own := reduceTree r.group r.values.length r.values
        let group := amGetD s.peerGroups (ctlPg r.group) [64]
        if ctlScope r.group = 2 ∧ partners.length + 1 ≠ group.length then s else
        let v := if ctlScope r.group ≠ 2 then own else
          let rank := group.idxOf 64
          let others := partners.map (ctlCut r.group)
          reduceTree r.group group.length (others.take rank ++ [own] ++ others.drop rank)
        ({ s with rounds := amDel s.rounds round } : State).deliverRound l r (ctlWiden r.group v)

/-- A member of the round's group that has not contributed has no thread any more (R363, code 2). -/
def State.memberGone (s : State) (l : Launch) (r : Round) : Bool :=
  let a := groupAt l r.group r.place
  let w := (rectOf l.rectNow).w
  (List.range a.2.2).any fun y => (List.range a.2.1).any fun x => (List.range l.record.slots).any fun k =>
    let i := r.place + y * w + x
    let core := l.cores.getD i 0
    let there := s.threads.any fun t => coreOf t.1 == core && t.2.launch == l.ident && t.2.ordinal == k && t.2.level == .user
    !there && !l.starting.any (fun z => z.1 == core && z.2.2.1 == k) &&
      !l.contexts.any (fun z => z.place == i && z.thread.ordinal == k) &&
      !r.contributions.any (·.1 == memberIndex l r.group i k)

/-- COLL_ROUND_FAIL (R363). -/
def execCollRoundFail (round : Nat) (s : State) : Host.Outcome State Fault Refusal :=
  event s fun s =>
    match amGet s.rounds round with
    | none => s
    | some r =>
      match amGet s.launches r.launch with
      | none => s
      | some l =>
        match (match r.failed with | some c => some c | none => if s.memberGone l r then some 2 else none) with
        | none => s
        | some code =>
          (({ s with rounds := amDel s.rounds round } : State).deliverRound l r (refusalWord code)).post l.record.tenant 0 code 0 6 0 0

/-- The open scope 2 rounds of a peer group fail (R363, code 3). -/
def State.failGroup (s : State) (group : Nat) : State :=
  { s with rounds := s.rounds.map fun r =>
      if ctlScope r.2.group = 2 ∧ ctlPg r.2.group = group then (r.1, { r.2 with failed := r.2.failed <|> some 3 }) else r }

/-- PEER_GROUP_LEAVE (R363). -/
def execPeerGroupLeave (group package : Nat) (s : State) : Host.Outcome State Fault Refusal :=
  event s fun s =>
    ({ s with peerGroups := s.peerGroups.map fun g => if g.1 = group then (g.1, g.2.filter (· != package)) else g } : State).failGroup
      group

end Sys2Proof.Machine
end

