-- ==== Sys2Proof/Machine/Summit.lean ====
section
/-! DEFINITION. Sys2Proof/Machine/Summit.lean: summit records (R244 to R258) and their instructions (R259 to R267). -/

namespace Sys2Proof.Machine

/-- RB and n of a tenant's record pool (R244, R381). -/
def Tenant.poolBase (t : Tenant) : Word := t.srpool &&& ~~~(0xFFFF#64)
def Tenant.poolCount (t : Tenant) : Nat := (t.srpool.extractLsb' 0 13).toNat * 16

/-- rec(h) (R244). -/
def State.recVa (s : State) (tn h : Nat) : Word := (s.tenant tn).poolBase + BitVec.ofNat 64 (256 * h)

/-- The checks of R245 on a handle, for an access of a level: the record's first word with its page's class, or the cause. at':
the access goes to the home, whose access table is checked too (R90). A page routed off the package is 0x09 (DEDUCED,
notes/assumptions/17.md). -/
def State.recHome (s : State) (core tn master h level : Nat) (at' : Bool := true) : State × Except Nat (Nat × Nat) :=
  if (s.tenant tn).poolCount ≤ h then (s, .error 0x08) else
  let va := (s.recVa tn h).toNat
  match if at' then s.resolve core tn master va (.record level) else s.origin core tn va (.record level) with
  | (s1, .error c) => (s1, .error c)
  | (s1, .ok (.mem pa leaf)) => (s1, .ok (pa / 8, match leaf with | some e => (e.extractLsb' 8 4).toNat | none => 0))
  | (s1, .ok _) => (s1, .error 0x09)

/-- The record of a handle lies at a peer: its pages' class is routed there (R411). -/
def State.recAway (s : State) (core tn master h level : Nat) : Option Target :=
  if (s.tenant tn).poolCount ≤ h then none else
  match (s.resolve core tn master (s.recVa tn h).toNat (.record level)).2 with
  | .ok (.peer pkg pa cls t) => some (.peer pkg pa cls t)
  | _ => none

/-- The first poisoned word, of those named, of the record at word key (R260). -/
def State.recPoison (s : State) (key : Nat) (ix : List Nat) : State × Option Nat :=
  let s1 := ix.foldl (fun s i => s.settle (key + i)) s
  (s1, ix.find? fun i => s1.mem.poisoned (key + i))

def State.recWord (s : State) (key i : Nat) : Word := s.mem.word (key + i)

/-- Fields of word 1 (R248). -/
def recAlloc (w : Word) : Bool := w.getLsbD 47
def recHlen (w : Word) : Nat := (w.extractLsb' 16 5).toNat
def recRefOf (w : Word) : Nat := (w.extractLsb' 8 8).toNat
def recThr (w : Word) : Nat := (w.extractLsb' 0 8).toNat
def recHead (w : Word) : Nat := (w.extractLsb' 36 4).toNat

/-- Half i of consecutive words from word w on: FP32 slots of the ring, 32-bit bins (R246). -/
def State.recHalf (s : State) (key w i : Nat) : Nat := (s.recWord key (w + i / 2)).toNat / 2 ^ (32 * (i % 2)) % 2 ^ 32

/-- Writes a 32-bit half of a record's words. -/
def State.putHalf (s : State) (key w i v : Nat) : State :=
  s.writeWord (key + (w + i / 2)) (if i % 2 = 0 then 0x0F#8 else 0xF0#8) (BitVec.ofNat 64 (v % 2 ^ 32 * 2 ^ (32 * (i % 2)))) none

/-- Writes whole words of a record as zero, which clears their poison (R92). -/
def State.zeroWords (s : State) (key : Nat) (ix : List Nat) : State :=
  ix.foldl (fun s i => s.writeWord (key + i) 0xFF#8 0 none) s

/-- M for a generation (R255): the largest ring value over the hlen windows before it, as FP32 bits. -/
def State.recMax (s : State) (key hlen gen : Nat) : Nat :=
  ((List.range hlen).map fun i => if gen < i + 1 then 0 else s.recHalf key 4 ((gen - (i + 1)) % 16)).foldl max 0

/-- Every core's entry for a handle is stale from now on, and the acting core drops its own (R256). -/
def State.recInvalidate (s : State) (core tn h : Nat) : State :=
  let mine (e : RecEntry) : Bool := e.tenant == tn && e.handle == h
  let stale (e : RecEntry) : RecEntry := if mine e && e.staleAt.isNone then { e with staleAt := some s.cycle } else e
  let upd (k : Nat) (x : Core) : Core :=
    { x with recs := if k = core then x.recs.filter (fun e => !mine e) else x.recs.map stale }
  { s with cores := s.cores.map fun c => (c.1, upd c.1 c.2) }

/-- An entry an instruction issued now may use (R256). -/
def State.recHit (s : State) (core tn h : Nat) : Option RecEntry :=
  (s.core core).recs.find? fun e => e.tenant == tn && e.handle == h &&
    match e.staleAt with
    | some c => decide (s.cycle < c + 256)
    | none => true

/-- What a cache fill reads of a record at its home (R256). -/
def State.recSnap (s : State) (key tn h : Nat) : RecEntry :=
  let w1 := s.recWord key 1
  let gen := (s.recWord key 0).toNat / 2 ^ 32
  { tenant := tn, handle := h, gen := gen, max := s.recMax key (recHlen w1) gen, thr := recThr w1, ref := recRefOf w1
    filled := s.cycle, staleAt := none }

/-- An entry enters a core's record cache of 32 (R256). -/
def State.recFill (s : State) (core : Nat) (e : RecEntry) : State :=
  s.modCore core fun c => { c with
    recs := (e :: c.recs.filter fun x => !(x.tenant == e.tenant && x.handle == e.handle)).take 32 }

/-! Updates -/

/-- Element types of a record update (R131): format and bytes. -/
def recType (t : Nat) : Fmt × Nat :=
  match t with
  | 0 => (f32, 4)
  | 1 => (f16, 2)
  | 2 => (bf16, 2)
  | 3 => (e4m3, 1)
  | 4 => (e5m2, 1)
  | _ => (f64, 8)

/-- The bin of an element (R250): r is the reference exponent, signed 8 bits. -/
def binOf (r : Nat) (v : Fv) : Option Nat :=
  match v with
  | .nan _ => none
  | .inf _ => some 39
  | .fin _ m e =>
    if m = 0 then some 0 else
    let b := (Nat.log2 m : Int) + e - (BitVec.ofNat 8 r).toInt + 20
    some (if b < 1 then 0 else if 38 < b then 39 else b.toNat)

/-- The largest magnitude, rounded to FP32 by RUP (R250). -/
def magOf (v : Fv) : Nat :=
  match v with
  | .nan _ => 0
  | .inf _ => f32.infBits false
  | .fin _ m e => (f32.round .rup false m e).bits

/-- An update that summarises elements (R250). -/
def makeUpdate (tn h key cls master r sat : Nat) (vs : List Fv) (sender : Sum Nat JobRef) (ident : Nat) : Update :=
  { tenant := tn, handle := h, key := key, cls := cls, master := master
    max := BitVec.ofNat 32 ((vs.map magOf).foldl Nat.max 0), ref := r
    incr := (vs.filterMap (binOf r)).foldl (fun m b => amPut m b (amGetD m b 0 + 1)) []
    sat := sat, nan := vs.any Fv.isNan, inf := vs.any fun v => match v with | .inf _ => true | _ => false
    count := 1, senders := [sender], ident := ident }

/-- The words an update's application reads (R251). -/
def updateWords : List Nat := [0, 1, 2] ++ (List.range 20).map (12 + ·)

/-- An update applied at its record's home, in one step (R251). -/
def State.applyUpdate (s : State) (u : Update) : State × UpdateEnd :=
  match s.recPoison u.key updateWords with
  | (s1, some i) => (s1, .poisoned i)
  | (s1, none) =>
    let w0 := s1.recWord u.key 0
    let w1 := s1.recWord u.key 1
    let w2 := s1.recWord u.key 2
    if !recAlloc w1 then (s1, .unallocated) else
    let amax := Nat.max (w0.toNat % 2 ^ 32) u.max.toNat
    let same := u.ref = recRefOf w1
    let ovf := min 0xFFFF (w1.toNat / 2 ^ 48 + u.sat)
    let w1' := (w1 &&& 0x0000FFFFFFFFFFFF#64) ||| BitVec.ofNat 64 (ovf * 2 ^ 48) |||
      (if u.nan then 0x400000000000#64 else 0) ||| (if u.inf then 0x200000000000#64 else 0) |||
      (if same then 0 else 0x100000000000#64)
    let s2 := s1.writeWord u.key 0xFF#8 ((w0 &&& 0xFFFFFFFF00000000#64) ||| BitVec.ofNat 64 amax) none
    let s3 := s2.writeWord (u.key + 1) 0xFF#8 w1' none
    let s4 := s3.writeWord (u.key + 2) 0xFF#8 (BitVec.ofNat 64 ((w2.toNat + u.count) % 2 ^ 32)) none
    let s5 := if same then u.incr.foldl (fun s b =>
        s.putHalf u.key 12 b.1 (min (2 ^ 32 - 1) (s.recHalf u.key 12 b.1 + b.2))) s4 else s4
    ({ s5 with updatedAt := amPut s5.updatedAt u.key s5.cycle }, .applied)

/-- Changes a job where it is queued or runs. -/
def State.modJob (s : State) (r : JobRef) (f : Job → Job) : State :=
  s.modOctet r.octet fun o =>
    let g (j : Job) : Job := if j.ref = r then f j else j
    { o with haul := o.haul.map g, matrix := o.matrix.map g }

/-- A record update of a job failed: the first failure is the one it reports (R138, R236). -/
def Job.fail (j : Job) (cause addr : Nat) : Job := { j with recFault := j.recFault <|> some (cause, addr) }

/-- The acknowledgement of an update reaches each of its senders (R251, R267, R138). -/
def State.ackUpdate (s : State) (u : Update) (e : UpdateEnd) : State :=
  u.senders.foldl (fun s who =>
    let va (i : Nat) : Word := s.recVa u.tenant u.handle + BitVec.ofNat 64 (8 * i)
    match who with
    | .inl _ => s.mapThreads fun t =>
        if !t.updates.contains u.ident then t else
        let t1 := { t with updates := t.updates.erase u.ident }
        match e with
        | .applied => t1
        | .unallocated | .denied => { t1 with refused := t1.refused + 1 }
        | .poisoned i => { t1 with refused := t1.refused + 1, poisonedUpd := t1.poisonedUpd <|> some (va i) }
    | .inr r => s.modJob r fun j =>
        let j1 := { j with updates := j.updates.erase u.ident }
        match e with
        | .applied => j1
        | .unallocated => j1.fail 0x08 0
        | .denied => j1.fail 0x09 (va 0).toNat
        | .poisoned i => j1.fail 0x0E (va i).toNat) s

/-- The key of an update's flight. -/
def awayUpdate : Nat := awayBase + 2 ^ 61 + 1

/-- An update leaves for a record at a peer, which applies it as its own (R245, R411). Where requests travel, it is acknowledged later;
else at once, and the peer may deny it (DESIGN CHOICE, notes/assumptions/101.md). -/
def State.sendAway (s : State) (slot : Nat) (job : Option JobRef) (t : Target) (u : Update) : State :=
  let s1 := s.leave t (.update u)
  if s.slow then
    let f : Flight := ⟨u.ident, slot, awayUpdate, s.recVa u.tenant u.handle, true, match t with | .peer pkg .. => some pkg | _ => none, job, none⟩
    let s2 : State := { s1 with flights := s1.flights ++ [f], nextId := s1.nextId + 1 }
    if job.isSome then s2 else s2.modThread slot fun x => { x with updates := x.updates ++ [u.ident] }
  else
    let s2 : State := { s1 with nextId := s1.nextId + 1, fresh := s1.fresh + 1 }
    let s3 := if job.isSome then s2 else s2.modThread slot fun x => { x with updates := x.updates ++ [u.ident] }
    s3.ackUpdate u (if Config.freeNat s1.fresh % 2 = 1 then .denied else .applied)

/-- The reference exponent of a record at a peer, read with a plain load (R252). -/
def State.refAway (s : State) (t : Target) : State × Except Nat Nat :=
  let at1 : Target := match t with | .peer pkg pa cls tn => .peer pkg (pa + 8) cls tn | t => t
  match s.askOutside at1 with
  | (s1, .ok w) => (s1, .ok (recRefOf w))
  | (s1, .error c) => (s1, .error c)

/-- A form at a record of a peer (R245, R411): the request leaves, and the instruction waits for n result words of the peer, or for its
acknowledgement where the result is known. -/
def State.askRecord (s : State) (c : Ctx) (t : Target) (form rd n : Nat) (args : List Word) (known : Option Word) : State :=
  let p : Pend := ⟨if known.isSome then .scalar 8 0 false else .group, rd, c.npc,
    match known with | some _ => [0, farKey 0] | none => (List.range n).map farKey, (known.map fun v => (0, v)).toList, [], 0, 0, 0, []⟩
  (s.request c p).leave t (.record c.slot form args)

/-! The instructions -/

/-- A handle (R244). -/
def handleNo (v : Word) : Nat := v.toNat % 2 ^ 32

/-- The own requests to records travel in program order (R254): a home form waits for the thread's updates under way. -/
def afterUpdates (s : State) (c : Ctx) (go : State → State) : State :=
  if c.t.updates.isEmpty then go s else s.park c.slot (.updates 0)

/-- The checks of R260 on the handle of a form; go has the handle and the record's first word, away what a record at a peer's
does (R411). -/
def onRecord (s : State) (c : Ctx) (v : Word) (level : Nat) (away : State → Target → State) (go : State → Nat → Nat × Nat → State)
    (at' : Bool := true) : State :=
  let h := handleNo v
  let va := s.recVa c.t.tenant h
  match s.miss c va with
  | some s1 => s1.trapc c (walkCause (va.toNat / 4096)) va
  | none =>
    match s.recHome c.core c.t.tenant c.master h level at' with
    | (s1, .error e) =>
      match if at' then s.recAway c.core c.t.tenant c.master h level else none with
      | some t => afterUpdates s1 c fun s => away s t
      | none => s1.trapc c e (s1.recVa c.t.tenant h)
    | (s1, .ok k) => go s1 h k

/-- A form's turn at the home of a record (R94): after the requests that came there in an earlier cycle. writes: it is a roll, sset
or sfree, which goes before the updates of its cycle (R253): where one of them has been applied, it comes in a later one. -/
def homeTurn (s : State) (c : Ctx) (key : Nat) (writes : Bool) (go : State → State) : State :=
  if writes && amGet s.updatedAt key == some s.cycle then s.park c.slot (.otherCycle s.cycle)
  else if s.slow && s.packets.any (fun p => p.atHome && p.payload.keys.contains key && decide (p.came < s.cycle)) then
    s.park c.slot (.homeTurn key)
  else go (if s.slow && !crossbar c.core (homeEp (8 * key)) then
    s.closeEntries (requestPath (routerOf c.core) (routerOf (homeEp (8 * key)))) [key] else s)

/-- A home form (R260): a poisoned word it reads, or alloc = 0, traps with nothing changed. writes: see homeTurn. -/
def homeForm (s : State) (c : Ctx) (v : Word) (level : Nat) (reads : List Nat) (needAlloc writes : Bool)
    (away : State → Target → State) (go : State → Nat → Nat → State) : State :=
  onRecord s c v level away fun s h k => afterUpdates s c fun s => homeTurn s c k.1 writes fun s =>
    match s.recPoison k.1 reads with
    | (s1, some i) => s1.trapc c 0x0E (s1.recVa c.t.tenant h + BitVec.ofNat 64 (8 * i))
    | (s1, none) =>
      if needAlloc && !recAlloc (s1.recWord k.1 1) then s1.trapc c 0x08 (s1.recVa c.t.tenant h) else go s1 h k.1

/-- The lowest number from k on that a rising list lacks. -/
def lowestFree : List Nat → Nat → Nat
  | [], k => k
  | x :: l, k => if x = k then lowestFree l (k + 1) else k

/-- salloc (R261). -/
def execSalloc (rd rs1 : BitVec 5) (s : State) : Host.Outcome State Fault Refusal :=
  let d := s.latch.rd rd
  let a := s.latch.rs1 rs1
  issue s false [rs a, rdst d] fun s c =>
    let cfg := c.x a
    let hl := recHlen cfg
    let tn := c.t.tenant
    if hl = 0 ∨ 16 < hl then s.trapc c 0x01 c.w else
    if (s.tenant tn).poolCount = 0 then s.finish c d [0x8000000000000002] else
    let h := lowestFree (s.tenant tn).handles 0
    if (s.tenant tn).poolCount ≤ h then s.finish c d [0x8000000000000001] else
    let away (s : State) (t : Target) : State :=
      ((s.modTenant tn fun t => { t with handles := nsIns t.handles h }).recInvalidate c.core tn h).askRecord c t 0 d 1 [cfg]
        (some (BitVec.ofNat 64 h))
    onRecord s c (BitVec.ofNat 64 h) 3 away fun s h k =>
      -- the allocator is a unit of the col die, which checks the request too (DEDUCED, notes/assumptions/87.md)
      if !s.accessOk colDie c.master k.2 3 then s.trapc c 0x09 (s.recVa tn h) else
      afterUpdates s c fun s => homeTurn s c k.1 false fun s =>
      let s1 := s.modTenant tn fun t => { t with handles := nsIns t.handles h }
      let s2 := (s1.zeroWords k.1 (List.range 32)).writeWord (k.1 + 1) 0xFF#8 (0x800000000000#64 ||| (cfg &&& 0x1FFFFF#64)) none
      (s2.recInvalidate c.core tn h).finish c d [BitVec.ofNat 64 h]

/-- sfree (R261). -/
def execSfree (rd rs1 : BitVec 5) (s : State) : Host.Outcome State Fault Refusal :=
  let d := s.latch.rd rd
  let a := s.latch.rs1 rs1
  issue s false [rs a, rdst d] fun s c =>
    let away (s : State) (t : Target) : State :=
      let h := handleNo (c.x a)
      let held := (s.tenant c.t.tenant).handles.contains h
      ((s.modTenant c.t.tenant fun t => { t with handles := nsDel t.handles h }).recInvalidate c.core c.t.tenant h).askRecord c t 1 d 1 []
        (some (if held then 0 else 1))
    homeForm s c (c.x a) 3 [1] false true away fun s h k =>
      if !recAlloc (s.recWord k 1) then s.finish c d [1] else
      let s1 := (s.writeWord (k + 1) 0xFF#8 0 none).modTenant c.t.tenant fun t => { t with handles := nsDel t.handles h }
      (s1.recInvalidate c.core c.t.tenant h).finish c d [0]

/-- sset (R262). -/
def execSset (rd rs1 rs2 : BitVec 5) (s : State) : Host.Outcome State Fault Refusal :=
  let d := s.latch.rd rd
  let a := s.latch.rs1 rs1
  let b := s.latch.rs2 rs2
  issue s false [rs a, rs b, rdst d] fun s c =>
    let w := c.x b
    let bad := w.getLsbD 58 && (decide (recHlen w = 0) || decide (16 < recHlen w))
    let away (s : State) (t : Target) : State :=
      if bad then s.trapc c 0x01 c.w else
      (s.recInvalidate c.core c.t.tenant (handleNo (c.x a))).askRecord c t 2 d 1 [w] none
    onRecord s c (c.x a) 3 away fun s _ _ =>
    if bad then s.trapc c 0x01 c.w else
    homeForm s c (c.x a) 3 [1] true true away fun s h k =>
      let old := s.recWord k 1
      let field (on : Nat) (m : Word) (v : Word) : Word := if w.getLsbD on then (v &&& ~~~m) ||| (w &&& m) else v
      let drop (on : Nat) (m : Word) (v : Word) : Word := if w.getLsbD on then v &&& ~~~m else v
      let new := drop 61 0x700000000000#64 (drop 60 0xFFFF000000000000#64
        (field 58 0x1F0000#64 (field 57 0xFF00#64 (field 56 0xFF#64 old))))
      let s1 := s.writeWord (k + 1) 0xFF#8 new none
      let s2 := if w.getLsbD 59 then s1.zeroWords k ((List.range 20).map (12 + ·)) else s1
      let s3 := if w.getLsbD 62 then (s2.zeroWords k ((List.range 8).map (4 + ·))).putHalf k 0 0 0 else s2
      (s3.recInvalidate c.core c.t.tenant h).finish c d [old]

/-- The elements of n bytes held in words, each of es bytes. -/
def elementsOf (f : Fmt) (es cnt : Nat) (ws : List Word) : List Fv :=
  (List.range cnt).map fun i => f.decode ((ws.getD (i * es / 8) 0).toNat / 2 ^ (8 * (i * es % 8)) % 2 ^ (8 * es))

/-- supd (R263): rt is the rd field, read; it retires when the update is sent. -/
def execSupd (rs1 rs2 rt : BitVec 5) (s : State) : Host.Outcome State Fault Refusal :=
  let a := s.latch.rs1 rs1
  let b := s.latch.rs2 rs2
  let r := s.latch.rd rt
  issue s false [rs a, rs b, rs r] fun s c =>
    let va := c.x b
    let cw := c.x r
    let ty := (cw.extractLsb' 24 4).toNat
    let cnt := (cw.extractLsb' 0 24).toNat
    let sat := (cw.extractLsb' 32 16).toNat
    let f := recType ty
    if 5 < ty ∨ cnt = 0 ∨ 4096 < cnt * f.2 then s.trapc c 0x01 c.w
    else if va.toNat % 8 ≠ 0 then s.trapc c 0x03 va
    else if va.toNat < Config.ownBase ∨ Config.ownBase + storeSize c.core < va.toNat + cnt * f.2 then s.trapc c 0x08 va
    else
      let n := (cnt * f.2 + 7) / 8
      let data (s : State) (k : State → List Fv → State) : State :=
        loadAll c .load (fun s _ _ => s) ((List.range n).map fun i => let x := va + BitVec.ofNat 64 (8 * i); ⟨x, x, 0xFF⟩) s fun s ws =>
          k s (elementsOf f.1 f.2 cnt ws)
      let away (s : State) (t : Target) : State := data s fun s vs =>
        match s.refAway t with
        | (s1, .error e) => s1.trapc c e (s1.recVa c.t.tenant (handleNo (c.x a)))
        | (s1, .ok ref) =>
          let u := makeUpdate c.t.tenant (handleNo (c.x a)) 0 0 c.master ref sat vs (.inl c.slot) s1.nextId
          (s1.sendAway c.slot none t u).done c
      onRecord s c (c.x a) 3 away fun s h k =>
      if 16 ≤ c.t.updates.length then s.park c.slot (.updates 15) else
      data s fun s vs =>
        let send (s : State) (ref : Nat) : State :=
          let u := makeUpdate c.t.tenant h k.1 k.2 c.master ref sat vs (.inl c.slot) s.nextId
          if s.slow then
            (s.send false c.core (homeEp (8 * k.1)) (.update u)).modThread c.slot fun t => { t with updates := t.updates ++ [u.ident] }
          else
            let s1 : State := { s with nextId := s.nextId + 1 }
            let r := (s1.modThread c.slot fun t => { t with updates := t.updates ++ [u.ident] }).applyUpdate u
            r.1.ackUpdate u r.2
        match s.recHit c.core c.t.tenant h with
        | some e => (send s e.ref).done c
        | none => homeTurn s c k.1 false fun s =>
          match s.recPoison k.1 ([0, 1] ++ (List.range 8).map (4 + ·)) with
          | (s1, some i) => s1.trapc c 0x0E (s1.recVa c.t.tenant h + BitVec.ofNat 64 (8 * i))
          | (s1, none) =>
            let e := s1.recSnap k.1 c.t.tenant h
            (send (s1.recFill c.core e) e.ref).done c

/-- sroll (R264): the words it reads are 0, 1 and the ring word that receives amax (R260). -/
def execSroll (rd rs1 rs2 : BitVec 5) (s : State) : Host.Outcome State Fault Refusal :=
  let d := s.latch.rd rd
  let a := s.latch.rs1 rs1
  let b := s.latch.rs2 rs2
  issue s false [rs a, rs b, rdst d] fun s c =>
    let away (s : State) (t : Target) : State :=
      (s.recInvalidate c.core c.t.tenant (handleNo (c.x a))).askRecord c t 3 d 1 [c.x b] none
    homeForm s c (c.x a) 3 [0, 1] true true away fun s h k =>
      let w1 := s.recWord k 1
      let head := recHead w1
      match s.recPoison k [4 + head / 2] with
      | (s1, some i) => s1.trapc c 0x0E (s1.recVa c.t.tenant h + BitVec.ofNat 64 (8 * i))
      | (s1, none) =>
        let old := (s1.recWord k 0).toNat % 2 ^ 32
        let gen := ((s1.recWord k 0).toNat / 2 ^ 32 + 1) % 2 ^ 32
        let s2 := s1.putHalf k 4 head old
        let w1' := (w1 &&& ~~~(0xF000000000#64)) ||| BitVec.ofNat 64 ((head + 1) % 16 * 2 ^ 36)
        let s3 := s2.writeWord (k + 1) 0xFF#8 (if (c.x b).getLsbD 1 then w1' &&& 0x0000FFFFFFFFFFFF#64 else w1') none
        let s4 := s3.writeWord k 0xFF#8 (BitVec.ofNat 64 (gen * 2 ^ 32)) none
        let s5 := if (c.x b).getLsbD 0 then s4.zeroWords k ((List.range 20).map (12 + ·)) else s4
        (s5.recInvalidate c.core c.t.tenant h).finish c d [BitVec.ofNat 64 (gen * 2 ^ 32 + old)]

/-- floor(log2(m1 * 2^e1 / (m2 * 2^e2))) for positive m1, m2. -/
def log2Ratio (m1 : Nat) (e1 : Int) (m2 : Nat) (e2 : Int) : Int :=
  let d : Int := (Nat.log2 m1 : Int) - Nat.log2 m2
  (if m2 * 2 ^ Nat.log2 m1 ≤ m1 * 2 ^ Nat.log2 m2 then d else d - 1) + e1 - e2

/-- Mx of a target (R255) as m * 2^e; none for targets 6 to 15. -/
def targetMax (t : CodeTable) (target : Nat) : Option (Nat × Int) :=
  match target with
  | 0 => some (7, 6)
  | 1 => some (7, 13)
  | 2 =>
    let mag (x : Option (Nat × Fv)) : Fv := match x with | some (_, .fin _ m e) => .fin false m e | _ => .fin false 0 0
    match t.least with
    | none => some (1, 0)
    | some _ =>
      let lo := mag t.least
      let hi := mag t.greatest
      match (if lo.cmp hi == 1 then lo else hi) with
      | .fin _ m e => some (m, e)
      | _ => some (1, 0)
  | 3 => some (2047, 5)
  | 4 => some (255, 120)
  | 5 => some (127, 0)
  | _ => none

/-- E of R255. -/
def scaleExp (mx : Nat × Int) (maxBits : Nat) (margin : Nat) : Int :=
  match f32.decode maxBits with
  | .fin _ m e =>
    if m = 0 then 0
    else if mx.1 = 0 then -126
    else
      let x := log2Ratio mx.1 mx.2 m e - margin
      if x < -126 then -126 else if 127 < x then 127 else x
  | _ => -126

/-- The quantisation word of R255. -/
def scaleWord (tw : Word) (mx : Nat × Int) (maxBits genv thr : Nat) : Word :=
  let e := scaleExp mx maxBits (tw.extractLsb' 8 3).toNat
  let b := (f32.round .rne false 1 (if tw.getLsbD 7 then -e else e)).bits
  BitVec.ofNat 64 (genv % 2 ^ 24 * 2 ^ 40 + thr % 256 * 2 ^ 32 + b)

/-- The words a cache fill and the scale forms read (R260). -/
def scaleReads : List Nat := [0, 1] ++ (List.range 8).map (4 + ·)

/-- A scale form at a record of a peer (R411). -/
def scaleAway (c : Ctx) (form d : Nat) (tw : Word) (mx : Option (Nat × Int)) (s : State) (t : Target) : State :=
  match mx with
  | none => s.trapc c 0x01 c.w
  | some _ => s.askRecord c t form d 1 [tw] none

/-- The three scale forms share their operands: word has the thread's target word and Mx. cached: a record that the cache holds
is not asked of its home, whose access table is then not checked (R245, R265). -/
def scaleForm (s : State) (rd rs1 rs2 : BitVec 5) (cached : Bool) (form : Nat) (act : State → Ctx → Nat → Nat × Nat → Word → Nat × Int → Nat → State) :
    Host.Outcome State Fault Refusal :=
  let d := s.latch.rd rd
  let a := s.latch.rs1 rs1
  let b := s.latch.rs2 rs2
  issue s false [rs a, rs b, rdst d] fun s c =>
    let hit := cached && (s.recHit c.core c.t.tenant (handleNo (c.x a))).isSome
    let tw := c.x b
    let mx := targetMax (amGetD (s.core c.core).tables (c.t.tabsel.toNat % 4) {}) (tw.extractLsb' 0 4).toNat
    onRecord s c (c.x a) 1 (scaleAway c form d tw mx) (fun s h k =>
      match mx with
      | none => s.trapc c 0x01 c.w
      | some mx => act s c h k tw mx d) !hit

/-- sscale (R265): from the record cache, filled on a miss. -/
def execSscale (rd rs1 rs2 : BitVec 5) (s : State) : Host.Outcome State Fault Refusal :=
  let a := s.latch.rs1 rs1
  scaleForm s rd rs1 rs2 true 6 fun s c h _ tw mx d =>
    match s.recHit c.core c.t.tenant h with
    | some e => s.finish c d [scaleWord tw mx e.max e.gen e.thr]
    | none => homeForm s c (c.x a) 1 scaleReads true false (scaleAway c 6 d tw (some mx)) fun s h k =>
        let e := s.recSnap k c.t.tenant h
        (s.recFill c.core e).finish c d [scaleWord tw mx e.max e.gen e.thr]

/-- sscale.h (R265): from the home; the cache is filled. -/
def execSscaleH (rd rs1 rs2 : BitVec 5) (s : State) : Host.Outcome State Fault Refusal :=
  let a := s.latch.rs1 rs1
  scaleForm s rd rs1 rs2 false 7 fun s c _ _ tw mx d =>
    homeForm s c (c.x a) 1 scaleReads true false (scaleAway c 7 d tw (some mx)) fun s h k =>
      let e := s.recSnap k c.t.tenant h
      (s.recFill c.core e).finish c d [scaleWord tw mx e.max e.gen e.thr]

/-- sscale.g (R257, R265): as of the generation the target word names; a stale one raises cause 0x0C. -/
def execSscaleG (rd rs1 rs2 : BitVec 5) (s : State) : Host.Outcome State Fault Refusal :=
  let a := s.latch.rs1 rs1
  scaleForm s rd rs1 rs2 false 8 fun s c _ _ tw mx d =>
    homeForm s c (c.x a) 1 scaleReads true false (scaleAway c 8 d tw (some mx)) fun s _ k =>
      let w1 := s.recWord k 1
      let gen := (s.recWord k 0).toNat / 2 ^ 32
      let g := tw.toNat / 2 ^ 32
      if 16 - recHlen w1 < (gen + 2 ^ 32 - g) % 2 ^ 32 then s.trapc c 0x0C (BitVec.ofNat 64 (gen * 2 ^ 32 + g))
      else s.finish c d [scaleWord tw mx (s.recMax k (recHlen w1) g) g (recThr w1)]

/-- sread (R266): four words of a group to rd, rd + 1, rd + 2, rd + 3. -/
def execSread (rd rs1 rs2 : BitVec 5) (s : State) : Host.Outcome State Fault Refusal :=
  let d := s.latch.rd rd
  let a := s.latch.rs1 rs1
  let b := s.latch.rs2 rs2
  issue s false [rs a, rs b, rdst d 4] fun s c =>
    let g := (c.x b).toNat % 8
    let ix := (List.range 4).map (4 * g + ·)
    let away (s : State) (t : Target) : State := s.askRecord c t 4 d 4 [c.x b] none
    homeForm s c (c.x a) 1 ix true false away fun s _ k => s.finish c d (ix.map (s.recWord k))

/-- sgen (R266). -/
def execSgen (rd rs1 : BitVec 5) (s : State) : Host.Outcome State Fault Refusal :=
  let d := s.latch.rd rd
  let a := s.latch.rs1 rs1
  issue s false [rs a, rdst d] fun s c =>
    let away (s : State) (t : Target) : State := s.askRecord c t 5 d 1 [] none
    homeForm s c (c.x a) 1 [0] true false away fun s _ k => s.finish c d [BitVec.ofNat 64 ((s.recWord k 0).toNat / 2 ^ 32)]

/-- sflush (R267): after the thread's updates and jobs; the refused updates since the last one. -/
def execSflush (rd : BitVec 5) (s : State) : Host.Outcome State Fault Refusal :=
  let d := s.latch.rd rd
  issue s false [rdst d] fun s c =>
    let js := c.t.jobs.filter fun j => !s.jobFinal j
    if !c.t.updates.isEmpty then s.park c.slot (.updates 0)
    else if !js.isEmpty then s.park c.slot (.jobsFinal js)
    else
      match c.t.poisonedUpd with
      | some va => (s.modThread c.slot fun t => { t with poisonedUpd := none }).trapc c 0x0E va
      | none => (s.modThread c.slot fun t => { t with refused := 0 }).finish c d [BitVec.ofNat 64 (min 0xFFFF c.t.refused)]

end Sys2Proof.Machine
end

