-- ==== Sys2Proof/Machine/HomeSteps.lean ====
section
/-! DEFINITION. Sys2Proof/Machine/HomeSteps.lean: the steps of homes and of the walkers: a request performed at its home
(R94), a held request sent again (R271), scrubbing (R417), a record update (R251), page walks (R384, R385). -/

namespace Sys2Proof.Machine

/-- What the sender of an update learns of an answer that names the denied parts. -/
def partEnd (u : Update) (e : UpdateEnd) (denied : List Nat) : UpdateEnd := if denied.contains u.ident then .denied else e

/-! HOME_ACCESS -/

/-- What keeps word k of an entry from its home: older entries for the word, and older stores of the slot that it follows there,
in the buffer, in flight, or pushed by a port (R118, R154, R290, R292). -/
def State.entryBlocked (s : State) (older : List SbEntry) (e : SbEntry) (k : Nat) : Bool :=
  older.any (fun o => o.words.any fun w => w.1 == k || (o.slot == e.slot && sameOrder w.1 k)) ||
  ((s.flights.filter fun f => f.ofThread e.slot && sameOrder f.key k).map (·.ident) ++
    s.pushesTo e.slot (atWord fun w => sameOrder w k)).any fun i => decide (i < e.ident)

/-- Words of the entry of an identity leave a core's store buffer; an entry with nothing left leaves it too (R290). -/
def State.dropStored (s : State) (core ident : Nat) (ks : List Nat) : State :=
  let left (e : SbEntry) : Option SbEntry :=
    if e.ident ≠ ident then some e else
    let keep := e.words.zip (e.classes ++ List.replicate e.words.length 0) |>.filter fun w => !ks.contains w.1.1
    if keep.isEmpty then none
    else some { e with words := keep.map (·.1), classes := keep.map (·.2), sent := e.sent.filter fun k => !ks.contains k }
  s.modCore core fun c => { c with sb := c.sb.filterMap left }

/-- A word of a core's store buffer leaves the package for its home there (R403, R412); where requests travel it stays in the buffer
until its acknowledgement comes. Over a link that is down it ends, as a store does that its home no longer allows
(notes/assumptions/60.md). -/
def State.storeAway (s : State) (core ident slot : Nat) (w : Nat × BitVec 8 × Word) : State :=
  let down : Bool := match awayTarget w.1 with | .peer pkg .. => s.linksDown.contains (.peer pkg) | _ => s.linksDown.contains .cxl
  if down then s.dropStored core ident [w.1] else
  let s1 := s.leaveWrite slot (awayTarget w.1) (.write w.2.1 w.2.2) w.2.2
  if s.slow then s1.modCore core fun c => { c with
    sb := c.sb.map fun e => if e.ident = ident then { e with sent := e.sent ++ [w.1] } else e }
  else s1.dropStored core ident [w.1]

/-- A record update outside the package has ended: one of a thread is under way no longer (R267), and one of a job is acknowledged. -/
def State.endUpdate (s : State) (f : Flight) (refused : Bool) : State :=
  match f.job with
  | some r => if refused then s.modJob r fun j => j.fail 0x09 f.data.toNat else s
  | none => s.modThread f.slot fun t => { t with
      updates := t.updates.erase f.ident, refused := t.refused + if refused then 1 else 0 }

/-- A write outside the package has ended: its flight goes, with the word of the store buffer, or the push, that it carried. -/
def State.endAway (s : State) (f : Flight) : State :=
  let s1 : State := { s with flights := s.flights.filter (·.ident != f.ident) }
  let core := coreOf f.slot
  if f.key = awayUpdate then s1.endUpdate f false else
  match f.job, f.port with
  | some _, _ => s1
  | none, some h => if s1.flights.any fun x => x.slot == f.slot && x.port == some h then s1
      else s1.modPort f.slot h fun p => { p with pushes := p.pushes.drop 1 }
  | none, none => match (s1.core core).sb.find? fun e => e.slot == f.slot && e.sent.contains f.key with
    | some e => s1.dropStored core e.ident [f.key]
    | none => s1

/-- A write outside the package is acknowledged (R136, R285, R403). -/
def State.ackAway (s : State) (ident : Nat) : State :=
  match s.flights.find? fun f => f.away && f.ident == ident with
  | some f => s.endAway f
  | none => s

/-- A write outside the package is denied there, or its link has failed (R282, R412): it stops its job (R135), or is its port's recorded
failure (R154); a store of a thread has retired (notes/assumptions/60.md). -/
def State.refuseAway (s : State) (ident : Nat) : State :=
  match s.flights.find? fun f => f.away && f.ident == ident with
  | some f =>
    if f.key = awayUpdate then ({ s with flights := s.flights.filter (·.ident != f.ident) } : State).endUpdate f true else
    match f.job, f.port with
    | some r, _ => (s.endAway f).modJob r fun j => if j.state < 2 then { j with state := 2, fault := some (0x09, f.data.toNat) } else j
    | none, some h =>
      ({ s with flights := s.flights.filter fun x => !(x.slot == f.slot && x.port == some h) } : State).modPort f.slot h fun p =>
        { p with pushes := [], failed := some (0x09, f.data) }
    | none, none => s.endAway f
  | none => s

/-- The check that a home makes of an access as it stands: the access table of its slice, or the tenant of the core whose store it
is (R90, R116, R410). -/
def State.homeAllows (s : State) (tenant core cls level k : Nat) : Bool :=
  if 8 * k < Config.hbmEnd then s.accessOk (sliceOf (8 * k)) (masterOf tenant core) cls level
  else homeEp (8 * k) == core || s.assigned (homeEp (8 * k)) tenant

/-- Words of a store-buffer entry are performed at their home (R94). A store that the home no longer allows is dropped
(DESIGN CHOICE, notes/assumptions/60.md: its instruction has retired). -/
def State.performWords (s : State) (tenant core ident : Nat) (words : List (Nat × BitVec 8 × Word)) (classes : List Nat) : State :=
  let s1 := (words.zip (classes ++ List.replicate words.length 0)).foldl (fun s w =>
    if s.homeAllows tenant core w.2 2 w.1.1 then s.writeWord w.1.1 w.1.2.1 w.1.2.2 none else s) s
  s1.dropStored core ident (words.map (·.1))

/-- Word idx of the entry at a place of a core's store buffer, or the whole of a group to one local store, goes to its home: it is
performed there, or with State.slow travels there (R94, R113, R290). -/
def State.performEntry (s : State) (core place idx : Nat) : State :=
  let sb := (s.core core).sb
  match sb[place]? with
  | none => s
  | some e =>
    let words := if e.whole then e.words else (e.words.drop idx).take 1
    let classes := if e.whole then e.classes else (e.classes.drop idx).take 1
    if words.isEmpty || words.any (fun w => e.sent.contains w.1 || s.entryBlocked (sb.take place) e w.1) then s
    else if words.any fun w => isAway w.1 then words.foldl (fun s w => s.storeAway core e.ident e.slot w) s
    else if s.slow then
      (s.modCore core fun c => { c with sb := sb.set place { e with sent := e.sent ++ words.map (·.1) } }).sendHome core e.slot e.tenant
        classes (.store e.ident words)
    else s.performWords e.tenant core e.ident words classes

/-- The level of the access table that a request needs (R409). -/
def HomeOp.level : HomeOp → Nat
  | .load _ | .tagrd _ | .wait .. => 1
  | .sync kind _ _ => if kind = 0 then 1 else 2
  | .atomic .. => 3
  | .put .. | .store .. | .tagset .. | .wake .. => 2

/-- The home's reply goes back to the requester's core, under the identity of the request, by which routers know those merged into
it (R97, R99). -/
def State.replyTo (s : State) (p : Packet) (r : Payload) : State :=
  (s.dropPacket p.ident).enter { p with isReply := true, src := p.dst, dst := p.src, age := 0, payload := r }

/-- The words of one load request, read at their home: all of them, or those before the first that is poisoned. -/
def State.readAll (s : State) : List Nat → State × List (Nat × Word) × Option (Nat × Nat)
  | [] => (s, [], none)
  | k :: ks =>
    match s.readWord k with
    | (s1, .error c) => (s1, [], some (k, c))
    | (s1, .ok v) => match s1.readAll ks with | (s2, l, bad) => (s2, (k, v) :: l, bad)

/-- A request packet at its home (R94). A stp that the home no longer allows is dropped, as a plain store is. -/
def State.performPacket (s : State) (p : Packet) : State :=
  match p.payload with
  | .request slot tenant classes op =>
    let k := op.keys.headD 0
    let ok := s.homeAllows tenant p.src (classes.headD 0) op.level k
    match op with
    | .store ident words => (s.dropPacket p.ident).performWords tenant p.src ident words classes
    | .put ident _ _ =>
      if ok then ((s.dropPacket p.ident).homeAct slot op).1
      else { s.dropPacket p.ident with flights := s.flights.filter (·.ident != ident) }
    | .load ks =>
      if !ok then s.replyTo p (.reply slot [] (some (k, 0x09))) else
      match s.readAll ks with
      | (s1, l, bad) => s1.replyTo p (.reply slot l bad)
    | _ =>
      if !ok then s.replyTo p (.reply slot [] (some (k, 0x09))) else
      match op, s.homeAct slot op with
      | .sync kind key v, _ => (s.dropPacket p.ident).arriveHeld { slot := slot, key := key, kind := kind, data := v, cls := classes.headD 0 } p.age
      | _, (s1, some (.ok v)) => s1.replyTo p (.reply slot [(k, v)] none)
      | _, (s1, some (.error c)) => s1.replyTo p (.reply slot [] (some (k, c)))
      | _, (s1, none) => s1.dropPacket p.ident
  | _ => s

/-- HOME_ACCESS (R94). -/
def execHomeAccess (r : HomeReq) (s : State) : Host.Outcome State Fault Refusal :=
  event s fun s =>
    match r with
    | .buffered core place idx => s.performEntry core place idx
    | .packet pkt =>
      match s.packet? pkt with
      | some p => if p.atHome && s.homeGrants p then s.performPacket p else s
      | none => s

/-- HOLD_RETRY (R271): the request that came back is sent again 64 cycles after that, its age kept; its home checks it anew (R410). -/
def execHoldRetry (slot : Nat) (s : State) : Host.Outcome State Fault Refusal :=
  event s fun s =>
    match s.returns.find? (fun h => h.1.slot == slot && decide (h.2.1 + 64 ≤ s.cycle)), s.thread? slot with
    | some (h, at', age), some t =>
      let s1 : State := { s with returns := s.returns.erase (h, at', age) }
      if s.slow && h.port.isNone then
        ({ s1 with nextId := s1.nextId + 1 } : State).enter ⟨s1.nextId, false, coreOf slot, homeEp (8 * h.key), none, age, 0, none, false,
          .request slot t.tenant [h.cls] (.sync h.kind h.key h.data), 0, 0⟩
      else if s1.homeAllows t.tenant (coreOf slot) h.cls (HomeOp.level (.sync h.kind h.key h.data)) h.key then s1.arriveHeld h age
      else s1.answerHeld h (.error 0x09)
    | _, _ => s

/-- PATROL_SCRUB (R91, R92, R417): a word is read at its home; an uncorrectable error poisons it. -/
def execPatrolScrub (word : Nat) (s : State) : Host.Outcome State Fault Refusal := event s fun s => s.settle word

/-- SUMMIT_UPDATE_APPLY (R251): the update at place idx of those that have reached their homes, where its home's input grants it; a
roll, sset or sfree of the cycle in which it came goes first (R253). Of a merged update, the home's access table lets each part
through or not, as it would alone (R27, R409). Its acknowledgement travels back under its identity. -/
def execSummitUpdateApply (idx : Nat) (s : State) : Host.Outcome State Fault Refusal :=
  event s fun s =>
    let here := s.packets.filter fun p => p.landed && match p.payload with | .update _ => true | _ => false
    match here[idx]? with
    | none => s
    | some p =>
      match p.payload with
      | .update u =>
        if !s.homeGrants p || decide (s.cycle ≤ p.came) then s else
        let may (x : UpdatePart) : Bool := s.accessOk (sliceOf (8 * u.key)) x.master u.cls 3
        let denied := (u.allParts.filter fun x => !may x).map (·.ident)
        let r := if u.allParts.any may then s.applyUpdate (u.sum (u.allParts.filter may)) else (s, .denied)
        if s.sendsAck p then r.1.replyTo p (.ack u r.2 denied) else (r.1.dropPacket p.ident).ackUpdate u (partEnd u r.2 denied)
      | _ => s

/-! Walks -/

/-- PAGE_WALK (R384, R385): a cluster's miss of a page becomes pending, and joins or starts a walk of its die's walker. -/
def execPageWalk (cluster t page : Nat) (s : State) : Host.Outcome State Fault Refusal :=
  event s fun s =>
    if (amGet s.tenants t).isNone || (tlbFind (s.cluster cluster).tlb t (page * 4096)).isSome then s
    else s.askWalk cluster (cluster / 16) t page

/-- The slots whose threads wait for a walk (R385), each with the address of its access. -/
def State.walkers (s : State) (w : Walk) : List (Nat × Word) :=
  s.threads.filterMap fun p => match p.2.run with
    | .waiting (.walk page v) => if page = w.page ∧ p.2.tenant = w.tenant ∧ w.clusters.contains (clusterOf (coreOf p.1)) then some (p.1, v) else none
    | _ => none

/-- What a walk found reaches those that joined it (R385): the leaf fills their TLBs, and their accesses are made again; a fault is
taken by every thread that may run. -/
def State.answerWalk (s : State) (w : Walk) (r : WalkEnd) : State :=
  let waits := s.walkers w
  let free (c : Cluster) : Cluster := { c with
    pending := c.pending.filter fun p => !(p.tenant == w.tenant && p.page == w.page) }
  let s1 := (w.clusters.filter (· < 128)).foldl (fun (s : State) cl => s.modCluster cl free) s
  match r with
  | .ok (leaf, base, size, _) =>
    let e : TlbEntry := ⟨w.tenant, base, size, leaf⟩
    let s2 := (w.clusters.filter (· < 128)).foldl (fun (s : State) cl => s.modCluster cl fun c => { c with tlb := tlbAdd c.tlb 2048 e }) s1
    waits.foldl (fun (s : State) x => s.modCore (coreOf x.1) fun c => { c with tlb := tlbAdd (c.tlb.filter (· != e)) 16 e }) s2
  | .error (cause, k) =>
    (waits.filter fun x => (s.thread? x.1).any fun t => !t.frozen && !t.halted && !s.launchStopped t.launch).foldl
      (fun (s : State) x => (s.trap x.1 cause x.2).landNow x.1) (if cause = 0x0E then s1.settle k else s1)

/-- The words that a walk reads, each at its home (R384). -/
def State.wordsOfWalk (s : State) (w : Walk) : List Nat := walkWords s.mem (w.page * 4096) 3 (ppnOf (s.tenant w.tenant).sroot)

/-- The router at which a die's walker sits (R384), as an endpoint. -/
def walkerAt (die : Nat) : Nat := epDie die

/-- WALK_COMPLETE (R385): one walk answers every request that joined it with the same leaf or the same fault; its reads wait where
other requests wait at the homes (R103), and close the entries that they pass (R101). A walk that is queued, or was discarded (R387),
begins. -/
def execWalkComplete (die idx : Nat) (s : State) : Host.Outcome State Fault Refusal :=
  event s fun s =>
    let d := s.die die
    match d.walks[idx]? with
    | none => s
    | some w =>
      let begin' (l : List Walk) : List Walk :=
        match l.findIdx? (fun w => !w.running) with
        | some i => l.set i { l.getD i w with running := true }
        | none => l
      let room := decide ((d.walks.filter (·.running)).length < 128)
      if !w.running then
        if room then s.modDie die fun d => { d with walks := d.walks.set idx { w with running := true } } else s
      else if (s.wordsOfWalk w).any fun k => (s.unitAt (walkerAt die) k).isNone then s
      else
        let s1 := (s.wordsOfWalk w).foldl (fun (s : State) k => (s.unitAt (walkerAt die) k).getD s)
          (s.modDie die fun d => { d with walks := begin' (d.walks.take idx ++ d.walks.drop (idx + 1)) })
        s1.answerWalk w (s1.walk w.tenant (w.page * 4096))

end Sys2Proof.Machine
end

