-- ==== Sys2Proof/Machine/Fabric.lean ====
section
/-! DEFINITION. Sys2Proof/Machine/Fabric.lean: the Eclia fabric's steps: routes (R96, R97), arbitration (R102, R103),
combining (R99 to R101), and the depots (R105 to R107). A packet's place in State.packets is the order of arrival at its
queue. -/

namespace Sys2Proof.Machine

/-! Queues -/

/-- Packets of a class that an arbiter at a node holds for an output: 256 at most, those that come after wait before it (R104).
One whose pair the output's controller has in the depot waits behind them (R105, R107). -/
def State.waitingAt (s : State) (node port : Nat) (reply : Bool) : List Packet :=
  (s.packets.filter fun p => p.node == some node && p.depot.isNone && !p.returned && p.isReply == reply &&
    outputPort node (p.next node) == port && !s.spilledPair p node port).take 256

/-- The arbiter that a packet comes to next has no room for a flit of its class (R104). -/
def State.stalled (s : State) (p : Packet) : Option Nat → Bool
  | some n => decide (256 ≤ (s.packets.filter fun q => q.node == some n && q.depot.isNone && !q.returned && q.isReply == p.isReply &&
      outputPort n (q.next n) == outputPort n (p.next n)).length)
  | none => !p.isReply && decide (256 ≤ (s.packets.filter fun q => q.atHome && q.dst == p.dst).length)

/-! Combining -/

/-- A word with the bytes that an atomic writes (R278, R279). -/
def afterAtomic (op : AmOp) (wide : Bool) (ad : Nat) (w b : Word) : Word :=
  let r := amWord op wide (ad % 8) w b 0
  (List.range 8).foldl (fun v i =>
    if r.1.getLsbD i then (v &&& ~~~((0xFF#64) <<< (8 * i))) ||| ((byteOf r.2 i).setWidth 64 <<< (8 * i)) else v) w

/-- a1 op a2, the operand of a request that carries both (R100). -/
def combinedOperand (op : AmOp) (wide : Bool) (a b : Word) : Word :=
  if wide then amNew f64 op a b 0 else (amNew f32 op (a.setWidth 32) (b.setWidth 32) 0).setWidth 64

/-- The home's access table checks two requests alike (R90): merged, they are checked as one (notes/assumptions/67.md). -/
def sameRights (p q : Packet) (tn tn' : Nat) (cls cls' : List Nat) : Bool :=
  tn == tn' && cls == cls' && masterOf tn p.src == masterOf tn' q.src

/-- Two requests of one combining kind for one word (R100). -/
def sameKind (p q : Packet) : Bool :=
  match p.payload, q.payload with
  | .request _ tn cls (.load [k]), .request _ tn' cls' (.load [k']) => k == k' && sameRights p q tn tn' cls cls'
  | .request _ tn cls (.atomic op wide ar ad _ _), .request _ tn' cls' (.atomic op' wide' ar' ad' _ _) =>
    decide (op = op') && wide == wide' && ar == ar' && ad == ad' && sameRights p q tn tn' cls cls' &&
      !(decide (op = .swp) || decide (op = .cas) || decide (op = .fadd))
  | .update u, .update v => u.tenant == v.tenant && u.handle == v.handle && u.key == v.key && u.ref == v.ref && u.cls == v.cls
  | _, _ => false

/-- The operand of a request. -/
def Payload.operand : Payload → Word
  | .request _ _ _ (.atomic _ _ _ _ a _) => a
  | _ => 0

/-- The request with another's operand combined into it (R100). -/
def Payload.absorb (p q : Payload) : Payload :=
  match p, q with
  | .request slot tn cls (.atomic op wide ar ad a b), q => .request slot tn cls (.atomic op wide ar ad (combinedOperand op wide a q.operand) b)
  | .update u, .update v => .update (u.sum (u.allParts ++ v.allParts))
  | p, _ => p

/-- An open entry of a node that a request merges into: the same kind and word, in one of the 8 cycles after that of its opening,
its forwarded request still on its way (R99; R101's example: open in cycle 400, closed in 409; DEDUCED, notes/assumptions/45.md). -/
def State.mergeInto (s : State) (node : Nat) (p : Packet) : Option Combine :=
  s.combines.find? fun e => e.node == node && e.isOpen && !e.isReply && decide (s.cycle ≤ e.openedAt + 8) &&
    match s.carrierOf e with
    | some q => !q.isReply && sameKind q p
    | none => false

/-- A merged request joins the forwarded one of an identity, wherever that is: its operand and, where the forwarded one has
opened entries further on its path or been merged into another, theirs; and the greater age (R99, R100). -/
def State.joinRequest (s : State) (p : Packet) (node : Nat) : (fuel : Nat) → Nat → State
  | 0, _ => s
  | fuel + 1, i =>
    let grown (q : Packet) : Packet := if q.ident = i then { q with payload := q.payload.absorb p.payload, age := Nat.max q.age p.age } else q
    let same : Option Packet := match s.packet? i with
      | some q => some q
      | none => s.combines.findSome? fun e => e.merged.find? (·.ident == i)
    let later : List Nat := match same with | some q => (q.path.dropWhile (· != node)).drop 1 | none => []
    let beyond (e : Combine) : Combine :=
      if e.packet = i ∧ later.contains e.node then
        { e with first := match p.payload with
          | .request _ _ _ (.atomic op wide _ _ a _) => combinedOperand op wide e.first a
          | _ => e.first }
      else { e with merged := e.merged.map grown }
    let s1 : State := { s with packets := s.packets.map grown, combines := s.combines.map beyond }
    match s.combines.find? fun e => e.merged.any (·.ident == i) with
    | some e => s1.joinRequest p e.node fuel e.packet
    | none => s1

/-- Merges a request into an entry (R99): it is not forwarded. -/
def State.merge (s : State) (e : Combine) (p : Packet) : State :=
  let s1 := (s.dropPacket p.ident).joinRequest p e.node (s.combines.length + 1) e.packet
  { s1 with combines := s1.combines.map fun x => if x.node = e.node ∧ x.packet = e.packet then { x with merged := x.merged ++ [p] } else x }

/-- A request is forwarded: entries for its words take no more merges (R101), and a combinable one opens an entry where one of
the node's 32 is free (R99). -/
def State.openEntry (s : State) (node : Nat) (p : Packet) : State :=
  let s1 := s.closeEntries [node] p.payload.keys
  let mine := (s1.combines.filter fun e => e.node == node && !e.isReply).length
  if sameKind p p && decide (mine < 32) then
    { s1 with combines := s1.combines ++ [⟨node, false, p.ident, [], p.payload.operand, true, s.cycle⟩] }
  else s1

/-- What each merged requester of an entry is answered, in order (R100): r is the answer of the forwarded request, first its
operand, earlier the operands before. -/
def fanOut (r : Payload) (first : Word) : (earlier : List Word) → List Packet → List (Packet × Payload)
  | _, [] => []
  | earlier, m :: rest =>
    let own : Option Payload := match r, m.payload with
      | .reply _ got bad, .request slot _ _ (.load _) => some (.reply slot got bad)
      | .reply _ got bad, .request slot _ _ (.atomic op wide _ ad _ _) =>
        some (.reply slot (got.map fun g => (g.1, (first :: earlier).foldl (fun w a => afterAtomic op wide ad w a) g.2)) bad)
      | .ack _ e denied, .update u => some (.ack u e denied)
      | _, _ => none
    (match own with | some x => [(m, x)] | none => []) ++ fanOut r first (earlier ++ [m.payload.operand]) rest

/-- A reply that passes a node frees the entry of its request there, and each merged requester is sent its own (R99, R100), which
enters the fabric there with age 0 (DESIGN CHOICE, notes/assumptions/68.md: R102 names no age for it). -/
def State.passReply (s : State) (node : Nat) (p : Packet) : State :=
  match s.combines.find? fun e => e.node == node && e.packet == p.ident && !e.isReply with
  | none => s
  | some e =>
    let s1 : State := { s with combines := s.combines.filter fun x => !(x.node == node && x.packet == p.ident) }
    (fanOut p.payload e.first [] e.merged).foldl (fun s x =>
      s.inject { x.1 with isReply := true, src := p.src, dst := x.1.src, age := 0, payload := x.2 } node 0) s1

/-! Forwarding -/

/-- A packet leaves a router for the next, or for its destination; its age grows by one, and by one more where it crosses to
another die (R102). -/
def State.comeTo (s : State) (p : Packet) (node : Nat) : Option Nat → State
  | none => { s with packets := s.packets ++ [{ p with node := none, age := min 1023 (p.age + 1), arrived := s.cycle, came := s.cycle }] }
  | some n =>
    let hops := if nodeDie n = nodeDie node then 1 else 2
    s.inject { p with age := min 1023 (p.age + hops) } n (outputPort n (some node))

/-- ROUTER_FORWARD (R103): one grant of an output, whose link is up and whose next arbiter has room. An update's acknowledgement
that reaches its sender is counted there (R138, R267). -/
def execRouterForward (node port : Nat) (reply : Bool) (s : State) : Host.Outcome State Fault Refusal :=
  event s fun s =>
    if s.linksDown.contains (.dieLink node port) then s else
    match grantOf (s.waitingAt node port reply) with
    | none => s
    | some p =>
      if s.stalled p (p.next node) then s else
      let key := node * 8 + port
      let held := s.packets.any fun q => q.depot == some (node, port)
      let s1 : State := { s with
        granted := amPut s.granted key s.cycle
        flowing := if held then nsIns s.flowing key else s.flowing }
      match (if reply then none else s1.mergeInto node p) with
      | some e => s1.merge e p
      | none =>
        let s2 := if reply then s1.passReply node p else s1.openEntry node p
        let s3 := s2.dropPacket p.ident
        match p.payload, p.next node with
        | .ack u e denied, none => s3.ackUpdate u (partEnd u e denied)
        | _, n => s3.comeTo p node n

/-- COMBINE_WINDOW_CLOSE (R99): after the 8 cycles that follow its opening, an entry takes no more merges. -/
def execCombineWindowClose (node : Nat) (reply : Bool) (idx : Nat) (s : State) : Host.Outcome State Fault Refusal :=
  event s fun s =>
    match (s.combines.filter fun e => e.node == node && e.isReply == reply)[idx]? with
    | none => s
    | some e =>
      if s.cycle ≤ e.openedAt + 8 then s else
      { s with combines := s.combines.map fun x => if x.node = node ∧ x.isReply = reply ∧ x.packet = e.packet then { x with isOpen := false } else x }

/-- AGE_INCREMENT (R102): a packet that has waited 64 cycles more in a queue ages by one. -/
def execAgeIncrement (pkt : Nat) (s : State) : Host.Outcome State Fault Refusal :=
  event s fun s =>
    let older (p : Packet) : Packet :=
      if p.ident = pkt ∧ !p.returned ∧ p.arrived + 64 ≤ s.cycle then { p with age := min 1023 (p.age + 1), arrived := p.arrived + 64 } else p
    { s with packets := s.packets.map older }

/-! Depots -/

/-- Spills packets into the depot as long as it has room; a full depot sends a machine-check record (R105, R107). -/
def State.spillAll (s : State) (node port : Nat) : List Packet → State
  | [] => s
  | p :: rest =>
    if depotRoom < s.depotUsed (nodeDie node) + p.flits then s.check 7 (nodeDie node)
    else
      let into (q : Packet) : Packet := if q.ident = p.ident then { q with depot := some (node, port) } else q
      ({ s with packets := s.packets.map into, flowing := nsDel s.flowing (node * 8 + port) } : State).spillAll node port rest

/-- DEPOT_SPILL (R105): a link controller that has granted nothing for 4,096 cycles. -/
def execDepotSpill (node port : Nat) (s : State) : Host.Outcome State Fault Refusal :=
  event s fun s =>
    let waits := s.packets.filter fun p => p.node == some node && p.depot.isNone && !p.returned &&
      outputPort node (p.next node) == port
    if port ≠ 5 ∨ 384 ≤ node ∨ waits.isEmpty ∨ s.cycle ≤ amGetD s.granted (node * 8 + port) 0 + 4096 then s
    else s.spillAll node port waits

/-- DEPOT_REINJECT (R106): the oldest packet of the controller's depot, none before an earlier-spilled one of its pair, once
the output grants again. Where nothing is left to be granted, the output is taken to grant once its link is up and the next router has room
(DESIGN CHOICE, notes/assumptions/66.md). -/
def execDepotReinject (node port : Nat) (s : State) : Host.Outcome State Fault Refusal :=
  event s fun s =>
    let key := node * 8 + port
    let l := s.packets.filter fun p => p.depot == some (node, port)
    let free := (s.waitingAt node port false).isEmpty && (s.waitingAt node port true).isEmpty && !s.linksDown.contains (.dieLink node port)
    if !s.flowing.contains key && !free then s else
    match grantOf l with
    | none => s
    | some p => if s.stalled p (p.next node) then s else { s with
        packets := s.packets.map fun q => if q.ident = p.ident then { q with depot := none, arrived := s.cycle, came := s.cycle } else q
        flowing := if l.length ≤ 1 then nsDel s.flowing key else s.flowing }

end Sys2Proof.Machine
end

