-- ==== Sys2Proof/Machine/Fence.lean ====
section
/-! DEFINITION. Sys2Proof/Machine/Fence.lean: fence, fence.i (R70, R71), fence.s and fence.e (R284 to R286). -/

namespace Sys2Proof.Machine

/-- fence.s of a kind (0 acquire, 1 release, 2 full) and a scope, 0 being slot (R284, R285): a release of scope core or
wider waits for the core's earlier stores, those to peers and the host only at system scope, 6 (R299, R403); an acquire discards what the read ports hold. Earlier loads and atomics have
had their replies (R75). -/
def fenceBody (kind scope : Nat) (s : State) (c : Ctx) : State :=
  let last (s : State) : State := (if kind = 1 then s else s.discardHeld c.slot).done c
  if kind = 0 ∨ scope = 0 then last s
  else s.after c (s.outstanding c.slot (decide (scope = 6))) fun s => if scope = 6 then s.flushHost c last else last s

/-- fence (R70): as fence.s system, full, or a hint. -/
def execFence (_fm pred succ : BitVec 4) (s : State) : Host.Outcome State Fault Refusal :=
  issue s false [] fun s c => if pred ≠ 0 ∧ succ ≠ 0 then fenceBody 2 6 s c else s.done c

/-- The core whose fetch buffer serves a slot: in a rope stream the leader's (R71). -/
def State.fetchCore (s : State) (slot : Nat) : Nat :=
  match s.ropeOf slot with
  | some (_, r) => if s.inStream slot then coreOf (r.members.headD slot) else coreOf slot
  | none => coreOf slot

/-- fence.i (R71): after the thread's earlier stores, the core's fetch buffer is emptied. -/
def execFenceI (s : State) : Host.Outcome State Fault Refusal :=
  issue s false [] fun s c => s.release c fun s =>
    (s.modCore (s.fetchCore c.slot) fun k => { k with fetch := [] }).done c

/-- fence.s (R284). -/
def execFenceS (kind : BitVec 2) (scope : BitVec 3) (s : State) : Host.Outcome State Fault Refusal :=
  issue s false [] fenceS
where
  fenceS (s : State) (c : Ctx) : State := fenceBody kind.toNat scope.toNat s c

/-- fence.e (R286): parks until the thread's jobs are final. -/
def execFenceE (s : State) : Host.Outcome State Fault Refusal :=
  issue s false [] fun s c =>
    let js := c.t.jobs.filter fun j => !s.jobFinal j
    if js.isEmpty then (s.modThread c.slot fun t => { t with jobs := [] }).done c
    else s.park c.slot (.jobsFinal js)

end Sys2Proof.Machine
end

