-- ==== Sys2Proof/Machine/Gq.lean ====
section
/-! DEFINITION. Sys2Proof/Machine/Gq.lean: gradient queues (R366 to R369). -/

namespace Sys2Proof.Machine

def gqValid (w : Word) : Bool := w.getLsbD 63
/-- g of a queue: words per entry. -/
def gqWords (w : Word) : Nat := 2 ^ (w.extractLsb' 40 2).toNat
/-- D: entries. -/
def gqDepth (w : Word) : Nat := 2 ^ (w.extractLsb' 36 4).toNat
def gqRing (w : Word) : Nat := (w.extractLsb' 16 18).toNat
/-- The consumer core. -/
def gqCore (w : Word) : Nat := Config.computeCores + (w.extractLsb' 0 9).toNat

/-- Changes a queue of a tenant. -/
def State.modGq (s : State) (tn q : Nat) (f : GqHome → GqHome) : State :=
  s.modTenant tn fun x => { x with queues := amPut x.queues q (f (x.gq q)) }

/-- A form on the queue X[rs1][15:0] (R368): a queue at or above Q, or one that does not exist, raises cause 0x08. -/
def onQueue (s : State) (c : Ctx) (a : Nat) (go : State → Nat → GqHome → State) : State :=
  let q := ((c.x a).extractLsb' 0 16).toNat
  let h := (s.tenant c.t.tenant).gq q
  if gqValid h.word && decide (q < (s.tenant c.t.tenant).gqCount) then go s q h else s.trapc c 0x08 (BitVec.ofNat 64 q)

/-- gq.win (R367, R368). -/
def execGqWin (rd rs1 rs2 : BitVec 5) (s : State) : Host.Outcome State Fault Refusal :=
  let d := s.latch.rd rd
  let a := s.latch.rs1 rs1
  let b := s.latch.rs2 rs2
  issue s false [rs a, rs b, rdst d] fun s c =>
    onQueue s c a fun s q _ =>
      let t := ((c.x b).extractLsb' 0 8).toNat
      let old := c.t.windows.find? (·.queue == q)
      if old.isNone ∧ 4 ≤ c.t.windows.length then s.finish c d [refusalWord 1] else
      let w : GqWindow := old.getD ⟨q, 0, 0, s.nextId⟩
      let kept := min w.credits t
      let w1 := { w with asked := t, credits := kept }
      let gone := decide (t = 0)
      let s1 : State := { s with nextId := s.nextId + 1 }
      let s2 := s1.modThread c.slot fun x => { x with
        windows := (x.windows.filter (·.queue != q)) ++ if gone then [] else [w1]
        gqName := if x.gqName = 0 then s.nextId else x.gqName }
      let s3 := s2.modGq c.t.tenant q fun h => { h with
        used := h.used - (w.credits - kept)
        held := (if old.isNone then h.held + 1 else h.held) - if gone then 1 else 0
        grants := if kept < t then (if h.grants.contains w.tag then h.grants else h.grants ++ [w.tag])
          else h.grants.filter (· != w.tag) }
      s3.finish c d [BitVec.ofNat 64 w.credits]

/-- gq.push (R368): the span's size is the queue's, and its registers are checked once the queue is known. -/
def execGqPush (rs1 rs2 : BitVec 5) (s : State) : Host.Outcome State Fault Refusal :=
  let a := s.latch.rs1 rs1
  let b := s.latch.rs2 rs2
  issue s false [rs a] fun s c =>
    onQueue s c a fun s q h =>
      match c.t.windows.find? (·.queue == q) with
      | none => s.trapc c 0x08 (BitVec.ofNat 64 q)
      | some w =>
        let g := gqWords h.word
        issueT s c.t false [rs a, rs b g] fun s c =>
          if w.credits = 0 then s.park c.slot (.credit q) else
          let s1 := s.modThread c.slot fun t => { t with
            windows := t.windows.map fun x => if x.queue = q then { x with credits := x.credits - 1 } else x }
          let s2 := s1.modGq c.t.tenant q fun h =>
            { h with grants := if h.grants.contains w.tag then h.grants else h.grants ++ [w.tag] }
          (s2.send false c.core (gqCore h.word) (.entry c.t.tenant q ((List.range g).map fun i => c.x (b + i)) c.t.gqName h.word)).done c

/-- The first word of the place of entry i in a queue's ring, and its offset in the consumer's store. A queue word whose ring passes the
end of the store, which R366 does not allow, is kept as written: entries past the end have no place, so that none is written and the
words popped of one are free values (DESIGN CHOICE, notes/assumptions/93.md). -/
def gqPlace (w : Word) (i : Nat) : Option (Nat × Nat) :=
  let off := gqRing w + 8 * gqWords w * (i % gqDepth w)
  if off + 8 * gqWords w ≤ Config.optStoreBytes then some ((storeBase (gqCore w) + off) / 8, off) else none

/-- gq.pop (R368). The entry's words are read as the thread's own words of its store are: behind the stores that its core has
buffered for them, and its own earlier ones (R118, R290). -/
def execGqPop (rd rs1 : BitVec 5) (s : State) : Host.Outcome State Fault Refusal :=
  let d := s.latch.rd rd
  let a := s.latch.rs1 rs1
  issue s false [rs a] fun s c =>
    onQueue s c a fun s q h =>
      if c.core ≠ gqCore h.word then s.trapc c 0x08 (BitVec.ofNat 64 q) else
      let g := gqWords h.word
      issueT s c.t false [rs a, rdst d g] fun s c =>
        if h.head < h.tail ∧ (h.waiters.isEmpty ∨ h.waiters.head? = some c.slot) then
          let took (s : State) : State := s.modGq c.t.tenant q fun h => { h with
            head := h.head + 1, used := h.used - 1, waiters := h.waiters.filter (· != c.slot) }
          match gqPlace h.word h.head with
          | none => (took { s with fresh := s.fresh + g }).finish c d ((List.range g).map fun i => Config.freeWord (s.fresh + i))
          | some (k, off) =>
          match ((List.range g).map (k + ·)).flatMap (sbTouching (s.core c.core).sb) ++ s.ownBefore c.core c.slot k with
          | i :: is => s.park c.slot (.drained (i :: is))
          | [] =>
          let s1 := (List.range g).foldl (fun s i => s.settle (k + i)) s
          match (List.range g).find? fun i => s1.mem.poisoned (k + i) with
          | some i => s1.trapc c 0x0E (BitVec.ofNat 64 (Config.ownBase + off + 8 * i))
          | none =>
            (took s1).finish c d ((List.range g).map fun i => s1.mem.word (k + i))
        else
          (s.modGq c.t.tenant q fun h =>
            { h with waiters := if h.waiters.contains c.slot then h.waiters else h.waiters ++ [c.slot] }).park c.slot (.entry q)

/-- GQ_CREDIT_GRANT (R367): with F > 0 the head of the grant list gets a credit, and goes to the tail if it wants more. -/
def execGqCreditGrant (t q : Nat) (s : State) : Host.Outcome State Fault Refusal :=
  event s fun s =>
    let h := (s.tenant t).gq q
    match h.grants with
    | [] => s
    | tag :: rest =>
      if gqDepth h.word ≤ h.used then s else
      let more (x : Thread) : Bool := x.windows.any fun w => w.tag == tag && decide (w.credits + 1 < w.asked)
      let wants := s.contexts.any more
      let s1 := s.modGq t q fun h => { h with used := h.used + 1, grants := rest ++ if wants then [tag] else [] }
      s1.mapThreads fun x => { x with
        windows := x.windows.map fun w => if w.tag = tag then { w with credits := w.credits + 1 } else w }

/-- GQ_ENTRY_ARRIVAL (R368): the entry's words are written to the ring, whole and full; entries of one sender for one queue
arrive in the order sent. Where the queue's word was written since it was sent, whether it joins the queue's contents is left open
(R11, R366): a free choice, and only under a word that gives it a place. -/
def execGqEntryArrival (pkt : Nat) (s : State) : Host.Outcome State Fault Refusal :=
  event s fun s =>
    match s.packet? pkt with
    | none => s
    | some p =>
      match p.payload with
      | .entry tn q ws sender word =>
        let before := (s.packets.takeWhile (·.ident != pkt)).any fun x => match x.payload with
          | .entry tn' q' _ sender' _ => tn' == tn && q' == q && sender' == sender
          | _ => false
        if !p.landed || before then s else
        let h := (s.tenant tn).gq q
        let s0 : State := if h.word = word then s.dropPacket pkt else { s.dropPacket pkt with fresh := s.fresh + 1 }
        let joins := h.word = word || (gqValid h.word && gqWords h.word = ws.length && s.assigned (gqCore h.word) tn && Config.freeNat s.fresh % 2 = 1)
        match (if joins then gqPlace h.word h.tail else none) with
        | none => s0
        | some (k, _) =>
          let s1 := (ws.zipIdx).foldl (fun s w => s.writeWord (k + w.2) 0xFF#8 w.1 (some true)) s0
          s1.modGq tn q fun h => { h with tail := h.tail + 1 }
      | _ => s

end Sys2Proof.Machine
end

