-- ==== Sys2Proof/Machine/Jobs.lean ====
section
/-! DEFINITION. Sys2Proof/Machine/Jobs.lean: the octet's job queue (R127, R128), job identifiers and states (R127, R139,
R140), the engines' accesses (R134, R135, R409) and record updates (R138, R236), what hwait, hpoll, mwait, mpoll and jobint
share (R141, R142, R240). -/

namespace Sys2Proof.Machine

/-- The 16-bit identifier of a job (R127). -/
def JobRef.ident (r : JobRef) : Nat := (if r.matrix then 2 ^ 15 else 0) + r.core % 8 * 2 ^ 12 + r.seq % 2 ^ 12

/-- The status word (R139). -/
def JobState.word (j : JobState) : Word := BitVec.ofNat 64 (j.addr % 2 ^ 48 * 2 ^ 16 + j.cause % 256 * 256 + j.state % 256)

/-- The job an identifier names for a thread: by its job map, else in the octet of its core (R140). -/
def Thread.jobNamed (t : Thread) (slot : Nat) (v : Word) : JobRef :=
  let m := v.getLsbD 15
  let c := (v.extractLsb' 12 3).toNat
  let q := (v.extractLsb' 0 12).toNat
  match t.jobMap.find? fun r => r.matrix == m && r.core == c && r.seq == q with
  | some r => r
  | none => ⟨octetOf (coreOf slot), m, c, q⟩

/-- Changes the state a core keeps for a job (R140). -/
def State.setJobState (s : State) (r : JobRef) (f : JobState → JobState) : State :=
  s.modCore r.coreNo fun c =>
    let g (j : JobState) : JobState := if j.seq = r.seq then f j else j
    if r.matrix then { c with matStates := c.matStates.map g } else { c with haulStates := c.haulStates.map g }

/-- The info word of a matrix job (R240). -/
def Job.info (j : Job) : Word :=
  if j.ref.matrix then BitVec.ofNat 64 (j.op % 256 * 2 ^ 32 + min 0xFFFF j.sat * 2 ^ 16 + j.flags.toNat) else 0

/-- The cores of the octet in the order of the search: upward from the one after the core granted last (R128). -/
def Octet.searched (o : Octet) (matrix : Bool) : List Nat :=
  (List.range 8).map fun i => ((if matrix then o.matLast else o.haulLast) + 1 + i) % 8

/-- Candidates of a kind and the slot granted next: the first core with a candidate after the one granted last, its
earliest (R128); none while 16 entries are held. -/
def Octet.nextCandidate (o : Octet) (matrix : Bool) : Option Nat :=
  if 16 ≤ (if matrix then o.matrix else o.haul).length then none else
  let mine := (o.candidates.filter fun c => c.2 == matrix).map (·.1)
  (o.searched matrix).findSome? fun c => mine.find? fun slot => coreOf slot % 8 == c

/-- The words of a descriptor as a slot's loads read them in one cycle (R129, R295): the words, the number of the first
poisoned one, or none while entries of the store buffer cover a word in part. -/
def State.descriptor (s : State) (slot tenant : Nat) (d : Word) : Nat → State × Option (Except Nat (List Word))
  | 0 => (s, some (.ok []))
  | n + 1 =>
    match s.descriptor slot tenant d n with
    | (s1, some (.ok ws)) =>
      let core := coreOf slot
      match s1.resolve core tenant (masterOf tenant core) (d.toNat + 8 * n) .load with
      | (s2, .ok (.store _ ad _)) =>
        match s2.findWord core slot (ad / 8) 0xFF#8 with
        | (s3, .value v) => (s3, some (.ok (ws ++ [v])))
        | (s3, .bad _) => (s3, some (.error n))
        | (s3, .wait _) | (s3, .outside) => (s3, none)
      | (s2, _) => (s2, some (.error n))
    | r => r

/-- Accepts a job: its sequence number, its state, its place in the queue and in the thread's job map; the instruction
retires with the identifier (R127, R129, R140, R227). -/
def State.enqueue (s : State) (slot : Nat) (p : Pend) (matrix : Bool) (mk : JobRef → Job) : State :=
  let core := coreOf slot
  let c := s.core core
  let r : JobRef := ⟨octetOf core, matrix, core % 8, if matrix then c.matSeq else c.haulSeq⟩
  let j := mk r
  let keep (l : List JobState) : List JobState := (⟨r.seq, 0, 0, 0, j.info⟩ :: l.filter (·.seq != r.seq)).take 64
  let s1 := s.setCore core (if matrix then { c with matSeq := (c.matSeq + 1) % 4096, matStates := keep c.matStates }
    else { c with haulSeq := (c.haulSeq + 1) % 4096, haulStates := keep c.haulStates })
  let s2 := s1.modOctet r.octet fun o =>
    if matrix then { o with matrix := o.matrix ++ [j], matLast := core % 8, matAt := some s.cycle }
    else { o with haul := o.haul ++ [j], haulLast := core % 8, haulAt := some s.cycle }
  let s3 := s2.modThread slot fun t =>
    let old := t.jobMap.filter fun x => !(x.matrix == r.matrix && x.core == r.core && x.seq == r.seq)
    let kinds := (old.filter fun x => x.matrix == matrix).take 63
    { t with jobs := t.jobs ++ [r], jobMap := r :: (kinds ++ old.filter fun x => x.matrix != matrix), mark := t.mark || matrix }
  ((s3.popHandles slot p.keys).writeRegs slot p.rd [BitVec.ofNat 64 r.ident]).retire slot p.npc

/-- A slot stops being a candidate. -/
def State.dropCandidate (s : State) (slot : Nat) (matrix : Bool) : State :=
  s.modOctet (octetOf (coreOf slot)) fun o => { o with candidates := o.candidates.filter (· != (slot, matrix)) }

/-- The slot granted in this cycle (R128): one acceptance of a kind in a cycle, and a core that comes before the candidate's in the
search presents one of this cycle first. -/
def State.grantedSlot (s : State) (oct : Nat) (matrix : Bool) : Option Nat :=
  let o := s.octet oct
  if (if matrix then o.matAt else o.haulAt) = some s.cycle then none else
  (o.nextCandidate matrix).filter fun slot =>
    !((o.searched matrix).takeWhile (· != coreOf slot % 8)).any fun c => s.issuesNext (oct * 8 + c) (issuesJob matrix)

/-- One acceptance of a kind at an octet (R128): accept is what the grant does with the slot's instruction; it may find
that a wait of the descriptor's loads has not ended. -/
def State.acceptOne (s : State) (oct : Nat) (matrix : Bool) (accept : State → Nat → Thread → Pend → Option State) : State :=
  match s.grantedSlot oct matrix with
  | none => s
  | some slot =>
    match s.thread? slot with
    | none => s.dropCandidate slot matrix
    | some t =>
      match t.pend with
      | none => s.dropCandidate slot matrix
      | some p => (accept ((s.dropCandidate slot matrix).modThread slot fun t => { t with pend := none }) slot t p).getD s

/-- The slot presents a candidate and parks on acceptance; the only candidate of its kind is granted in the same cycle
when an entry is free (R128). got are the words the instruction has read. -/
def State.present (s : State) (c : Ctx) (matrix : Bool) (rd op : Nat) (d : Word) (got : List Word)
    (accept : State → Nat → Thread → Pend → Option State) : State :=
  let oct := octetOf c.core
  let alone := !(s.octet oct).candidates.any fun x => x.2 == matrix
  let s1 := s.modThread c.slot fun t => { t with
    run := .waiting (.acceptance matrix)
    pend := some ⟨.none, rd, c.npc, c.handles, got.zipIdx.map fun w => (w.2, w.1), [], 8, op, d, []⟩ }
  let s2 := { s1.modOctet oct fun o => { o with candidates := o.candidates ++ [(c.slot, matrix)] } with latch := {} }
  if alone then s2.acceptOne oct matrix accept else s2

/-- A word captured at issue. -/
def Pend.word (p : Pend) (i : Nat) : Word := ((p.got.find? (·.1 == i)).map (·.2)).getD 0

/-! The engines' accesses -/

/-- The core whose thread issued the job. -/
def Job.core (j : Job) : Nat := coreOf j.slot

/-- The master identifier of the engine that runs a job (R409). -/
def Job.master (j : Job) : Nat := j.tenant * 8 + if j.ref.matrix then 3 else 2

/-- The word of this package that an engine's access of an address goes to. -/
def State.enginePlace (s : State) (j : Job) (x : Nat × Access) : Option Nat :=
  match (s.resolve j.core j.tenant j.master x.1 x.2).2 with
  | .ok t => t.place.map fun p => p.1 / 8
  | .error _ => none

/-- The homes of the engine's next accesses have no other request waiting (R95, R103): an engine's request crosses the fabric in
the step that makes it (notes/assumptions/63.md). A write of the job outside the package is acknowledged before its next access. -/
def State.engineFree (s : State) (j : Job) (l : List (Nat × Access)) : Bool :=
  !s.flights.any (·.job == some j.ref) &&
  l.all fun x => match s.enginePlace j x with
    | some k => (s.unitAt j.core k).isSome
    | none => true

/-- What an engine's read of a word gives: its value and whether it is poisoned, or the cause it fails with (R134, R135). -/
def State.engineRead (s : State) (j : Job) (va : Nat) : State × Except Nat (Word × Bool) :=
  match s.resolve j.core j.tenant j.master va .load with
  | (s1, .error c) => (s1, .error c)
  | (s1, .ok (.mem ad _)) | (s1, .ok (.store _ ad _)) =>
    let s2 := ((s1.unitAt j.core (ad / 8)).getD s1).settle (ad / 8)
    (s2, .ok (s2.mem.word (ad / 8), s2.mem.poisoned (ad / 8)))
  | (s1, .ok (.belay off)) => (s1, .error (belayRefuse off))
  | (s1, .ok t) =>
    match s1.askOutside t with
    | (s2, .ok v) => (s2, .ok (v, false))
    | (s2, .error c) => if c = 0x0E then ({ s2 with fresh := s2.fresh + 1 }, .ok (Config.freeWord s2.fresh, true)) else (s2, .error c)

/-- An uncaptured granule is captured before an engine changes it (R371). -/
def State.captureAll (s : State) (k : Nat) : State := s.beforeWrite k

/-- An engine's write of a whole word with data, tag and poison in one step (R93, R134). One that sets the tag of a word of the host,
whose memory has none, fails as a synchronising access there does (R403; DEDUCED, notes/assumptions/84.md). -/
def State.engineWrite (s : State) (j : Job) (va : Nat) (v : Word) (poison : Bool) (tag : Option Bool) : State × Option Nat :=
  match s.resolve j.core j.tenant j.master va .store with
  | (s1, .error c) => (s1, some c)
  | (s1, .ok (.mem ad _)) | (s1, .ok (.store _ ad _)) =>
    let s2 := (s1.unitAt j.core (ad / 8)).getD s1
    (if poison then (s2.captureAll (ad / 8)).writePoison (ad / 8) v tag else s2.writeWord (ad / 8) 0xFF#8 v tag, none)
  | (s1, .ok (.belay off)) => (s1, some (belayRefuse off))
  | (s1, .ok (.host a)) => if tag.isSome then (s1, some 0x09) else
      s1.writeOutside j.slot (.host a) (.word v false poison) (BitVec.ofNat 64 va) (some j.ref)
  | (s1, .ok t) => s1.writeOutside j.slot t (.word v (tag == some true) poison) (BitVec.ofNat 64 va) (some j.ref)

/-- An engine empties a word, its data left as it is (R137, R231). -/
def State.engineEmpty (s : State) (j : Job) (va : Nat) : State × Option Nat :=
  match s.resolve j.core j.tenant j.master va .store with
  | (s1, .error c) => (s1, some c)
  | (s1, .ok (.mem ad _)) | (s1, .ok (.store _ ad _)) => (((s1.unitAt j.core (ad / 8)).getD s1).changeTag (ad / 8) false, none)
  | (s1, .ok (.belay off)) => (s1, some (belayRefuse off))
  | (s1, .ok (.host _)) => (s1, some 0x09)
  | (s1, .ok t) => s1.writeOutside j.slot t (.sync j.slot 5 0) (BitVec.ofNat 64 va) (some j.ref)

/-- The job as it stands in its queue. -/
def State.job? (s : State) (r : JobRef) : Option Job :=
  let o := s.octet r.octet
  (if r.matrix then o.matrix else o.haul).find? (·.ref == r)

/-- A job begins to run: its state reads 1 (R139). -/
def State.startJob (s : State) (r : JobRef) : State :=
  (s.modJob r fun j => { j with state := max 1 j.state }).setJobState r fun x => { x with state := max 1 x.state }

/-- A failing access stops a job (R135). -/
def State.stopJob (s : State) (r : JobRef) (cause va : Nat) : State :=
  s.modJob r fun j => { j with state := 2, fault := some (cause, va) }

/-- A job's record: its reference exponent is read once, before the job's first update, then each update is sent and
applied or refused at the record's home (R138, R236, R252). -/
def State.sendUpdate (s : State) (r : JobRef) (handle sat : Nat) (vs : List Fv) : State :=
  match s.job? r with
  | none => s
  | some j =>
    let stop (s : State) (cause va : Nat) : State := s.modJob r fun j => { j.fail cause va with recOff := true }
    if j.recOff || vs.isEmpty then s
    else if (s.tenant j.tenant).poolCount ≤ handle then stop s 0x08 0 else
    let away (s : State) (t : Target) (ref : Nat) : State :=
      s.sendAway j.slot (some r) t (makeUpdate j.tenant handle 0 0 j.master ref sat vs (.inr r) s.nextId)
    match s.recHome j.core j.tenant j.master handle 3 with
    | (s1, .error c) =>
      match s.recAway j.core j.tenant j.master handle 3, j.recRef with
      | some t, some ref => away s1 t ref
      | some t, none => match s1.refAway t with
        | (s2, .error c) => stop s2 c ((s2.recVa j.tenant handle).toNat + 8)
        | (s2, .ok ref) => away (s2.modJob r fun j => { j with recRef := some ref }) t ref
      | none, _ => stop s1 c (s1.recVa j.tenant handle).toNat
    | (s1, .ok k) =>
      let go (s : State) (ref : Nat) : State :=
        let u := makeUpdate j.tenant handle k.1 k.2 j.master ref sat vs (.inr r) s.nextId
        if s.slow then
          (s.send false j.core (homeEp (8 * k.1)) (.update u)).modJob r fun j => { j with updates := j.updates ++ [u.ident] }
        else
          let a := s.applyUpdate u
          a.1.ackUpdate u a.2
      match j.recRef with
      | some ref => go s1 ref
      | none =>
        match s1.recPoison k.1 [1] with
        | (s2, some i) => stop s2 0x0E ((s2.recVa j.tenant handle).toNat + 8 * i)
        | (s2, none) =>
          let ref := recRefOf (s2.recWord k.1 1)
          go (s2.modJob r fun j => { j with recRef := some ref }) ref

/-- A job reaches a final state (R136, R139, R230, R240): the state its core keeps, the tenant's fault queue for a fault or
poison, the threads that armed it (R142), and its entry. -/
def State.finalState (s : State) (j : Job) (st cause addr : Nat) : State :=
  let r := j.ref
  let s1 := s.setJobState r fun x => { x with state := st, cause := cause, addr := addr % 2 ^ 48, info := j.info }
  let s2 := s1.modOctet r.octet fun o => { o with haul := o.haul.filter (·.ref != r), matrix := o.matrix.filter (·.ref != r) }
  let x := s2.jobState r
  let told (t : Thread) : Thread :=
    let t1 := { t with jobs := t.jobs.filter (· != r) }
    if t.armed.contains r then
      { t1 with armed := t.armed.filter (· != r), uints := t.uints ++ [⟨BitVec.ofNat 64 r.ident, x.word, x.info⟩] }
    else t1
  let s3 := s2.mapThreads told
  if st = 3 ∨ st = 4 then s3.post j.tenant j.slot 0 cause 2 (BitVec.ofNat 64 addr) (BitVec.ofNat 64 r.ident) else s3

/-- A job may end in this cycle: every write of it is performed and every update acknowledged. One that a jobint of this cycle has armed
ends in a later one, for a job that ends in the cycle is none to arm (R142). -/
def State.mayEnd (s : State) (j : Job) : Bool :=
  j.state == 2 && j.updates.isEmpty && !s.flights.any (·.job == some j.ref) &&
    !s.threads.any fun t => t.2.armedAt == some s.cycle && t.2.armed.contains j.ref

/-- The final state of a job that has run (R136, R139): a failing access first, then a failed update, then poison. -/
def Job.ending (j : Job) : Nat × Nat × Nat :=
  match j.fault, j.recFault, j.poison with
  | some (c, a), _, _ => (4, c, a)
  | none, some (c, a), _ => (4, c, a)
  | none, none, some a => (3, 0, a)
  | none, none, none => (2, 0, 0)

/-! Completion instructions -/

/-- What hpoll and hwait, or mpoll and mwait, read of an identifier: one of the other kind is state 6 (R140, R240). -/
def State.pollState (s : State) (c : Ctx) (matrix : Bool) (v : Word) : JobState :=
  let r := c.t.jobNamed c.slot v
  if r.matrix == matrix then s.jobState r else ⟨0, 6, 0, 0, 0⟩

/-- hpoll, hwait, mpoll, mwait (R141, R240): waits says that the thread parks until the job is final. -/
def pollForm (s : State) (rd rs1 : BitVec 5) (matrix waits : Bool) : Host.Outcome State Fault Refusal :=
  let d := s.latch.rd rd
  let a := s.latch.rs1 rs1
  issueOnCompute s [rs a, rdst d (if matrix then 2 else 1)] fun s c =>
    let x := s.pollState c matrix (c.x a)
    if waits && decide (x.state < 2) then s.park c.slot (.jobsFinal [c.t.jobNamed c.slot (c.x a)])
    else s.finish c d (if matrix then [x.word, x.info] else [x.word])

end Sys2Proof.Machine
end

