-- ==== Sys2Proof/Machine/Haul.lean ====
section
/-! DEFINITION. Sys2Proof/Machine/Haul.lean: the haul engines: issue (R129), validation (R133), job order (R132, R137),
execution (R134 to R136), updates (R138), completion (R141, R142). -/

namespace Sys2Proof.Machine

/-- A word of a descriptor. -/
def dword (d : List Word) (i : Nat) : Word := d.getD i 0

/-- What a haul job does next in job order (R132, R137). -/
inductive HaulAct where
  /-- a destination word from a source word -/
  | copy (dst src : Nat)
  /-- an index word's 32-bit entry is read -/
  | index (va : Nat)
  /-- a word of the transposed copy is emptied -/
  | empty (va : Nat)
  /-- a word of the transposed copy, assembled from elements of es bytes at these addresses -/
  | build (dst es : Nat) (parts : List Nat)
deriving DecidableEq, Repr

/-- An address modulo 2^64 (R132). -/
def wrap (z : Int) : Nat := (z % 2 ^ 64).toNat

/-- The full and rec bits, the record type and handle of a control word (R131). -/
def ctlFull (d : List Word) : Bool := (dword d 2).getLsbD 0
def ctlRec (d : List Word) : Bool := (dword d 2).getLsbD 1
def ctlType (d : List Word) : Nat := ((dword d 2).extractLsb' 8 4).toNat
def ctlHandle (d : List Word) : Nat := ((dword d 2).extractLsb' 32 32).toNat

/-- A signed 32-bit half of a geometry word. -/
def half32 (w : Word) (i : Nat) : Int := (w.extractLsb' (32 * i) 32).toInt

/-- Step p of a job in job order (R132, R137): op is its f5 code, x the index last read. none: the job order is at its
end. -/
def haulAct (d : List Word) (op x p : Nat) : Option HaulAct :=
  let src : Int := (dword d 0).toNat
  let dst : Int := (dword d 1).toNat
  let aux : Int := (dword d 3).toNat
  let g0 := dword d 4
  match op with
  | 0x08 => if p < g0.toNat / 8 then some (.copy (wrap (dst + 8 * p)) (wrap (src + 8 * p))) else none
  | 0x09 =>
    let row := (g0.extractLsb' 32 32).toNat / 8
    let i := p / row
    let k := p % row
    if p < row * (g0.extractLsb' 0 32).toNat then
      some (.copy (wrap (dst + i * (dword d 6).toInt + 8 * k)) (wrap (src + i * (dword d 5).toInt + 8 * k)))
    else none
  | 0x0A =>
    let n (i : Nat) : Nat := (g0.extractLsb' (16 * i) 16).toNat
    let i1 := p / n 0 % n 1
    let i2 := p / (n 0 * n 1) % n 2
    let i3 := p / (n 0 * n 1 * n 2)
    let off (h : Nat) : Int := i1 * half32 (dword d 5) h + i2 * half32 (dword d 6) h + i3 * half32 (dword d 7) h + 8 * (p % n 0 : Nat)
    if p < n 0 * n 1 * n 2 * n 3 then some (.copy (wrap (dst + off 1)) (wrap (src + off 0))) else none
  | 0x0B | 0x0C =>
    let es := 2 ^ (g0.extractLsb' 32 4).toNat
    let per := es / 8 + 1
    let k := p / per
    let j := p % per - 1
    let near : Int := (k * es + 8 * j : Nat)
    let far : Int := (x * es + 8 * j : Nat)
    if (g0.extractLsb' 0 24).toNat ≤ k then none
    else if p % per = 0 then some (.index (wrap (aux + 4 * k)))
    else if op = 0x0B then some (.copy (wrap (dst + near)) (wrap (src + far)))
    else some (.copy (wrap (dst + far)) (wrap (src + near)))
  | _ =>
    let rows := (g0.extractLsb' 0 13).toNat
    let cols := (g0.extractLsb' 16 13).toNat
    let es := 2 ^ (g0.extractLsb' 32 2).toNat
    let ss := (dword d 5).toInt
    let ts := (dword d 7).toInt
    let tw := rows * es / 8
    let pw := cols * es / 8
    let e1 := if ctlFull d then cols * tw else 0
    let e2 := e1 + rows * pw
    if p < e1 then some (.empty (wrap (aux + (p / tw : Nat) * ts + 8 * (p % tw : Nat))))
    else if p < e2 then
      let i := (p - e1) / pw
      let k := (p - e1) % pw
      some (.copy (wrap (dst + i * (dword d 6).toInt + 8 * k)) (wrap (src + i * ss + 8 * k)))
    else if p < e2 + cols * tw then
      let j := (p - e2) / tw
      let w := (p - e2) % tw
      some (.build (wrap (aux + j * ts + 8 * w)) es
        ((List.range (8 / es)).map fun r => wrap (src + (w * (8 / es) + r : Nat) * ss + j * es)))
    else none

/-- The validation of R133: the failing address, or the geometry is wrong; none when the descriptor stands. -/
def haulBad (d : List Word) (op : Nat) : Option (Option Word) :=
  let g0 := dword d 4
  let mult (w : Word) (n : Nat) : Bool := w.toNat % n == 0
  let auxOk := match op with
    | 0x0B | 0x0C => mult (dword d 3) 4
    | 0x0D => mult (dword d 3) 8
    | _ => true
  let len := g0.toNat
  let shapeOk : Bool := match op with
    | 0x08 => decide (8 ≤ len) && decide (len ≤ 0xFFFFFFF8) && mult g0 8
    | 0x09 =>
      let rowb := (g0.extractLsb' 32 32).toNat
      let rows := (g0.extractLsb' 0 32).toNat
      decide (8 ≤ rowb) && decide (rowb ≤ 2 ^ 24) && rowb % 8 == 0 && decide (1 ≤ rows) && decide (rows ≤ 2 ^ 20) &&
        mult (dword d 5) 8 && mult (dword d 6) 8
    | 0x0A =>
      (List.range 4).all (fun i => (g0.extractLsb' (16 * i) 16).toNat != 0) &&
        [5, 6, 7].all fun i => mult (dword d i) 8 && mult ((dword d i) >>> 32) 8
    | 0x0B | 0x0C => (g0.extractLsb' 0 24).toNat != 0 && decide (3 ≤ (g0.extractLsb' 32 4).toNat) && decide ((g0.extractLsb' 32 4).toNat ≤ 12)
    | _ =>
      let rows := (g0.extractLsb' 0 13).toNat
      let cols := (g0.extractLsb' 16 13).toNat
      let es := 2 ^ (g0.extractLsb' 32 2).toNat
      decide (1 ≤ rows) && decide (rows ≤ 4096) && decide (1 ≤ cols) && decide (cols ≤ 4096) && rows * es % 8 == 0 &&
        cols * es % 8 == 0 && [5, 6, 7].all fun i => mult (dword d i) 8
  if !mult (dword d 0) 8 then some (some (dword d 0))
  else if !mult (dword d 1) 8 then some (some (dword d 1))
  else if !auxOk then some (some (dword d 3))
  else if !shapeOk || (ctlRec d && decide (5 < ctlType d)) then some none
  else none

/-- The grant of a haul candidate (R129): the descriptor is read and validated in that cycle, once its loads may follow the thread's
earlier stores (R118, R295). -/
def acceptHaul (s : State) (slot : Nat) (t : Thread) (p : Pend) : Option State :=
  match s.descriptor slot t.tenant p.ea 8 with
  | (_, none) => none
  | (s1, some (.error i)) => some (s1.trap slot 0x0E (p.ea + BitVec.ofNat 64 (8 * i)))
  | (s1, some (.ok d)) =>
    match haulBad d p.phase with
    | some (some va) => some (s1.trap slot 0x03 va)
    | some none => some (s1.trap slot 0x01 (p.word 0))
    | none => some (s1.enqueue slot p false fun r =>
        { ref := r, slot := slot, tenant := t.tenant, launch := t.launch, op := p.phase, desc := d })

/-- The issue of a haul job (R129). An optimiser core has no haul engine (R365). -/
def haulForm (s : State) (op : Nat) (rd rs1 : BitVec 5) : Host.Outcome State Fault Refusal :=
  let d := s.latch.rd rd
  let a := s.latch.rs1 rs1
  issueOnCompute s [rs a, rdst d] fun s c =>
    let ea := c.x a
    if ea.toNat % 64 ≠ 0 then s.trapc c 0x03 ea
    else if ea.toNat < Config.ownBase ∨ Config.ownBase + storeSize c.core < ea.toNat + 64 then s.trapc c 0x08 ea
    else s.present c false d op ea [c.w] acceptHaul

def execHcopy (rd rs1 : BitVec 5) (s : State) : Host.Outcome State Fault Refusal := haulForm s 0x08 rd rs1
def execHcopy2 (rd rs1 : BitVec 5) (s : State) : Host.Outcome State Fault Refusal := haulForm s 0x09 rd rs1
def execHcopyn (rd rs1 : BitVec 5) (s : State) : Host.Outcome State Fault Refusal := haulForm s 0x0A rd rs1
def execHgath (rd rs1 : BitVec 5) (s : State) : Host.Outcome State Fault Refusal := haulForm s 0x0B rd rs1
def execHscat (rd rs1 : BitVec 5) (s : State) : Host.Outcome State Fault Refusal := haulForm s 0x0C rd rs1
def execHpair (rd rs1 : BitVec 5) (s : State) : Host.Outcome State Fault Refusal := haulForm s 0x0D rd rs1

/-- hwait and hpoll (R141). -/
def execHwait (rd rs1 : BitVec 5) (s : State) : Host.Outcome State Fault Refusal := pollForm s rd rs1 false true
def execHpoll (rd rs1 : BitVec 5) (s : State) : Host.Outcome State Fault Refusal := pollForm s rd rs1 false false

/-- jobint (R142). A job that the thread has armed already is armed again: it counts once more towards the 8, and its one
interrupt is delivered (DESIGN CHOICE, notes/assumptions/65.md: R142 is silent). -/
def execJobint (rd rs1 : BitVec 5) (s : State) : Host.Outcome State Fault Refusal :=
  let d := s.latch.rd rd
  let a := s.latch.rs1 rs1
  issueOnCompute s [rs a, rdst d] fun s c =>
    let r := c.t.jobNamed c.slot (c.x a)
    if 2 ≤ (s.jobState r).state then s.finish c d [0]
    else if 8 ≤ c.t.armed.length then s.finish c d [2]
    else (s.modThread c.slot fun t => { t with armed := t.armed ++ [r], armedAt := some s.cycle }).finish c d [1]

/-! The engine -/

/-- The elements of data words, of a record type (R138). -/
def wordElements (ty : Nat) (ws : List Word) : List Fv :=
  let f := recType ty
  elementsOf f.1 f.2 (ws.length * 8 / f.2) ws

/-- A copied word joins the update being gathered; 512 words, or the last of them, are sent (R138). -/
def State.gather (s : State) (r : JobRef) (v : Word) (last : Bool) : State :=
  match s.job? r with
  | none => s
  | some j =>
    let ws := j.got ++ [v]
    if ws.length = 512 ∨ last then
      (s.modJob r fun j => { j with got := [] }).sendUpdate r (ctlHandle j.desc) 0 (wordElements (ctlType j.desc) ws)
    else s.modJob r fun j => { j with got := ws }

/-- The bytes of elements assembled into a word, first lowest (R137): each element of es bytes at its address's offset. -/
def assemble (es : Nat) : List (Nat × Word) → Nat
  | [] => 0
  | (va, w) :: rest => w.toNat / 2 ^ (8 * (va % 8)) % 2 ^ (8 * es) + 2 ^ (8 * es) * assemble es rest

/-- The words that hold elements, each read as a plain load (R137): their values, or the failing cause and address. -/
def State.readParts (s : State) (j : Job) : List Nat → State × Except (Nat × Nat) (List (Nat × Word) × Bool)
  | [] => (s, .ok ([], false))
  | va :: rest =>
    match s.engineRead j (va / 8 * 8) with
    | (s1, .error c) => (s1, .error (c, va / 8 * 8))
    | (s1, .ok (w, p)) =>
      match s1.readParts j rest with
      | (s2, .ok (l, q)) => (s2, .ok ((va, w) :: l, p || q))
      | e => e

/-- A destination word lands (R134): the job notes its first poisoned one (R139). -/
def State.landWord (s : State) (j : Job) (dst : Nat) (v : Word) (poison : Bool) : State × Bool :=
  match s.engineWrite j dst v poison (if ctlFull j.desc then some true else none) with
  | (s1, some c) => (s1.stopJob j.ref c dst, false)
  | (s1, none) => (if poison then s1.modJob j.ref fun j => { j with poison := j.poison <|> some dst } else s1, true)

/-- The words an act accesses. -/
def HaulAct.accesses : HaulAct → List (Nat × Access)
  | .copy dst src => [(src, .load), (dst, .store)]
  | .index va => [(va / 8 * 8, .load)]
  | .empty va => [(va, .store)]
  | .build dst _ parts => (dst, .store) :: parts.map fun va => (va / 8 * 8, .load)

/-- A word lies in a range of n bytes from an address, modulo 2^64 (R132). -/
def inRun (va : Nat) (at' : Int) (n : Nat) : Bool := decide (wrap (va - at') < n)

/-- A word is one that the job reads as its source (R132, R134). index: the job's index entries. -/
def readsWord (d : List Word) (op : Nat) (index : Nat → Option Nat) (va : Nat) : Bool :=
  let src : Int := (dword d 0).toNat
  let g0 := dword d 4
  let rows (n bytes : Nat) : Bool := (List.range n).any fun i => inRun va (src + i * (dword d 5).toInt) bytes
  match op with
  | 0x08 => inRun va src g0.toNat
  | 0x09 => rows (g0.extractLsb' 0 32).toNat (g0.extractLsb' 32 32).toNat
  | 0x0A =>
    let n (i : Nat) : Nat := (g0.extractLsb' (16 * i) 16).toNat
    (List.range (n 3)).any fun i3 => (List.range (n 2)).any fun i2 => (List.range (n 1)).any fun i1 =>
      inRun va (src + i1 * half32 (dword d 5) 0 + i2 * half32 (dword d 6) 0 + i3 * half32 (dword d 7) 0) (8 * n 0)
  | 0x0B =>
    let es := 2 ^ (g0.extractLsb' 32 4).toNat
    (List.range (g0.extractLsb' 0 24).toNat).any fun k => match index k with
      | some x => inRun va (src + (x * es : Nat)) es
      | none => false
  | 0x0C => inRun va src ((g0.extractLsb' 0 24).toNat * 2 ^ (g0.extractLsb' 32 4).toNat)
  | _ => rows (g0.extractLsb' 0 13).toNat ((g0.extractLsb' 16 13).toNat * 2 ^ (g0.extractLsb' 32 2).toNat)

/-- Entry k of a job's index list as memory holds it (R132). -/
def State.indexEntry (s : State) (j : Job) (k : Nat) : Option Nat :=
  let va := wrap ((dword j.desc 3).toNat + 4 * k)
  match (s.engineRead j (va / 8 * 8)).2 with
  | .ok (w, _) => some (w.toNat / 2 ^ (8 * (va % 8)) % 2 ^ 32)
  | .error _ => none

/-- What a step leaves in a destination word: v, or, where the word is one of the job's source, a value that R134 leaves open. -/
def State.destWord (s : State) (j : Job) (dst : Nat) (v : Word) : State × Word :=
  if readsWord j.desc j.op (s.indexEntry j) dst then ({ s with fresh := s.fresh + 1 }, Config.freeWord s.fresh) else (s, v)

/-- One step of a running job in job order (R134, R135, R137). -/
def State.haulOne (s : State) (r : JobRef) : State :=
  match s.job? r with
  | none => s
  | some j =>
    if j.state ≠ 1 then s else
    let next (s : State) : State := s.modJob r fun j => { j with pos := j.pos + 1 }
    let act := haulAct j.desc j.op j.arg.toNat j.pos
    if (act.any fun a => !s.engineFree j a.accesses) then s else
    match act with
    | none => s
    | some a =>
      match a with
      | .index va =>
        (match s.engineRead j (va / 8 * 8) with
        | (s1, .error c) => s1.stopJob r c va
        | (s1, .ok (w, p)) =>
          if p then s1.stopJob r 0x0E va
          else next (s1.modJob r fun j => { j with arg := (w >>> (8 * (va % 8))) &&& 0xFFFFFFFF#64 }))
      | .empty va =>
        (match s.engineEmpty j va with
        | (s1, some c) => s1.stopJob r c va
        | (s1, none) => next s1)
      | .copy dst src =>
        (match s.engineRead j src with
        | (s1, .error c) => s1.stopJob r c src
        | (s1, .ok (w, p)) =>
          let (s1, w) := s1.destWord j dst w
          match s1.landWord j dst w p with
          | (s2, false) => s2
          | (s2, true) =>
            let last := match haulAct j.desc j.op j.arg.toNat (j.pos + 1) with
              | some (.copy _ _) | some (.index _) => false
              | _ => true
            next (if ctlRec j.desc then s2.gather r w last else s2))
      | .build dst es parts =>
        (match s.readParts j parts with
        | (s1, .error (c, va)) => s1.stopJob r c va
        | (s1, .ok (l, p)) =>
          let (s1, w) := s1.destWord j dst (BitVec.ofNat 64 (assemble es l))
          match s1.landWord j dst w p with
          | (s2, false) => s2
          | (s2, true) => next s2)

/-- n steps of a job. -/
def State.haulWords (s : State) (r : JobRef) : Nat → State
  | 0 => s
  | n + 1 => (s.haulOne r).haulWords r n

/-- A job whose job order is at its end is performed. -/
def State.haulEnd (s : State) (r : JobRef) : State :=
  if s.flights.any (·.job == some r) then s else
  s.modJob r fun j => if j.state = 1 && (haulAct j.desc j.op j.arg.toNat j.pos).isNone then { j with state := 2 } else j

/-- HAUL_JOB_START (R134): the job at the head of the queue starts, if it has not, and moves its next words. -/
def execHaulJobStart (oct words : Nat) (s : State) : Host.Outcome State Fault Refusal :=
  event s fun s =>
    match (s.octet oct).haul with
    | j :: _ => ((s.startJob j.ref).haulWords j.ref words).haulEnd j.ref
    | [] => s

/-- HAUL_JOB_FINAL (R136, R138): every write performed and every update acknowledged. -/
def execHaulJobFinal (oct : Nat) (s : State) : Host.Outcome State Fault Refusal :=
  event s fun s =>
    match (s.octet oct).haul with
    | j :: _ => if s.mayEnd j then s.finalState j j.ending.1 j.ending.2.1 j.ending.2.2 else s
    | [] => s

end Sys2Proof.Machine
end

