-- ==== Sys2Proof/Machine/Matrix.lean ====
section
/-! DEFINITION. Sys2Proof/Machine/Matrix.lean: the matrix instructions (R227, R237 to R241): descriptors, the checks of
R228, the view of the B buffer and the tiles (R229), acceptance. -/

namespace Sys2Proof.Machine

/-- The octet core of an A row and its placement index (R225). -/
def aRow (a0 : Word) (i : Nat) : Nat × Nat :=
  let c0 := (a0.extractLsb' 18 3).toNat
  if a0.getLsbD 21 then ((c0 + i) % 8, i / 8) else (c0, i)

/-- The format pairs (R218): A format code, bits of an A element, panel format. A format codes are the panel's. -/
def pairOf (pair : Nat) : Nat × Nat × Nat :=
  match pair with
  | 0 => (0, 16, 0)
  | 1 => (1, 16, 1)
  | 2 => (2, 8, 2)
  | 3 => (3, 8, 3)
  | 4 => (2, 8, 3)
  | 5 => (3, 8, 2)
  | 6 => (4, 8, 4)
  | 7 => (0, 16, 4)
  | 8 => (5, 4, 5)
  | 9 => (6, 8, 6)
  | _ => (7, 32, 7)

/-- Bits of a panel element (R221). -/
def panelBits (fmt : Nat) : Nat :=
  match fmt with
  | 0 | 1 => 16
  | 5 => 4
  | 7 => 32
  | _ => 8

/-- Rows and columns of a shape (R226). -/
def shapeRows (sh : Nat) : Nat := if sh = 1 then 32 else 64
def shapeCols (sh : Nat) : Nat := if sh = 2 then 64 else 128

/-! Fields of the tile descriptor (R226): words 4 and 5 of a multiply's joined descriptors -/
def tShape (d : List Word) : Nat := ((dword d 4).extractLsb' 0 2).toNat
def tTile (d : List Word) : Nat := ((dword d 4).extractLsb' 2 2).toNat
def tInit (d : List Word) : Bool := (dword d 4).getLsbD 4
def tK (d : List Word) : Nat := ((dword d 4).extractLsb' 16 13).toNat
def tTa (d : List Word) : Nat := ((dword d 4).extractLsb' 32 2).toNat
def tTb (d : List Word) : Nat := ((dword d 4).extractLsb' 34 2).toNat
def tBreg (d : List Word) : Nat := ((dword d 4).extractLsb' 48 4).toNat
def tK0 (d : List Word) : Nat := ((dword d 5).extractLsb' 0 12).toNat
def tJhalf (d : List Word) : Bool := (dword d 5).getLsbD 16

/-! Fields of the A descriptor (R225): words 0 to 2 -/
def aOff (d : List Word) : Nat := ((dword d 0).extractLsb' 0 18).toNat
def aSpread (d : List Word) : Bool := (dword d 0).getLsbD 21
def aSync (d : List Word) : Nat := ((dword d 0).extractLsb' 22 2).toNat
def aStride (d : List Word) : Nat := ((dword d 1).extractLsb' 0 32).toNat
def aSoff (d : List Word) : Nat := ((dword d 2).extractLsb' 0 18).toNat
def aSstride (d : List Word) : Nat := ((dword d 2).extractLsb' 32 16).toNat

/-- The code of the first issue check that a multiply fails (R228, codes 2 to 5). -/
def mmIssueCode (pair : Nat) (d : List Word) : Option Nat :=
  let k := tK d
  let last := if aSpread d then (shapeRows (tShape d) - 1) / 8 else shapeRows (tShape d) - 1
  let unit := if pair = 8 then 32 else 16
  if tShape d = 3 then some 2
  else if k < 16 ∨ 4096 < k ∨ k % unit ≠ 0 ∨ (pair = 10 ∧ 128 < k) then some 3
  else if aSync d = 3 ∨ aOff d % 8 ≠ 0 ∨ aStride d % 8 ≠ 0 ∨ 0x40000 < aOff d + last * aStride d + k * (pairOf pair).2.1 / 8 ∨
      (pair = 8 ∧ 0x40000 < aSoff d + last * aSstride d + k / 32) then some 4
  else if tK0 d % unit ≠ 0 ∨ (tJhalf d ∧ tShape d ≠ 2) then some 5
  else none

/-! Fields of an mbload's geo word (R221) -/
def gK (d : List Word) : Nat := ((dword d 1).extractLsb' 0 13).toNat
def gNarrow (d : List Word) : Bool := (dword d 1).getLsbD 13
def gFmt (d : List Word) : Nat := ((dword d 1).extractLsb' 16 4).toNat
def gSparse (d : List Word) : Bool := (dword d 1).getLsbD 20
def gBreg (d : List Word) : Nat := ((dword d 1).extractLsb' 24 4).toNat
def gStride (d : List Word) : Nat := ((dword d 1).extractLsb' 32 32).toNat
def gCols (d : List Word) : Nat := if gNarrow d then 64 else 128
/-- V of R222. -/
def gRows (d : List Word) : Nat := if gSparse d then gK d / 2 else gK d
/-- Bytes of the value rows, of the metadata, of the block scales, and Z (R222). -/
def gValueBytes (d : List Word) : Nat := gRows d * gCols d * panelBits (gFmt d) / 8
def gMetaBytes (d : List Word) : Nat := if gSparse d then gK d / 4 * (gCols d / 2) else 0
def gScaleBytes (d : List Word) : Nat := if gFmt d = 5 then gK d / 32 * gCols d else 0
def gBytes (d : List Word) : Nat := gValueBytes d + gMetaBytes d + gScaleBytes d
/-- n of R222. -/
def gRegions (d : List Word) : Nat := (gBytes d + 8191) / 8192

/-- The issue checks of an mbload (R228 code 11, R220): a code, or the misaligned address. -/
def mbloadIssue (d : List Word) : Option (Nat × Word) :=
  let k := gK d
  if 7 < gFmt d ∨ (gSparse d ∧ gFmt d = 7) ∨ k < 16 ∨ 4096 < k ∨ k % 16 ≠ 0 ∨ (gFmt d = 5 ∧ k % 32 ≠ 0) ∨
      (gFmt d = 7 ∧ 128 < k) ∨ 16 < gBreg d + gRegions d ∨ gStride d % 8 ≠ 0 then some (0x0D, 11)
  else if (dword d 0).toNat % 64 ≠ 0 then some (0x03, dword d 0)
  else if gSparse d ∧ (dword d 2).toNat % 64 ≠ 0 then some (0x03, dword d 2)
  else if gFmt d = 5 ∧ (dword d 3).toNat % 64 ≠ 0 then some (0x03, dword d 3)
  else none

/-! Fields of an mst's descriptor (R235) -/
def sTile (d : List Word) : Nat := ((dword d 4).extractLsb' 0 2).toNat
def sFmt (d : List Word) : Nat := ((dword d 4).extractLsb' 4 3).toNat
def sTwin (d : List Word) : Bool := (dword d 4).getLsbD 8
def sFull (d : List Word) : Bool := (dword d 4).getLsbD 9
def sRec (d : List Word) : Bool := (dword d 4).getLsbD 10
def sClr (d : List Word) : Bool := (dword d 4).getLsbD 11
def sTab (d : List Word) : Nat := ((dword d 4).extractLsb' 12 2).toNat
def sShape (d : List Word) : Nat := ((dword d 4).extractLsb' 14 2).toNat

/-- The issue checks of an mst (R228 codes 2 and 12, R235). -/
def mstIssue (d : List Word) : Option (Nat × Word) :=
  if sShape d = 3 then some (0x0D, 2)
  else if 6 ≤ sFmt d ∨ (dword d 1).toNat % 8 ≠ 0 ∨ (dword d 3).toNat % 8 ≠ 0 then some (0x0D, 12)
  else if (dword d 0).toNat % 8 ≠ 0 then some (0x03, dword d 0)
  else if sTwin d ∧ (dword d 2).toNat % 8 ≠ 0 then some (0x03, dword d 2)
  else none

/-! The view (R229) -/

def regionOf (m : AMap Region) (r : Nat) : Region := amGetD m r {}
def tileOf (m : AMap Tile) (t : Nat) : Tile := amGetD m t {}

/-- The regions of the panel that region r is part of. -/
def panelRegions (m : AMap Region) (r : Nat) : List Nat :=
  let x := regionOf m r
  if x.state = 1 ∨ x.state = 2 then
    match (regionOf m x.first).panel with
    | some p => ((List.range p.regions).map (x.first + ·)).filter (· < 16)
    | none => [r]
  else []

/-- The regions a job that takes those of a list ends: whole panels (R233). -/
def endedRegions (m : AMap Region) (rs : List Nat) : List Nat := (rs ++ rs.flatMap (panelRegions m)).eraseDups

/-- The regions of a panel, loaded by a job. -/
def loadRegions (m : AMap Region) (j : Job) (state : Nat) : AMap Region :=
  let b := gBreg j.desc
  let n := gRegions j.desc
  (List.range n).foldl (fun m i => amPut m (b + i)
    { state := state, tenant := j.tenant, launch := j.launch, first := b, writer := some j.ref
      panel := if i = 0 then some ⟨gFmt j.desc, gK j.desc, gNarrow j.desc, gSparse j.desc, n⟩ else none }) m

/-- Empties regions. -/
def emptyRegions (m : AMap Region) (rs : List Nat) : AMap Region := rs.foldl (fun m r => amPut m r {}) m

/-- The work regions of an mm.f32x (R232). Of a panel that reaches into them from below, the regions under 8 stay loaded
(DESIGN CHOICE, notes/assumptions/97.md). -/
def workRegions (m : AMap Region) (j : Job) : AMap Region :=
  (List.range 8).foldl (fun m i => amPut m (8 + i)
    { state := 3, tenant := j.tenant, launch := j.launch, first := 8 + i, writer := some j.ref }) m

/-- The effect of a job on the view (R229). -/
def viewJob (v : AMap Region × AMap Tile) (j : Job) : AMap Region × AMap Tile :=
  let own (m : AMap Tile) (t : Nat) : AMap Tile :=
    amPut m t { state := 1, tenant := j.tenant, launch := j.launch }
  match j.op with
  | 0x10 => (loadRegions (emptyRegions v.1 (j.writes.filter (· < 16))) j 1, v.2)
  | 0x11 => if j.discarded then v else (v.1, if sClr j.desc then amPut v.2 (sTile j.desc) {} else own v.2 (sTile j.desc))
  | 0x12 => (emptyRegions v.1 (j.writes.filter (· < 16)), (j.writes.filter (16 ≤ ·)).foldl (fun m t => amPut m (t - 16) {}) v.2)
  | op => if j.discarded then v else (if op = 10 then workRegions v.1 j else v.1, own v.2 (tTile j.desc))

/-- The view: the states once every job accepted so far has run (R229). -/
def Octet.refreshView (o : Octet) : Octet :=
  let v := o.matrix.foldl viewJob (o.regions, o.tiles.map fun t => (t.1, { t.2 with elems := [] }))
  { o with viewRegions := v.1, viewTiles := v.2 }

/-- What a multiply needs of the view (R228 codes 6 to 10). -/
def mmAcceptCode (s : State) (o : Octet) (core tn pair : Nat) (d : List Word) : Option Nat :=
  let b := tBreg d
  let x := regionOf o.viewRegions b
  let others (r : Nat) : Bool := let y := regionOf o.viewRegions r; y.state != 0 && y.tenant != tn
  match x.state, x.panel with
  | 0, _ | 3, _ | _, none => some 6
  | _, some p =>
    let t := tileOf o.viewTiles (tTile d)
    -- a poisoned panel passes codes 6 to 8
    if x.state ≠ 2 ∧ (p.fmt ≠ (pairOf pair).2.2 ∨ (p.sparse ∧ pair = 10)) then some 7
    else if x.state ≠ 2 ∧ (p.k < tK0 d + tK d ∨ (p.narrow ∧ (tShape d ≠ 2 ∨ tJhalf d))) then some 8
    else if pair = 10 ∧ 8 < b + p.regions then some 9
    else if (List.range p.regions).any (fun i => others (b + i)) || (t.state != 0 && t.tenant != tn) || !s.assigned core tn ||
        (pair == 10 && (List.range 8).any fun i => others (8 + i)) then some 10
    else none

/-- A job accepted against the view takes its place in it (R227, R229). -/
def State.enqueueMatrix (s : State) (slot : Nat) (p : Pend) (mk : JobRef → Job) : State :=
  (s.enqueue slot p true mk).modOctet (octetOf (coreOf slot)) fun o =>
    let v := viewJob (o.viewRegions, o.viewTiles) (o.matrix.getLast?.getD (mk ⟨0, true, 0, 0⟩))
    { o with viewRegions := v.1, viewTiles := v.2 }

/-- The grant of a matrix candidate (R227): the acceptance checks of R228, then the job with what it captures. -/
def acceptMatrix (s : State) (slot : Nat) (t : Thread) (p : Pend) : Option State :=
  let core := coreOf slot
  let o := s.octet (octetOf core)
  let d := (List.range (p.got.length - 2)).map fun i => p.word (i + 2)
  let tab (i : Nat) : CodeTable := amGetD (s.core core).tables i {}
  let others (r : Nat) : Bool := let y := regionOf o.viewRegions r; y.state != 0 && y.tenant != t.tenant
  let tileBad (i : Nat) : Bool := let y := tileOf o.viewTiles i; y.state != 0 && y.tenant != t.tenant
  let refuse (code : Nat) : Option State := some (s.trap slot 0x0D (BitVec.ofNat 64 code))
  let base (r : JobRef) : Job := { ref := r, slot := slot, tenant := t.tenant, launch := t.launch, op := p.phase, desc := d, arg := p.word 1 }
  match p.phase with
  | 0x10 =>
    let ws := endedRegions o.viewRegions ((List.range (gRegions d)).map (gBreg d + ·))
    if ws.any others || !s.assigned core t.tenant then refuse 10
    else some (s.enqueueMatrix slot p fun r => { base r with writes := ws })
  | 0x11 =>
    if tileBad (sTile d) then refuse 10
    else some (s.enqueueMatrix slot p fun r =>
      { base r with tabA := tab (sTab d), reads := [16 + sTile d], writes := if sClr d then [16 + sTile d] else [] })
  | 0x12 =>
    let m := p.word 1
    let ts := (List.range 4).filter fun i => m.getLsbD i
    let ws := endedRegions o.viewRegions ((List.range 16).filter fun i => m.getLsbD (4 + i))
    if ws.any others || ts.any tileBad then refuse 10
    else some (s.enqueueMatrix slot p fun r => { base r with writes := ws ++ ts.map (16 + ·) })
  | pair =>
    match mmAcceptCode s o core t.tenant pair d with
    | some code => refuse code
    | none =>
      let b := tBreg d
      let x := regionOf o.viewRegions b
      let n := (x.panel.map (·.regions)).getD 0
      some (s.enqueueMatrix slot p fun r =>
        { base r with
          tabA := tab (tTa d), tabB := tab (tTb d), panelAt := b, panelLen := n, panelBy := x.writer
          reads := (List.range n).map (b + ·) ++ if tInit d then [] else [16 + tTile d]
          writes := [16 + tTile d] ++ if pair = 10 then (List.range 8).map (8 + ·) else [] })

/-- A descriptor in the own window is read at issue (R227): z bytes, aligned to z. -/
def ownDescriptor (s : State) (c : Ctx) (p : Word) (z : Nat) (go : State → List Word → State) : State :=
  if p.toNat % z ≠ 0 then s.trapc c 0x03 p
  else if p.toNat < Config.ownBase ∨ Config.ownBase + storeSize c.core < p.toNat + z then s.trapc c 0x08 p
  else loadAll c .load (fun s _ _ => s) ((List.range (z / 8)).map fun i => let va := p + BitVec.ofNat 64 (8 * i); ⟨va, va, 0xFF⟩) s go

/-- A matrix multiply (R227). An optimiser core has no matrix engine (R365). -/
def mmForm (s : State) (pair : Nat) (s3 : BitVec 3) (rd rs1 rs2 : BitVec 5) : Host.Outcome State Fault Refusal :=
  let d := s.latch.rd rd
  let a := s.latch.rs1 rs1
  let b := s.latch.rs2 rs2
  let x := 8 + s3.toNat
  issueOnCompute s [rs a, rs b, rs x, rdst d] fun s c =>
    if 11 ≤ pair then s.trapc c 0x0D 1 else
    ownDescriptor s c (c.x a) 32 fun s da =>
      ownDescriptor s c (c.x b) 32 fun s dt =>
        match mmIssueCode pair (da ++ dt) with
        | some code => s.trapc c 0x0D (BitVec.ofNat 64 code)
        | none => s.present c true d pair (c.x a) (c.w :: c.x x :: (da ++ dt)) acceptMatrix

def execMmBf16 (s3 : BitVec 3) (rd rs1 rs2 : BitVec 5) (s : State) : Host.Outcome State Fault Refusal := mmForm s 0 s3 rd rs1 rs2
def execMmF16 (s3 : BitVec 3) (rd rs1 rs2 : BitVec 5) (s : State) : Host.Outcome State Fault Refusal := mmForm s 1 s3 rd rs1 rs2
def execMmE4m3 (s3 : BitVec 3) (rd rs1 rs2 : BitVec 5) (s : State) : Host.Outcome State Fault Refusal := mmForm s 2 s3 rd rs1 rs2
def execMmE5m2 (s3 : BitVec 3) (rd rs1 rs2 : BitVec 5) (s : State) : Host.Outcome State Fault Refusal := mmForm s 3 s3 rd rs1 rs2
def execMmE4m3E5m2 (s3 : BitVec 3) (rd rs1 rs2 : BitVec 5) (s : State) : Host.Outcome State Fault Refusal := mmForm s 4 s3 rd rs1 rs2
def execMmE5m2E4m3 (s3 : BitVec 3) (rd rs1 rs2 : BitVec 5) (s : State) : Host.Outcome State Fault Refusal := mmForm s 5 s3 rd rs1 rs2
def execMmC8 (s3 : BitVec 3) (rd rs1 rs2 : BitVec 5) (s : State) : Host.Outcome State Fault Refusal := mmForm s 6 s3 rd rs1 rs2
def execMmBf16C8 (s3 : BitVec 3) (rd rs1 rs2 : BitVec 5) (s : State) : Host.Outcome State Fault Refusal := mmForm s 7 s3 rd rs1 rs2
def execMmE2m1 (s3 : BitVec 3) (rd rs1 rs2 : BitVec 5) (s : State) : Host.Outcome State Fault Refusal := mmForm s 8 s3 rd rs1 rs2
def execMmI8 (s3 : BitVec 3) (rd rs1 rs2 : BitVec 5) (s : State) : Host.Outcome State Fault Refusal := mmForm s 9 s3 rd rs1 rs2
def execMmF32x (s3 : BitVec 3) (rd rs1 rs2 : BitVec 5) (s : State) : Host.Outcome State Fault Refusal := mmForm s 10 s3 rd rs1 rs2

/-- A matrix issue with pair 11 to 15: once its registers are full it raises cause 0x0D with code 1 (R218, R227, R228). -/
def badPair (s3 : BitVec 3) (rd rs1 rs2 : BitVec 5) (s : State) : Host.Outcome State Fault Refusal := mmForm s 11 s3 rd rs1 rs2

/-- mbload (R220, R238). -/
def execMbload (rd rs1 : BitVec 5) (s : State) : Host.Outcome State Fault Refusal :=
  let d := s.latch.rd rd
  let a := s.latch.rs1 rs1
  issueOnCompute s [rs a, rdst d] fun s c =>
    ownDescriptor s c (c.x a) 32 fun s ws =>
      match mbloadIssue ws with
      | some (cause, v) => s.trapc c cause v
      | none => s.present c true d 0x10 (c.x a) (c.w :: 0 :: ws) acceptMatrix

/-- mst (R235). -/
def execMst (rd rs1 : BitVec 5) (s : State) : Host.Outcome State Fault Refusal :=
  let d := s.latch.rd rd
  let a := s.latch.rs1 rs1
  issueOnCompute s [rs a, rdst d] fun s c =>
    ownDescriptor s c (c.x a) 64 fun s ws =>
      match mstIssue ws with
      | some (cause, v) => s.trapc c cause v
      | none => s.present c true d 0x11 (c.x a) (c.w :: 0 :: ws) acceptMatrix

/-- mclr (R239). -/
def execMclr (rd rs1 : BitVec 5) (s : State) : Host.Outcome State Fault Refusal :=
  let d := s.latch.rd rd
  let a := s.latch.rs1 rs1
  issueOnCompute s [rs a, rdst d] fun s c => s.present c true d 0x12 0 [c.w, c.x a] acceptMatrix

/-- mwait and mpoll (R240). -/
def execMwait (rd rs1 : BitVec 5) (s : State) : Host.Outcome State Fault Refusal := pollForm s rd rs1 true true
def execMpoll (rd rs1 : BitVec 5) (s : State) : Host.Outcome State Fault Refusal := pollForm s rd rs1 true false

/-- mrestart (R241). -/
def execMrestart (rd rs1 : BitVec 5) (s : State) : Host.Outcome State Fault Refusal :=
  let d := s.latch.rd rd
  let a := s.latch.rs1 rs1
  issueOnCompute s [rs a, rdst d] fun s c =>
    let v := c.x a
    if v.toNat % 4 ≠ 0 then s.trapc c 0x03 v
    else (s.modThread c.slot fun t => { t with mlabel := v, mark := false }).finish c d [c.t.mlabel]

/-- JOB_ACCEPT (R128): one grant of a kind at an octet's queue. -/
def execJobAccept (oct : Nat) (matrix : Bool) (s : State) : Host.Outcome State Fault Refusal :=
  event s fun s => s.acceptOne oct matrix (if matrix then acceptMatrix else acceptHaul)

end Sys2Proof.Machine
end

