-- ==== Sys2Proof/Machine/MatrixJobs.lean ====
section
/-! DEFINITION. Sys2Proof/Machine/MatrixJobs.lean: the matrix engine at work: panels (R222, R223, R238), the summation of
R199 and R200, A words (R231), tiles stored (R235, R236), clearing (R239), final states (R230) and discard (R242). -/

namespace Sys2Proof.Machine

/-- A job that writes the regions this one reads is not final: this one does not start (R230). -/
def Octet.startBlocked (o : Octet) (j : Job) : Bool :=
  (o.matrix.takeWhile (·.ref != j.ref)).any fun e => j.reads.any e.writes.contains

/-- An earlier job of the queue that must be final before this one takes effect: it writes what this one reads or writes,
or reads what this one writes (R230). -/
def Octet.blocked (o : Octet) (j : Job) : Bool :=
  (o.matrix.takeWhile (·.ref != j.ref)).any fun e =>
    j.writes.any (fun r => e.reads.contains r || e.writes.contains r) || j.reads.any e.writes.contains

/-- An earlier mst of the queue has words to write: this mbload reads none before, for the jobs take effect in acceptance order
(R230). -/
def Octet.storesBefore (o : Octet) (j : Job) : Bool :=
  (o.matrix.takeWhile (·.ref != j.ref)).any fun e => e.op == 0x11 && e.state != 2

/-- The first job of a kind that has not been performed. -/
def Octet.firstJob (o : Octet) (p : Nat → Bool) : Option Job := o.matrix.find? fun j => p j.op && j.state != 2

/-- All of a job is performed. -/
def State.jobDone (s : State) (r : JobRef) : State := s.modJob r fun j => { j with state := 2 }

/-! Panels -/

/-- The words of a panel in the order of its reads (R222, R240): word p. -/
def panelWord (d : List Word) (p : Nat) : Nat :=
  let vw := gCols d * panelBits (gFmt d) / 64
  let nv := gValueBytes d / 8
  let nm := gMetaBytes d / 8
  if p < nv then wrap ((dword d 0).toNat + (p / vw * gStride d + 8 * (p % vw) : Nat))
  else if p < nv + nm then wrap ((dword d 2).toNat + (8 * (p - nv) : Nat))
  else wrap ((dword d 3).toNat + (8 * (p - nv - nm) : Nat))

/-- A byte of the B buffer. -/
def Octet.byte (o : Octet) (a : Nat) : Nat := (amGetD o.bytes a 0).toNat

/-- Writes a byte of the B buffer; zeros are not listed. -/
def putByte (m : AMap Byte) (a : Nat) (b : Byte) : AMap Byte := if b = 0 then amDel m a else amPut m a b

/-- Bytes of a stored element (R235). -/
def storeBytesOf (fmt : Nat) : Nat :=
  match fmt with
  | 0 => 4
  | 1 | 2 => 2
  | _ => 1

/-- What an mst does next (R236, R137). -/
inductive StoreAct where
  | empty (va : Nat)
  /-- a destination word of the plain or the transposed copy with the elements (i, j) it holds -/
  | word (va : Nat) (plain : Bool) (elems : List (Nat × Nat))
deriving DecidableEq, Repr

/-- Words of the phases: emptied, plain, transposed. -/
def storePhases (d : List Word) : Nat × Nat × Nat :=
  let b := shapeRows (sShape d) * shapeCols (sShape d) * storeBytesOf (sFmt d) / 8
  (if sTwin d && sFull d then b else 0, b, if sTwin d then b else 0)

/-- Step p of an mst. -/
def storeAct (d : List Word) (p : Nat) : Option StoreAct :=
  let es := storeBytesOf (sFmt d)
  let per := 8 / es
  let tw := shapeRows (sShape d) / per
  let pw := shapeCols (sShape d) / per
  let (e1, n2, n3) := storePhases d
  let at' (base stride a w : Nat) : Nat := wrap ((dword d base).toNat + a * (dword d stride).toInt + (8 * w : Nat))
  if p < e1 then some (.empty (at' 2 3 (p / tw) (p % tw)))
  else if p < e1 + n2 then
    let i := (p - e1) / pw
    let w := (p - e1) % pw
    some (.word (at' 0 1 i w) true ((List.range per).map fun r => (i, w * per + r)))
  else if p < e1 + n2 + n3 then
    let c := (p - e1 - n2) / tw
    let w := (p - e1 - n2) % tw
    some (.word (at' 2 3 c w) false ((List.range per).map fun r => (w * per + r, c)))
  else none

/-- The memory address of byte b of row i of A (R225). -/
def Job.aByteAt (j : Job) (i b : Nat) : Nat :=
  let r := aRow (dword j.desc 0) i
  storeBase (j.ref.octet * 8 + r.1) + aOff j.desc + r.2 * aStride j.desc + b

/-- The memory address of the scale of block q of row i (R225). -/
def Job.aScaleAt (j : Job) (i q : Nat) : Nat :=
  let r := aRow (dword j.desc 0) i
  storeBase (j.ref.octet * 8 + r.1) + aSoff j.desc + r.2 * aSstride j.desc + q

/-- The places that a multiply reads, in order: the words of every row, then each scale byte's (R225, R231). The words that hold the
block scales of an mm.e2m1's A are A words (DEDUCED, notes/assumptions/94.md). -/
def Job.aPlaces (j : Job) : Nat :=
  shapeRows (tShape j.desc) * (tK j.desc * (pairOf j.op).2.1 / 64 + if j.op = 8 then tK j.desc / 32 else 0)

/-- Word p of A in that order. -/
def Job.aPlace (j : Job) (p : Nat) : Nat :=
  let w := tK j.desc * (pairOf j.op).2.1 / 64
  let q := tK j.desc / 32
  if p < shapeRows (tShape j.desc) * w then j.aByteAt (p / w) (8 * (p % w)) / 8
  else let p := p - shapeRows (tShape j.desc) * w; j.aScaleAt (p / q) (p % q) / 8

/-- The words of memory that a panel's load has still to read, or a tile's store to write or empty. -/
def Job.memoryLeft (j : Job) : List (Nat × Access) :=
  if j.state = 2 then [] else
  match j.op with
  | 0x10 => ((List.range (gBytes j.desc / 8)).drop j.pos).map fun p => (panelWord j.desc p, .load)
  | 0x11 =>
    let n := storePhases j.desc
    ((List.range (n.1 + n.2.1 + n.2.2)).drop j.pos).filterMap fun p => (storeAct j.desc p).map fun
      | .empty va => (va, .store)
      | .word va _ _ => (va, .store)
  | _ => []

/-- A multiply has still to read word k of A, or to empty it when it is done (R231). -/
def Job.awaitsA (j : Job) (k : Nat) : Bool :=
  decide (j.op ≤ 10) && if aSync j.desc = 2 ∧ j.fault.isNone ∧ j.poison.isNone then (List.range j.aPlaces).any fun p => j.aPlace p == k
    else j.state != 2 && ((List.range j.aPlaces).drop j.pos).any fun p => j.aPlace p == k

/-- Earlier jobs of the queue. -/
def State.jobsBefore (s : State) (r : JobRef) : List Job := (s.octet r.octet).matrix.takeWhile (·.ref != r)

/-- An earlier job of the queue has still to access a word of memory that this one accesses next, and one of the two writes or empties
it: jobs take effect in acceptance order (R230). -/
def State.memoryBehind (s : State) (j : Job) (x : Nat × Access) : Bool :=
  match s.enginePlace j x with
  | none => false
  | some k => (s.jobsBefore j.ref).any fun e =>
      (e.op != j.op && e.memoryLeft.any fun y => s.enginePlace e y == some k) || (j.op == 0x11 && e.awaitsA k)

/-- A multiply's read of word k of A comes after the stores of earlier jobs to the word, and where it waits for the word's tag, after
the emptying of it by an earlier multiply (R230). -/
def State.readBehind (s : State) (j : Job) (k : Nat) : Bool :=
  (s.jobsBefore j.ref).any fun e =>
    (e.memoryLeft.any fun y => decide (y.2 = .store) && s.enginePlace e y == some k) ||
    (aSync j.desc != 0 && aSync e.desc == 2 && e.awaitsA k)

/-- One word of a panel is read into the buffer (R238). -/
def State.panelOne (s : State) (r : JobRef) : State :=
  match s.job? r with
  | none => s
  | some j =>
    if j.state ≠ 1 ∨ gBytes j.desc / 8 ≤ j.pos then s else
    let va := panelWord j.desc j.pos
    if s.memoryBehind j (va, .load) || !s.engineFree j [(va, .load)] then s else
    match s.engineRead j va with
    | (s1, .error c) =>
      (s1.stopJob r c va).modOctet r.octet fun o => { o with regions := emptyRegions o.regions (j.writes.filter (· < 16)) }
    | (s1, .ok (w, p)) =>
      let a := gBreg j.desc * 8192 + 8 * j.pos
      let s2 := s1.modOctet r.octet fun o => { o with bytes := (List.range 8).foldl (fun m i => putByte m (a + i) (byteOf w i)) o.bytes }
      s2.modJob r fun j => { j with pos := j.pos + 1, poison := if p then j.poison <|> some va else j.poison }

def State.panelWords (s : State) (r : JobRef) : Nat → State
  | 0 => s
  | n + 1 => (s.panelOne r).panelWords r n

/-- MBLOAD_JOB (R238): the earlier panels it overlaps end when it starts its writes (R233); with all its words read its
regions are loaded, or poisoned. -/
def execMbloadJob (oct words : Nat) (s : State) : Host.Outcome State Fault Refusal :=
  event s fun s =>
    let o := s.octet oct
    match o.firstJob (· == 0x10) with
    | none => s
    | some j =>
      if o.blocked j then s else
      let s1 := if j.state = 0 then
          (s.startJob j.ref).modOctet oct fun o => { o with regions := emptyRegions o.regions (j.writes.filter (· < 16)) }
        else s
      let s2 := if o.storesBefore j then s1 else s1.panelWords j.ref words
      match s2.job? j.ref with
      | some k =>
        if k.state = 1 && k.pos == gBytes k.desc / 8 then
          (s2.modOctet oct fun o => { o with regions := loadRegions o.regions k (if k.poison.isSome then 2 else 1) }).jobDone j.ref
        else s2
      | none => s2

/-! The values a multiply sees -/

/-- A value as the engine takes it, and the flag that a signalling NaN sets when it is converted or multiplied (R190); no NaN of
E8M10 signals. -/
def quiet (v : Fv) : Fv × BitVec 5 := (match v with | .nan _ => .nan false | v => v, v.sigFlag)

/-- An element of a format of R218 from its bits, with its flags; code elements go through a table (R198). -/
def elementOf (fmt : Nat) (t : CodeTable) (b : Nat) : Fv × BitVec 5 :=
  match fmt with
  | 0 => quiet (bf16.decode b)
  | 1 => quiet (f16.decode b)
  | 2 => ((quiet (e4m3.decode b)).1, 0)
  | 3 => ((quiet (e5m2.decode b)).1, 0)
  | 4 => ((quiet (t.value b)).1, 0)
  | 5 => (e2m1.decode b, 0)
  | 6 => let z := (BitVec.ofNat 8 b).toInt; (.fin (decide (z < 0)) z.natAbs 0, 0)
  | _ => quiet (f32.decode b)

/-- A block-scaled element (R194): the scale 0xFF makes it NaN, with NV. -/
def scaled (v : Fv) (e : Nat) : Fv × BitVec 5 :=
  if e = 0xFF then (.nan false, flNV) else
  match v with
  | .fin n m x => (.fin n m (x + e - 127), 0)
  | v => (v, 0)

/-- The bits of n bytes that the job read at a memory address. -/
def Job.aBits (j : Job) (a n : Nat) : Nat := (amGetD j.aWords (a / 8) 0).toNat / 2 ^ (8 * (a % 8)) % 2 ^ (8 * n)

/-- The cluster-window address of a word of a local store: what a job reports of a poisoned A word (R240). -/
def clusterVa (a : Nat) : Nat := Config.clusterBase + (a - Config.packageBase) % (128 * Config.storeBytes)

/-- a(i, k) with its flags. -/
def Job.aValue (j : Job) (i k : Nat) : Fv × BitVec 5 :=
  let p := pairOf j.op
  if j.op = 8 then
    scaled (elementOf 5 {} (j.aBits (j.aByteAt i (k / 2)) 1 / 2 ^ (4 * (k % 2)) % 16)).1 (j.aBits (j.aScaleAt i (k / 32)) 1)
  else elementOf p.1 j.tabA (j.aBits (j.aByteAt i (k * (p.2.1 / 8))) (p.2.1 / 8))

/-- The bits of element e of the values of a panel that starts at a byte of the B buffer (R222). -/
def Octet.panelBitsAt (o : Octet) (base fmt e : Nat) : Nat :=
  let w := panelBits fmt
  if w = 4 then o.byte (base + e / 2) / 2 ^ (4 * (e % 2)) % 16
  else (List.range (w / 8)).foldl (fun v i => v + o.byte (base + e * (w / 8) + i) * 2 ^ (8 * i)) 0

/-- b(k, c) of a panel with its flags; none where 2:4 sparsity leaves no value (R222, R223). -/
def Octet.bValue (o : Octet) (p : Panel) (base : Nat) (t : CodeTable) (k c : Nat) : Option (Fv × BitVec 5) :=
  let cols := if p.narrow then 64 else 128
  let rows := if p.sparse then p.k / 2 else p.k
  let nv := rows * cols * panelBits p.fmt / 8
  let nm := if p.sparse then p.k / 4 * (cols / 2) else 0
  let row : Option Nat :=
    if !p.sparse then some k else
    let nib := o.byte (base + nv + k / 4 * (cols / 2) + c / 2) / 2 ^ (4 * (c % 2)) % 16
    if nib / 4 = k % 4 then some (k / 4 * 2 + 1) else if nib % 4 = k % 4 then some (k / 4 * 2) else none
  row.map fun r =>
    let v := elementOf p.fmt t (o.panelBitsAt base p.fmt (r * cols + c))
    if p.fmt = 5 then scaled v.1 (o.byte (base + nv + nm + k / 32 * cols + c)) else v

/-! Summation -/

/-- S of R199: the exact sum of a group's products, with its flags. -/
def groupSum (ps : List (Fv × BitVec 5)) : Fv × BitVec 5 :=
  let has (f : Fv → Bool) : Bool := ps.any fun p => f p.1
  let fl := ps.foldl (fun f p => f ||| p.2) 0
  if has (· == .inf false) && has (· == .inf true) then (.nan false, fl ||| flNV)
  else match ps with
    | [] => (.fin false 0 0, fl)
    | p :: rest => (rest.foldl (fun a q => (a.add .rne q.1).1) p.1, fl)

/-- T of R199: NaN if S or a scale is NaN, or if a zero meets an infinity, which sets NV, as a signalling scale does (R190). -/
def groupTerm (sA sB sum : Fv) : Fv × BitVec 5 :=
  let inf (v : Fv) : Bool := match v with | .inf _ => true | _ => false
  let crossed := [sA, sB, sum].any inf && [sA, sB, sum].any Fv.isZero
  let fl := (if crossed then flNV else 0) ||| sA.sigFlag ||| sB.sigFlag
  if crossed || sA.isNan || sB.isNan || sum.isNan then (.nan false, fl) else (((sA.mul sB).1.mul sum).1, fl)

/-- One group's step of an accumulator (R199): acc and the job's flags. -/
def groupStep (sA sB : Fv) (acc : Nat × BitVec 5) (ps : List (Fv × BitVec 5)) : Nat × BitVec 5 :=
  let s := groupSum ps
  let t := groupTerm sA sB s.1
  let r := f32.finish .rne ((f32.decode acc.1).add .rne t.1)
  (r.bits, acc.2 ||| s.2 ||| t.2 ||| r.flags)

/-- The parts of an FP32 element (R200): h, then m. -/
def partH (v : Fv) : Fv :=
  match v with
  | .fin .. => e8m10.decode (e8m10.ofFv .rtz v).bits
  | v => v
def partM (v : Fv) : Fv :=
  match v with
  | .fin .. => e8m10.decode (e8m10.ofFv .rtz (v.add .rne (partH v).neg).1).bits
  | _ => .fin false 0 0

/-- The passes over K (R200): what each takes of A's and of B's elements. -/
def passesOf (pair : Nat) : List ((Fv → Fv) × (Fv → Fv)) :=
  if pair = 10 then [(partM, partH), (partH, partM), (partH, partH)] else [(id, id)]

/-- An output element over all K-steps of a job: row is a(i, 0 ..), col the panel's column from row k0 on. -/
def dotAcc (pair : Nat) (sA sB : Fv) (row : List (Fv × BitVec 5)) (col : List (Option (Fv × BitVec 5))) (acc : Nat) : Nat × BitVec 5 :=
  (passesOf pair).foldl (fun a ps =>
    (List.range (row.length / 16)).foldl (fun a g =>
      groupStep sA sB a (((row.drop (16 * g)).take 16 |>.zip ((col.drop (16 * g)).take 16)).filterMap fun xy =>
        xy.2.map fun y =>
          let p := (ps.1 xy.1.1).mul (ps.2 y.1)
          (p.1, p.2 ||| xy.1.2 ||| y.2))) a) (acc, 0)

/-- The tile after a multiply, as its elements, with the job's flags (R199, R226). -/
def Octet.multiply (o : Octet) (j : Job) (p : Panel) : AMap (BitVec 32) × BitVec 5 :=
  let k := tK j.desc
  let rows := shapeRows (tShape j.desc)
  let cols := shapeCols (tShape j.desc)
  let old := (tileOf o.tiles (tTile j.desc)).elems
  let sA := f32.decode (j.arg.extractLsb' 32 32).toNat
  let sB := f32.decode (j.arg.extractLsb' 0 32).toNat
  let bs := (List.range cols).map fun c => (List.range k).map fun x =>
    o.bValue p (j.panelAt * 8192) j.tabB (tK0 j.desc + x) (c + if tJhalf j.desc then 64 else 0)
  let out := (List.range rows).flatMap fun i =>
    let a := (List.range k).map (j.aValue i)
    bs.zipIdx.map fun b =>
      (i * 128 + b.2, dotAcc j.op sA sB a b.1 (if tInit j.desc then 0 else (amGetD old (i * 128 + b.2) 0).toNat))
  let kept := old.filter fun e => !(decide (e.1 / 128 < rows) && decide (e.1 % 128 < cols))
  (kept.foldl (fun m e => amPut m e.1 e.2) ((out.filter fun e => e.2.1 != 0).map fun e => (e.1, BitVec.ofNat 32 e.2.1)),
    out.foldl (fun f e => f ||| e.2.2) 0)

/-- One A word is read, once per job (R231): with sync 1 or 2 only when it is full. -/
def State.aOne (s : State) (r : JobRef) : State :=
  match s.job? r with
  | none => s
  | some j =>
    if j.state = 2 ∨ j.aPlaces ≤ j.pos then s else
    let k := j.aPlace j.pos
    let next (s : State) : State := s.modJob r fun j => { j with pos := j.pos + 1 }
    if (amGet j.aWords k).isSome then next s
    else if (s.unitAt j.core k).isNone || s.readBehind j k then s
    else if aSync j.desc ≠ 0 && !s.mem.full k then s
    else
      let s1 := s.settle k
      next (s1.modJob r fun j => { j with
        aWords := amPut j.aWords k (s1.mem.word k)
        poison := if s1.mem.poisoned k then j.poison <|> some (clusterVa (8 * k)) else j.poison })

def State.aReads (s : State) (r : JobRef) : Nat → State
  | 0 => s
  | n + 1 => (s.aOne r).aReads r n

/-- The panel a multiply was accepted with still stands (R229, R243); one that its mbload left poisoned stands, and makes the multiply
poisoned (DEDUCED, notes/assumptions/98.md). -/
def Octet.panelStands (o : Octet) (j : Job) : Bool :=
  (List.range j.panelLen).all fun i =>
    let x := regionOf o.regions (j.panelAt + i)
    (x.state == 1 || x.state == 2) && x.writer == j.panelBy

/-- Uncorrectable errors found when a multiply reads its panel or its tile: the panel or tile is poisoned and the base
camp controller gets a record (R219, R224). -/
def State.findUpsets (s : State) (j : Job) : State :=
  let o := s.octet j.ref.octet
  let bad := (List.range j.panelLen).any fun i => (regionOf o.regions (j.panelAt + i)).upset
  let s1 := if bad then
      (s.modOctet j.ref.octet fun o => { o with regions := (List.range j.panelLen).foldl (fun m i =>
        amPut m (j.panelAt + i) { regionOf m (j.panelAt + i) with state := 2, upset := false }) o.regions }).check 4 j.ref.octet
    else s
  if !(tInit j.desc) && (tileOf o.tiles (tTile j.desc)).upset then
    let t : Tile := { tileOf o.tiles (tTile j.desc) with state := 2, upset := false }
    (s1.modOctet j.ref.octet fun o => { o with tiles := amPut o.tiles (tTile j.desc) t }).check 4 j.ref.octet
  else s1

/-- The K-steps of a multiply whose A words are read (R199, R243). -/
def State.runMultiply (s : State) (j : Job) : State :=
  let o0 := s.octet j.ref.octet
  if !o0.panelStands j then s.stopJob j.ref 0x0D 0 else
  let s := s.findUpsets j
  let o := s.octet j.ref.octet
  let put (s : State) (t : Tile) : State := s.modOctet j.ref.octet fun o => { o with tiles := amPut o.tiles (tTile j.desc) t }
  let tile := tileOf o.tiles (tTile j.desc)
  let own : Tile := { state := 1, tenant := j.tenant, launch := j.launch, elems := tile.elems }
  if j.poison.isSome || (regionOf o.regions j.panelAt).state = 2 || (!(tInit j.desc) && tile.state = 2) then
    ((put s { own with state := 2 }).modJob j.ref fun j => { j with poison := j.poison <|> some 0 }).jobDone j.ref
  else
    match (regionOf o.regions j.panelAt).panel with
    | none => s.stopJob j.ref 0x0D 0
    | some p =>
      let m := o.multiply j p
      ((put s { own with elems := m.1 }).modJob j.ref fun j => { j with flags := j.flags ||| m.2 }).jobDone j.ref

/-- MULTIPLY_JOB (R199, R231): the first multiply not performed reads its next A words; it starts once its panel's mbload is final,
and ends there if its panel is missing (R229, R230, R243); with all A words read, and every earlier job that it follows final, it
runs its K-steps. An mm.f32x takes its work regions first (R232). -/
def execMultiplyJob (oct words : Nat) (s : State) : Host.Outcome State Fault Refusal :=
  event s fun s =>
    match (s.octet oct).firstJob (· ≤ 10) with
    | none => s
    | some j =>
      -- gated power lets K-steps enter in some cycles only (R415)
      if s.cycle % 8 < s.gating then s else
      let s0 := if (s.octet oct).startBlocked j then s else s.startJob j.ref
      if (s0.octet oct).firstJob (· ≤ 10) |>.any fun k => k.state == 1 && !(s0.octet oct).panelStands k then s0.stopJob j.ref 0x0D 0 else
      let s1 := s0.aReads j.ref words
      let s2 := if j.op = 10 && !(s1.octet oct).blocked j then
          s1.modOctet oct fun o => { o with regions := workRegions o.regions j } else s1
      match s2.job? j.ref with
      | some k => if k.state = 1 && k.pos == k.aPlaces && !(s2.octet oct).blocked k then s2.runMultiply k else s2
      | none => s2

/-! Storing a tile -/

/-- The conversion of an accumulator value (R236). -/
def storeElement (fmt : Nat) (t : CodeTable) (acc : Nat) (sc : Fv) : Quant :=
  let x := f32.decode acc
  let plain (f : Fmt) : Quant := let r := f.finish .rne (x.mul sc); ⟨r.bits, r.flags, false⟩
  match fmt with
  | 0 => plain f32
  | 1 => plain bf16
  | 2 => plain f16
  | 3 => e4m3.quantise x sc
  | 4 => e5m2.quantise x sc
  | _ => t.quantise x sc

/-- One word of an mst (R236, R243). -/
def State.storeOne (s : State) (r : JobRef) : State :=
  match s.job? r with
  | none => s
  | some j =>
    if j.state ≠ 1 || j.discarded then s else
    let d := j.desc
    let next (s : State) : State := s.modJob r fun j => { j with pos := j.pos + 1 }
    let act := storeAct d j.pos
    let va := match act with | some (.empty va) | some (.word va _ _) => va | none => 0
    if s.memoryBehind j (va, .store) || !s.engineFree j [(va, .store)] then s else
    match act with
    | none => s
    | some (.empty va) =>
      (match s.engineEmpty j va with
      | (s1, some c) => s1.stopJob r c va
      | (s1, none) => next s1)
    | some (.word va plain es) =>
      let tile := tileOf (s.octet r.octet).tiles (sTile d)
      let bad := tile.state == 2
      let sc := f32.decode ((dword d 5).extractLsb' 0 32).toNat
      let acc (e : Nat × Nat) : Nat := (amGetD tile.elems (e.1 * 128 + e.2) 0).toNat
      let qs := if bad then [] else es.map fun e => storeElement (sFmt d) j.tabA (acc e) sc
      let v := BitVec.ofNat 64 (qs.zipIdx.foldl (fun v q => v + q.1.bits * 2 ^ (8 * storeBytesOf (sFmt d) * q.2)) 0)
      match s.engineWrite j va v bad (if bad then some false else if sFull d then some true else none) with
      | (s1, some c) => s1.stopJob r c va
      | (s1, none) =>
        let s2 := next (s1.modJob r fun j => { j with
          flags := qs.foldl (fun f q => f ||| q.flags) j.flags
          sat := if plain then j.sat + (qs.filter (·.sat)).length else j.sat
          poison := if bad then j.poison <|> some va else j.poison })
        let ph := storePhases d
        -- once no access of the job can fail any more: a job that a fault stops sends no update
        if sRec d && !bad && j.pos + 1 == ph.1 + ph.2.1 + ph.2.2 then
          match s2.job? r with
          | some k =>
            let vs := (List.range (shapeRows (sShape d))).flatMap fun i =>
              (List.range (shapeCols (sShape d))).map fun c => f32.decode (acc (i, c))
            s2.sendUpdate r ((dword d 6).extractLsb' 0 32).toNat k.sat vs
          | none => s2
        else s2

def State.storeWordsOf (s : State) (r : JobRef) : Nat → State
  | 0 => s
  | n + 1 => (s.storeOne r).storeWordsOf r n

/-- MST_JOB (R236): it starts once every earlier job that writes its tile is final (R230). -/
def execMstJob (oct words : Nat) (s : State) : Host.Outcome State Fault Refusal :=
  event s fun s =>
    let o := s.octet oct
    match o.firstJob (· == 0x11) with
    | none => s
    | some j =>
      if o.blocked j then s else
      let tile := tileOf o.tiles (sTile j.desc)
      -- wrong parity found on read poisons the tile (R224)
      let s0 := if tile.upset then
          (s.modOctet oct fun o => { o with tiles := amPut o.tiles (sTile j.desc) { tile with state := 2, upset := false } }).check 4 oct
        else s
      let s1 := (s0.startJob j.ref).storeWordsOf j.ref words
      match s1.job? j.ref with
      | some k => if k.state = 1 && (storeAct k.desc k.pos).isNone then s1.jobDone j.ref else s1
      | none => s1

/-- MCLR_JOB (R239). -/
def execMclrJob (oct : Nat) (s : State) : Host.Outcome State Fault Refusal :=
  event s fun s =>
    let o := s.octet oct
    match o.firstJob (· == 0x12) with
    | none => s
    | some j =>
      if o.blocked j then s else
      ((s.startJob j.ref).modOctet oct fun o => { o with
        regions := emptyRegions o.regions (j.writes.filter (· < 16))
        tiles := (j.writes.filter (16 ≤ ·)).foldl (fun m t => amPut m (t - 16) {}) o.tiles }).jobDone j.ref

/-- What becomes of tiles and work regions when a job is final (R224, R229, R232, R235). -/
def Octet.settleJob (o : Octet) (j : Job) (st : Nat) : Octet :=
  match j.op with
  | 0x10 => o
  | 0x12 => o
  | 0x11 =>
    if st = 4 then o
    else if sClr j.desc then { o with tiles := amPut o.tiles (sTile j.desc) {} }
    else
      let t := tileOf o.tiles (sTile j.desc)
      { o with tiles := amPut o.tiles (sTile j.desc) { t with state := max 1 t.state, tenant := j.tenant, launch := j.launch } }
  | _ => { o with regions := o.regions.map fun r => if r.2.state = 3 && r.2.writer == some j.ref then (r.1, {}) else r }

/-- MATRIX_JOB_FINAL (R230): the oldest job, once it is performed and its update acknowledged; a multiply that is done with
sync 2 empties every A word it read (R231). -/
def execMatrixJobFinal (oct : Nat) (s : State) : Host.Outcome State Fault Refusal :=
  event s fun s =>
    match (s.octet oct).matrix with
    | [] => s
    | j :: _ =>
      if !s.mayEnd j then s else
      if j.discarded then (s.finalState j 7 0 0).modOctet oct Octet.refreshView else
      let e := j.ending
      let s1 := if j.op ≤ 10 && e.1 == 2 && aSync j.desc == 2 then
          j.aWords.foldl (fun s w => s.changeTag w.1 false) s else s
      let s2 := (s1.modOctet oct fun o => o.settleJob j e.1).finalState j e.1 e.2.1 e.2.2
      s2.modOctet oct Octet.refreshView

/-! Discard -/

/-- A launch's matrix state in an octet is discarded (R242). A job whose updates are on their way is final only once they are acknowledged,
for which sflush waits (R267). -/
def State.discardIn (s : State) (oct launch : Nat) : State :=
  let o := s.octet oct
  let gone := o.matrix.filter (·.launch == launch)
  let s1 := gone.foldl (fun s j => if j.updates.isEmpty then s.finalState j 7 0 0 else
    s.modJob j.ref fun j => { j with state := 2, discarded := true, reads := [], writes := [] }) s
  s1.modOctet oct fun o =>
    ({ o with
      regions := o.regions.map fun r => if r.2.state != 0 && r.2.launch == launch then (r.1, {}) else r
      tiles := o.tiles.map fun t => if t.2.state != 0 && t.2.launch == launch then (t.1, {}) else t } : Octet).refreshView

/-- The discard of a launch's matrix jobs, regions and tiles (R242). -/
def State.discardMatrix (s : State) (launch : Nat) : State := s.octets.foldl (fun s o => s.discardIn o.1 launch) s

/-- The B-buffer regions of a core that passes to another tenant become empty (R219), and a tile becomes unowned when no
core of the octet is its tenant's any more (R224). -/
def State.passMatrix (s : State) (core : Nat) : State :=
  let oct := octetOf core
  s.modOctet oct fun o =>
    ({ o with
      regions := emptyRegions o.regions (endedRegions o.regions [2 * (core % 8), 2 * (core % 8) + 1])
      tiles := o.tiles.map fun t => if s.assigned core t.2.tenant then t else (t.1, {}) } : Octet).refreshView

end Sys2Proof.Machine
end

