-- ==== Sys2Proof/Machine/Msg.lean ====
section
/-! DEFINITION. Sys2Proof/Machine/Msg.lean: messages and their landing (R338 to R343), task counters and tasks (R344 to
R349), handler calls (R350, R351), traverse (R352 to R355) and ixret (R357). -/

namespace Sys2Proof.Machine

/-! The instructions -/

/-- The leader of a rope returns from a delivery that it took outside the stream; after the first of them it is in the stream again
(R325), and the instruction at its pc takes the index of the step that met it. -/
def State.rejoinLeader (s : State) (slot : Nat) : State :=
  match s.ropeOf slot with
  | some (id, r) =>
    if !(r.leaderOut && r.members.head? == some slot) then s
    else if r.nested ≠ 0 then s.setRope id { r with nested := r.nested - 1 }
    else s.setRope id { r with
      leaderOut := false, stream := if r.done.contains slot then r.stream else r.stream.filter (·.1 != r.step) }
  | none => s

/-- trav (R355). -/
def execTrav (rd rs1 : BitVec 5) (s : State) : Host.Outcome State Fault Refusal :=
  let d := s.latch.rd rd
  let a := s.latch.rs1 rs1
  issue s false [rs a, rdst d] fun s c =>
    if c.t.ctx = 0 then s.trapc c 0x01 c.w else
    let ea := c.x a
    match s.origin c.core c.t.tenant ea.toNat .load with
    | (s1, .error e) => s1.trapc c e ea
    | (s1, .ok t) =>
      match ownerOf t with
      | none => s1.finish c d [0]
      | some o =>
        if o = c.core then s1.finish c d [0]
        else if !s1.assigned o c.t.tenant then s1.trapc c 0x09 ea
        else s1.ship c o ea fun t => { t.setX d 1 with pc := c.npc, instret := t.instret + 1, carried := none }

/-- The core a target word names (R338). -/
def targetCore (w : Word) : Nat := (w.extractLsb' 6 14).toNat

/-- Sends a message of the executing thread to the core its target word names. -/
def State.sendMessage (s : State) (c : Ctx) (w : Word) (m : Message) : State :=
  s.send false c.core (targetCore w) (.message m c.t.tenant c.slot w)

/-- msg.reg (R343). -/
def execMsgReg (rs1 rs2 : BitVec 5) (s : State) : Host.Outcome State Fault Refusal :=
  let a := s.latch.rs1 rs1
  let b := s.latch.rs2 rs2
  issue s false [rs a, rs b] fun s c =>
    let w := c.x a
    (s.sendMessage c w (.reg (w.extractLsb' 0 20).toNat (w.extractLsb' 20 7).toNat (c.x b))).done c

/-- msg.dec (R346): an amount of 0 sends nothing. -/
def execMsgDec (rs1 rs2 : BitVec 5) (s : State) : Host.Outcome State Fault Refusal :=
  let a := s.latch.rs1 rs1
  let b := s.latch.rs2 rs2
  issue s false [rs a, rs b] fun s c =>
    let w := c.x a
    let n := ((c.x b).extractLsb' 0 32).toNat
    (if n = 0 then s else s.sendMessage c w (.dec (targetCore w) (w.extractLsb' 20 8).toNat n)).done c

/-- A counter of a core (R344). -/
def Core.counter (c : Core) (i : Nat) : Counter := amGetD c.counters i {}

/-- A counter fires (R345, R346). -/
def State.fireCounter (s : State) (core i : Nat) : State :=
  let k := (s.core core).counter i
  let s1 := s.modCore core fun c => { c with counters := amPut c.counters i { k with state := 2, count := 0 } }
  match k.task with
  | some t => s1.queueTask core t
  | none => s1

/-- ctr.set (R345): a release. -/
def execCtrSet (rd rs1 rs2 : BitVec 5) (s : State) : Host.Outcome State Fault Refusal :=
  let d := s.latch.rd rd
  let a := s.latch.rs1 rs1
  let b := s.latch.rs2 rs2
  issue s false [rs a, rs b, rdst d] fun s c =>
    let i := ((c.x a).extractLsb' 32 8).toNat
    let n := ((c.x a).extractLsb' 0 32).toNat
    let at' := c.x b
    if at'.toNat % 32 ≠ 0 then s.trapc c 0x03 at'
    else if at'.toNat < Config.ownBase ∨ Config.ownBase + storeSize c.core < at'.toNat + 32 then s.trapc c 0x08 at' else
    let req (j : Nat) : WordReq := let x := at' + BitVec.ofNat 64 (8 * j); ⟨x, x, 0xFF⟩
    loadAll c .load (fun s _ _ => s) ((List.range 3).map req) s fun s ws =>
      let entry := ws.getD 0 0
      if entry.toNat % 4 ≠ 0 then s.trapc c 0x03 entry
      else if ((s.core c.core).counter i).state ≠ 0 then s.finish c d [1]
      else s.release c fun s =>
        let t : Task := ⟨entry, ws.getD 1 0, ws.getD 2 0, i, c.t.launch, c.t.tenant, 0⟩
        let s1 := s.modCore c.core fun k => { k with counters := amPut k.counters i ⟨1, n, false, some t⟩ }
        (if n = 0 then s1.fireCounter c.core i else s1).finish c d [0]

/-- ctr.rd (R349): a counter of another launch reads 0. -/
def execCtrRd (rd rs1 : BitVec 5) (s : State) : Host.Outcome State Fault Refusal :=
  let d := s.latch.rd rd
  let a := s.latch.rs1 rs1
  issue s false [rs a, rdst d] fun s c =>
    let k := (s.core c.core).counter ((c.x a).extractLsb' 0 8).toNat
    let mine : Bool := match k.task with | some t => t.launch == c.t.launch && t.tenant == c.t.tenant | none => false
    let v := if mine then (if k.surplus then 2 ^ 34 else 0) + k.state % 4 * 2 ^ 32 + k.count % 2 ^ 32 else 0
    s.finish c d [BitVec.ofNat 64 v]

/-- hcall (R350): rs2 is a span-2 operand; the reply fills rd. -/
def execHcall (rd rs1 rs2 : BitVec 5) (s : State) : Host.Outcome State Fault Refusal :=
  let d := s.latch.rd rd
  let a := s.latch.rs1 rs1
  let b := s.latch.rs2 rs2
  issue s false [rs a, rs b 2, rname d] fun s c =>
    if heldRegs c.t [d] then s.park c.slot (.heldBy [d] []) else
    let w := c.x a
    let s1 := s.modThread c.slot fun t =>
      if d = 0 then t else { t.emptyX d with calls := t.calls ++ [d] }
    let handler : Bool := match c.t.level with | .handler .. => true | _ => false
    (s1.sendMessage c w (.call (targetCore w) (w.extractLsb' 20 6).toNat (c.x b) (c.x (b + 1)) c.slot d 0 handler)).done c

/-- The thread on a service slot ends, its slot free for the next call or activation (R351, R379). -/
def State.endService (s : State) (slot : Nat) : State :=
  match s.thread? slot with
  | some t => ((((s.withdraw slot).leaveBarriers slot).refuseWaiting slot).returnCredits t).freeSlot slot
  | none => s

/-- A handler answers its caller, unless the reply register is x0 (R351). -/
def State.answerCall (s : State) (core : Nat) (lv : Level) (v : Word) : State :=
  match lv with
  | .handler caller reg _ tenant =>
    let m : Message := .reply caller reg v
    if reg = 0 then s else s.send false core (coreOf caller) (.message m tenant (core * 64 + 63) m.target)
  | _ => s

/-- hret (R351). -/
def execHret (rs1 : BitVec 5) (s : State) : Host.Outcome State Fault Refusal :=
  let a := s.latch.rs1 rs1
  issue s false [rs a] fun s c =>
    match c.t.level with
    | .handler .. =>
      match c.t.ports.find? fun hp => !hp.2.pushes.isEmpty with
      | some hp => s.park c.slot (.portIdle hp.1)
      | none =>
        if c.t.body.isSome then s.park c.slot .noBody else
        { ((s.endService c.slot).answerCall c.core c.t.level (c.x a)) with latch := {} }
    | _ => s.trapc c 0x01 c.w

/-- ixret (R357). -/
def execIxret (s : State) : Host.Outcome State Fault Refusal :=
  issue s false [] fun s c =>
    match c.t.shadow with
    | none => s.trapc c 0x01 c.w
    | some h =>
      let s1 := s.modThread c.slot fun t => { t with
        shadow := none, regs := (h.regs.zipIdx).foldl (fun m r => amPut m (4 + r.2) r.1) t.regs }
      (s1.retire c.slot h.pc).rejoinLeader c.slot

/-! Arrival of messages -/

/-- Two messages of one sender to one target take effect in the order sent (R340). -/
def sameTarget (m m' : Message) : Bool :=
  match m, m' with
  | .dec c i _, .dec c' i' _ => c == c' && i == i'
  | .call c .., .call c' .. => c == c'
  | m, m' => match m.names, m'.names with
    | some n, some n' => n.1 == n'.1 && n.2.1 == n'.2.1
    | _, _ => false

/-- An earlier message of the packet's sender for the same target has not been accepted (R340): packets are numbered as they are
sent. -/
def State.heldBack (s : State) (pkt sender : Nat) (m : Message) : Bool :=
  s.packets.any fun p => decide (p.ident < pkt) && match p.payload with
    | .message m' _ sender' _ => sender' == sender && sameTarget m m'
    | _ => false

/-- A delivery lands: the register's 64 bits are written and it is full (R175); instructions of this cycle have issued before it
(R176). -/
def State.land (s : State) (m : Message) : State :=
  match m.names with
  | none => s
  | some (x, r, v) => s.modThread x fun t =>
    let t1 := if r = 0 then t else { t.setX r v with
      landedAt := some s.cycle, landed := r :: if t.landedAt == some s.cycle then t.landed else [] }
    match m with
    | .reply .. => { t1 with calls := t.calls.erase r }
    | .result .. => { t1 with colls := t.colls.erase r }
    | _ => t1

/-- Waits in the core's buffer, or goes back to its sender when the buffer is full (R340). -/
def State.buffer (s : State) (pkt core : Nat) (w : Waiting) : State :=
  if (s.core core).msgs.length < 32 then (s.dropPacket pkt).modCore core fun c => { c with msgs := c.msgs ++ [w] }
  else { s with packets := s.packets.map fun p => if p.ident = pkt then { p with returned := true, arrived := s.cycle } else p }

/-- The deliveries saved with a core's threads come to its buffer as it has room (R341). -/
def State.fillBuffer (s : State) (core : Nat) : State :=
  (s.threads.filter fun p => coreOf p.1 == core && !p.2.waitingDeliveries.isEmpty).foldl (fun s p =>
    let n := 32 - (s.core core).msgs.length
    (s.modCore core fun c => { c with msgs := c.msgs ++ p.2.waitingDeliveries.take n }).modThread p.1 fun t =>
      { t with waitingDeliveries := t.waitingDeliveries.drop n }) s

/-- A delivery naming a register that is empty, with none waiting before it, lands; else it waits. A frozen thread's
deliveries wait (R394), and at most one lands in a register in a cycle (R175). -/
def State.arriveRegister (s : State) (pkt : Nat) (w : Waiting) (t : Thread) (slot reg : Nat) : State :=
  let core := coreOf slot
  let before := t.took s.cycle reg || ((s.core core).msgs ++ t.waitingDeliveries).any fun x => match x.msg.names with | some n => n.1 == slot && n.2.1 == reg | none => false
  if reg = 0 then (s.dropPacket pkt).land w.msg
  else if !(t.reg reg).full && !before && !t.frozen then (s.dropPacket pkt).land w.msg
  else s.buffer pkt core w

/-- The handler's entry as the target core reads it (R350): its value, or none where it cannot be read. -/
def State.handlerEntry (s : State) (tenant h : Nat) : State × Option Word :=
  match s.device tenant ((s.tenant tenant).shtab.toNat + 8 * h) (.device false) with
  | .error _ => (s, none)
  | .ok a => match s.readWord (a / 8) with
    | (s1, .ok v) => (s1, some v)
    | (s1, .error _) => (s1, none)

/-- A refused call is answered with its code; with no reply register, and for code 8, a record is posted (R350). -/
def State.refuseCall (s : State) (core : Nat) (w : Waiting) (code caller reg h : Nat) : State :=
  let lv : Level := .handler caller reg h w.tenant
  let s1 := s.answerCall core lv (refusalWord code)
  let va := (s.tenant w.tenant).shtab + BitVec.ofNat 64 (8 * h)
  if code = 8 then s1.post w.tenant w.sender code 0 3 va w.word
  else if reg = 0 then s1.refuseMessage w code else s1

/-- A call reaches its core: checks 6 to 8 of R339, with the entry read then (R350). -/
def State.arriveCall (s : State) (pkt core : Nat) (w : Waiting) (h : Nat) (a0 a1 : Word) (caller reg : Nat) (handler : Bool) : State :=
  let no (s : State) (code : Nat) : State := (s.dropPacket pkt).refuseCall core w code caller reg h
  if (s.tenant w.tenant).shtab = 0 then no s 6 else
  let own := handler && decide (coreOf caller = core)
  match s.handlerEntry w.tenant h with
  | (s1, some entry) =>
    if entry = 0 then no s1 6 else if own then no s1 7
    else s1.buffer pkt core { w with msg := .call core h a0 a1 caller reg entry handler }
  | (s1, none) => if own then no s1 7 else no s1 8

/-- A handler saved for its escalation awaits a reply in the register, and the activation on its slot awaits none there (R350, R378). -/
def State.savedWaits (s : State) (slot reg : Nat) : Bool :=
  decide (slot % 64 = 63) && !(s.thread? slot).any (fun t => t.calls.contains reg) &&
    (((s.core (coreOf slot)).act.bind (·.saved)).any fun h => h.calls.contains reg)

/-- A delivery is kept for the saved handler of a service slot (R341). -/
def State.keepSaved (s : State) (slot : Nat) (w : Waiting) : State :=
  s.modCore (coreOf slot) fun c => { c with act := c.act.map fun a => { a with
    saved := a.saved.map fun h => { h with waitingDeliveries := h.waitingDeliveries ++ [w] } } }

/-- MESSAGE_ARRIVAL (R339, R340). -/
def execMessageArrival (pkt : Nat) (s : State) : Host.Outcome State Fault Refusal :=
  event s fun s =>
    match s.packet? pkt with
    | none => s
    | some p =>
      match p.payload with
      | .message m tenant sender word =>
        if !p.landed || s.heldBack pkt sender m then s else
        let w : Waiting := ⟨sender, tenant, m, word⟩
        let no (code : Nat) : State := (s.dropPacket pkt).refuseMessage w code
        match m with
        | .reg slot reg _ =>
          if !s.assigned (coreOf slot) tenant then no 1 else
          match s.thread? slot with
          | none => no 2
          | some t =>
            if t.tenant ≠ tenant then no 2 else if slot % 64 = 63 then no 3 else if t.limit ≤ reg then no 4
            else s.arriveRegister pkt w t slot reg
        | .reply slot reg _ | .result slot reg _ =>
          if s.savedWaits slot reg then (s.dropPacket pkt).keepSaved slot w else
          match s.thread? slot with
          | none => no 2
          | some t => if t.tenant ≠ tenant then no 2 else if t.limit ≤ reg then no 4 else s.arriveRegister pkt w t slot reg
        | .dec core _ _ => if !s.assigned core tenant then no 1 else s.buffer pkt core w
        | .call core h a0 a1 caller reg _ handler =>
          if !s.assigned core tenant then (s.dropPacket pkt).refuseCall core w 1 caller reg h
          else s.arriveCall pkt core w h a0 a1 caller reg handler
      | _ => s

/-- A returned packet is sent again 64 cycles after it came back, its age kept (R102, R340, R383). -/
def State.sendAgain (s : State) (pkt : Nat) : State :=
  { s with packets := s.packets.map fun p =>
      if p.ident = pkt && p.returned && decide (p.arrived + 64 ≤ s.cycle) then
        let q := { p with returned := false, arrived := s.cycle, came := s.cycle }
        if s.slow && !crossbar p.src p.dst then s.queueAt q (routerOf p.src) 0 else q
      else p }

/-- MESSAGE_RETRY (R340). -/
def execMessageRetry (pkt : Nat) (s : State) : Host.Outcome State Fault Refusal :=
  event s fun s => match s.packet? pkt with
    | some p => match p.payload with | .message .. => s.sendAgain pkt | _ => s
    | none => s

/-- REGISTER_DELIVERY (R175, R340): the waiting delivery lands when its register is empty and none waits before it; one that names
x0 is discarded. -/
def execRegisterDelivery (core idx : Nat) (s : State) : Host.Outcome State Fault Refusal :=
  event s fun s0 =>
    let s := s0.fillBuffer core
    let l := (s.core core).msgs
    match l[idx]? with
    | none => s
    | some w =>
      match w.msg.names with
      | none => s
      | some (x, r, _) =>
        let before := (l.take idx).any fun y => match y.msg.names with | some n => n.1 == x && n.2.1 == r | none => false
        match s.thread? x with
        | some t =>
          if r ≠ 0 && (before || t.frozen || (t.reg r).full || t.took s.cycle r) then s
          else (s.modCore core fun c => { c with msgs := dropAt c.msgs idx }).land w.msg
        | none => s

/-- COUNTER_DECREMENT (R346): the decrement that arrived first is applied, or refused with code 5 (R339); one a cycle, after the core's
own ctr.set of the cycle. -/
def execCounterDecrement (core : Nat) (s : State) : Host.Outcome State Fault Refusal :=
  event s fun s =>
    if (s.core core).decAt = some s.cycle || s.armsNext core then s else
    let l := (s.core core).msgs
    match l.findIdx? fun w => match w.msg with | .dec .. => true | _ => false with
    | none => s
    | some idx =>
      match l[idx]? with
      | some w =>
        match w.msg with
        | .dec _ i a =>
          let s1 := s.modCore core fun c => { c with msgs := dropAt c.msgs idx, decAt := some s.cycle }
          let k := (s.core core).counter i
          let mine : Bool := match k.task with | some t => t.tenant == w.tenant | none => false
          if k.state ≠ 1 ∨ !mine then s1.refuseMessage w 5 else
          let k1 := { k with count := k.count - a, surplus := k.surplus || decide (k.count < a) }
          let s2 := s1.modCore core fun c => { c with counters := amPut c.counters i k1 }
          if k1.count = 0 then s2.fireCounter core i else s2
        | _ => s
      | none => s

/-! Tasks, arrivals and handlers start -/

/-- The thread of a task (R347). One that a handler armed is of no launch: its x3 and x4 are 0 (DESIGN CHOICE,
notes/assumptions/62.md). -/
def taskThread (l : Option Launch) (t : Task) (base W : Nat) : Thread :=
  let x : Thread := {
    pc := t.entry, base := base, limit := W, launch := t.launch, tenant := t.tenant, ordinal := 64
    ctx := match l with | some l => l.record.ctx | none => 0 }
  let gp : Word := match l with | some l => l.record.w 6 | none => 0
  let th : Word := match l with | some l => l.copy | none => 0
  ([(3, gp), (4, th), (10, t.arg0), (11, t.arg1), (12, BitVec.ofNat 64 t.counter)].filter (·.1 < W)).foldl
    (fun x r => x.setX r.1 r.2) x

/-- The ready queue's head starts in a free slot; its counter is free again (R344, R347). -/
def State.startTask (s : State) (core : Nat) (t : Task) : State :=
  let l := amGet s.launches t.launch
  match s.roomFor core (s.taskWindow t.launch) with
  | some (n, b) =>
    (s.modCore core fun c => { c with readyQ := c.readyQ.tail, counters := amDel c.counters t.counter }).setThread (core * 64 + n)
      { taskThread l t b (s.taskWindow t.launch) with halted := match l with | some l => l.halted | none => false }
  | none => s

/-- A context takes a slot, its translation with it, and the core's fetch buffer is emptied (R71, R352, R354). A launch under
pre-emption issues nothing. -/
def State.landContext (s : State) (core n b : Nat) (t : Thread) : State :=
  let stopped := s.launchStopped t.launch
  let halted : Bool := match amGet s.launches t.launch with | some l => l.halted | none => false
  (s.modCore core fun c => { c with fetch := [] }).setThread (core * 64 + n) { t with
    base := b, run := if stopped then .parked .resume else .ready, halted := halted, frozen := (s.tenant t.tenant).frozen }

/-- TASK_START (R347, R348): a free slot goes to the older of the heads of the ready queue and the arrival queue. -/
def execTaskStart (core : Nat) (s : State) : Host.Outcome State Fault Refusal :=
  event s fun s =>
    let c := s.core core
    let task : Option Task := c.readyQ.head?.filter fun t => s.taskRuns t && (s.roomFor core (s.taskWindow t.launch)).isSome
    let ctx : Option Thread := c.arrivals.head?.filter fun t => s.running t.launch && (s.roomFor core t.limit).isSome
    let arrival (t : Thread) : State := match s.roomFor core t.limit with
      | some (n, b) => (s.modCore core fun c => { c with arrivals := c.arrivals.tail }).landContext core n b t
      | none => s
    match task, ctx with
    | some t, none => s.startTask core t
    | none, some x => arrival x
    | some t, some x => if t.arrived < x.arrived then s.startTask core t else arrival x
    | none, none => s

/-- HANDLER_START (R126, R351, R379): the oldest call starts on the idle service slot, no activation waiting. -/
def execHandlerStart (core : Nat) (s : State) : Host.Outcome State Fault Refusal :=
  event s fun s =>
    let c := s.core core
    if (s.thread? (core * 64 + 63)).isSome || c.act.isSome || !c.actQueue.isEmpty then s else
    match c.msgs.findIdx? fun w => match w.msg with | .call .. => true | _ => false with
    | none => s
    | some idx =>
      match c.msgs[idx]? with
      | some w =>
        match w.msg with
        | .call _ h a0 a1 caller reg entry _ =>
          if (s.tenant w.tenant).frozen then s else
          let t : Thread := {
            pc := entry, base := 2016, limit := 32, launch := 2 ^ 32, tenant := w.tenant, ordinal := 64
            level := .handler caller reg h w.tenant }
          let t1 := [(10, a0), (11, a1), (12, slotidOf caller), (13, BitVec.ofNat 64 h)].foldl (fun t r => t.setX r.1 r.2) t
          (s.modCore core fun c => { c with msgs := dropAt c.msgs idx }).setThread (core * 64 + 63) t1
        | _ => s
      | none => s

/-! Traverse -/

/-- The register packet that follows a context's control packet (R353). -/
def State.registersOf (s : State) (pkt : Nat) : Option Packet :=
  s.packets.find? fun p => match p.payload with | .registers x _ => x == pkt | _ => false

/-- A context's packets leave the fabric. -/
def State.dropContext (s : State) (pkt : Nat) : State :=
  { s with packets := s.packets.filter fun p => p.ident != pkt && match p.payload with | .registers x _ => x != pkt | _ => true }

/-- A context that finds no slot: the arrival queue, then the bivouac, then the spill engine; else it goes back to its origin
(R354, R383). -/
def State.queueContext (s : State) (pkt core : Nat) (t : Thread) : State :=
  let c := s.core core
  let t1 := { t with arrived := s.nextId }
  let s1 : State := { (s.dropContext pkt) with nextId := s.nextId + 1 }
  let engine := (s.die (dieOf core)).spillEngine.any (·.1 == core)
  if c.arrivals.length < 8 ∧ c.arrivalSpill.isEmpty ∧ !engine then s1.modCore core fun c => { c with arrivals := c.arrivals ++ [t1] } else
  -- behind those that wait at the spill engine for the core
  match if engine then none else s1.takeBlocks t.tenant (contextBytes t) with
  | some (b, s2) =>
    (s2.imageWords t.tenant b (contextBytes t)).modCore core fun c =>
      { c with arrivalSpill := c.arrivalSpill ++ [(b, { t1 with run := .spilled })] }
  | none =>
    if (s.die (dieOf core)).spillEngine.length < 16 then
      s1.modDie (dieOf core) fun d => { d with spillEngine := d.spillEngine ++ [(core, t1)] }
    else
      let back := pkt :: ((s.registersOf pkt).map (·.ident)).toList
      { s with packets := s.packets.map fun p => if back.contains p.ident then { p with returned := true, arrived := s.cycle } else p }

/-- TRAVERSE_LANDING (R353, R354): both of a context's packets have come. -/
def execTraverseLanding (pkt : Nat) (s : State) : Host.Outcome State Fault Refusal :=
  event s fun s =>
    match s.packet? pkt with
    | none => s
    | some p =>
      match p.payload with
      | .context t core =>
        if !p.landed || !(s.registersOf pkt).any (·.landed) then s else
        let c := s.core core
        let spilled := !c.arrivalSpill.isEmpty || (s.die (dieOf core)).spillEngine.any (·.1 == core)
        match (if !spilled && !s.candidateFits core then s.roomFor core t.limit else none) with
        | some (n, b) => (s.dropContext pkt).landContext core n b t
        | none => s.queueContext pkt core t
      | _ => s

/-- A context at the spill engine for the core goes on to the bivouac, when there is room (R383). -/
def State.drainEngine (s : State) (core : Nat) : State :=
  match (s.die (dieOf core)).spillEngine.find? (·.1 == core) with
  | none => s
  | some x =>
    match s.takeBlocks x.2.tenant (contextBytes x.2) with
    | none => s
    | some (b, s1) =>
      ((s1.imageWords x.2.tenant b (contextBytes x.2)).modDie (dieOf core) fun d => { d with spillEngine := d.spillEngine.erase x }).modCore
        core fun c => { c with arrivalSpill := c.arrivalSpill ++ [(b, { x.2 with run := .spilled })] }

/-- A fired task that found no room before (R383). -/
def State.drainCounters (s : State) (core : Nat) : State :=
  let c := s.core core
  let queued (t : Task) : Bool := c.readyQ.any (fun q => q.counter == t.counter) || c.taskSpill.any fun q => q.2.counter == t.counter
  match c.counters.find? fun k => decide (k.2.state = 2) && (match k.2.task with | some t => !queued t | none => false) with
  | some k => match k.2.task with | some t => s.queueTask core t | none => s
  | none => s

/-- BIVOUAC_REFILL (R347, R354, R383): the oldest spilled arrival, and the oldest spilled task, return to their queues. -/
def execBivouacRefill (core : Nat) (s : State) : Host.Outcome State Fault Refusal :=
  event s fun s =>
    let c := s.core core
    let s1 := match c.arrivalSpill with
      | (b, t) :: rest =>
        if c.arrivals.length < 8 && s.running t.launch then
          (s.freeBlock t.tenant b).modCore core fun c => { c with
            arrivals := c.arrivals ++ [{ t with run := .traversing }], arrivalSpill := rest }
        else s
      | [] => s
    let s2 := match c.taskSpill with
      | (b, t) :: rest =>
        if c.readyQ.length < 16 && s1.taskRuns t then
          (s1.freeBlock t.tenant b).modCore core fun c => { c with readyQ := c.readyQ ++ [t], taskSpill := rest }
        else s1
      | [] => s1
    (s2.drainEngine core).drainCounters core

/-- ARRIVAL_RESEND (R383). -/
def execArrivalResend (pkt : Nat) (s : State) : Host.Outcome State Fault Refusal :=
  event s fun s => match s.packet? pkt with
    | some p => match p.payload with
      | .context .. => ((s.registersOf pkt).map (·.ident)).toList.foldl State.sendAgain (s.sendAgain pkt)
      | _ => s
    | none => s

end Sys2Proof.Machine
end

