-- ==== Sys2Proof/Machine/System.lean ====
section
/-! DEFINITION. Sys2Proof/Machine/System.lean: activations (R378, R379), tret, xret and beat (R397 to R400), user interrupts
(R380), pre-emption and debug halt (R389 to R392, R395), sxval and stlbinv as steps (R387, R396), the watchdog (R393,
R394). -/

namespace Sys2Proof.Machine

/-! Return and heartbeat -/

/-- The thread returns to an address by xret, or by act 0 or 3 of an activation's tret: a stopped body resumes there if it is the
resume address and, for a tret, if that activation handles its trap (R167). No later activation does. -/
def Thread.resumeBody (t : Thread) (pc : Word) (act : Bool) : Thread :=
  { t with body := t.body.map fun b =>
      if b.taken && b.resumeAt == some pc && (!act || b.byAct) then { b with stop := none, taken := false, resumeAt := none, byAct := false }
      else { b with byAct := b.byAct && !act } }

/-- xret (R398). -/
def execXret (s : State) : Host.Outcome State Fault Refusal :=
  issue s false [] fun s c =>
    let a := c.t.xepc
    if a.extractLsb' 0 2 ≠ 0 then s.trapc c 0x03 a else
    let s1 := (s.modThread c.slot fun t => { (t.resumeBody a false) with xcause := t.xcause &&& 0x7FFFFFFFFFFFFFFF#64 }).retire c.slot a
    if c.t.shadow.isSome && !c.t.xcause.getLsbD 63 then s1 else s1.rejoinLeader c.slot

/-- beat (R400). -/
def execBeat (s : State) : Host.Outcome State Fault Refusal :=
  issue s false [] fun s c =>
    (match c.t.level with
      | .user => s.modLaunch c.t.launch fun l => if l.record.persist then { l with beatAt := s.cycle } else l
      | _ => s).done c

/-- What a halted thread waited in goes on (R276, R330, R336), where it resumes at that instruction. -/
def State.resumeWait (s : State) (slot : Nat) (there : Bool) : State :=
  match (s.thread? slot).bind (·.pend) with
  | some _ => if there then s.resumePend slot else (s.leaveBarriers slot).modThread slot fun t => { t with pend := none }
  | none => s

/-- A halt asked for while another activation handles the thread stays asked for: only the activation of the halt itself ends it
(R395). -/
def Thread.haltStays (t : Thread) (cause : Nat) : Bool := t.halted && decide (cause ≠ 0x11)

/-- The thread an activation names goes on at an address (R399, acts 0 and 3); cause is the activation's. A halt is no delivery that
took a rope's leader out of the stream (R325, R330). -/
def State.resumeTarget (s : State) (slot cause : Nat) (pc : Word) (one : Bool) : State :=
  match s.thread? slot with
  | none => s
  | some t =>
    let s1 := s.modThread slot fun t => { (t.resumeBody pc true) with
      pc := pc, run := .ready, hold := none, halted := t.haltStays cause, kept := none, stepOne := one, stepped := false }
    (if cause = 0x11 then s1 else s1.rejoinLeader slot).resumeWait slot (pc == s.streamPc slot t)

/-- A halted thread is ready at its sepc (R395); an activation that names it runs on without it, and handles its stopped body's
trap no longer (R167). -/
def State.releaseHalt (s : State) (slot : Nat) : State :=
  match s.thread? slot with
  | none => s
  | some t =>
    if !t.halted then s else
    let c := s.core (coreOf slot)
    let acts := (c.act.toList ++ c.actQueue).filter fun a => a.target == some slot
    let pc := match acts with | a :: _ => a.sepc | [] => t.pc
    let s1 := s.modCore (coreOf slot) fun c => { c with
      act := c.act.map fun a => if a.target = some slot then { a with target := none } else a
      actQueue := c.actQueue.filter fun a => a.target != some slot }
    let s2 := s1.modThread slot fun t => { t with
      body := t.body.map fun b => { b with byAct := false }
      pc := pc, halted := false, stepOne := false, stepped := false, kept := none
      run := if s.launchStopped t.launch then t.run else .ready }
    if s.launchStopped t.launch then s2 else s2.resumeWait slot (pc == s.streamPc slot t)

/-- A rope member that steps once steps its whole rope: its halted members step with it (R330, R399). -/
def State.stepRope (s : State) (slot : Nat) : State :=
  match s.ropeOf slot with
  | some (_, r) => (r.members.filter (· != slot)).foldl (fun s m =>
      match s.thread? m with
      | some t => if t.halted then (s.releaseHalt m).modThread m fun t => { t with stepOne := true } else s
      | none => s) s
  | none => s

/-- The thread can handle the trap of an activation itself (R399, act 1). -/
def Thread.handles (t : Thread) : Bool := t.xtvec != 0 && t.xtvec.extractLsb' 0 2 == 0 && !t.xcause.getLsbD 63

/-- What has to be performed before tret's act: the accesses of a thread that it ends, as exit waits for them (R318, R399). -/
def State.beforeAct (s : State) (x : Activation) (act : Nat) : List Nat :=
  match x.saved, x.target with
  | none, some slot => match s.thread? slot with
    | some t =>
      if act = 2 ∨ act = 1 ∧ !t.handles then
        ((s.core (coreOf slot)).sb.filter (·.slot == slot)).map (·.ident) ++ (s.flights.filter (·.slot == slot)).map (·.ident) ++
          t.ports.flatMap fun hp => hp.2.pushes.map (·.ident)
      else []
    | none => []
  | _, _ => []

/-- The activation ends: its thread leaves the service slot (R379, R399). -/
def State.endActivation (s : State) (core : Nat) : State :=
  (s.endService (core * 64 + 63)).modCore core fun c => { c with act := none }

/-- What tret does with the thread of the activation (R378, R399). -/
def State.tretAct (s : State) (core : Nat) (a : Activation) (act : Nat) : State :=
  let s1 := s.endActivation core
  let cause := a.scause.toNat % 256
  match a.saved with
  | some h =>
    if act = 0 ∨ act = 3 then
      (s1.setThread (core * 64 + 63) { (h.resumeBody a.sepc true) with
        pc := a.sepc, run := .ready, hold := none, kept := none, halted := false, stepOne := act == 3, stepped := false })
    else
      -- it ends as exit ends a thread: its mutexes and credits are given up (R318, R334, R367)
      (((h.waitingDeliveries.foldl (fun s w => s.refuseMessage w 2) s1).abandonMutexes (core * 64 + 63)).returnCredits h).answerCall
        core h.level (refusalWord cause)
  | none =>
    match a.target with
    | none => s1
    | some slot =>
      match s1.thread? slot with
      | none => s1
      | some t =>
        if act = 0 then s1.resumeTarget slot cause a.sepc false
        else if act = 3 then (s1.resumeTarget slot cause a.sepc true).stepRope slot
        else if act = 1 ∧ t.handles then
          (if cause = 0x11 then s1.detach slot else s1).modThread slot fun t => { t with
            body := t.body.map fun b => { b with byAct := false }
            xcause := BitVec.ofNat 64 (2 ^ 63 + cause), xepc := a.sepc, xtval := a.stval, pc := t.xtvec
            run := .ready, hold := none, halted := t.haltStays cause, kept := none }
        else (s1.modThread slot fun t => { t with body := none }).endThread slot

/-- tret (R399): a release; a thread it ends has its accesses performed first (R318). -/
def execTret (rs1 : BitVec 5) (s : State) : Host.Outcome State Fault Refusal :=
  let a := s.latch.rs1 rs1
  let serves : Bool := match s.thread? s.cur with
    | some t => t.level == .supervisor && (s.core (coreOf s.cur)).act.isSome
    | none => false
  if serves then
    issue s false [rs a] fun s c =>
      match (s.core c.core).act with
      | none => s
      | some x =>
        s.release c fun s =>
          let act := ((c.x a).extractLsb' 0 2).toNat
          let ids := s.beforeAct x act
          if !ids.isEmpty then s.park c.slot (.drained ids) else
          { s.tretAct c.core x act with latch := {} }
  else issue s false [rname a] fun s c => s.trapc c 0x01 c.w

/-! Activations -/

/-- A queued activation cannot start: its thread is under pre-emption, which keeps its trap (R390, R392), or it is a handler some of
whose pushes are not performed yet. -/
def State.actHeld (s : State) (a : Activation) : Bool :=
  match a.target.bind s.thread? with
  | some t => (t.level == .user && s.launchStopped t.launch) || (t.level != .user && t.ports.any fun hp => !hp.2.pushes.isEmpty)
  | none => false

/-- ACTIVATION_START (R378, R379): the first queued activation that can starts on the idle service slot; one that names a trapped
handler saves it, what its ports have asked for withdrawn and what they have sent performed (R390), and starts at once. -/
def execActivationStart (core : Nat) (s : State) : Host.Outcome State Fault Refusal :=
  event s fun s =>
    let c := s.core core
    let sv := core * 64 + 63
    match c.actQueue.find? fun a => !s.actHeld a with
    | none => s
    | some a =>
      let s := s.dropAsks sv
      let mine := a.target == some sv
      let held : Bool := match s.thread? sv with | some t => !(mine && t.run == .parked .activation) | none => mine
      if held || c.act.isSome || (s.tenant a.tenant).frozen then s else
      -- the deliveries that wait for a saved handler are saved with it (R341)
      let forIt (w : Waiting) : Bool := mine && match w.msg.names with | some n => n.1 == sv | none => false
      let a1 := { a with saved := if mine then (s.thread? sv).map (fun h => { h with
        waitingDeliveries := c.msgs.filter forIt ++ h.waitingDeliveries }) else none }
      let t : Thread := {
        pc := (s.tenant a.tenant).sentry, base := 2016, limit := 32, launch := 2 ^ 32, tenant := a.tenant, ordinal := 64
        level := .supervisor }
      let slot := a.target.getD 0
      let t1 := [(10, slotidOf slot), (11, a.scause), (12, a.stval), (13, a.sepc)].foldl (fun t r => t.setX r.1 r.2) t
      ((s.modThread slot fun t => { t with kept := none }).modCore core fun c => { c with
        actQueue := c.actQueue.erase a, act := some a1, msgs := c.msgs.filter fun w => !forIt w }).setThread
        sv t1

/-- SXVAL_READ (R396): a read of sxval by the activation of a core, as its step at the thread. -/
def execSxvalRead (core : Nat) (s : State) : Host.Outcome State Fault Refusal :=
  event s fun s =>
    match s.sxParity core with
    | some n => (s.check 2 (s.sxSlot core)).trap (core * 64 + 63) 0x0E (BitVec.ofNat 64 n)
    | none =>
    let r := s.sxRead core
    s.modCore core fun c => { c with act := c.act.map fun x => { x with sxsel := r.2 } }

/-- SXVAL_WRITE (R396). -/
def execSxvalWrite (core : Nat) (v : Word) (s : State) : Host.Outcome State Fault Refusal := event s fun s => s.sxWrite core v

/-- STLBINV (R387). -/
def execStlbinv (t : Nat) (v : Word) (s : State) : Host.Outcome State Fault Refusal := event s fun s => s.stlbDrop t v

/-! User interrupts -/

/-- USER_INTERRUPT_DELIVERY (R380). A trap due at the same boundary goes first: that of a stopped pitch body, the halt after a single
step, or that of a misaligned pc. -/
def execUserInterruptDelivery (slot : Nat) (s : State) : Host.Outcome State Fault Refusal :=
  event s fun s =>
    match s.thread? slot with
    | none => s
    | some t =>
      match t.uints with
      | [] => s
      | u :: rest =>
        let stop : Bool := match t.body with | some b => b.stop.isSome && !b.taken | none => false
        if t.shadow.isSome || t.ivec == 0 || t.ivec.extractLsb' 0 2 != 0 || t.run == .parked .activation ||
           t.run == .parked .resume || t.halted || t.frozen || s.launchStopped t.launch || t.inFlight || s.replyComing slot || stop ||
           t.stepped || (s.streamPc slot t).extractLsb' 0 2 != 0 then s else
        let at' := s.streamPc slot t
        let s1 := ((s.detach slot).abandon slot).modThread slot fun x =>
          { x with shadow := some ⟨(List.range 4).map fun i => t.reg (4 + i), at'⟩, uints := rest, pc := t.ivec }
        s1.modThread slot fun x => (((x.setX 4 at').setX 5 u.ident).setX 6 u.status).setX 7 u.info

/-! Pre-emption -/

/-- An activation that names the slot runs on its core. -/
def State.activationRuns (s : State) (slot : Nat) : Bool :=
  match (s.core (coreOf slot)).act with
  | some a => a.target == some slot
  | none => false

/-- A thread stops (R390, step 1): its held request is withdrawn, its instruction abandoned; a wait.a (R276), a barrier
arrival (R336) and a clip wait (R330) end at the resume; a queued activation is lost, its trap kept. -/
def State.stopThread (s : State) (slot : Nat) : State :=
  match s.thread? slot with
  | none => s
  | some t =>
    if t.inFlight || s.replyComing slot || s.activationRuns slot then s else
    let kept := t.pend.filter fun p => (p.barrier && (s.barrierOf slot || !p.got.isEmpty)) || p.mode == 5 || p.mode == 11
    let s1 := (s.withdraw slot).modCore (coreOf slot) fun c => { c with actQueue := c.actQueue.filter fun a => a.target != some slot }
    -- a rope's member issues an abandoned instruction again, in the same step (R322, R330)
    let s2 := match s1.ropeOf slot with
      | some (id, _) => if t.pend.isSome && kept.isNone then s1.modRope id fun r => { r with done := r.done.filter (· != slot) } else s1
      | none => s1
    s2.modThread slot fun t => { t with run := .parked .resume, hold := none, pend := kept }

/-- The threads of a launch in slots. -/
def State.threadsOf (s : State) (lid : Nat) : List (Nat × Thread) :=
  s.threads.filter fun p => p.2.launch == lid && p.2.level == .user

/-- The octets of a launch's compute cores. -/
def Launch.octets (l : Launch) : List Nat := if l.record.opt then [] else (l.cores.map octetOf).foldl nsIns []

/-- The sequence has stopped the thread, and its accesses are performed (R390, steps 3 and 4); a context that leaves its core waits for
the siblings' stores that it has read too, which its later reads may not precede (R289). -/
def State.quiet (s : State) (slot : Nat) (t : Thread) (leaves : Bool) : Bool :=
  !t.inFlight && !s.replyComing slot && !s.activationRuns slot && !(s.core (coreOf slot)).sb.any (·.slot == slot) &&
  !s.flights.any (fun f => f.slot == slot && f.job.isNone) && !t.ports.any (fun hp => !hp.2.pushes.isEmpty) &&
  (!leaves || t.calls.isEmpty && !(s.core (coreOf slot)).sb.any fun e => t.seen.contains e.ident)

/-- Steps 3 and 4 of R390 are over for a launch, and every context in flight has landed. -/
def State.sequenceOver (s : State) (l : Launch) (leaves : Bool) : Bool :=
  l.awaits.all s.jobFinal && (s.threadsOf l.ident).all (fun p => s.quiet p.1 p.2 leaves) &&
  !s.packets.any (fun p => match p.payload with | .context t _ => t.launch == l.ident | _ => false) &&
  !s.dies.any fun d => d.2.spillEngine.any fun x => x.2.launch == l.ident

/-- The request at the head of a die's launch unit, if it is of the given act (R389). -/
def State.spreHead (s : State) (die : Nat) (p : Nat → Bool) : Option (Word × Nat × Nat × Nat) :=
  (s.die die).spreInbox.head?.filter fun r => p (r.1.extractLsb' 32 3).toNat

/-- The launch a request names, of its tenant (R389, code 1). -/
def State.spreLaunch (s : State) (r : Word × Nat × Nat × Nat) : Option Launch :=
  (amGet s.launches (r.1.extractLsb' 0 32).toNat).filter fun l => l.record.tenant == r.2.2.2

def State.spreTake (s : State) (die : Nat) : State := s.modDie die fun d => { d with spreInbox := d.spreInbox.tail }

/-- n runs of blocks of the given size (R383). -/
def State.takeMany (s : State) (tn bytes : Nat) : Nat → Option (List Nat × State)
  | 0 => some ([], s)
  | n + 1 =>
    match s.takeBlocks tn bytes with
    | none => none
    | some (b, s1) => (s1.takeMany tn bytes n).map fun r => (b :: r.1, r.2)

/-- Room in the bivouac for the whole launch, reserved when the request is made (R383, R390). -/
def State.reserve (s : State) (l : Launch) (act : Nat) : Option State :=
  if act = 0 then some s else
  let tn := l.record.tenant
  let n := (s.threadsOf l.ident).length +
    (s.cores.map fun c => (c.2.arrivals.filter (·.launch == l.ident)).length).foldl (· + ·) 0 +
    (s.dies.map fun d => (d.2.spillEngine.filter (·.2.launch == l.ident)).length).foldl (· + ·) 0 +
    (s.packets.filter fun p => match p.payload with | .context t _ => t.launch == l.ident | _ => false).length
  match s.takeMany tn (1536 + 8 * l.record.window) n with
  | none => none
  | some (room, s1) =>
    match s1.takeMany tn 0x4000 l.cores.length with
    | none => none
    | some (coreRoom, s2) =>
      match s2.takeMany tn 0x48000 (if act = 2 then l.cores.length else 0) with
      | none => none
      | some (storeRoom, s3) => some (s3.modLaunch l.ident fun l => { l with room, coreRoom, storeRoom })

/-- Steps 1 and 2 of acts 0 to 2 (R390): the launch stops, and its matrix state is discarded (R242). -/
def State.startSequence (s : State) (l : Launch) (act core no : Nat) : State :=
  let jobs := l.octets.flatMap fun o => ((s.octet o).haul ++ (s.octet o).matrix).map (·.ref)
  let s1 := s.modLaunch l.ident fun l => { l with seqn := some (act, core, no), awaits := jobs }
  let s2 := (s1.threadsOf l.ident).foldl (fun s p => s.stopThread p.1) s1
  s2.discardMatrix l.ident

/-- The threads of a placed launch that have not started start, so that the sequence meets them all (R390). -/
def State.startAll (s : State) (l : Launch) : State := l.starting.foldl (fun s x => s.startSlot (x.1 * 64 + x.2.1)) s

/-- A launch of acts 0 to 2 is asked for: refused with its code, or started (R389). -/
def State.spreBegin (s : State) (die act : Nat) : State :=
  match s.spreHead die (· == act) with
  | none => s
  | some r =>
    let s1 := s.spreTake die
    match s1.spreLaunch r with
    | none => s1.spreDone r.2.1 r.2.2.1 1
    | some l =>
      if l.state ≠ 2 ∨ l.seqn.isSome then s1.spreDone r.2.1 r.2.2.1 3 else
      let s2 := s1.startAll l
      match s2.reserve l act with
      | none => s2.spreDone r.2.1 r.2.2.1 2
      | some s3 => s3.startSequence l act r.2.1 r.2.2.1

/-- Every thread of the launch is parked, in its slot (R390, step 5). -/
def State.parkAll (s : State) (lid : Nat) : State := (s.threadsOf lid).foldl (fun s p => s.stopThread p.1) s

/-- The next reserved block for a context. -/
def State.popRoom (s : State) (lid : Nat) : Nat × State :=
  match amGet s.launches lid with
  | some l => (l.room.headD 0, s.modLaunch lid fun l => { l with room := l.room.tail })
  | none => (0, s)

/-- A thread's context goes to the bivouac and its slot is free (R341, R390). -/
def State.spillThread (s : State) (l : Launch) (slot : Nat) : State :=
  match s.thread? slot with
  | none => s
  | some t =>
    let core := coreOf slot
    let (b, s1) := s.popRoom l.ident
    let mine (w : Waiting) : Bool := match w.msg.names with | some n => n.1 == slot | none => false
    -- a result on its way is kept with the context, for it lands after the thread resumes (R362)
    let result (p : Packet) : Option Waiting := match p.payload with
      | .message (.result x r v) tn sender word => if x = slot then some ⟨sender, tn, .result x r v, word⟩ else none
      | _ => none
    let t1 := { t with
      run := .spilled
      waitingDeliveries := (s1.core core).msgs.filter mine ++ t.waitingDeliveries ++ s1.packets.filterMap result }
    let s1 : State := { s1 with packets := s1.packets.filter fun p => (result p).isNone }
    let s2 := (s1.modCore core fun c => { c with msgs := c.msgs.filter fun w => !mine w }).renameSlot slot
      (spilledName l.record.tenant b)
    let x : SavedContext := ⟨b, l.cores.idxOf core, slot, t1, false⟩
    ((s2.freeSlot slot).modLaunch l.ident fun l => { l with contexts := l.contexts ++ [x] }).imageWords l.record.tenant b
      (contextBytes t)

/-- The arrivals a core holds for the launch, queued or spilled, go with its contexts (R390). -/
def State.spillArrivals (s : State) (l : Launch) (core : Nat) : State :=
  let c := s.core core
  let i := l.cores.idxOf core
  let mine (t : Thread) : Bool := t.launch == l.ident
  let s1 := s.modCore core fun c => { c with
    arrivals := c.arrivals.filter fun t => !mine t, arrivalSpill := c.arrivalSpill.filter fun x => !mine x.2 }
  let s2 := (c.arrivals.filter mine).foldl (fun s t =>
    let (b, s1) := s.popRoom l.ident
    (s1.modLaunch l.ident fun l => { l with contexts := l.contexts ++ [⟨b, i, core * 64, { t with run := .spilled }, true⟩] }).imageWords
      l.record.tenant b (contextBytes t)) s1
  s2.modLaunch l.ident fun l => { l with
    contexts := l.contexts ++ (c.arrivalSpill.filter fun x => mine x.2).map fun x => ⟨x.1, i, core * 64, x.2, true⟩ }

/-- A FIFO of the core that the launch's ports or ropes use, as reader or as writer (R155, R321). -/
def State.fifoOf (s : State) (l : Launch) (core dir : Nat) : Bool :=
  let port (core : Nat) (f : Port → Bool) : Bool := s.threads.any fun p =>
    coreOf p.1 == core && p.2.launch == l.ident && p.2.ports.any fun hp => f hp.2
  let rope (core : Nat) (out : Bool) (dir : Nat) : Bool := (s.core core).ropeClaims.any fun c =>
    c.1 == out && c.2.1 == dir && match amGet s.ropes c.2.2 with | some r => r.launch == l.ident | none => false
  port core (fun p => p.kind == 2 && p.dir == dir) || rope core false dir ||
  match neighbour core dir with
  | some n => port n (fun p => (p.kind == 4 && p.dir == opposite dir) || (p.kind == 2 && p.fwd && p.dir == dir)) ||
      rope n true (opposite dir)
  | none => false

/-- What of a core's state act 1 saves; act 2 also its local store (R390, step 6). -/
def State.spillCore (s : State) (l : Launch) (core : Nat) (store : Bool) (dirs : List Nat) : State :=
  let c := s.core core
  let base := storeBase core
  let inside (a : Nat) : Bool := decide (base ≤ a) && decide (a < base + storeSize core)
  let mine (t : Task) : Bool := t.launch == l.ident
  let ofLaunch (k : Counter) : Bool := match k.task with | some t => mine t | none => false
  let decs (w : Waiting) : Bool := match w.msg with | .dec _ i _ => ofLaunch (c.counter i) | _ => false
  match (amGet s.launches l.ident).map fun l => (l.coreRoom.headD 0, l.storeRoom.headD 0) with
  | none => s
  | some (b, b2) =>
    let x : SavedCore := {
      block := b, place := l.cores.idxOf core, tables := c.tables
      counters := c.counters.filter fun k => ofLaunch k.2
      readyQ := c.readyQ.filter mine, taskSpill := c.taskSpill.filter fun t => mine t.2
      fifos := c.fifos.filter fun f => dirs.contains f.1
      cells := if store then (s.mem.cells.filter fun a => inside a.1).map fun a => (a.1 - base, a.2) else []
      empties := if store then (s.mem.empties.filter fun k => inside (8 * k)).map (· - base / 8) else []
      poisons := if store then (s.mem.poisons.filter fun k => inside (8 * k)).map (· - base / 8) else []
      upsets := if store then (s.mem.upsets.filter fun k => inside (8 * k)).map (· - base / 8) else []
      withStore := store, storeBlock := b2, msgs := c.msgs.filter decs }
    let s1 := (s.modCore core fun c => { c with
      counters := c.counters.filter fun k => !ofLaunch k.2
      readyQ := c.readyQ.filter fun t => !mine t, taskSpill := c.taskSpill.filter fun t => !mine t.2
      fifos := c.fifos.filter fun f => !dirs.contains f.1
      ropeClaims := c.ropeClaims.filter fun r => match amGet s.ropes r.2.2 with | some x => x.launch != l.ident | none => true
      msgs := c.msgs.filter fun w => !decs w }).modLaunch l.ident fun l => { l with
        saved := l.saved ++ [x], coreRoom := l.coreRoom.tail, storeRoom := l.storeRoom.tail }
    let s2 := s1.imageWords l.record.tenant b 0x4000
    if store then s2.imageWords l.record.tenant b2 0x48000 else s2

/-- Steps 6 and 7 of acts 1 and 2 (R390). -/
def State.spillLaunch (s : State) (l : Launch) (act : Nat) : State :=
  let dirs := l.cores.map fun c => (c, (List.range 4).filter (s.fifoOf l c))
  let s1 := (s.threadsOf l.ident).foldl (fun s p => s.spillThread l p.1) s
  let s2 := l.cores.foldl (fun s c => s.spillArrivals l c) s1
  let s3 := dirs.foldl (fun s c => s.spillCore l c.1 (act == 2) c.2) s2
  let s4 := match amGet s3.launches l.ident with
    | some x => x.room.foldl (fun (s : State) b => s.freeBlock l.record.tenant b) s3
    | none => s3
  s4.modLaunch l.ident fun l => { l with
    -- act 2 releases the cores (step 7)
    state := if act = 1 then 4 else 5, cores := if act = 1 then l.cores else [], room := [], heldFor := l.heldFor + (s.cycle - l.placedAt) }

/-- The watchdog fires for a launch (R393, R394): its tenant is frozen, its queue gets the completion, and a record is posted. -/
def State.fireWatchdog (s : State) (lid : Nat) : State :=
  match amGet s.launches lid with
  | none => s
  | some l =>
    let tn := l.record.tenant
    if (s.tenant tn).frozen then s else
    let s1 := s.freeze tn
    let s2 := match l.record.queue with
      | some (q, i) => (s1.hostEntry q 3 0 i lid 1).modLaunch lid fun l => { l with record := { l.record with queue := none } }
      | none => s1
    s2.post tn 0 0 0x0F 8 0 (BitVec.ofNat 64 lid)

/-- Ends the sequences of an act on a die that have nothing more to wait for (R390, steps 3 to 7); a watchdog that fired meanwhile takes
effect (R392). -/
def State.spreFinish (s : State) (die act : Nat) : State :=
  ((s.die die).launches.filterMap fun i => amGet s.launches i).foldl (fun s l =>
    match l.seqn with
    | some (a, core, no) =>
      if a ≠ act ∨ l.state ≠ 2 ∨ !s.sequenceOver l (act != 0) then s else
      let s1 := s.parkAll l.ident
      let s2 := if act = 0 then s1.modLaunch l.ident fun l => { l with state := 3 } else s1.spillLaunch l act
      let s3 := (s2.modLaunch l.ident fun l => { l with seqn := none, awaits := [], fired := false }).spreDone core no 0
      if l.fired then s3.fireWatchdog l.ident else s3
    | none => s) s

/-- SPRE_PARK (R389, R390): act 0; acts 6 and 7 are refused with code 5. -/
def execSprePark (die : Nat) (s : State) : Host.Outcome State Fault Refusal :=
  event s fun s =>
    match s.spreHead die (6 ≤ ·) with
    | some r => (s.spreTake die).spreDone r.2.1 r.2.2.1 5
    | none => (s.spreBegin die 0).spreFinish die 0

/-- SPRE_SPILL (R390): act 1. -/
def execSpreSpill (die : Nat) (s : State) : Host.Outcome State Fault Refusal :=
  event s fun s => (s.spreBegin die 1).spreFinish die 1

/-- SPRE_SPILL_STORES (R390): act 2. -/
def execSpreSpillStores (die : Nat) (s : State) : Host.Outcome State Fault Refusal :=
  event s fun s => (s.spreBegin die 2).spreFinish die 2

/-- On new cores, some rope of a spilled launch would cross a cluster edge (R330). -/
def State.ropesSplit (s : State) (l : Launch) (cores : List Nat) : Bool :=
  (s.ropes.filter (·.2.launch == l.ident)).any fun r =>
    let places := (r.2.members.filter fun m => !r.2.left.contains m).filterMap fun m =>
      (l.contexts.find? fun x => spilledName l.record.tenant x.block == m).map fun x => clusterOf (cores.getD x.place 0)
    places.any fun c => some c != places.head?

/-- The contexts of a launch that wait in arrival queues, or are spilled there, go on at their labels (R243). -/
def State.relabelArrivals (s : State) (lid : Nat) : State :=
  let f (t : Thread) : Thread := if t.launch = lid ∧ t.level = .user then t.relabel else t
  { s with cores := s.cores.map fun c => (c.1, { c.2 with
      arrivals := c.2.arrivals.map f, arrivalSpill := c.2.arrivalSpill.map fun x => (x.1, f x.2) }) }

/-- SPRE_RESUME (R391): act 3. -/
def execSpreResume (die : Nat) (s : State) : Host.Outcome State Fault Refusal :=
  event s fun s =>
    match s.spreHead die (· == 3) with
    | none => s
    | some r =>
      let s1 := s.spreTake die
      match s1.spreLaunch r with
      | none => s1.spreDone r.2.1 r.2.2.1 1
      | some l =>
        if l.seqn.isSome then s1.spreDone r.2.1 r.2.2.1 3
        else if l.state = 3 then
          let s2 := l.cores.foldl (fun s c => s.modCore c fun k => { k with fetch := [] }) s1
          let s3 := (s2.modLaunch l.ident fun l => { l with state := 2, beatAt := s.cycle }).relabelArrivals l.ident
          ((s3.threadsOf l.ident).foldl (fun s p => s.resumeThread p.1) s3).spreDone r.2.1 r.2.2.1 0
        else if l.state = 4 ∨ l.state = 5 then
          let rect := (r.1.extractLsb' 35 29).setWidth 64
          let moved := decide (l.state = 5) && rect != 0
          let new := if moved then rect else l.rectNow
          let x := rectOf new
          let y := rectOf l.rectNow
          if moved && (rectOutside new l.record.opt || x.w != y.w || x.h != y.h ||
              (coresOf new l.record.opt).any (fun c => !s1.assigned c l.record.tenant) ||
              s1.ropesSplit l (coresOf new l.record.opt)) then s1.spreDone r.2.1 r.2.2.1 4
          else (s1.modLaunch l.ident fun l => { l with
              state := 6, rectNow := new, cores := coresOf new l.record.opt, seqn := some (3, r.2.1, r.2.2.1) })
        else s1.spreDone r.2.1 r.2.2.1 3

/-! Debug halt -/

/-- A thread is to halt: it issues nothing more (R395). A stopped body's trap whose activation has not started is taken again
afterwards (R167). -/
def State.haltThread (s : State) (slot : Nat) : State :=
  let again : Bool := match s.thread? slot with
    | some t => t.run == .parked .activation && t.body.any (·.byAct) && !s.activationRuns slot
    | none => false
  (s.stopThread slot).modThread slot fun t => { t with
    halted := true
    body := if again then t.body.map fun b => { b with taken := false, resumeAt := none, byAct := false } else t.body }

/-- Halts that have nothing more to wait for: each thread is routed with cause 0x11 (R395). -/
def State.routeHalts (s : State) (die : Nat) : State :=
  (s.threads.filter fun p => dieOf (coreOf p.1) == die && p.2.halted && !(p.2.run == .parked .activation) &&
      !s.launchStopped p.2.launch).foldl (fun s p =>
    match s.thread? p.1 with
    | some t =>
      if !s.quiet p.1 t false then s else
      -- a trap that it had kept is raised again by its instruction
      s.supervisorTrap p.1 0x11 0 (match t.kept with | some (_, _, pc) => pc | none => s.streamPc p.1 t)
    | none => s) s

/-- A launch's threads are to halt, spilled ones when they resume (R392, R395). -/
def State.haltLaunch (s : State) (lid : Nat) : State :=
  let s1 := s.modLaunch lid fun l => { l with
    halted := true, contexts := l.contexts.map fun x => { x with thread := { x.thread with halted := true } } }
  (s1.threadsOf lid).foldl (fun s p => s.haltThread p.1) s1

/-- SPRE_HALT (R395): act 4; and the halts under way on the die. -/
def execSpreHalt (die : Nat) (s : State) : Host.Outcome State Fault Refusal :=
  event s fun s =>
    match s.spreHead die (· == 4) with
    | none => s.routeHalts die
    | some r =>
      let s1 := s.spreTake die
      match s1.spreLaunch r with
      | none => s1.spreDone r.2.1 r.2.2.1 1
      | some l =>
        if l.state < 2 then s1.spreDone r.2.1 r.2.2.1 3 else
        ((s1.haltLaunch l.ident).routeHalts die).spreDone r.2.1 r.2.2.1 0

/-- A launch's halted threads go on (R395). -/
def State.releaseLaunch (s : State) (lid : Nat) : State :=
  let s1 := s.modLaunch lid fun l => { l with
    halted := false
    contexts := l.contexts.map fun x => { x with thread := { x.thread with
      halted := false, kept := x.thread.kept.filter fun k => k.1 != 0x11 } } }
  (s1.threadsOf lid).foldl (fun s p => s.releaseHalt p.1) s1

/-- SPRE_RELEASE_HALT (R395): act 5. -/
def execSpreReleaseHalt (die : Nat) (s : State) : Host.Outcome State Fault Refusal :=
  event s fun s =>
    match s.spreHead die (· == 5) with
    | none => s
    | some r =>
      let s1 := s.spreTake die
      match s1.spreLaunch r with
      | none => s1.spreDone r.2.1 r.2.2.1 1
      | some l =>
        if !l.halted && !(s1.threadsOf l.ident).any (·.2.halted) then s1.spreDone r.2.1 r.2.2.1 3
        else (s1.releaseLaunch l.ident).spreDone r.2.1 r.2.2.1 0

/-! The watchdog -/

/-- The launch's time has run out (R393): it has held slots for more than its deadline, or gone its beat window without a beat. -/
def State.timedOut (s : State) (l : Launch) : Bool :=
  let w := (s.tenant l.record.tenant).swdog
  let limit := if l.record.persist then (w.extractLsb' 0 32).toNat
    else if l.record.deadline = 0 then (w.extractLsb' 32 32).toNat else l.record.deadline
  let spent := if l.record.persist then s.cycle - l.beatAt else l.heldFor + (s.cycle - l.placedAt)
  decide (limit ≠ 0) && if l.record.persist then decide (1024 * limit ≤ spent) else decide (1024 * limit < spent)

/-- WATCHDOG_FIRE (R393, R394): a firing during a sequence takes effect when it has ended (R392). -/
def execWatchdogFire (lid : Nat) (s : State) : Host.Outcome State Fault Refusal :=
  event s fun s =>
    match amGet s.launches lid with
    | none => s
    | some l =>
      if !(l.state == 2 || l.state == 3) || (s.tenant l.record.tenant).frozen || !s.timedOut l then s
      else if l.seqn.isSome then s.modLaunch lid fun l => { l with fired := true }
      else s.fireWatchdog lid

end Sys2Proof.Machine
end

