-- ==== Sys2Proof/Machine/Tenants.lean ====
section
/-! DEFINITION. Sys2Proof/Machine/Tenants.lean: the commands of the host's mailbox (R407, R445): tenants, their cores, access
tables, routes, queues, HDM ranges, resets, halts, the bivouac. -/

namespace Sys2Proof.Machine

/-- A mailbox command (R407): refused with 0xFF while the firmware does not run (R413). Commands run one at a time, in the order they
are started: it waits behind those started before it, and for the end of a tenant reset (R408). Then it is refused with the first code
that applies (R445), or done with status 2 once what it waits for (ready) has come to its end. -/
def mailbox (s : State) (i : Command) (code : State → Option Nat) (go : State → State) (ready : State → Bool := fun _ => true) :
    Host.Outcome State Fault Refusal :=
  event s fun s =>
    if !s.firmware then { s with mailboxStatus := 3, mailboxCode := 0xFF }
    else if s.resetting.isSome || !s.commands.isEmpty then { s with commands := s.commands ++ [i] }
    else match code s with
      | some k => { s with mailboxStatus := 3, mailboxCode := k }
      | none =>
        if ready s then { go s with mailboxStatus := 2, mailboxCode := 0 }
        else { s with commands := [i], mailboxStatus := 1, mailboxCode := 0 }

/-- The tenant exists (R407). -/
def State.exists? (s : State) (t : Nat) : Bool := (amGet s.tenants t).isSome

/-- The first code of R445 whose condition holds. -/
def firstCode (l : List (Bool × Nat)) : Option Nat := (l.find? (·.1)).map (·.2)

/-- CREATE_TENANT (R407, R381). -/
def execCreateTenant (t : Nat) (sroot sentry swdog : Word) (s : State) : Host.Outcome State Fault Refusal :=
  mailbox s (.createTenant t sroot sentry swdog) (fun s => firstCode [(decide (15 < t), 2), (s.exists? t, 4)]) fun s => s.setTenant t { sroot, sentry, swdog }

/-! Cores that pass to another tenant -/

/-- The core whose local store holds an address (R94, R113). -/
def storeOwner (a : Nat) : Option Nat :=
  if a < Config.packageBase then none
  else if a < Config.optimiserBase then some ((a - Config.packageBase) / Config.storeBytes)
  else some (Config.computeCores + (a - Config.optimiserBase) / Config.optStoreBytes)

/-- A synchronising request of another core's thread held at a word of a cleared store stays held: the manual does not say what becomes
of it, and the clearing performs no access of the word that would scan it (DESIGN CHOICE, notes/assumptions/61.md).

The cores that a test selects are cleared (R114, R215, R256, R344, R408): local store, code tables, record cache, counters and
tasks, link FIFOs, what waits for their threads. passes: they pass to another tenant, and their pointers are as after reset
(notes/assumptions/61.md). -/
def State.clearCores (s : State) (p : Nat → Bool) (passes : Bool) : State :=
  let gone (a : Nat) : Bool := match storeOwner a with | some c => p c | none => false
  let m : Memory := {
    cells := s.mem.cells.filter fun c => !gone c.1
    empties := s.mem.empties.filter fun k => !gone (8 * k)
    poisons := s.mem.poisons.filter fun k => !gone (8 * k)
    upsets := s.mem.upsets.filter fun k => !gone (8 * k) }
  let clear (c : Core) : Core :=
    let c1 := { c with tables := [], fifos := [], fetch := [], recs := [], counters := [], readyQ := [], taskSpill := [], ropeClaims := [], msgs := [] }
    if passes then { c1 with ordPtr := 63, fairPtr := 63, ropePtr := 63, prefetchPtr := 1023, seqPtr := 3 } else c1
  let s1 : State := { s with mem := m, cores := s.cores.map fun c => if p c.1 then (c.1, clear c.2) else c }
  (s1.octets.map (·.1)).foldl (fun s o =>
    ((List.range 8).map (o * 8 + ·)).foldl (fun s c => if p c then s.passMatrix c else s) s) s1

/-- The belay units of clusters that pass to another tenant (R331). -/
def State.clearBelay (s : State) (cl : BitVec 128) : State :=
  { s with clusters := s.clusters.map fun c =>
      if cl.getLsbD c.1 then (c.1, { c.2 with barriers := [], mutexes := [], events := [] }) else c }

/-- The masks select the core. -/
def coreIn (cl : BitVec 128) (sl : BitVec 512) (core : Nat) : Bool :=
  if isOpt core then sl.getLsbD (core - Config.computeCores) else cl.getLsbD (clusterOf core)

/-- The tenant has a thread, a launch, a job or a gradient-queue consumer on the cores of the masks (R445, code 0x06). -/
def State.busyOn (s : State) (t : Nat) (cl : BitVec 128) (sl : BitVec 512) : Bool :=
  let hit (core : Nat) : Bool := coreIn cl sl core
  s.threads.any (fun p => p.2.tenant == t && hit (coreOf p.1)) ||
  s.cores.any (fun c => hit c.1 && (c.2.arrivals ++ c.2.arrivalSpill.map (·.2)).any (·.tenant == t)) ||
  s.dies.any (fun d => d.2.spillEngine.any fun x => x.2.tenant == t && hit x.1) ||
  s.packets.any (fun p => match p.payload with | .context x core => x.tenant == t && hit core | _ => false) ||
  s.launches.any (fun l => l.2.record.tenant == t && l.2.cores.any hit) ||
  s.octets.any (fun o => hit (o.1 * 8) && (o.2.haul ++ o.2.matrix).any (·.tenant == t)) ||
  (s.tenant t).queues.any fun q => gqValid q.2.word && hit (gqCore q.2.word)

/-- Cores may pass to another tenant: every job of their octets is final (R144), and every store they hold is performed. -/
def State.idleOn (s : State) (p : Nat → Bool) : Bool :=
  !s.octets.any (fun o => p (o.1 * 8) && !(o.2.haul ++ o.2.matrix).isEmpty) &&
  !s.cores.any (fun c => p c.1 && !c.2.sb.isEmpty) && !s.flights.any fun f => p (coreOf f.slot)

/-- ASSIGN (R407): the tenant gets exactly the clusters and slices of the masks; cores that pass are cleared. -/
def execAssign (t : Nat) (clusters : BitVec 128) (slices : BitVec 512) (s : State) : Host.Outcome State Fault Refusal :=
  let gone (s : State) : BitVec 128 × BitVec 512 := ((s.tenant t).clusters &&& ~~~clusters, (s.tenant t).slices &&& ~~~slices)
  mailbox s (.assign t clusters slices) (ready := fun s => s.idleOn (coreIn ((s.tenant t).clusters ^^^ clusters) ((s.tenant t).slices ^^^ slices))) (fun s => firstCode [
      (decide (15 < t), 2), (!s.exists? t, 3),
      (s.tenants.any fun x => x.1 != t && (x.2.clusters &&& clusters != 0 || x.2.slices &&& slices != 0), 5),
      (s.busyOn t (gone s).1 (gone s).2, 6)]) fun s =>
    let old := s.tenant t
    let cl := old.clusters ^^^ clusters
    let sl := old.slices ^^^ slices
    ((s.modTenant t fun x => { x with clusters, slices }).clearCores (coreIn cl sl) true).clearBelay cl

/-! Access tables, routes, queues, ranges, limits -/

/-- The targets of a set word (R446): slices 0 to 511, 512 the col die, 513 the host port, 514 + p the UALink port p. -/
def targetsOf (set : Word) : List Nat :=
  (if set.getLsbD 0 then List.range 512 else []) ++ (if set.getLsbD 1 then [512] else []) ++
  (if set.getLsbD 2 then [513] else []) ++ (if set.getLsbD 3 then (List.range 24).map (514 + ·) else []) ++
  (if set.getLsbD 4 then [(set.extractLsb' 16 9).toNat] else []) ++
  (if set.getLsbD 5 then [514 + (set.extractLsb' 32 5).toNat] else [])

/-- WRITE_ACCESS_TABLE_WORD (R410, R446): the words of kind 7 cannot be written (R409). -/
def execWriteAccessTableWord (set : Word) (master : BitVec 7) (v : BitVec 32) (s : State) : Host.Outcome State Fault Refusal :=
  mailbox s (.writeAccessWord set master v) (fun s => firstCode [
      ((targetsOf set).isEmpty || set.getLsbD 5 && decide (24 ≤ (set.extractLsb' 32 5).toNat), 2),
      (!s.exists? (master.toNat / 8), 3)]) fun s =>
    if master.toNat % 8 = 7 then s else
    { s with access := (targetsOf set).foldl (fun m x => amPut m (master.toNat * 1024 + x) v) s.access }

/-- WRITE_ROUTE_ENTRY (R411). -/
def execWriteRouteEntry (t cls : Nat) (v : Word) (s : State) : Host.Outcome State Fault Refusal :=
  mailbox s (.writeRoute t cls v) (fun s => firstCode [(decide (15 < t) || decide (15 < cls), 2), (!s.exists? t, 3)]) fun s =>
    s.modTenant t fun x => { x with routes := amPut x.routes cls v }

/-- BIND_QUEUE (R407, R404). -/
def execBindQueue (q t : Nat) (s : State) : Host.Outcome State Fault Refusal :=
  mailbox s (.bindQueue q t) (fun s => firstCode [(decide (4095 < q) || decide (15 < t), 2), (!s.exists? t, 3), ((s.queue q).en, 0x0A)]) fun s =>
    s.setQueue q { s.queue q with tenant := t }

/-- 1 GiB, the unit of HDM ranges (R402). -/
def hdmUnit : Nat := 2 ^ 30

/-- Two ranges share an address. -/
def overlaps (a n b m : Nat) : Bool := decide (a < b + m) && decide (b < a + n)

/-- SET_HDM_RANGE (R402): the K9 range lies in the hashed or homed window. -/
def execSetHdmRange (range hostBase base len t cls : Nat) (s : State) : Host.Outcome State Fault Refusal :=
  mailbox s (.setHdm range hostBase base len t cls) (fun s => firstCode [
      (decide (15 < range) || decide (15 < t) || decide (15 < cls) || decide (hostBase % hdmUnit ≠ 0) || decide (base % hdmUnit ≠ 0) ||
        decide (len % hdmUnit ≠ 0) || decide (len = 0) || decide (Config.hbmEnd < base + len), 2),
      (!s.exists? t, 3),
      (s.hdm.any fun r => r.1 != range && (overlaps r.2.hostBase r.2.len hostBase len || overlaps r.2.base r.2.len base len), 8)])
    fun s => { s with hdm := amPut s.hdm range ⟨hostBase, base, len, t, cls⟩ }

/-- SET_POWER_LIMIT (R415). -/
def execSetPowerLimit (watts : Nat) (s : State) : Host.Outcome State Fault Refusal :=
  mailbox s (.setPowerLimit watts) (fun _ => firstCode [(decide (watts < 500) || decide (3600 < watts), 2)]) fun s => { s with powerLimit := watts }

/-- SET_BIVOUAC (R383): units of 2 MiB. -/
def execSetBivouac (t base units : Nat) (s : State) : Host.Outcome State Fault Refusal :=
  mailbox s (.setBivouac t base units) (fun s => firstCode [
      (decide (15 < t) || decide (base % 2 ^ 21 ≠ 0), 2), (!s.exists? t, 3), (!(s.tenant t).blocks.isEmpty, 0x0B)]) fun s =>
    s.modTenant t fun x => { x with sbiv := BitVec.ofNat 64 base, sbivlen := BitVec.ofNat 32 units |>.setWidth 64 }

/-! Halt -/

/-- A slot with the other members of its rope, which halts as one unit (R330). -/
def State.haltUnit (s : State) (slot : Nat) : List Nat :=
  match s.ropeOf slot with
  | some (_, r) => r.members.filter fun m => !r.left.contains m
  | none => [slot]

/-- HALT_OR_RELEASE (R395, R445). Threads whose halt has something to wait for are routed by SPRE_HALT's steps. -/
def execHaltOrRelease (isLaunch : Bool) (ident : Nat) (release : Bool) (s : State) : Host.Outcome State Fault Refusal :=
  mailbox s (.haltOrRelease isLaunch ident release) (fun s => firstCode [
      (if isLaunch then (amGet s.launches ident).isNone else (s.thread? ident).isNone, 9)]) fun s =>
    let routed (s : State) : State := (List.range 8).foldl State.routeHalts s
    if isLaunch then (if release then s.releaseLaunch ident else routed (s.haltLaunch ident))
    else if release then (s.haltUnit ident).foldl State.releaseHalt s
    else routed ((s.haltUnit ident).foldl State.haltThread s)

/-! Reset and destruction -/

/-- A write of a queue's tail (R405). -/
def State.ringBell (s : State) (q : Nat) (tail : BitVec 32) : State :=
  let h := s.queue q
  { s.setQueue q { h with tail := tail.toNat, bells := h.bells ++ [(tail.toNat, s.nextId)] } with nextId := s.nextId + 1 }

/-- The launch is of the tenant. -/
def State.launchOf (s : State) (t lid : Nat) : Bool :=
  match amGet s.launches lid with | some l => l.record.tenant == t | none => false

/-- Steps 1 and 2 of a tenant reset begin (R408): the freeze, and the stop of every launch with its matrix state (R242). -/
def State.resetBegin (s : State) (t : Nat) : State :=
  let s1 := if (s.tenant t).frozen then s else s.freeze t
  let ls := (s1.launches.filter fun l => l.2.record.tenant == t).map (·.1)
  let s2 := ls.foldl (fun s l => ((s.threadsOf l).foldl (fun s p => s.stopThread p.1) s).discardMatrix l) s1
  { s2 with resetting := some t, mailboxStatus := 1, mailboxCode := 0 }

/-- Everything that step 2 waits for has come to its end (R408): jobs, stores, pushes, atomics, updates. -/
def State.resetReady (s : State) (t : Nat) : Bool :=
  !s.octets.any (fun o => (o.2.haul ++ o.2.matrix).any (·.tenant == t)) &&
  !s.threads.any (fun p => p.2.tenant == t && (p.2.ports.any (fun hp => !hp.2.pushes.isEmpty) ||
    match p.2.pend with | some q => q.mode == 1 || q.mode == 7 | none => false)) &&
  !s.cores.any (fun c => s.assigned c.1 t && !c.2.sb.isEmpty) &&
  !s.flights.any (fun f => s.assigned (coreOf f.slot) t) &&
  !s.packets.any fun p => match p.payload with
    | .request _ x .. => x == t
    | .update u | .ack u .. => u.tenant == t
    | .entry x .. => x == t
    | _ => false

/-- Step 3 (R408, R405): every taken record without a final entry gets status 4. -/
def State.resetEntries (s : State) (t : Nat) : State :=
  let s1 := (s.launches.filter fun l => l.2.record.tenant == t).foldl (fun (s : State) l =>
    match l.2.record.queue with | some (q, i) => s.hostEntry q 4 0 i l.1 1 | none => s) s
  (s.dies.flatMap fun d => d.2.inbox.filter (·.tenant == t)).foldl (fun (s : State) r =>
    match r.queue with | some (q, i) => s.hostEntry q 4 0 i 0 2 | none => s) s1

/-- Every thread of the tenant goes (R408, step 2). -/
def State.resetThreads (s : State) (t : Nat) : State :=
  let l := s.threads.filter (·.2.tenant == t)
  l.foldl (fun (s : State) p => ((((s.withdraw p.1).leaveBarriers p.1).abandonMutexes p.1).returnCredits p.2).freeSlot p.1) s

/-- What units hold of the tenant's launches goes (R408, step 2): contexts, counters, tasks, messages, activations. -/
def State.resetUnits (s : State) (t : Nat) : State :=
  let mine (lid : Nat) : Bool := s.launchOf t lid
  let core (c : Core) : Core := { c with
    counters := c.counters.filter fun k => match k.2.task with | some x => x.tenant != t | none => true
    readyQ := c.readyQ.filter (·.tenant != t), taskSpill := c.taskSpill.filter (·.2.tenant != t)
    arrivals := c.arrivals.filter (·.tenant != t), arrivalSpill := c.arrivalSpill.filter (·.2.tenant != t)
    msgs := c.msgs.filter (·.tenant != t), actQueue := c.actQueue.filter (·.tenant != t), act := c.act.filter (·.tenant != t)
    recs := c.recs.filter (·.tenant != t)
    ropeClaims := c.ropeClaims.filter fun r => match amGet s.ropes r.2.2 with | some x => !mine x.launch | none => true }
  let context (i : Nat) : Bool := match s.packet? i with
    | some p => match p.payload with | .context x _ => x.tenant == t | _ => false
    | none => false
  { s with
    cores := s.cores.map fun c => (c.1, core c.2)
    ropes := s.ropes.filter fun r => !mine r.2.launch
    rounds := s.rounds.filter fun r => !mine r.2.launch
    groupHolder := s.groupHolder.filter fun g => !mine g.2
    watches := s.watches.filter fun w => w.slot.isSome || !mine w.launch
    dies := s.dies.map fun d => (d.1, { d.2 with
      inbox := d.2.inbox.filter (·.tenant != t), launches := d.2.launches.filter fun l => !mine l
      spillEngine := d.2.spillEngine.filter (·.2.tenant != t), spreInbox := d.2.spreInbox.filter (·.2.2.2 != t) })
    packets := s.packets.filter fun p => match p.payload with
      | .context x _ => x.tenant != t
      | .registers i _ => !context i
      | .message _ x _ _ => x != t
      | .childArrival x .. => x != t
      | _ => true
    launches := s.launches.filter fun l => l.2.record.tenant != t }

/-- Steps 3 to 5 of a tenant reset (R408). -/
def State.resetEnd (s : State) (t : Nat) : State :=
  let s1 := ((s.resetEntries t).resetThreads t).resetUnits t
  let s2 := s1.clearCores (fun c => s1.assigned c t) false
  { s2.modTenant t (fun x => { x with frozen := false, handles := [], blocks := [] }) with
    resetting := none, mailboxStatus := 2, mailboxCode := 0 }

/-- The step with which a tenant reset ends also lets the doorbells that waited for it take effect (R408). -/
def State.resetOver (s : State) (t : Nat) : State :=
  let s1 := s.resetEnd t
  s1.heldBells.foldl (fun (s : State) b => s.ringBell b.1 b.2) { s1 with heldBells := [] }

/-- RESET_TENANT (R408): the reset begins, and ends once what it stops has ended. -/
def execResetTenant (t : Nat) (s : State) : Host.Outcome State Fault Refusal :=
  event s fun s =>
    match s.resetting with
    | some x => if x ≠ t then { s with commands := s.commands ++ [.resetTenant t] } else if s.resetReady t then s.resetOver t else s
    | none =>
      if !s.firmware then { s with mailboxStatus := 3, mailboxCode := 0xFF } else
      if !s.commands.isEmpty then { s with commands := s.commands ++ [.resetTenant t] } else
      match firstCode [(decide (15 < t), 2), (!s.exists? t, 3)] with
      | some k => { s with mailboxStatus := 3, mailboxCode := k }
      | none =>
        let s1 := s.resetBegin t
        if s1.resetReady t then s1.resetOver t else s1

/-- DESTROY_TENANT (R407): refused while a launch, a thread or a taken record has not been ended by a reset; its clusters and
slices are released and cleared. -/
def execDestroyTenant (t : Nat) (s : State) : Host.Outcome State Fault Refusal :=
  mailbox s (.destroyTenant t) (ready := fun s => s.idleOn (coreIn (s.tenant t).clusters (s.tenant t).slices)) (fun s => firstCode [
      (decide (15 < t), 2), (!s.exists? t, 3),
      (s.launches.any (fun l => l.2.record.tenant == t) || s.threads.any (fun p => p.2.tenant == t) ||
        s.dies.any fun d => d.2.inbox.any (·.tenant == t), 7)]) fun s =>
    let x := s.tenant t
    (({ s with tenants := amDel s.tenants t } : State).clearCores (coreIn x.clusters x.slices) true).clearBelay x.clusters

/-! The mailbox (R407) -/

/-- Carries out a command. -/
def runCommand : Command → State → Host.Outcome State Fault Refusal
  | .createTenant t a b c => execCreateTenant t a b c
  | .assign t cl sl => execAssign t cl sl
  | .writeAccessWord set master v => execWriteAccessTableWord set master v
  | .writeRoute t cls v => execWriteRouteEntry t cls v
  | .bindQueue q t => execBindQueue q t
  | .setHdm r h b n t cls => execSetHdmRange r h b n t cls
  | .resetTenant t => execResetTenant t
  | .destroyTenant t => execDestroyTenant t
  | .setPowerLimit w => execSetPowerLimit w
  | .haltOrRelease l i r => execHaltOrRelease l i r
  | .setBivouac t b n => execSetBivouac t b n

/-- The base camp controller goes on (R407, R408): with the tenant reset under way, else with the command that was started first. -/
def execNextCommand (s : State) : Host.Outcome State Fault Refusal :=
  match s.resetting, s.commands with
  | some t, _ => execResetTenant t s
  | none, [] => event s fun s => s
  | none, c :: rest =>
    match runCommand c { s with commands := [] } with
    | .next u => .next { u with commands := u.commands ++ rest }
    | r => r

/-- Word i of the mailbox as the host wrote it (R407). -/
def State.mailboxWord (s : State) (i : Nat) : Word := (amGet s.mailboxWords i).getD 0

/-- The command that the mailbox's words name (R407, R445). The manual gives the arguments' order, and words 8 to 15 for the slices; the
rest of their layout is the model's: command 6 holds the length in units of 1 GiB above the base of 40 bits in word 3, and the class above
the tenant in word 4; bit 0 of word 3 of command 10 says that word 1 is a slot address (DESIGN CHOICE, notes/assumptions/95.md). -/
def State.commandOf (s : State) : Option Command :=
  let w := s.mailboxWord
  let n (i : Nat) : Nat := (w i).toNat
  match ((w 0).extractLsb' 0 8).toNat with
  | 1 => some (.createTenant (n 1) (w 2) (w 3) (w 4))
  | 2 => some (.assign (n 1) (BitVec.ofNat 128 (n 2 + n 3 * 2 ^ 64))
      ((List.range 8).foldl (fun m i => m ||| (w (8 + i)).setWidth 512 <<< (64 * i)) 0))
  | 3 => some (.writeAccessWord (w 1) ((w 2).setWidth 7) ((w 3).setWidth 32))
  | 4 => some (.writeRoute (n 1) (n 2) (w 3))
  | 5 => some (.bindQueue (n 1) (n 2))
  | 6 => some (.setHdm (n 1) (n 2) (n 3 % 2 ^ 40) (n 3 / 2 ^ 40 * 2 ^ 30) (n 4 % 2 ^ 32) (n 4 / 2 ^ 32))
  | 7 => some (.resetTenant (n 1))
  | 8 => some (.destroyTenant (n 1))
  | 9 => some (.setPowerLimit (n 1))
  | 10 => some (.haltOrRelease (!(w 3).getLsbD 0) (n 1) (w 2 != 0))
  | 11 => some (.setBivouac (n 1) (n 2) (n 3))
  | _ => none

/-- The host writes word i of the mailbox (R407). Words 0 to 4 and 8 to 15 hold what was written. A write of 1 to word 5 starts the
command that they name, which the base camp controller carries out in its turn; a word 0 that names none is refused (R445). -/
def State.mailboxWrite (s : State) (i : Nat) (v : Word) : State :=
  if i < 5 ∨ 8 ≤ i ∧ i < 16 then { s with mailboxWords := amPut s.mailboxWords i v }
  else if i ≠ 5 ∨ v ≠ 1 then s
  else if !s.firmware then { s with mailboxStatus := 3, mailboxCode := 0xFF }
  else match s.commandOf with
    | none => { s with mailboxStatus := 3, mailboxCode := 1 }
    | some c => { s with commands := s.commands ++ [c], mailboxStatus := 1, mailboxCode := 0 }

end Sys2Proof.Machine
end

