-- ==== Sys2Proof/Machine/HostPort.lean ====
section
/-! DEFINITION. Sys2Proof/Machine/HostPort.lean: what reaches the package from outside: resets (R418), power and heat (R415),
the host's queues and dispatcher (R404 to R406), register writes (R14), CXL.mem accesses (R402), SPDM (R414), peer accesses
(R412, R282), links (R98, R282). -/

namespace Sys2Proof.Machine

/-! Words and bytes -/

/-- The bytes of a word, the lowest first. -/
def wordBytes (w : Word) : List Byte := (List.range 8).map (byteOf w)

/-- n bytes of a bit vector, the lowest first. -/
def bitsBytes {w : Nat} (n : Nat) (v : BitVec w) : List Byte := (List.range n).map fun i => v.extractLsb' (8 * i) 8

/-- n words of a bit vector, the lowest first. -/
def bitsWords {w : Nat} (n : Nat) (v : BitVec w) : List Word := (List.range n).map fun i => v.extractLsb' (64 * i) 64

/-! Reset, power and heat -/

/-- The firmware image as it is signed: its version, then its bytes (R413). -/
def Flash.signed (f : Flash) : List Byte := wordBytes (BitVec.ofNat 64 f.version) ++ f.image

/-- The boot ROM's checks of the flash's image (R413): the key is the one whose hash is fused, the signature of the image's hash holds
under it, and the version is not below the fused rollback counter. -/
def State.imageGood (s : State) : Bool :=
  Config.sha256 (bitsBytes 64 s.flash.key) == s.fuses.keyHash &&
  Config.slhVerify s.flash.key (Config.sha256 s.flash.signed) s.flash.sig && decide (s.fuses.rollback ≤ s.flash.version)

/-- PACKAGE_RESET (R418): everything returns to its reset value; an image that fails the boot ROM's checks is not run (R413).
What moves next is not of the package, and flash and fuses keep what they hold. It is the one step a tripped package takes (R415). -/
def execPackageReset (s : State) : Host.Outcome State Fault Refusal :=
  .next { State.reset with
    firmware := s.imageGood, flash := s.flash, fuses := s.fuses, mailboxStatus := if s.imageGood then 0 else 3
    mailboxCode := if s.imageGood then 0 else 0xFF
    fresh := s.fresh, agenda := s.agenda, focus := s.focus, cur := s.cur, slow := s.slow }

/-- CXL_LINK_RESET (R418): the host port alone is reset; queue registers and tenants are kept. -/
def execCxlLinkReset (s : State) : Host.Outcome State Fault Refusal :=
  event s fun s => { s with hostReply := [], linksDown := s.linksDown.filter fun l => decide (l ≠ .cxl) }

/-- POWER_MEASURE (R415): above the limit the gating level rises by one step, 5 % below it, it falls by one. -/
def execPowerMeasure (watts : Nat) (s : State) : Host.Outcome State Fault Refusal :=
  event s fun s =>
    if s.powerLimit < watts then { s with gating := min 7 (s.gating + 1) }
    else if 100 * watts < 95 * s.powerLimit then { s with gating := s.gating - 1 }
    else s

/-- THERMAL_THROTTLE (R415). -/
def execThermalThrottle (s : State) : Host.Outcome State Fault Refusal := event s fun s => { s with gating := 7 }

/-- THERMAL_TRIP (R415): every clock stops. -/
def execThermalTrip (s : State) : Host.Outcome State Fault Refusal := event s fun s => { s with tripped := true }

/-! Queues -/

def HostQueue.rlog (q : HostQueue) : Nat := (q.word0.extractLsb' 0 4).toNat
def HostQueue.rbase (q : HostQueue) : Nat := (q.word0.extractLsb' 12 36).toNat * 4096
def HostQueue.clog (q : HostQueue) : Nat := (q.word1.extractLsb' 0 4).toNat
def HostQueue.cbase (q : HostQueue) : Nat := (q.word1.extractLsb' 4 44).toNat * 16

/-- A tenant reset under way holds back what concerns the queue (R408). -/
def State.queueHeld (s : State) (q : Nat) : Bool := s.resetting == some (s.queue q).tenant

/-- QUEUE_DOORBELL (R405): a write of tail. During a reset of the queue's tenant it takes effect after the reset (R408). -/
def execQueueDoorbell (q : Nat) (tail : BitVec 32) (s : State) : Host.Outcome State Fault Refusal :=
  event s fun s =>
    if 4095 < q then s
    else if s.queueHeld q then { s with heldBells := s.heldBells ++ [(q, tail)] }
    else s.ringBell q tail

/-- A range of K9 addresses lies within one HDM range of the tenant (R404). -/
def State.inHdm (s : State) (t a n : Nat) : Bool :=
  s.hdm.any fun r => r.2.tenant == t && decide (r.2.base ≤ a) && decide (a + n ≤ r.2.base + r.2.len)

/-- QUEUE_ENABLE (R404): a write of queue word 0; en is set only with both rings and both sizes as they must be. -/
def execQueueEnable (q : Nat) (v : Word) (s : State) : Host.Outcome State Fault Refusal :=
  event s fun s =>
    if 4095 < q then s else
    let h := { s.queue q with word0 := v &&& 0xFFFFFFFFF00F#64 }
    let ok : Bool := decide (4 ≤ h.rlog) && decide (h.rlog ≤ 12) && decide (4 ≤ h.clog) &&
      s.inHdm h.tenant h.rbase (512 * 2 ^ h.rlog) && s.inHdm h.tenant h.cbase (16 * 2 ^ h.clog)
    s.setQueue q { h with en := v.getLsbD 63 && ok }

/-- REGISTER_WRITE (R14): a register's writable fields take the written value. -/
def execRegisterWrite (r : RegName) (v : Word) (s : State) : Host.Outcome State Fault Refusal :=
  event s fun s =>
    match r with
    | .queueCompletion q => if 4095 < q then s else s.setQueue q { s.queue q with word1 := v &&& 0xFFFFFFFFFFFF#64 }
    | .queueChead q => if 4095 < q then s else s.setQueue q { s.queue q with chead := (v.extractLsb' 0 32).toNat }
    | .tenantCsr t csr =>
      -- the registers of R381 that are the tenant's
      if !s.exists? t || !([0x140, 0x148, 0x149, 0x14A, 0x14B, 0x14E, 0x14F, 0x150, 0x151].contains csr.toNat) then s
      else s.setSupCsr 0 t csr v
    | .threadCsr slot csr => s.modThread slot fun t => t.setCsr csr v
    | .mailboxWord i => s.mailboxWrite i v

/-- When the doorbell that first covered a queue's head record arrived (R406). -/
def HostQueue.bellOf (q : HostQueue) : Nat :=
  match q.bells.find? fun b => let n := (b.1 + 2 ^ 32 - q.head) % 2 ^ 32; decide (0 < n) && decide (n < 2 ^ 31) with
  | some b => b.2
  | none => 2 ^ 64

/-- The number of word i of a queue's head record. -/
def HostQueue.recordKey (q : HostQueue) (i : Nat) : Nat := (q.rbase + 512 * (q.head % 2 ^ q.rlog)) / 8 + i

/-- Word i of a queue's head record. -/
def State.recordAt (s : State) (q : HostQueue) (i : Nat) : Word := s.mem.word (q.recordKey i)

/-- The number of words of a queue's head record: its header and the arguments it names. -/
def State.recordLength (s : State) (q : HostQueue) : Nat := 8 + min 56 ((s.recordAt q 2).extractLsb' 32 6).toNat

/-- The queue unit may read the queue's head record, and no word of it is poisoned; a record it cannot read is not taken (DESIGN CHOICE,
notes/assumptions/89.md). -/
def State.recordReadable (s : State) (q : HostQueue) : Bool :=
  (List.range (s.recordLength q)).all fun i => s.ringWord q (8 * q.recordKey i) 1 && !s.mem.poisoned (q.recordKey i)

/-- A queue the dispatcher may take from: records, and room for two completions (R405, R406). -/
def State.takeable (s : State) (q : Nat) (h : HostQueue) : Bool :=
  h.en && h.head != h.tail && !s.queueHeld q && s.exists? h.tenant && s.recordReadable h &&
  decide ((h.ctail + 2 ^ 32 - h.chead) % 2 ^ 32 + h.reserved + 2 ≤ 2 ^ h.clog)

/-- What the reading of the head records of the queues finds (R92): words with an uncorrectable error become poisoned. -/
def State.settleRecords (s : State) : State :=
  (s.queues.filter fun q => q.2.en && q.2.head != q.2.tail).foldl (fun s q =>
    (List.range (s.recordLength q.2)).foldl (fun s i => if s.ringWord q.2 (8 * q.2.recordKey i) 1 then s.settle (q.2.recordKey i) else s) s) s

/-- DISPATCH_RECORD (R405, R406). -/
def execDispatchRecord (s : State) : Host.Outcome State Fault Refusal :=
  event s fun s0 =>
    let s := s0.settleRecords
    let prio (h : HostQueue) : Nat := ((s.recordAt h 2).extractLsb' 24 2).toNat
    let before (a b : HostQueue) : Bool :=
      decide (prio b < prio a) || (prio a == prio b && decide (a.bellOf ≤ b.bellOf))
    let l := s.queues.filter fun q => s.takeable q.1 q.2
    match (if s.firmware then l.find? fun a => l.all fun b => before a.2 b.2 else none) with
    | none => s
    | some (q, h) =>
      let r : Record := {
        tenant := h.tenant, words := (List.range (s.recordLength h)).map (s.recordAt h), spawner := none
        queue := some (q, h.head % 2 ^ 16), prioCap := 3 }
      let s1 := s.setQueue q { h with
        head := (h.head + 1) % 2 ^ 32, reserved := h.reserved + 2
        bells := h.bells.filter fun b => b.1 != (h.head + 1) % 2 ^ 32 }
      s1.modDie (rectDie r.rect) fun d => { d with inbox := d.inbox ++ [r] }

/-! BAR0 (R401): the queue registers and the mailbox -/

/-- The host writes the word of BAR0 at a byte offset: queue q's eight words at 64 q, the mailbox at 0x4_0000 (R401, R404, R407). Words of
eight bytes, aligned (DESIGN CHOICE, notes/assumptions/95.md); read-only and reserved ones are left. -/
def execBarWrite (off : Nat) (v : Word) (s : State) : Host.Outcome State Fault Refusal :=
  if off % 8 ≠ 0 then event s id
  else if off < 0x40000 then
    match off % 64 / 8 with
    | 0 => execQueueEnable (off / 64) v s
    | 1 => execRegisterWrite (.queueCompletion (off / 64)) v s
    | 2 => execQueueDoorbell (off / 64) (v.setWidth 32) s
    | 5 => execRegisterWrite (.queueChead (off / 64)) v s
    | _ => event s id
  else if off < 0x40080 then execRegisterWrite (.mailboxWord ((off - 0x40000) / 8)) v s
  else event s id

/-- Word i of a queue's registers (R404). -/
def HostQueue.register (h : HostQueue) : Nat → Word
  | 0 => BitVec.ofNat 64 ((if h.en then 2 ^ 63 else 0) + h.tenant % 16 * 2 ^ 48) ||| (h.word0 &&& 0xFFFFFFFFF00F#64)
  | 1 => h.word1
  | 2 => BitVec.ofNat 64 h.tail
  | 3 => BitVec.ofNat 64 h.head
  | 4 => BitVec.ofNat 64 h.ctail
  | 5 => BitVec.ofNat 64 h.chead
  | _ => 0

/-- The word of BAR0 at a byte offset as the host reads it: word 5 of the mailbox is the status and its code (R401, R404, R407). -/
def State.barRead (s : State) (off : Nat) : Word :=
  if off < 0x40000 then (s.queue (off / 64)).register (off % 64 / 8)
  else if off = 0x40028 then BitVec.ofNat 64 (s.mailboxCode * 256 + s.mailboxStatus)
  else if off < 0x40080 then s.mailboxWord ((off - 0x40000) / 8)
  else 0

/-- The host reads the word of BAR0 at a byte offset (R401). -/
def execBarRead (off : Nat) (s : State) : Host.Outcome State Fault Refusal :=
  event s fun s => { s with hostReply := [(s.barRead off, false)] }

/-! CXL.mem -/

/-- The HDM range that holds a host address, and the K9 address (R402). -/
def State.hdmOf (s : State) (a : Nat) : Option (HdmRange × Nat) :=
  (s.hdm.find? fun r => decide (r.2.hostBase ≤ a) && decide (a < r.2.hostBase + r.2.len)).map fun r =>
    (r.2, r.2.base + (a - r.2.hostBase))

/-- Where a host's access of a word lands (R402, R409): the word's number, or none where it is denied. -/
def State.hostWord (s : State) (a level : Nat) : Option Nat :=
  match s.hdmOf a with
  | some (r, pa) =>
    if usablePa pa && s.accessOk (sliceOf pa) (r.tenant * 8 + 4) r.cls level then some (pa / 8) else none
  | none => none

/-- One word of a host read: a denied one returns poisoned data, with a machine-check record (R402). -/
def State.hostReadWord (s : State) (a : Nat) : State :=
  let poison (s : State) : State :=
    { s with hostReply := s.hostReply ++ [(Config.freeWord s.fresh, true)], fresh := s.fresh + 1 }
  if !s.firmware then poison s else
  match s.hostWord a 1 with
  | none => (poison s).check 5 a
  | some k =>
    match s.readWord k with
    | (s1, .ok v) => { s1 with hostReply := s1.hostReply ++ [(v, false)] }
    | (s1, .error _) => poison s1

/-- The words that an access of len bytes from addr on covers. -/
def coveredWords (addr len : Nat) : List Nat := (List.range ((addr % 8 + len + 7) / 8)).map fun i => addr / 8 * 8 + 8 * i

/-- The host port's requests for words reach their homes, each past the entries it closes (R94, R101), where none of them waits behind
other requests (R95, R103). The port's packets come by the col die (R96). -/
def State.hostArrives (s : State) (level : Nat) (as : List Nat) : Option State :=
  as.foldl (fun r a => r.bind fun s => match s.hostWord a level with
    | some k => s.unitAt epCol k
    | none => some s) (some s)

/-- HOST_READ (R402): the words that hold len bytes from addr on. -/
def execHostRead (addr len : Nat) (s : State) : Host.Outcome State Fault Refusal :=
  event s fun s => match s.hostArrives 1 (coveredWords addr len) with
    | some s1 => (coveredWords addr len).foldl State.hostReadWord { s1 with hostReply := [] }
    | none => s

/-- One word of a host write: the bytes that the request covers, tags unchanged; a denied one is dropped, with a machine-check
record (R402). -/
def State.hostWriteWord (s : State) (addr : Nat) (bytes : List Byte) (a : Nat) : State :=
  let byte (i : Nat) : Option Byte := if a + i < addr then none else bytes[a + i - addr]?
  let mask : BitVec 8 := (List.range 8).foldl (fun m i => if (byte i).isSome then m ||| (1#8 <<< i) else m) 0
  let v : Word := (List.range 8).foldl (fun v i => v ||| (((byte i).getD 0).setWidth 64 <<< (8 * i))) 0
  if !s.firmware then s else
  match s.hostWord a 2 with
  | none => s.check 5 a
  | some k => s.writeWord k mask v none

/-- HOST_WRITE (R402). -/
def execHostWrite (addr : Nat) (bytes : List Byte) (s : State) : Host.Outcome State Fault Refusal :=
  event s fun s => match s.hostArrives 2 (coveredWords addr bytes.length) with
    | some s1 => (coveredWords addr bytes.length).foldl (fun s a => s.hostWriteWord addr bytes a) s1
    | none => s

/-! SPDM (R414) -/

/-- The current tenant configuration, as the words that the host's commands set (DESIGN CHOICE, notes/assumptions/92.md: R414 does not
lay it out). -/
def State.tenantConfig (s : State) : List Word :=
  s.tenants.flatMap (fun t => [BitVec.ofNat 64 t.1, t.2.sroot, t.2.sentry, t.2.swdog, t.2.sbiv, t.2.sbivlen] ++ bitsWords 2 t.2.clusters ++
    bitsWords 8 t.2.slices ++ t.2.routes.flatMap fun r => [BitVec.ofNat 64 r.1, r.2]) ++
  s.hdm.flatMap (fun r => [BitVec.ofNat 64 r.1, BitVec.ofNat 64 r.2.hostBase, BitVec.ofNat 64 r.2.base, BitVec.ofNat 64 r.2.len,
    BitVec.ofNat 64 r.2.tenant, BitVec.ofNat 64 r.2.cls]) ++
  s.access.flatMap (fun a => [BitVec.ofNat 64 a.1, a.2.setWidth 64]) ++
  s.queues.flatMap fun q => [BitVec.ofNat 64 q.1, BitVec.ofNat 64 q.2.tenant]

/-- The fuse configuration in bytes. -/
def Fuses.bytes (f : Fuses) : List Byte := bitsBytes 32 f.keyHash ++ wordBytes (BitVec.ofNat 64 f.rollback) ++ bitsBytes 32 f.seed

/-- The measurements (R414): the hashes of the boot ROM, the firmware, the fuse configuration and the tenant configuration. -/
def State.measurements (s : State) : List (BitVec 256) :=
  [Config.sha256 Config.bootRom, Config.sha256 s.flash.signed, Config.sha256 s.fuses.bytes, Config.sha256 (s.tenantConfig.flatMap wordBytes)]

/-- The base camp controller's firmware answers an SPDM request; while it does not run, nothing does (R413, R414). -/
def State.spdm (s : State) (ws : List Word) : State :=
  { s with hostReply := if s.firmware then ws.map fun w => (w, false) else [], fresh := s.fresh + 1 }

/-- SPDM_CERTIFICATE (R414): the device's identity key, generated from the fused seed, with what else its chain holds. -/
def execSpdmCertificate (s : State) : Host.Outcome State Fault Refusal :=
  event s fun s => s.spdm (bitsWords 8 (Config.slhKey s.fuses.seed) ++ [Config.spdmAnswer s.fresh])

/-- SPDM_MEASUREMENTS (R414): the measurements, and a signature over them under the identity key. -/
def execSpdmMeasurements (s : State) : Host.Outcome State Fault Refusal :=
  event s fun s =>
    let m := s.measurements.flatMap (bitsWords 4)
    s.spdm (m ++ bitsWords 3724 (Config.slhSign s.fuses.seed (Config.sha256 (m.flatMap wordBytes))))

/-! Peers and links -/

/-- The level a peer's request needs (R409). -/
def peerLevel : PeerOp → Nat
  | .read => 1
  | .write .. => 2
  | .atomic .. => 3

/-- PEER_ACCESS (R412, R282): checked at the receiving port and at the home, then performed, where no other request waits there (R95,
R103); its answer leaves the package by the
port it came by: the value, or the cause that a denial (0x09) or poison (0x0E) gives the requester. -/
def execPeerAccess (port tenant cls : Nat) (op : PeerOp) (pa : Nat) (s : State) : Host.Outcome State Fault Refusal :=
  event s fun s =>
    let master := tenant * 8 + 5
    let answer (s : State) (r : Except Nat Word) : State :=
      { s with outside := s.outside ++ [⟨some port, pa, (match r with | .ok v => .answer v | .error c => .refused c), cls, tenant⟩] }
    if !(usablePa pa && s.accessOk (514 + port) master cls (peerLevel op) && s.accessOk (sliceOf pa) master cls (peerLevel op)) then
      answer s (.error 0x09) else
    match s.unitAt epCol (pa / 8) with
    | none => s
    | some s =>
    match op with
    | .read => match s.readWord (pa / 8) with | (s1, r) => answer s1 r
    | .write mask v => answer (s.writeWord (pa / 8) mask v none) (.ok 0)
    | .atomic o size a c =>
      -- amfadd.c of a peer is performed as amfadd (R282)
      match s.atomicHome (if o = .faddc then .fadd else o) (size == 1#1) pa a c with | (s1, r) => answer s1 r

/-- LINK_REPLAY (R98): a replay delays packets and never reorders them; nothing else changes. -/
def execLinkReplay (link : LinkName) (s : State) : Host.Outcome State Fault Refusal :=
  event s fun s => match link with | .dieLink .. | .peer _ | .cxl => s

/-- The link of a peer package, or the host's (R401, R412). -/
def linkTo (peer : Option Nat) : LinkName := match peer with | some k => .peer k | none => .cxl

/-- The link over which a slot has asked for the word of a key outside the package, the last time it did. -/
def State.linkOf (s : State) (slot k : Nat) : Option LinkName :=
  let mine (o : Outside) : Bool := match o.what with
    | .read x k' => x == slot && k' == k
    | .atomic x .. | .sync x .. => x == slot && k == farKey 0
    | _ => false
  (s.outside.filter mine).getLast?.map fun o => linkTo o.peer

/-- The words that a slot waits for over a link. -/
def State.keysOver (s : State) (slot : Nat) (t : Thread) (link : LinkName) : List Nat :=
  match t.pend with
  | some p => p.keys.filter fun k => decide (farKey 0 ≤ k) && !p.got.any (·.1 == k) && !p.bad.any (·.1 == k) && s.linkOf slot k == some link
  | none => []

/-- Packets that still have to cross a link of the die mesh. -/
def Packet.crosses (p : Packet) (node port : Nat) : Bool :=
  match p.node with
  | some n => let l := p.path.dropWhile (· != n)
              (l.zip (l.drop 1)).any fun x => x.1 == node && outputPort x.1 (some x.2) == port
  | none => false

/-- A request that a failed link ends, with those merged into it: their requesters take cause 0x09 (R282). What is no request or
reply waits for the link. -/
def State.endPacket (s : State) : (fuel : Nat) → Packet → State
  | 0, _ => s
  | fuel + 1, p =>
    let merged := (s.combines.filter fun e => e.packet == p.ident).flatMap (·.merged)
    let s1 : State := { s.dropPacket p.ident with combines := s.combines.filter fun e => e.packet != p.ident }
    let ended : Option State := match p.payload with
      | .request slot _ _ op => some (match op with
        | .put ident _ _ => { s1 with flights := s1.flights.filter (·.ident != ident) }
        | .store ident ws => s1.dropStored p.src ident (ws.map (·.1))
        | _ => op.keys.foldl (fun s k => s.answer slot k (.error 0x09)) s1)
      | .reply slot got bad =>
        some ((got.map (·.1) ++ bad.toList.map (·.1)).foldl (fun s k => s.answer slot k (.error 0x09)) s1)
      | .update u | .ack u .. => some (s1.ackUpdate u .denied)
      | _ => none
    match ended with
    | some s2 => merged.foldl (fun s m => s.endPacket fuel m) s2
    | none => s

/-- LINK_FAILURE (R282, R417, R363): the requests and writes over the link end with cause 0x09, a machine-check record is sent, and the
open rounds of a peer group that a package leaves fail. -/
def execLinkFailure (link : LinkName) (s : State) : Host.Outcome State Fault Refusal :=
  event s fun s =>
    let about : Nat := match link with | .dieLink n p => n * 8 + p | .peer k => k | .cxl => 64
    let s0 := s.threads.foldl (fun (u : State) x => (s.keysOver x.1 x.2 link).foldl (fun u k => u.answer x.1 k (.error 0x09)) u) s
    let s1 := ((s.flights.filter fun f => f.away && linkTo f.peer == link).map (·.ident)).foldl State.refuseAway s0
    let s2 : State := { s1 with linksDown := if s1.linksDown.contains link then s1.linksDown else s1.linksDown ++ [link] }
    let s3 := match link with
      | .dieLink n p => (s2.packets.filter fun (q : Packet) => q.crosses n p).foldl (fun (s : State) q => s.endPacket (s2.combines.length + 1) q) s2
      | .peer k => ((s2.peerGroups.filter fun (g : Nat × List Nat) => g.2.contains k).map Prod.fst).foldl State.failGroup s2
      | .cxl => s2
    s3.check 6 about

end Sys2Proof.Machine
end

