-- ==== Sys2Proof/Machine/Pitch.lean ====
section
/-! DEFINITION. Sys2Proof/Machine/Pitch.lean: the pitch instruction (R163 to R167): fetching and checking a body, its held
set, and the staggered replay of a body instruction. -/

namespace Sys2Proof.Machine

/-- The operands of a custom-0 or custom-1 instruction other than tabld: rs1 first, rd last, rs2 between them where it is
a register. These are the instructions a body may hold (R164). -/
def spanShape (l : Latch) : Instr → Option Shape
  | .fadd span bc ty rd rs1 rs2 => some (shape0 l span bc ty.toNat rd rs1 rs2 false true)
  | .fsub span bc ty rd rs1 rs2 => some (shape0 l span bc ty.toNat rd rs1 rs2 false true)
  | .fmul span bc ty rd rs1 rs2 => some (shape0 l span bc ty.toNat rd rs1 rs2 false true)
  | .fmin span bc ty rd rs1 rs2 => some (shape0 l span bc ty.toNat rd rs1 rs2 false true)
  | .fmax span bc ty rd rs1 rs2 => some (shape0 l span bc ty.toNat rd rs1 rs2 false true)
  | .fdiv span bc ty rd rs1 rs2 => some (shape0 l span bc ty.toNat rd rs1 rs2 false true)
  | .fsgnj span bc ty rd rs1 rs2 => some (shape0 l span bc ty.toNat rd rs1 rs2 false true)
  | .fsgnjn span bc ty rd rs1 rs2 => some (shape0 l span bc ty.toNat rd rs1 rs2 false true)
  | .fsgnjx span bc ty rd rs1 rs2 => some (shape0 l span bc ty.toNat rd rs1 rs2 false true)
  | .fmac span bc ty rd rs1 rs2 => some (shape0 l span bc ty.toNat rd rs1 rs2 true true)
  | .fmsc span bc ty rd rs1 rs2 => some (shape0 l span bc ty.toNat rd rs1 rs2 true true)
  | .fsqrt span bc ty rd rs1 rs2 => some (shape0 l span bc ty.toNat rd rs1 rs2 false false)
  | .frcpe span bc ty rd rs1 rs2 => some (shape0 l span bc ty.toNat rd rs1 rs2 false false)
  | .frsqe span bc ty rd rs1 rs2 => some (shape0 l span bc ty.toNat rd rs1 rs2 false false)
  | .fsum span bc ty rd rs1 rs2 => some (shape0 l span bc ty.toNat rd rs1 rs2 false false)
  | .fmaxa span bc ty rd rs1 rs2 => some (shape0 l span bc ty.toNat rd rs1 rs2 false false)
  | .spanAdd span bc ty rd rs1 rs2 => some (shape0 l span bc (4 + ty.toNat) rd rs1 rs2 false true)
  | .spanSub span bc ty rd rs1 rs2 => some (shape0 l span bc (4 + ty.toNat) rd rs1 rs2 false true)
  | .spanMin span bc ty rd rs1 rs2 => some (shape0 l span bc (4 + ty.toNat) rd rs1 rs2 false true)
  | .spanMax span bc ty rd rs1 rs2 => some (shape0 l span bc (4 + ty.toNat) rd rs1 rs2 false true)
  | .spanMaxn span bc ty rd rs1 rs2 => some (shape0 l span bc (4 + ty.toNat) rd rs1 rs2 false true)
  | .spanMul span bc ty rd rs1 rs2 => some (shape0 l span bc (4 + ty.toNat) rd rs1 rs2 false true)
  | .spanMulh span bc ty rd rs1 rs2 => some (shape0 l span bc (4 + ty.toNat) rd rs1 rs2 false true)
  | .spanAnd span bc ty rd rs1 rs2 => some (shape0 l span bc (4 + ty.toNat) rd rs1 rs2 false true)
  | .spanOr span bc ty rd rs1 rs2 => some (shape0 l span bc (4 + ty.toNat) rd rs1 rs2 false true)
  | .spanXor span bc ty rd rs1 rs2 => some (shape0 l span bc (4 + ty.toNat) rd rs1 rs2 false true)
  | .spanSll span bc ty rd rs1 rs2 => some (shape0 l span bc (4 + ty.toNat) rd rs1 rs2 false true)
  | .spanSrl span bc ty rd rs1 rs2 => some (shape0 l span bc (4 + ty.toNat) rd rs1 rs2 false true)
  | .spanSra span bc ty rd rs1 rs2 => some (shape0 l span bc (4 + ty.toNat) rd rs1 rs2 false true)
  | .fsl span bc ty rd rs1 rs2 => some (shape0 l span bc (4 + ty.toNat) rd rs1 rs2 true true)
  | .fsr span bc ty rd rs1 rs2 => some (shape0 l span bc (4 + ty.toNat) rd rs1 rs2 true true)
  | .gmax span bc ty rd rs1 rs2 => some (shape0 l span bc (4 + ty.toNat) rd rs1 rs2 false false)
  | .cmpeq span ty rd rs1 rs2 => some (shape2 l span ty.toNat rd rs1 rs2)
  | .cmplt span ty rd rs1 rs2 => some (shape2 l span ty.toNat rd rs1 rs2)
  | .cmple span ty rd rs1 rs2 => some (shape2 l span ty.toNat rd rs1 rs2)
  | .perm span ty rd rs1 rs2 => some (shape2 l span ty.toNat rd rs1 rs2)
  | .cmpltn span ty rd rs1 rs2 => some (shape2 l span (4 + ty.toNat) rd rs1 rs2)
  | .cvt span ty rd rs1 sel => some (shapeCvt l span ty.toNat (sel.toNat % 8) rd rs1)
  | .cvtr span ty rd rs1 sel => some (shapeCvt l span ty.toNat (sel.toNat % 8) rd rs1)
  | .clz span ty rd rs1 => some (shape1 l span (4 + ty.toNat) rd rs1)
  | .popc span ty rd rs1 => some (shape1 l span (4 + ty.toNat) rd rs1)
  | .gsum span ty rd rs1 => some (shape1 l span (4 + ty.toNat) rd rs1)
  | .abs span ty rd rs1 => some (shape1 l span ty.toNat rd rs1)
  | .neg span ty rd rs1 => some (shape1 l span ty.toNat rd rs1)
  | .fclass span ty rd rs1 => some (shape1 l span ty.toNat rd rs1)
  | .lmsk span ty rd rs1 => some (shapeMask l span ty.toNat rd rs1)
  | .lexp span ty rd rs1 => some (shapeExpand l span ty.toNat rd rs1)
  | .qenc span ty rd rs1 rs2 => some (shapeQuant l span ty.toNat rd rs1 rs2)
  | .qfp8 span ty rd rs1 rs2 => some (shapeQuant l span ty.toNat rd rs1 rs2)
  | .qfp8x span ty rd rs1 rs2 => some (shapeQuant l span ty.toNat rd rs1 rs2)
  | .qdec span ty rd rs1 rs2 => some (shapeDequant l span ty.toNat rd rs1 rs2)
  | .dfp8 span ty rd rs1 rs2 => some (shapeDequant l span ty.toNat rd rs1 rs2)
  | .dfp8x span ty rd rs1 rs2 => some (shapeDequant l span ty.toNat rd rs1 rs2)
  | _ => none

/-- A word of a body read, or the trap it raises: cause and value. -/
abbrev BodyRead := State × Except (Nat × Word) (List BodyInstr × Nat)

/-- Reads len instructions from word n of the instruction's stream on, each with its prefixes (R41, R164): the body and the
number of words after it. fuel bounds the words. -/
def readBody (slot : Nat) (t : Thread) : (fuel : Nat) → State → (len n : Nat) → Latch → List BodyInstr → BodyRead
  | 0, s, _, n, _, acc => (s, .ok (acc, n))
  | fuel + 1, s, len, n, l, acc =>
    if acc.length = len then (s, .ok (acc, n)) else
    let a := t.pc + BitVec.ofNat 64 (4 * n)
    match s.fetch32 slot t a with
    | (s1, .error c) => (s1, .error (c, a))
    | (s1, .ok w) =>
      let bad : BodyRead := (s1, .error (0x01, w.setWidth 64))
      match decodeWord w with
      | .ok (.reach rs2hi rs1hi rdhi) =>
        if l.reach.isSome then bad
        else readBody slot t fuel s1 len (n + 1) { l with reach := some (rdhi, rs1hi, rs2hi) } acc
      | .ok (.when neg b) =>
        if l.guard.isSome then bad
        else readBody slot t fuel s1 len (n + 1) { l with guard := some (neg == 1#1, b) } acc
      | .ok i =>
        match spanShape l i with
        | none => bad
        | some _ =>
          let hi := match l.reach with | some h => (h.1.toNat, h.2.1.toNat, h.2.2.toNat) | none => (0, 0, 0)
          readBody slot t fuel s1 len (n + 1) {} (acc ++ [⟨i, w, hi, l.guard⟩])
      | .error _ => bad

/-- The latch a body instruction is decoded under. -/
def BodyInstr.latch (b : BodyInstr) : Latch :=
  { word := b.word, guard := b.guard
    reach := some (BitVec.ofNat 2 b.hi.1, BitVec.ofNat 2 b.hi.2.1, BitVec.ofNat 2 b.hi.2.2) }

/-- Which of an instruction's operands, in the order of its shape, are staggered (R163). -/
def staggers (n : Nat) (sd sa sb : Bool) : List Bool := if n = 3 then [sa, sb, sd] else [sa, sd]

/-- The operands of a body instruction in iteration k: a field that names a bound register is not staggered (R164). -/
def staggered (t : Thread) (b : PitchBody) (k : Nat) (us : List RegUse) : List (RegUse × Bool) :=
  (us.zip (staggers us.length b.sd b.sa b.sb)).map fun x =>
    if x.2 && (t.portOf x.1.n).isNone then ({ x.1 with n := x.1.n + k % 2 ^ b.rot * b.stag }, true) else (x.1, false)

/-- The trap an operand of a replay raises at the start of the body (R164). -/
def operandTrap (t : Thread) (w : BitVec 32) (x : RegUse × Bool) : Option (Nat × Word) :=
  if x.1.n % x.1.span ≠ 0 || (x.2 && x.1.regs.any fun r => (t.portOf r).isSome) then some (0x01, w.setWidth 64)
  else match overWindow t [x.1] with
    | some n => some (0x02, BitVec.ofNat 64 n)
    | none => none

/-- The iterations whose registers differ (R164). -/
def PitchBody.phases (b : PitchBody) : Nat := min b.count (2 ^ b.rot)

/-- The first trap of the start's checks (R164): iterations, then body instructions, then fields. The fields of one instruction are
tested rs1, rs2, rd, and the checks of operands that do not move come here too, after the exit on a count of 0 (DESIGN CHOICE,
notes/assumptions/99.md). -/
def PitchBody.check (t : Thread) (b : PitchBody) : Option (Nat × Word) :=
  (List.range b.phases).findSome? fun k => b.instrs.findSome? fun i =>
    match spanShape i.latch i.instr with
    | none => none
    | some sh =>
      if sh.illegal then some (0x01, i.word.setWidth 64)
      else (staggered t b k sh.uses).findSome? (operandTrap t i.word)

/-- The registers the replays read or write (R165). -/
def PitchBody.registers (t : Thread) (b : PitchBody) : List Nat :=
  ((List.range b.phases).flatMap fun k => b.instrs.flatMap fun i =>
    match spanShape i.latch i.instr with
    | none => []
    | some sh => (staggered t b k sh.uses).flatMap fun x => x.1.regs).foldl nsIns []

/-- pitch (R164). -/
def execPitch (len : BitVec 4) (stag rs1 : BitVec 5) (sd sa sb : BitVec 1) (rot : BitVec 2) (s : State) :
    Host.Outcome State Fault Refusal :=
  let a := rs1.toNat
  issue s (s.latch.n != 0) [rs a] fun s c =>
    if c.t.body.isSome then s.park c.slot .noBody else
    let n := len.toNat + 1
    match readBody c.slot c.t (3 * n + 1) s n 1 {} [] with
    | (s1, .error (k, v)) => s1.trapc c k v
    | (s1, .ok (is, words)) =>
      let npc := c.t.pc + BitVec.ofNat 64 (4 * words)
      let b : PitchBody := {
        instrs := is, stag := stag.toNat, rot := rot.toNat, sd := sd == 1#1, sa := sa == 1#1, sb := sb == 1#1
        count := (c.x a).toNat % 2 ^ 32, iter := 0, index := 0, heldRegs := [], heldPorts := [], stop := none
        taken := false, resumeAt := none }
      if b.count = 0 then s1.jumpTo c npc 0 [] else
      match b.check c.t with
      | some (k, v) => s1.trapc c k v
      | none =>
        if 4 ≤ s1.bodiesOn c.core then s1.park c.slot .sequencer else
        let regs := b.registers c.t
        let ports := (c.t.ports.filter fun hp => regs.any hp.2.covers).map (·.1)
        (s1.modThread c.slot fun t => { t with
          body := some { b with heldRegs := regs, heldPorts := ports, seq := s1.freeSequencer c.core } }).jumpTo c npc 0 []

/-- The word with another register number in a field's five bits. -/
def withField (w : BitVec 32) (lo r : Nat) : BitVec 32 :=
  (w &&& ~~~(31#32 <<< lo)) ||| (BitVec.ofNat 32 (r % 32) <<< lo)

/-- A replay (R165): the body instruction of an iteration with its fields staggered, and the latch it executes under. -/
def replayOf (t : Thread) (b : PitchBody) : Option (Instr × Latch) :=
  match b.instrs[b.index]? with
  | none => none
  | some i =>
    match spanShape i.latch i.instr with
    | none => none
    | some sh =>
      let us := (staggered t b b.iter sh.uses).map (·.1.n)
      let three := us.length = 3
      let r1 := us.getD 0 0
      let r2 := if three then us.getD 1 0 else 0
      let d := us.getD (if three then 2 else 1) 0
      let w1 := withField (withField i.word 15 r1) 7 d
      let w2 := if three then withField w1 20 r2 else w1
      match decodeWord w2 with
      | .ok j => some (j, { i.latch with
          reach := some (BitVec.ofNat 2 (d / 32), BitVec.ofNat 2 (r1 / 32), BitVec.ofNat 2 (r2 / 32)), replay := 1 })
      | .error _ => none

end Sys2Proof.Machine
end

