-- ==== Sys2Proof/Machine/PortSteps.lean ====
section
/-! DEFINITION. Sys2Proof/Machine/PortSteps.lean: the steps of stream ports: a read port's request (R152, R153) and the
performing of a push (R154). -/

namespace Sys2Proof.Machine

/-- The port has room for its next element, and its request can be made (R152). A link-in port requests nothing of memory (R155). -/
def State.portWants (s : State) (slot h : Nat) (p : Port) : Bool := decide (p.kind < 2) && p.roomy && decide (s.fetchPort slot h ≠ s)

/-- The ports of a thread may be granted elements: it is on its core. -/
def Thread.portsRun (t : Thread) : Bool := !t.frozen && t.run != .spilled && t.run != .traversing

/-- The ports of a core that may be granted an element, numbered slot * 16 + handle within the core. -/
def State.portsWanting (s : State) (core : Nat) : List Nat :=
  s.threads.flatMap fun t => if coreOf t.1 ≠ core ∨ !t.2.portsRun then [] else
    (t.2.ports.filter fun p => s.portWants t.1 p.1 p.2).map fun p => t.1 % 64 * 16 + p.1

/-- The port of a core granted next: the first, after the one granted last, that wants an element (R152). -/
def State.nextPort (s : State) (core : Nat) : Option Nat :=
  let l := s.portsWanting core
  let last := (s.core core).prefetchPtr
  match (l.filter (last < ·)).min? with
  | some n => some n
  | none => l.min?

/-- PORT_PREFETCH (R152, R153): the port is granted an element where it is its turn, one a cycle on a core; a link-in port draws a
word from its FIFO (R155). -/
def execPortPrefetch (slot port : Nat) (s : State) : Host.Outcome State Fault Refusal :=
  event s fun s =>
    let core := coreOf slot
    match s.thread? slot, s.port? slot port with
    | some t, some p =>
      if !t.portsRun then s
      else if p.kind = 2 then s.drawLink slot port
      else if (s.core core).prefetchAt = some s.cycle || s.nextPort core ≠ some (slot % 64 * 16 + port) then s
      else (s.modCore core fun c => { c with prefetchPtr := slot % 64 * 16 + port, prefetchAt := some s.cycle }).fetchPort slot port
    | _, _ => s

/-- Where the g words of a push go, or the first failure (R154). A push that sets tags finds none in the host's memory: cause 0x09
(R403; DEDUCED, notes/assumptions/84.md). -/
def State.pushTargets (s : State) (slot : Nat) (t : Thread) (sync : Nat) (a : Word) : Nat → State × Except (Nat × Word) (List (Word × Target))
  | 0 => (s, .ok [])
  | n + 1 =>
    match s.pushTargets slot t sync a n with
    | (s1, .ok l) =>
      let va := a + BitVec.ofNat 64 (8 * n)
      match s1.portTarget slot t va .store with
      | (s2, .error c) => (s2, .error (c, va))
      | (s2, .ok (.host x)) => (s2, if sync = 1 then .error (0x09, va) else .ok (l ++ [(va, .host x)]))
      | (s2, .ok x) => (s2, .ok (l ++ [(va, x)]))
    | r => r

/-- Earlier stores of the thread that a push to word k follows (R118, R154, R292): older entries of the store buffer, stores
in flight, and older pushes. -/
def State.pushAfter (s : State) (slot ident k : Nat) : Bool := (s.ownBefore (coreOf slot) slot k).any (· < ident)

/-- A word of a push is performed: its tag is set full when sync = 1 (R154). The cause where memory outside the package denies it. -/
def State.pushWord (s : State) (slot port sync : Nat) (va : Word) (x : Target) (v : Word) : State × Option Nat :=
  match x with
  | .mem ad _ | .store _ ad _ =>
    (((s.unitAt (coreOf slot) (ad / 8)).getD s).writeWord (ad / 8) 0xFF#8 v (if sync = 1 then some true else none), none)
  | x => s.writeOutside slot x (.word v (decide (sync = 1)) false) va (port := some port)

/-- A write of the port has left the package and waits for its acknowledgement (R285). -/
def State.pushAway (s : State) (slot port : Nat) : Bool := s.flights.any fun f => f.slot == slot && f.port == some port

/-- The port's failure is recorded; pushes behind it are not performed (R154). -/
def State.failPush (s : State) (slot port : Nat) (f : Nat × Word) : State :=
  s.modPort slot port fun p => { p with pushes := [], failed := some f }

/-- PORT_PUSH_PERFORM (R154): the port's oldest push is stored, or its failure recorded; pushes behind a failed one are not
performed. Its words cross the fabric in this step, where no other request waits at their homes (R103, notes/assumptions/63.md); one
with words outside the package ends with their acknowledgement (R285). -/
def execPortPushPerform (slot port : Nat) (s : State) : Host.Outcome State Fault Refusal :=
  event s fun s =>
    match s.thread? slot, s.port? slot port with
    | some t, some p =>
      match p.pushes with
      | [] => s
      | q :: _ =>
        if s.pushAway slot port then s else
        match s.pushTargets slot t p.sync q.addr q.words.length with
        | (s1, .error f) => s1.failPush slot port f
        | (s1, .ok l) =>
          if l.any fun x => s1.pushAfter slot q.ident (x.2.key.getD 0) || (s1.portAt (coreOf slot) (x.2.key.getD 0)).isNone then s1 else
          let r := (l.zip q.words).foldl (fun (r : State × Option (Nat × Word)) x =>
            match r.1.pushWord slot port p.sync x.1.1 x.1.2 x.2 with
            | (s2, c) => (s2, r.2 <|> c.map fun c => (c, x.1.1))) (s1, none)
          match r.2 with
          | some f => r.1.failPush slot port f
          | none => if r.1.pushAway slot port then r.1 else r.1.modPort slot port fun p => { p with pushes := p.pushes.drop 1 }
    | _, _ => s

end Sys2Proof.Machine
end

