-- ==== Sys2Proof/Machine/Quant.lean ====
section
/-! DEFINITION. Sys2Proof/Machine/Quant.lean: the custom-1 instructions: compares, bit and sign forms, masks, conversions,
quantising, and tabld (R207 to R217). -/

namespace Sys2Proof.Machine

/-- A compare (R208): all-ones where the relation holds. ord reads the order of two floating-point values; a NaN operand
makes the relation false, and sets NV where signals says so. -/
def cmpForm (s : State) (span : BitVec 2) (ty : Nat) (rd rs1 rs2 : BitVec 5) (signals : Bool) (ord : Int → Bool)
    (int : Nat → Nat → Nat → Bool) : Host.Outcome State Fault Refusal :=
  let w := tyWidth ty
  let l := s.latch
  spanForm s (shape2 l span ty rd rs1 rs2) false (span == 0) .sign w (l.rd rd) fun _ c _ =>
    lanesOf ((List.range (laneCount span w)).map fun i =>
      let a := c.lane (l.rs1 rs1) w i
      let b := c.lane (l.rs2 rs2) w i
      let yes (p : Bool) : Nat := if p then 2 ^ w - 1 else 0
      if tyIsFp ty then
        let x := (tyFmt ty).decode a
        let y := (tyFmt ty).decode b
        if x.isNan || y.isNan then ⟨0, if signals then flNV else 0⟩ else ⟨yes (ord (x.cmp y)), 0⟩
      else ⟨yes (int w a b), 0⟩)

/-- cmpeq (R208). -/
def execCmpeq (span : BitVec 2) (ty : BitVec 3) (rd rs1 rs2 : BitVec 5) (s : State) : Host.Outcome State Fault Refusal :=
  cmpForm s span ty.toNat rd rs1 rs2 false (fun o => o == 0) fun _ a b => a == b

/-- cmplt (R208): signed for integers. -/
def execCmplt (span : BitVec 2) (ty : BitVec 3) (rd rs1 rs2 : BitVec 5) (s : State) : Host.Outcome State Fault Refusal :=
  cmpForm s span ty.toNat rd rs1 rs2 true (fun o => o == -1) fun w a b => decide (sval w a < sval w b)

/-- cmple (R208). -/
def execCmple (span : BitVec 2) (ty : BitVec 3) (rd rs1 rs2 : BitVec 5) (s : State) : Host.Outcome State Fault Refusal :=
  cmpForm s span ty.toNat rd rs1 rs2 true (fun o => o != 1) fun w a b => decide (sval w a ≤ sval w b)

/-- cmpltn (R208): unsigned less-than. -/
def execCmpltn (span ty : BitVec 2) (rd rs1 rs2 : BitVec 5) (s : State) : Host.Outcome State Fault Refusal :=
  cmpForm s span (4 + ty.toNat) rd rs1 rs2 false (fun _ => false) fun _ a b => decide (a < b)

/-- A lane converted between types (R193, R211): signed tells how integers are read. -/
def convertLane (ty dt : Nat) (signed : Bool) (m : Mode) (a : Nat) : Res :=
  match tyIsFp ty, tyIsFp dt with
  | true, true =>
    let v := (tyFmt ty).decode a
    let r := (tyFmt dt).ofFv m v
    ⟨r.bits, r.flags ||| v.sigFlag⟩
  | true, false =>
    let r := toInteger (tyWidth dt) signed m ((tyFmt ty).decode a)
    ⟨cut (tyWidth dt) r.1, r.2⟩
  | false, true => (tyFmt dt).ofInt m (if signed then sval (tyWidth ty) a else a)
  | false, false => ⟨cut (tyWidth dt) (if signed then sval (tyWidth ty) a else a), 0⟩

/-- cvt and cvtr (R211). -/
def convertForm (s : State) (span : BitVec 2) (ty dt : Nat) (rd rs1 : BitVec 5) (signed rounds : Bool) (mode : Option Mode) :
    Host.Outcome State Fault Refusal :=
  let w := tyWidth ty
  let l := s.latch
  spanForm s (shapeCvt l span ty dt rd rs1) rounds (span == 0) (if tyIsFp dt then .ones else .sign) (tyWidth dt) (l.rd rd)
    fun _ c m => lanesOf ((c.lanes (l.rs1 rs1) w (laneCount span w)).map (convertLane ty dt signed (mode.getD m)))

/-- cvt (R211): sel holds the destination type and u; frm is read when either type is floating-point. -/
def execCvt (span : BitVec 2) (ty : BitVec 3) (rd rs1 sel : BitVec 5) (s : State) : Host.Outcome State Fault Refusal :=
  let dt := sel.toNat % 8
  convertForm s span ty.toNat dt rd rs1 (!sel.getLsbD 3) (tyIsFp ty.toNat || tyIsFp dt) none

/-- cvtr (R211): sel holds the destination type and the rounding mode. -/
def execCvtr (span : BitVec 2) (ty : BitVec 3) (rd rs1 sel : BitVec 5) (s : State) : Host.Outcome State Fault Refusal :=
  convertForm s span ty.toNat (sel.toNat % 8) rd rs1 true false (modeOf (sel.toNat / 8))

/-- A lanewise form of one source that sets no flag (R209). -/
def bitForm (s : State) (span : BitVec 2) (ty : Nat) (rd rs1 : BitVec 5) (f : Nat → Nat → Nat) :
    Host.Outcome State Fault Refusal :=
  let w := tyWidth ty
  let l := s.latch
  spanForm s (shape1 l span ty rd rs1) false (span == 0) (if tyIsFp ty then .ones else .sign) w (l.rd rd) fun _ c _ =>
    { vals := (c.lanes (l.rs1 rs1) w (laneCount span w)).map (f w) }

/-- Leading zeros of a lane of width w. -/
def leadingZeros (w v : Nat) : Nat := if v = 0 then w else w - 1 - Nat.log2 v

/-- Set bits of the low n bits. -/
def popCount (v : Nat) (n : Nat) : Nat := ((List.range n).filter fun i => v.testBit i).length

/-- clz (R209). -/
def execClz (span ty : BitVec 2) (rd rs1 : BitVec 5) (s : State) : Host.Outcome State Fault Refusal :=
  bitForm s span (4 + ty.toNat) rd rs1 leadingZeros

/-- popc (R209). -/
def execPopc (span ty : BitVec 2) (rd rs1 : BitVec 5) (s : State) : Host.Outcome State Fault Refusal :=
  bitForm s span (4 + ty.toNat) rd rs1 fun w v => popCount v w

/-- abs (R209): the sign bit alone is cleared on floating-point lanes. -/
def execAbs (span : BitVec 2) (ty : BitVec 3) (rd rs1 : BitVec 5) (s : State) : Host.Outcome State Fault Refusal :=
  bitForm s span ty.toNat rd rs1 fun w v =>
    if tyIsFp ty.toNat then v % 2 ^ (w - 1) else cut w (sval w v).natAbs

/-- neg (R209): the sign bit alone is inverted on floating-point lanes. -/
def execNeg (span : BitVec 2) (ty : BitVec 3) (rd rs1 : BitVec 5) (s : State) : Host.Outcome State Fault Refusal :=
  bitForm s span ty.toNat rd rs1 fun w v =>
    if tyIsFp ty.toNat then v ^^^ 2 ^ (w - 1) else cut w (-(v : Int))

/-- perm (R209). -/
def execPerm (span : BitVec 2) (ty : BitVec 3) (rd rs1 rs2 : BitVec 5) (s : State) : Host.Outcome State Fault Refusal :=
  let w := tyWidth ty.toNat
  let l := s.latch
  spanForm s (shape2 l span ty.toNat rd rs1 rs2) false (span == 0) (if tyIsFp ty.toNat then .ones else .sign) w (l.rd rd)
    fun _ c _ =>
      let n := laneCount span w
      { vals := (c.lanes (l.rs2 rs2) w n).map fun b => c.lane (l.rs1 rs1) w (b % n) }

/-- gsum (R209). -/
def execGsum (span ty : BitVec 2) (rd rs1 : BitVec 5) (s : State) : Host.Outcome State Fault Refusal :=
  let w := tyWidth (4 + ty.toNat)
  let l := s.latch
  spanForm s (shape1 l span (4 + ty.toNat) rd rs1) false (span == 0) .sign w (l.rd rd) fun _ c _ =>
    let n := laneCount span w
    { vals := List.replicate n ((c.lanes (l.rs1 rs1) w n).foldl (· + ·) 0 % 2 ^ w) }

/-- The class of a floating-point value (R209). -/
def classOf (f : Fmt) (b : Nat) : Nat :=
  match f.decode b with
  | .inf n => if n then 1 else 2 ^ 7
  | .nan sig => if sig then 2 ^ 8 else 2 ^ 9
  | .fin n m _ =>
    if m = 0 then (if n then 2 ^ 3 else 2 ^ 4)
    else if m < 2 ^ f.mbits then (if n then 2 ^ 2 else 2 ^ 5)
    else (if n then 2 ^ 1 else 2 ^ 6)

/-- fclass (R209). -/
def execFclass (span ty : BitVec 2) (rd rs1 : BitVec 5) (s : State) : Host.Outcome State Fault Refusal :=
  let w := tyWidth ty.toNat
  let l := s.latch
  spanForm s (shape1 l span ty.toNat rd rs1) false (span == 0) .sign w (l.rd rd) fun _ c _ =>
    { vals := (c.lanes (l.rs1 rs1) w (laneCount span w)).map (classOf (tyFmt ty.toNat)) }

/-- lmsk (R210): the top bit of every lane in one register. -/
def execLmsk (span : BitVec 2) (ty : BitVec 3) (rd rs1 : BitVec 5) (s : State) : Host.Outcome State Fault Refusal :=
  let w := tyWidth ty.toNat
  let l := s.latch
  spanForm s (shapeMask l span ty.toNat rd rs1) false true .zeros 64 (l.rd rd) fun _ c _ =>
    { vals := [((c.lanes (l.rs1 rs1) w (laneCount span w)).zipIdx).foldl (fun a x => a + x.1 / 2 ^ (w - 1) % 2 * 2 ^ x.2) 0] }

/-- lexp (R210): a lane of all-ones or zero for each bit of a register. -/
def execLexp (span : BitVec 2) (ty : BitVec 3) (rd rs1 : BitVec 5) (s : State) : Host.Outcome State Fault Refusal :=
  let w := tyWidth ty.toNat
  let l := s.latch
  spanForm s (shapeExpand l span ty.toNat rd rs1) false (span == 0) .sign w (l.rd rd) fun _ c _ =>
    { vals := (List.range (laneCount span w)).map fun i => if (c.x (l.rs1 rs1)).getLsbD i then 2 ^ w - 1 else 0 }

/-- qenc, qfp8, qfp8x (R212): q quantises a lane with a scale; with counts, more saturated lanes than thr raise cause
0x0B. -/
def quantForm (s : State) (span ty : BitVec 2) (rd rs1 rs2 : BitVec 5) (counts : Bool) (q : State → Ctx → Fv → Fv → Quant) :
    Host.Outcome State Fault Refusal :=
  let w := tyWidth ty.toNat
  let l := s.latch
  spanForm s (shapeQuant l span ty.toNat rd rs1 rs2) false (span == 0) .zeros 8 (l.rd rd) fun s c _ =>
    let x := c.x (l.rs2 rs2)
    let sc := f32.decode (x.extractLsb' 0 32).toNat
    let thr := (x.extractLsb' 32 8).toNat
    let qs := (c.lanes (l.rs1 rs1) w (laneCount span w)).map fun v => q s c ((tyFmt ty.toNat).decode v) sc
    let n := (qs.filter (·.sat)).length
    { vals := qs.map (·.bits), flags := qs.foldl (fun f r => f ||| r.flags) 0
      trap := if counts && decide (thr < n) then some (0x0B, BitVec.ofNat 64 (thr * 256 + n)) else none }

/-- The code table a thread's tabsel selects on its core (R195, R215). -/
def State.tableOf (s : State) (c : Ctx) : CodeTable := amGetD (s.core c.core).tables (c.t.tabsel.toNat % 4) {}

/-- qenc (R212). -/
def execQenc (span ty : BitVec 2) (rd rs1 rs2 : BitVec 5) (s : State) : Host.Outcome State Fault Refusal :=
  quantForm s span ty rd rs1 rs2 true fun s c => (s.tableOf c).quantise

/-- qfp8 (R212): e4m3. -/
def execQfp8 (span ty : BitVec 2) (rd rs1 rs2 : BitVec 5) (s : State) : Host.Outcome State Fault Refusal :=
  quantForm s span ty rd rs1 rs2 true fun _ _ => e4m3.quantise

/-- qfp8x (R212): e5m2, never cause 0x0B. -/
def execQfp8x (span ty : BitVec 2) (rd rs1 rs2 : BitVec 5) (s : State) : Host.Outcome State Fault Refusal :=
  quantForm s span ty rd rs1 rs2 false fun _ _ => e5m2.quantise

/-- qdec, dfp8, dfp8x (R213): the decoded value times the decode scale, rounded once. -/
def dequantForm (s : State) (span ty : BitVec 2) (rd rs1 rs2 : BitVec 5) (v : State → Ctx → Nat → Fv) :
    Host.Outcome State Fault Refusal :=
  let w := tyWidth ty.toNat
  let l := s.latch
  spanForm s (shapeDequant l span ty.toNat rd rs1 rs2) true (span == 0) .ones w (l.rd rd) fun s c m =>
    let sc := f32.decode ((c.x (l.rs2 rs2)).extractLsb' 0 32).toNat
    lanesOf ((c.lanes (l.rs1 rs1) 8 (laneCount span w)).map fun b => (tyFmt ty.toNat).finish m ((v s c b).mul sc))

/-- qdec (R213). -/
def execQdec (span ty : BitVec 2) (rd rs1 rs2 : BitVec 5) (s : State) : Host.Outcome State Fault Refusal :=
  dequantForm s span ty rd rs1 rs2 fun s c => (s.tableOf c).value

/-- dfp8 (R213): e4m3. -/
def execDfp8 (span ty : BitVec 2) (rd rs1 rs2 : BitVec 5) (s : State) : Host.Outcome State Fault Refusal :=
  dequantForm s span ty rd rs1 rs2 fun _ _ => e4m3.decode

/-- dfp8x (R213): e5m2. -/
def execDfp8x (span ty : BitVec 2) (rd rs1 rs2 : BitVec 5) (s : State) : Host.Outcome State Fault Refusal :=
  dequantForm s span ty rd rs1 rs2 fun _ _ => e5m2.decode

/-- tabld (R214): it waits for a sibling's pitch body that codes through the table, and for a sibling's tabld (R216, R217). -/
def execTabld (t : BitVec 2) (rs1 : BitVec 5) (s : State) : Host.Outcome State Fault Refusal :=
  let a := s.latch.rs1 rs1
  issue s false [rs a] fun s c =>
    let ea := c.x a
    if ea.toNat % 64 ≠ 0 then s.trapc c 0x03 ea else
    if s.tableBusy c.slot t.toNat || s.tableLoads c.slot then s.park c.slot (.tableFree t.toNat) else
    let p : Pend := ⟨.none, 0, c.npc, [], [], [], 7, t.toNat, ea, []⟩
    let rs : List WordReq := (List.range 128).map fun i => let va := ea + BitVec.ofNat 64 (8 * i); ⟨va, va, 0xFF⟩
    if s.slow then loadSlow s c p rs else
    loadAll c .load (fun s l f => s.askFar c p l f) rs s fun s ws =>
      (s.modCore c.core fun k => { k with tables := amPut k.tables t.toNat (tableOfWords ws) }).done c

end Sys2Proof.Machine
end

