-- ==== Sys2Proof/Machine/TagTable.lean ====
section
/-! DEFINITION. Sys2Proof/Machine/TagTable.lean: the software cache's tag table (R123 to R125). -/

namespace Sys2Proof.Machine

/-- A tag table's header fields (R123). -/
structure TagHeader where
  dbase : Nat
  lsz : Nat
  wlog : Nat
  slog : Nat
deriving DecidableEq, Repr

def tagHeader (h : Word) : TagHeader :=
  ⟨(h.extractLsb' 28 18).toNat, (h.extractLsb' 12 4).toNat, (h.extractLsb' 6 2).toNat, (h.extractLsb' 0 6).toNat⟩

/-- The header is one R125 accepts for a table at store offset off in a store of size bytes. -/
def TagHeader.ok (h : TagHeader) (off size : Nat) : Bool :=
  decide (6 ≤ h.lsz) && decide (h.lsz ≤ 12) && decide (h.slog ≤ 12) && decide (h.dbase % 2 ^ h.lsz = 0) &&
  decide (off + 64 + 2 ^ h.slog * 2 ^ h.wlog * 8 ≤ size) && decide (h.dbase + 2 ^ (h.slog + h.wlog + h.lsz) ≤ size)

/-- Fields of an entry (R124). -/
def entKey (e : Word) : Nat := (e.extractLsb' 8 56).toNat
def entValid (e : Word) : Bool := e.getLsbD 7
def entPin (e : Word) : Bool := e.getLsbD 5
def entAge (e : Word) : Nat := (e.extractLsb' 0 3).toNat
def entWithAge (e : Word) (a : Nat) : Word := (e &&& ~~~(7#64)) ||| BitVec.ofNat 64 (a % 8)

/-- touch(w, a) of R125. -/
def tagTouch (es : List Word) (w a : Nat) : List Word :=
  es.zipIdx.map fun x =>
    if x.2 = w then entWithAge x.1 0
    else if entValid x.1 && decide (entAge x.1 < a) then entWithAge x.1 (entAge x.1 + 1) else x.1

/-- The lowest way that holds the key (R125). -/
def tagHit (es : List Word) (key : Nat) : Option Nat := es.findIdx? fun e => entValid e && entKey e == key

/-- The unpinned way of greatest age, lowest on ties (R125). -/
def tagVictim (es : List Word) : Option Nat :=
  (es.zipIdx.filter fun x => !entPin x.1).foldl (fun best x =>
    match best with
    | none => some x.2
    | some w => if entAge (es.getD w 0) < entAge x.1 then some x.2 else some w) none

/-- What a tag-table instruction makes of a set: the results and the set afterwards. line w is a line's address, at is the
address of the set. -/
abbrev TagAct := List Word → (line : Nat → Word) → (key : Nat) → (low at' : Word) → List Word × List Word

/-- tlook (R125). -/
def tlookAct : TagAct := fun es line key low at' =>
  match tagHit es key with
  | some w => ([line w + low, at' + BitVec.ofNat 64 (8 * w)], tagTouch es w (entAge (es.getD w 0)))
  | none => ([0, at'], es)

/-- tins (R125). The reserved bits of a new entry are 0 (DESIGN CHOICE, notes/assumptions/73.md: R125 gives it every other
field). -/
def tinsAct : TagAct := fun es line key _ _ =>
  let new : Word := BitVec.ofNat 64 (key * 256 + 128)
  match tagHit es key with
  | some w =>
    let es1 := tagTouch es w (entAge (es.getD w 0))
    ([line w + 2, es1.getD w 0], es1)
  | none =>
    match es.findIdx? fun e => !entValid e with
    | some w => ([line w, 0], (tagTouch es w (es.length - 1)).set w new)
    | none =>
      match tagVictim es with
      | some w => ([line w + 1, es.getD w 0], (tagTouch es w (entAge (es.getD w 0))).set w new)
      | none => ([3, 0], es)

/-- tinv (R125). -/
def tinvAct : TagAct := fun es _ key _ _ =>
  match tagHit es key with
  | some w =>
    let old := es.getD w 0
    ([old], (es.map fun e => if entValid e && decide (entAge old < entAge e) then entWithAge e (entAge e - 1) else e).set w 0)
  | none => ([0], es)

/-- Reads words k, k + 1 ... of the own store: their values, or the place of the first poisoned one. -/
def readRow (s : State) (k : Nat) : Nat → State × Except Nat (List Word)
  | 0 => (s, .ok [])
  | n + 1 =>
    match readRow s k n with
    | (s1, .ok l) =>
      match s1.readWord (k + n) with
      | (s2, .ok v) => (s2, .ok (l ++ [v]))
      | (s2, .error _) => (s2, .error n)
    | r => r

/-- A tag-table instruction (R125): its accesses to the table are indivisible, and follow the buffered stores to the same
words. -/
def tagOp (s : State) (rd rs1 rs2 : BitVec 5) (span : Nat) (act : TagAct) : Host.Outcome State Fault Refusal :=
  let d := s.latch.rd rd
  let a := s.latch.rs1 rs1
  let b := s.latch.rs2 rs2
  issue s false [rs a, rs b, rdst d span] fun s c =>
    let t := c.x a
    let va := c.x b
    let size := storeSize c.core
    if t.toNat % 64 ≠ 0 ∨ t.toNat < Config.ownBase ∨ Config.ownBase + size ≤ t.toNat then s.trapc c 0x08 t else
    let off := t.toNat - Config.ownBase
    let k0 := (storeBase c.core + off) / 8
    let wait (s : State) (ks : List Nat) : List Nat :=
      ks.flatMap (sbTouching (s.core c.core).sb) ++ s.ownBefore c.core c.slot k0
    match wait s [k0] with
    | i :: is => s.park c.slot (.drained (i :: is))
    | [] =>
      match s.readWord k0 with
      | (s1, .error _) => s1.trapc c 0x0E t
      | (s1, .ok hw) =>
        let h := tagHeader hw
        if !h.ok off size then s1.trapc c 0x08 t else
        let n := 2 ^ h.wlog
        let key := va.toNat / 2 ^ h.lsz % 2 ^ 56
        let set := key % 2 ^ h.slog
        let ke := k0 + 8 + set * n
        let at' := t + BitVec.ofNat 64 (64 + set * n * 8)
        match wait s1 ((List.range n).map (ke + ·)) with
        | i :: is => s1.park c.slot (.drained (i :: is))
        | [] =>
          match readRow s1 ke n with
          | (s2, .error w) => s2.trapc c 0x0E (at' + BitVec.ofNat 64 (8 * w))
          | (s2, .ok es) =>
            let line (w : Nat) : Word := BitVec.ofNat 64 (Config.ownBase + h.dbase + (set * n + w) * 2 ^ h.lsz)
            let r := act es line key (BitVec.ofNat 64 (va.toNat % 2 ^ h.lsz)) at'
            let s3 := (List.range n).foldl (fun s w =>
              if es.getD w 0 = r.2.getD w 0 then s else s.writeWord (ke + w) 0xFF#8 (r.2.getD w 0) none) s2
            s3.finish c d r.1

/-- tlook (R125). -/
def execTlook (rd rs1 rs2 : BitVec 5) (s : State) : Host.Outcome State Fault Refusal := tagOp s rd rs1 rs2 2 tlookAct

/-- tins (R125). -/
def execTins (rd rs1 rs2 : BitVec 5) (s : State) : Host.Outcome State Fault Refusal := tagOp s rd rs1 rs2 2 tinsAct

/-- tinv (R125). -/
def execTinv (rd rs1 rs2 : BitVec 5) (s : State) : Host.Outcome State Fault Refusal := tagOp s rd rs1 rs2 1 tinvAct

end Sys2Proof.Machine
end

