-- ==== Sys2Proof/Machine/Xempty.lean ====
section
/-! DEFINITION. Sys2Proof/Machine/Xempty.lean: emptying registers (R177). -/

namespace Sys2Proof.Machine

/-- xempty (R177): the registers keep their values, unseen. -/
def execXempty (nlog : BitVec 2) (rd : BitVec 5) (s : State) : Host.Outcome State Fault Refusal :=
  let n := 2 ^ nlog.toNat
  let d := s.latch.rd rd
  issue s false [rname d n] fun s c =>
    let regs := (List.range n).map (d + ·)
    if regs.any fun r => (c.t.portOf r).isSome then s.trapc c 0x01 c.w
    else if heldRegs c.t regs then s.park c.slot (.heldBy regs [])
    else (s.modThread c.slot fun t => regs.foldl Thread.emptyX t).done c

end Sys2Proof.Machine
end

