-- ==== Sys2Proof/Machine/Meanings.lean ====
section
/-! DEFINITION. Sys2Proof/Machine/Meanings.lean: the meaning of an instruction that is fetched as words, as the replays of a
pitch body (R165) and the steps of a rope (R322) execute it. Dispatch.lean calls the same meanings. -/

namespace Sys2Proof.Machine

/-- The meaning of an encoded instruction; the steps of other agents are in no stream. -/
def encodedMeaning (i : Instr) (s : State) : Host.Outcome State Fault Refusal :=
  match i with
  | .lb rd rs1 imm => execLb rd rs1 imm s
  | .lh rd rs1 imm => execLh rd rs1 imm s
  | .lw rd rs1 imm => execLw rd rs1 imm s
  | .ld rd rs1 imm => execLd rd rs1 imm s
  | .lbu rd rs1 imm => execLbu rd rs1 imm s
  | .lhu rd rs1 imm => execLhu rd rs1 imm s
  | .lwu rd rs1 imm => execLwu rd rs1 imm s
  | .fence fm pred succ => execFence fm pred succ s
  | .fenceI => execFenceI s
  | .addi rd rs1 imm => execAddi rd rs1 imm s
  | .slti rd rs1 imm => execSlti rd rs1 imm s
  | .sltiu rd rs1 imm => execSltiu rd rs1 imm s
  | .xori rd rs1 imm => execXori rd rs1 imm s
  | .ori rd rs1 imm => execOri rd rs1 imm s
  | .andi rd rs1 imm => execAndi rd rs1 imm s
  | .slli rd rs1 sh => execSlli rd rs1 sh s
  | .srli rd rs1 sh => execSrli rd rs1 sh s
  | .srai rd rs1 sh => execSrai rd rs1 sh s
  | .auipc rd imm => execAuipc rd imm s
  | .addiw rd rs1 imm => execAddiw rd rs1 imm s
  | .slliw rd rs1 sh => execSlliw rd rs1 sh s
  | .srliw rd rs1 sh => execSrliw rd rs1 sh s
  | .sraiw rd rs1 sh => execSraiw rd rs1 sh s
  | .sb rs2 rs1 imm => execSb rs2 rs1 imm s
  | .sh rs2 rs1 imm => execSh rs2 rs1 imm s
  | .sw rs2 rs1 imm => execSw rs2 rs1 imm s
  | .sd rs2 rs1 imm => execSd rs2 rs1 imm s
  | .add rd rs1 rs2 => execAdd rd rs1 rs2 s
  | .sub rd rs1 rs2 => execSub rd rs1 rs2 s
  | .sll rd rs1 rs2 => execSll rd rs1 rs2 s
  | .slt rd rs1 rs2 => execSlt rd rs1 rs2 s
  | .sltu rd rs1 rs2 => execSltu rd rs1 rs2 s
  | .xor rd rs1 rs2 => execXor rd rs1 rs2 s
  | .srl rd rs1 rs2 => execSrl rd rs1 rs2 s
  | .sra rd rs1 rs2 => execSra rd rs1 rs2 s
  | .or rd rs1 rs2 => execOr rd rs1 rs2 s
  | .and rd rs1 rs2 => execAnd rd rs1 rs2 s
  | .mul rd rs1 rs2 => execMul rd rs1 rs2 s
  | .mulh rd rs1 rs2 => execMulh rd rs1 rs2 s
  | .mulhsu rd rs1 rs2 => execMulhsu rd rs1 rs2 s
  | .mulhu rd rs1 rs2 => execMulhu rd rs1 rs2 s
  | .div rd rs1 rs2 => execDiv rd rs1 rs2 s
  | .divu rd rs1 rs2 => execDivu rd rs1 rs2 s
  | .rem rd rs1 rs2 => execRem rd rs1 rs2 s
  | .remu rd rs1 rs2 => execRemu rd rs1 rs2 s
  | .lui rd imm => execLui rd imm s
  | .addw rd rs1 rs2 => execAddw rd rs1 rs2 s
  | .subw rd rs1 rs2 => execSubw rd rs1 rs2 s
  | .sllw rd rs1 rs2 => execSllw rd rs1 rs2 s
  | .srlw rd rs1 rs2 => execSrlw rd rs1 rs2 s
  | .sraw rd rs1 rs2 => execSraw rd rs1 rs2 s
  | .mulw rd rs1 rs2 => execMulw rd rs1 rs2 s
  | .divw rd rs1 rs2 => execDivw rd rs1 rs2 s
  | .divuw rd rs1 rs2 => execDivuw rd rs1 rs2 s
  | .remw rd rs1 rs2 => execRemw rd rs1 rs2 s
  | .remuw rd rs1 rs2 => execRemuw rd rs1 rs2 s
  | .beq rs1 rs2 imm => execBeq rs1 rs2 imm s
  | .bne rs1 rs2 imm => execBne rs1 rs2 imm s
  | .blt rs1 rs2 imm => execBlt rs1 rs2 imm s
  | .bge rs1 rs2 imm => execBge rs1 rs2 imm s
  | .bltu rs1 rs2 imm => execBltu rs1 rs2 imm s
  | .bgeu rs1 rs2 imm => execBgeu rs1 rs2 imm s
  | .jalr rd rs1 imm => execJalr rd rs1 imm s
  | .jal rd imm => execJal rd imm s
  | .ecall => execEcall s
  | .ebreak => execEbreak s
  | .csrrw csr rd rs1 => execCsrrw csr rd rs1 s
  | .csrrs csr rd rs1 => execCsrrs csr rd rs1 s
  | .csrrc csr rd rs1 => execCsrrc csr rd rs1 s
  | .csrrwi csr rd uimm => execCsrrwi csr rd uimm s
  | .csrrsi csr rd uimm => execCsrrsi csr rd uimm s
  | .csrrci csr rd uimm => execCsrrci csr rd uimm s
  | .fadd span bc ty rd rs1 rs2 => execFadd span bc ty rd rs1 rs2 s
  | .fsub span bc ty rd rs1 rs2 => execFsub span bc ty rd rs1 rs2 s
  | .fmul span bc ty rd rs1 rs2 => execFmul span bc ty rd rs1 rs2 s
  | .fmac span bc ty rd rs1 rs2 => execFmac span bc ty rd rs1 rs2 s
  | .fmsc span bc ty rd rs1 rs2 => execFmsc span bc ty rd rs1 rs2 s
  | .fmin span bc ty rd rs1 rs2 => execFmin span bc ty rd rs1 rs2 s
  | .fmax span bc ty rd rs1 rs2 => execFmax span bc ty rd rs1 rs2 s
  | .fdiv span bc ty rd rs1 rs2 => execFdiv span bc ty rd rs1 rs2 s
  | .fsqrt span bc ty rd rs1 rs2 => execFsqrt span bc ty rd rs1 rs2 s
  | .frcpe span bc ty rd rs1 rs2 => execFrcpe span bc ty rd rs1 rs2 s
  | .frsqe span bc ty rd rs1 rs2 => execFrsqe span bc ty rd rs1 rs2 s
  | .fsgnj span bc ty rd rs1 rs2 => execFsgnj span bc ty rd rs1 rs2 s
  | .fsgnjn span bc ty rd rs1 rs2 => execFsgnjn span bc ty rd rs1 rs2 s
  | .fsgnjx span bc ty rd rs1 rs2 => execFsgnjx span bc ty rd rs1 rs2 s
  | .fsum span bc ty rd rs1 rs2 => execFsum span bc ty rd rs1 rs2 s
  | .fmaxa span bc ty rd rs1 rs2 => execFmaxa span bc ty rd rs1 rs2 s
  | .spanAdd span bc ty rd rs1 rs2 => execSpanAdd span bc ty rd rs1 rs2 s
  | .spanSub span bc ty rd rs1 rs2 => execSpanSub span bc ty rd rs1 rs2 s
  | .spanMin span bc ty rd rs1 rs2 => execSpanMin span bc ty rd rs1 rs2 s
  | .spanMax span bc ty rd rs1 rs2 => execSpanMax span bc ty rd rs1 rs2 s
  | .spanMaxn span bc ty rd rs1 rs2 => execSpanMaxn span bc ty rd rs1 rs2 s
  | .spanMul span bc ty rd rs1 rs2 => execSpanMul span bc ty rd rs1 rs2 s
  | .spanMulh span bc ty rd rs1 rs2 => execSpanMulh span bc ty rd rs1 rs2 s
  | .spanAnd span bc ty rd rs1 rs2 => execSpanAnd span bc ty rd rs1 rs2 s
  | .spanOr span bc ty rd rs1 rs2 => execSpanOr span bc ty rd rs1 rs2 s
  | .spanXor span bc ty rd rs1 rs2 => execSpanXor span bc ty rd rs1 rs2 s
  | .spanSll span bc ty rd rs1 rs2 => execSpanSll span bc ty rd rs1 rs2 s
  | .spanSrl span bc ty rd rs1 rs2 => execSpanSrl span bc ty rd rs1 rs2 s
  | .spanSra span bc ty rd rs1 rs2 => execSpanSra span bc ty rd rs1 rs2 s
  | .fsl span bc ty rd rs1 rs2 => execFsl span bc ty rd rs1 rs2 s
  | .fsr span bc ty rd rs1 rs2 => execFsr span bc ty rd rs1 rs2 s
  | .gmax span bc ty rd rs1 rs2 => execGmax span bc ty rd rs1 rs2 s
  | .cmpeq span ty rd rs1 rs2 => execCmpeq span ty rd rs1 rs2 s
  | .cmplt span ty rd rs1 rs2 => execCmplt span ty rd rs1 rs2 s
  | .cmple span ty rd rs1 rs2 => execCmple span ty rd rs1 rs2 s
  | .cmpltn span ty rd rs1 rs2 => execCmpltn span ty rd rs1 rs2 s
  | .cvt span ty rd rs1 sel => execCvt span ty rd rs1 sel s
  | .cvtr span ty rd rs1 sel => execCvtr span ty rd rs1 sel s
  | .clz span ty rd rs1 => execClz span ty rd rs1 s
  | .popc span ty rd rs1 => execPopc span ty rd rs1 s
  | .abs span ty rd rs1 => execAbs span ty rd rs1 s
  | .neg span ty rd rs1 => execNeg span ty rd rs1 s
  | .perm span ty rd rs1 rs2 => execPerm span ty rd rs1 rs2 s
  | .gsum span ty rd rs1 => execGsum span ty rd rs1 s
  | .fclass span ty rd rs1 => execFclass span ty rd rs1 s
  | .lmsk span ty rd rs1 => execLmsk span ty rd rs1 s
  | .lexp span ty rd rs1 => execLexp span ty rd rs1 s
  | .qenc span ty rd rs1 rs2 => execQenc span ty rd rs1 rs2 s
  | .qdec span ty rd rs1 rs2 => execQdec span ty rd rs1 rs2 s
  | .qfp8 span ty rd rs1 rs2 => execQfp8 span ty rd rs1 rs2 s
  | .qfp8x span ty rd rs1 rs2 => execQfp8x span ty rd rs1 rs2 s
  | .dfp8 span ty rd rs1 rs2 => execDfp8 span ty rd rs1 rs2 s
  | .dfp8x span ty rd rs1 rs2 => execDfp8x span ty rd rs1 rs2 s
  | .tabld t rs1 => execTabld t rs1 s
  | .ldg span rd rs1 imm => execLdg span rd rs1 imm s
  | .stg span rs2 rs1 imm => execStg span rs2 rs1 imm s
  | .lde rd rs1 => execLde rd rs1 s
  | .ldt rd rs1 => execLdt rd rs1 s
  | .stf rs1 rs2 => execStf rs1 rs2 s
  | .stp rs1 rs2 => execStp rs1 rs2 s
  | .tagrd rd rs1 => execTagrd rd rs1 s
  | .tagset rd rs1 rs2 => execTagset rd rs1 rs2 s
  | .waitA rd rs1 rs2 => execWaitA rd rs1 rs2 s
  | .wake rd rs1 rs2 => execWake rd rs1 rs2 s
  | .ldx rd rs1 => execLdx rd rs1 s
  | .stx rs2 rs1 rm => execStx rs2 rs1 rm s
  | .amadd size ar rd rs2 rs1 => execAmadd size ar rd rs2 rs1 s
  | .amand size ar rd rs2 rs1 => execAmand size ar rd rs2 rs1 s
  | .amor size ar rd rs2 rs1 => execAmor size ar rd rs2 rs1 s
  | .amxor size ar rd rs2 rs1 => execAmxor size ar rd rs2 rs1 s
  | .ammin size ar rd rs2 rs1 => execAmmin size ar rd rs2 rs1 s
  | .ammax size ar rd rs2 rs1 => execAmmax size ar rd rs2 rs1 s
  | .amminn size ar rd rs2 rs1 => execAmminn size ar rd rs2 rs1 s
  | .ammaxn size ar rd rs2 rs1 => execAmmaxn size ar rd rs2 rs1 s
  | .amswp size ar rd rs2 rs1 => execAmswp size ar rd rs2 rs1 s
  | .amcas size ar rd rs2 rs1 => execAmcas size ar rd rs2 rs1 s
  | .amfadd size ar rd rs2 rs1 => execAmfadd size ar rd rs2 rs1 s
  | .amfaddC size ar rd rs2 rs1 => execAmfaddC size ar rd rs2 rs1 s
  | .fenceS kind scope => execFenceS kind scope s
  | .fenceE => execFenceE s
  | .pbind rd rs1 rs2 => execPbind rd rs1 rs2 s
  | .punb rd rs1 => execPunb rd rs1 s
  | .pstat rd rs1 => execPstat rd rs1 s
  | .psave rs1 rs2 => execPsave rs1 rs2 s
  | .prest rd rs1 rs2 => execPrest rd rs1 rs2 s
  | .pskip rd rs1 rs2 => execPskip rd rs1 rs2 s
  | .isect rd rs1 => execIsect rd rs1 s
  | .tlook rd rs1 rs2 => execTlook rd rs1 rs2 s
  | .tins rd rs1 rs2 => execTins rd rs1 rs2 s
  | .tinv rd rs1 rs2 => execTinv rd rs1 rs2 s
  | .reach rs2hi rs1hi rdhi => execReach rs2hi rs1hi rdhi s
  | .when neg pbit => execWhen neg pbit s
  | .pitch len stag rs1 sd sa sb rot => execPitch len stag rs1 sd sa sb rot s
  | .mmBf16 s3 rd rs1 rs2 => execMmBf16 s3 rd rs1 rs2 s
  | .mmF16 s3 rd rs1 rs2 => execMmF16 s3 rd rs1 rs2 s
  | .mmE4m3 s3 rd rs1 rs2 => execMmE4m3 s3 rd rs1 rs2 s
  | .mmE5m2 s3 rd rs1 rs2 => execMmE5m2 s3 rd rs1 rs2 s
  | .mmE4m3E5m2 s3 rd rs1 rs2 => execMmE4m3E5m2 s3 rd rs1 rs2 s
  | .mmE5m2E4m3 s3 rd rs1 rs2 => execMmE5m2E4m3 s3 rd rs1 rs2 s
  | .mmC8 s3 rd rs1 rs2 => execMmC8 s3 rd rs1 rs2 s
  | .mmBf16C8 s3 rd rs1 rs2 => execMmBf16C8 s3 rd rs1 rs2 s
  | .mmE2m1 s3 rd rs1 rs2 => execMmE2m1 s3 rd rs1 rs2 s
  | .mmI8 s3 rd rs1 rs2 => execMmI8 s3 rd rs1 rs2 s
  | .mmF32x s3 rd rs1 rs2 => execMmF32x s3 rd rs1 rs2 s
  | .mbload rd rs1 => execMbload rd rs1 s
  | .mst rd rs1 => execMst rd rs1 s
  | .mwait rd rs1 => execMwait rd rs1 s
  | .mpoll rd rs1 => execMpoll rd rs1 s
  | .mrestart rd rs1 => execMrestart rd rs1 s
  | .mclr rd rs1 => execMclr rd rs1 s
  | .hcopy rd rs1 => execHcopy rd rs1 s
  | .hcopy2 rd rs1 => execHcopy2 rd rs1 s
  | .hcopyn rd rs1 => execHcopyn rd rs1 s
  | .hgath rd rs1 => execHgath rd rs1 s
  | .hscat rd rs1 => execHscat rd rs1 s
  | .hpair rd rs1 => execHpair rd rs1 s
  | .hwait rd rs1 => execHwait rd rs1 s
  | .hpoll rd rs1 => execHpoll rd rs1 s
  | .jobint rd rs1 => execJobint rd rs1 s
  | .salloc rd rs1 => execSalloc rd rs1 s
  | .sfree rd rs1 => execSfree rd rs1 s
  | .sset rd rs1 rs2 => execSset rd rs1 rs2 s
  | .supd rs1 rs2 rt => execSupd rs1 rs2 rt s
  | .sroll rd rs1 rs2 => execSroll rd rs1 rs2 s
  | .sscale rd rs1 rs2 => execSscale rd rs1 rs2 s
  | .sscaleH rd rs1 rs2 => execSscaleH rd rs1 rs2 s
  | .sread rd rs1 rs2 => execSread rd rs1 rs2 s
  | .sgen rd rs1 => execSgen rd rs1 s
  | .sflush rd => execSflush rd s
  | .sscaleG rd rs1 rs2 => execSscaleG rd rs1 rs2 s
  | .spawn rd rs1 => execSpawn rd rs1 s
  | .exit => execExit s
  | .yield => execYield s
  | .trav rd rs1 => execTrav rd rs1 s
  | .msgReg rs1 rs2 => execMsgReg rs1 rs2 s
  | .msgDec rs1 rs2 => execMsgDec rs1 rs2 s
  | .ctrSet rd rs1 rs2 => execCtrSet rd rs1 rs2 s
  | .ctrRd rd rs1 => execCtrRd rd rs1 s
  | .hcall rd rs1 rs2 => execHcall rd rs1 rs2 s
  | .hret rs1 => execHret rs1 s
  | .xempty nlog rd => execXempty nlog rd s
  | .ixret => execIxret s
  | .ropeForm rd rs1 => execRopeForm rd rs1 s
  | .ropeEnd => execRopeEnd s
  | .unclip rd => execUnclip rd s
  | .clip rd rs1 => execClip rd rs1 s
  | .collRed rd rs1 rs2 => execCollRed rd rs1 rs2 s
  | .gqPush rs1 rs2 => execGqPush rs1 rs2 s
  | .gqPop rd rs1 => execGqPop rd rs1 s
  | .gqWin rd rs1 rs2 => execGqWin rd rs1 rs2 s
  | .tret rs1 => execTret rs1 s
  | .xret => execXret s
  | .beat => execBeat s
  | .cairnOpen rd rs1 => execCairnOpen rd rs1 s
  | .cairnClose rd rs1 => execCairnClose rd rs1 s
  | .hintRegion => execHintRegion s
  | .packageReset | .cxlLinkReset | .powerMeasure _ | .thermalThrottle | .thermalTrip | .patrolScrub _ 
  | .queueDoorbell _ _ | .queueEnable _ _ | .registerWrite _ _ | .dispatchRecord | .launchAccept _ 
  | .launchEligible _ | .dependenceReread _ | .launchPlace _ | .threadStart _ | .launchComplete _ 
  | .createTenant _ _ _ _ | .assign _ _ _ | .writeAccessTableWord _ _ _ | .writeRouteEntry _ _ _ | .bindQueue _ _ 
  | .setHdmRange _ _ _ _ _ _ | .resetTenant _ | .destroyTenant _ | .setPowerLimit _ | .haltOrRelease _ _ _ 
  | .setBivouac _ _ _ | .hostRead _ _ | .hostWrite _ _ | .spdmCertificate | .spdmMeasurements | .peerAccess _ _ _ _ _ 
  | .linkReplay _ | .linkFailure _ | .routerForward _ _ _ | .combineWindowClose _ _ _ | .ageIncrement _ 
  | .depotSpill _ _ | .depotReinject _ _ | .homeAccess _ | .memoryReply _ _ | .holdRetry _ | .messageArrival _ 
  | .messageRetry _ | .registerDelivery _ _ | .counterDecrement _ | .taskStart _ | .handlerStart _ 
  | .traverseLanding _ | .bivouacRefill _ | .arrivalResend _ | .threadWake _ | .jobAccept _ _ | .haulJobStart _ _ 
  | .haulJobFinal _ | .mbloadJob _ _ | .multiplyJob _ _ | .mstJob _ _ | .mclrJob _ | .matrixJobFinal _ 
  | .summitUpdateApply _ | .userInterruptDelivery _ | .portPrefetch _ _ | .portPushPerform _ _ | .pitchReplay _ 
  | .ropeStep _ | .barrierCfgWrite _ _ _ | .barrierArriveWait _ _ | .barrierArrive _ _ | .barrierChildArrival _ 
  | .barrierParentRelease _ | .mutexAcquire _ _ | .mutexTry _ _ | .mutexRelease _ _ | .eventWait _ _ 
  | .eventSet _ _ _ | .eventClear _ _ | .eventCfgWrite _ _ _ | .eventForwardedSet _ | .collRoundComplete _ _ 
  | .collRoundFail _ | .gqCreditGrant _ _ | .gqEntryArrival _ | .cairnBackgroundCapture _ _ | .pageWalk _ _ _ 
  | .walkComplete _ _ | .stlbinv _ _ | .sprePark _ | .spreSpill _ | .spreSpillStores _ | .spreResume _ | .spreHalt _ 
  | .spreReleaseHalt _ | .sxvalRead _ | .sxvalWrite _ _ | .activationStart _ | .watchdogFire _ | .spawnReply _ 
  | .peerGroupLeave _ _ => .next s

end Sys2Proof.Machine
end

