-- ==== Sys2Proof/Machine/RopeStep.lean ====
section
/-! DEFINITION. Sys2Proof/Machine/RopeStep.lean: the steps that execute fetched instructions outside the barrel's turns: the
replays of a pitch body (R165, R167) and the steps of a rope (R321 to R325, R329). -/

namespace Sys2Proof.Machine

/-! Pitch replays -/

/-- The body after a replay: its next body instruction, or the next iteration; none at its end. -/
def PitchBody.advance (b : PitchBody) : Option PitchBody :=
  if b.index + 1 < b.instrs.length then some { b with index := b.index + 1 }
  else if b.iter + 1 < b.count then some { b with iter := b.iter + 1, index := 0 }
  else none

/-- The thread of a body that has just stopped traps at its next boundary; an instruction it waits in is abandoned, unless
its request cannot be withdrawn or its home has performed it (R16, R167, R272). A rope's member has not executed its instruction then
(R325). -/
def State.stopReached (s : State) (slot : Nat) : State :=
  match s.thread? slot with
  | some t =>
    if t.inFlight || s.replyComing slot || t.run == .parked .activation then s
    else if !s.inStream slot then s.abandon slot else
    match s.ropeOf slot, t.run with
    | some (id, _), .waiting _ => (s.abandon slot).modRope id fun r => { r with done := r.done.filter (· != slot) }
    | _, _ => s
  | none => s

/-- The next replay of a thread's body is tried (R165): what it leaves, and how it went: 0 issued, 2 waits, 3 would trap.
none: no replay, or it is held. -/
def State.tryReplay (s : State) (slot : Nat) : Option (State × Nat) :=
  match s.thread? slot with
  | none => none
  | some t =>
    match t.body with
    | none => none
    | some b =>
      if b.stop.isSome || t.frozen || t.halted || s.launchStopped t.launch || s.cycle % 8 < s.gating ||
        t.landedAt == some s.cycle then none else
      match replayOf t b with
      | none => none
      | some (i, l) =>
        match encodedMeaning i { s with cur := slot, latch := l } with
        | .next s1 => some ({ s1 with cur := s.cur, latch := {} }, s1.latch.replay)
        | _ => none

/-- The sequencers of a core whose next replay can issue, with the slot each serves (R166). -/
def State.readyReplays (s : State) (core : Nat) : List (Nat × Nat) :=
  s.threads.filterMap fun p =>
    if coreOf p.1 ≠ core then none else
    match p.2.body, s.tryReplay p.1 with
    | some b, some (_, 0) => some (b.seq, p.1)
    | _, _ => none

/-- A span instruction of the barrel finds the span pipe taken by a replay, or a replay that goes before it (R166). -/
def State.spanWaits (s : State) (core : Nat) (t : Thread) : Bool :=
  (s.core core).pipeAt == some s.cycle || (decide (t.spanRefused < 8) && !(s.readyReplays core).isEmpty)

/-- A slot is not eligible in this cycle: its instruction is refused, and tried again under the given condition (R310). -/
def State.refused (s : State) (slot : Nat) (c : Cond) (span : Bool) : State :=
  s.modThread slot fun t => { t with hold := some c, spanRefused := t.spanRefused + if span then 1 else 0 }

/-! Rope steps -/

/-- Executes an instruction from words already fetched (R321). -/
def runGiven : List (BitVec 32) → State → State
  | [], s => s
  | w :: ws, s =>
    let s1 : State := { s with latch := { s.latch with word := w } }
    let out : Host.Outcome State Fault Refusal := match decodeWord w with
      | .error (.reservedPair s3 _ rd rs1 rs2) => badPair s3 rd rs1 rs2 s1
      | .error _ => .next (s1.trap s1.cur 0x01 (w.setWidth 64))
      | .ok i => encodedMeaning i s1
    match out with
    | .next s2 => if s2.latch.more then runGiven ws { s2 with latch := { s2.latch with more := false } } else s2
    | _ => s

/-- The words are of an instruction that enters the span pipe: custom-0, or custom-1 other than tabld (R166). -/
def spanWords (ws : List (BitVec 32)) : Bool :=
  match decodeWord (ws.getLastD 0) with
  | .ok i => (spanShape {} i).isSome
  | .error _ => false

/-- The next instruction of a slot enters the span pipe (R166). -/
def State.spanNext (s : State) (slot : Nat) : Bool :=
  match s.thread? slot with
  | some t => match (s.streamWords slot t 3 0 []).2 with
    | .ok ws => spanWords ws
    | .error _ => false
  | none => false

/-- The final word of the instruction is a conditional branch: the same branch to the address 16 bytes on. -/
def branchProbe (w : BitVec 32) : Option Instr :=
  match decodeWord w with
  | .ok (.beq a b _) => some (.beq a b 8)
  | .ok (.bne a b _) => some (.bne a b 8)
  | .ok (.blt a b _) => some (.blt a b 8)
  | .ok (.bge a b _) => some (.bge a b 8)
  | .ok (.bltu a b _) => some (.bltu a b 8)
  | .ok (.bgeu a b _) => some (.bgeu a b 8)
  | _ => none

/-- The latch that the prefix words of an instruction leave. -/
def prefixLatch (ws : List (BitVec 32)) : Latch :=
  ws.foldl (fun l w => match decodeWord w with
    | .ok (.reach rs2hi rs1hi rdhi) => { l with reach := some (rdhi, rs1hi, rs2hi), n := l.n + 1 }
    | .ok (.when neg b) => { l with guard := some (neg == 1#1, b), n := l.n + 1 }
    | _ => { l with word := w }) {}

/-- The outcome of a conditional branch or jalr at a slot (R324): taken or not, and where it goes. s is the state before it,
s1 the state after. -/
def outcomeOf (ws : List (BitVec 32)) (slot : Nat) (s s1 : State) : Option (Bool × Word) :=
  match s.thread? slot, s1.thread? slot with
  | some t, some t1 =>
    let l := prefixLatch ws
    let w := ws.getLastD 0
    match branchProbe w with
    | some i =>
      let taken : Bool := match encodedMeaning i { s with cur := slot, latch := l } with
        | .next s2 => match s2.thread? slot with
          | some t2 => t2.pc == t.pc + 16
          | none => false
        | _ => false
      some (taken, t1.pc)
    | none =>
      match decodeWord w with
      | .ok (.jalr ..) => some (l.guardOk t.pw, t1.pc)
      | _ => none
  | _, _ => none

/-- How a member's instruction went. -/
inductive Issued where
  /-- retired, trapped, or its request is outstanding -/
  | done
  /-- begun: it waits or is parked during the instruction, which then goes on where it stands -/
  | draining
  /-- it cannot issue -/
  | cannot
deriving DecidableEq, Repr

/-- What keeps a member's instruction from issuing (R322): operands that are not full, ports without elements or room, an interlock, a
full store buffer. A wait for anything else comes during the instruction. -/
def Cond.beforeIssue : Cond → Bool
  | .fullReg _ | .heldBy .. | .portWords .. | .portRoom .. | .isectWords _ | .bufferRoom => true
  | _ => false

/-- The instruction of a member that waits goes on by issuing again once the wait has ended: it keeps no words, or those of a
descriptor it reads. -/
def Thread.reissues (t : Thread) : Bool := t.pend.all fun p => p.mode == 12 || p.mode == 14

/-- Compares a member's thread before its instruction with the state after (R322). -/
def issuedAs (s1 : State) (slot : Nat) (t : Thread) : Issued :=
  match s1.thread? slot with
  | none => .done
  | some t1 =>
    if t1.instret ≠ t.instret || !s1.inStream slot then .done
    else match t1.run with
      | .waiting c => if !t1.reissues then .done else if c.beforeIssue then .cannot else .draining
      | .ready => .cannot
      | _ => .done

/-- Member c executes the stream's instruction e (R321, R324): its outcome decides whether it stays in the stream. A pitch
reads its body from the leader's fetch buffer. none: it cannot issue. -/
def State.memberStep (s : State) (rope lead c : Nat) (e : Nat × Word × List (BitVec 32) × Option (Bool × Word)) :
    Option (State × Issued) :=
  match (amGet s.ropes rope).bind fun r => r.members[c]? with
  | none => none
  | some slot =>
    match s.thread? slot with
    | none => none
    | some t0 =>
      let t := { t0 with pc := e.2.1 }
      let span := spanWords e.2.2.1
      if span && s.spanWaits (coreOf slot) t0 then none else
      let pitch : Bool := match decodeWord (e.2.2.1.getLastD 0) with | .ok (.pitch ..) => true | _ => false
      let own := (s.core (coreOf slot)).fetch
      let sA := s.setThread slot t
      let sB := if pitch then sA.modCore (coreOf slot) fun k => { k with fetch := (s.core (coreOf lead)).fetch } else sA
      let sC : State := { sB with cur := slot, latch := {} }
      let stop : Bool := match t.body with | some b => b.stop.isSome && !b.taken | none => false
      let s1 := if stop then sC.takeStop slot
        else if e.2.1.extractLsb' 0 2 ≠ 0 then sC.trapAt slot 0x03 e.2.1 e.2.1
        else runGiven e.2.2.1 sC
      let s2 := if pitch then s1.modCore (coreOf slot) fun k => { k with fetch := own } else s1
      match issuedAs s2 slot t with
      | .cannot => none
      | r =>
        let retired : Bool := match s2.thread? slot with | some t1 => t1.instret != t.instret | none => false
        let apart : Bool := decide (0 < c) && retired && outcomeOf e.2.2.1 slot sC s2 != e.2.2.2
        let s3 := if !span then s2 else (s2.modCore (coreOf slot) fun k => { k with pipeAt := some s.cycle }).modThread slot
          fun t => { t with spanRefused := 0 }
        some (if apart then s3.detach slot else s3, r)

/-- The members that take part in the step at the rope's count: in the stream, their index at least 0 and before its end. -/
def Rope.parts (r : Rope) : List Nat :=
  (List.range r.members.length).filter fun c =>
    match r.members[c]? with
    | some m => decide (c ≤ r.step) && !r.left.contains m && !r.solo.contains m &&
        match r.length with | some n => decide (r.step - c < n) | none => true
    | none => false

/-- Members parked in clip that the step passes (R329): those that rejoin, and those that the stream's end releases. -/
def State.clipping (s : State) (r : Rope) (rejoin : Bool) : List Nat :=
  let passes (c m : Nat) (a : Word) (issued : Nat) : Bool :=
    if r.step < c || decide (s.cycle ≤ issued) || !r.solo.contains m then false else
    let i := r.step - c
    let at' : Bool := match r.stream.find? (·.1 == i) with | some e => e.2.1 == a | none => false
    let last : Bool := match r.length with | some n => decide (n ≤ i + 1) | none => false
    let past : Bool := match r.length with | some n => decide (n ≤ i) | none => false
    if rejoin then at' && !past else last && !(at' && !past)
  (List.range r.members.length).filter fun c =>
    match r.members[c]? with
    | none => false
    | some m =>
      match s.thread? m with
      | none => false
      | some t => match t.run, t.pend with
        | .parked (.clip a), some p => passes c m a p.phase
        | _, _ => false

/-- A member of the stream can begin an instruction: nothing of its earlier one is outstanding (R322). -/
def State.memberReady (s : State) (slot : Nat) : Bool :=
  match s.thread? slot with
  | some t => (t.run == .ready) && t.reissues && t.landedAt != some s.cycle
  | none => false

/-- The leader runs outside the stream and has not executed the step: it repeats until the leader's return (R325). -/
def Rope.stalled (r : Rope) : Bool := r.leaderOut && !(r.members.head?.any r.done.contains)

/-- Once every member has executed the step and nothing is outstanding, the rope's count moves on (R322). taken: this step of
the machine has tried it. -/
def State.advanceRope (s : State) (rope : Nat) (taken : Bool) : State :=
  match amGet s.ropes rope with
  | none => s
  | some r =>
    let parts := (r.parts.filterMap fun c => r.members[c]?)
    if (r.done.isEmpty && !taken) || r.stalled ||
        !parts.all (fun m => r.done.contains m && (s.memberReady m || !s.inStream m)) then s else
    (s.setRope rope { r with step := r.step + 1, done := [], stream := r.stream.take 17 }).settleRope rope

/-- As advanceRope, for every rope: the steps that the ropes are to take next (R311, R312). -/
def State.advanceRopes (s : State) : State := s.ropes.foldl (fun s r => s.advanceRope r.1 false) s

/-- No core of a member has issued in this cycle, or grants it under row 1 (R311). -/
def State.ropeGranted (s : State) (cores : List Nat) : Bool :=
  cores.all fun core => (s.core core).issuedAt != some s.cycle && !s.rowOne core

/-- What a member's instruction leaves: the member is marked as having issued the step, its core's pointer moves (R312). -/
def State.afterMember (s : State) (rope slot : Nat) (how : Issued) : State :=
  let s1 := s.modCore (coreOf slot) fun k => { k with ropePtr := slot % 64, issuedAt := some s.cycle }
  if how = .done then s1.modRope rope fun r => if r.leaderOut && r.members.head? == some slot then r else
    { r with done := nsIns r.done slot } else s1

/-- The leader executes its index (R321): its words are fetched, and its outcome goes into the stream; with it, whether the step is
taken. It is not where the leader traps (R325), or waits for the words. none: it cannot issue. -/
def State.leaderStep (s : State) (rope : Nat) (r : Rope) (lead : Nat) (t : Thread) : Option (State × Bool) :=
  let s0 : State := { s with cur := lead, latch := {} }
  let keep (s : State) (ws : List (BitVec 32)) (o : Option (Bool × Word)) : State := s.modRope rope fun r =>
    { r with stream := (r.step, t.pc, ws, o) :: r.stream.filter (·.1 != r.step) }
  if t.pc.extractLsb' 0 2 ≠ 0 then some (s0.trapAt lead 0x03 t.pc t.pc, false) else
  match s0.streamWords lead t 3 0 [] with
  | (s1, .error (c, a)) => some (s1.trapAccess lead c a, false)
  | (s1, .ok ws) =>
    match (keep s1 ws none).memberStep rope lead 0 (r.step, t.pc, ws, none) with
    | none => none
    | some (s2, how) =>
      let gone : Bool := match amGet s2.ropes rope with
        | some r2 => r2.leaderOut
        | none => true
      -- the words stay known: the leader's end closes the stream at this index (R325)
      if gone then some (s2, (amGet s2.ropes rope).isNone) else
      some ((keep s2 ws (outcomeOf ws lead s1 s2)).afterMember rope lead how, true)

/-- The members east of the leader, in order (R322). none: one of them cannot issue, and the step is not taken. -/
def State.eastSteps (s : State) (rope lead : Nat) : List Nat → Option State
  | [] => some s
  | c :: rest =>
    match amGet s.ropes rope with
    | none => some s
    | some r =>
      match r.members[c]?, r.stream.find? (·.1 + c == r.step) with
      | some m, some e =>
        match s.memberStep rope lead c e with
        | none => none
        | some (s1, how) => (s1.afterMember rope m how).eastSteps rope lead rest
      | _, _ => none

/-- One try of the rope's step (R322): where it cannot be taken, no member executes anything. -/
def State.tryStep (s : State) (rope : Nat) (r : Rope) : Option State :=
  match r.members.head? with
  | none => none
  | some lead =>
    let turn := r.parts.filter fun c => match r.members[c]? with | some m => !r.done.contains m | none => false
    let joins := if r.done.isEmpty then s.clipping r true else []
    let ends := if r.done.isEmpty then s.clipping r false else []
    let s1 := joins.foldl (fun s c => match r.members[c]? with
      | some m => (s.clipEnds m 1).modRope rope fun r => { r with solo := r.solo.filter (· != m) }
      | none => s) s
    let s2 := ends.foldl (fun s c => match r.members[c]? with | some m => (s.clipEnds m 0).landNow m | none => s) s1
    let s3 : Option (State × Bool) :=
      if !turn.contains 0 then some (s2, true) else
      match s2.thread? lead with
      | some t => s2.leaderStep rope r lead t
      | none => none
    match s3 with
    | none => none
    | some (s4, taken) =>
      if !taken then (s.thread? lead).bind fun t => (s.leaderStep rope r lead t).map (·.1) else
      if (amGet s4.ropes rope).isNone then some s4 else
      s4.eastSteps rope lead ((List.range r.members.length).filter fun c => c ≠ 0 && (turn ++ joins).contains c)

/-- The members whose instruction the rope's step still has to execute (R322). -/
def Rope.turn (r : Rope) : List Nat := (r.parts.filterMap fun c => r.members[c]?).filter fun m => !r.done.contains m

/-- Nothing but the grants of its cores keeps the rope's step from being taken (R322); the rope is one unit under
pre-emption, halt and freeze (R330). -/
def State.ropeAble (s : State) (rope : Nat) (r : Rope) : Bool :=
  let threads := (r.members.filter fun m => !r.left.contains m).filterMap s.thread?
  !r.stalled && !s.launchStopped r.launch && !threads.any (fun t => t.frozen || t.halted) &&
  r.turn.all (fun m => s.memberReady m && match s.thread? m with | some t => !t.stepped | none => true) &&
  s.ropeGranted (r.turn.map coreOf) && (s.tryStep rope r).isSome

/-- How far after the member last granted a rope's member on a core comes, in slot order with wrap (R312). -/
def State.ropePlace (s : State) (core : Nat) (r : Rope) : Nat :=
  (((r.turn.filter fun m => coreOf m == core).map fun m => (m % 64 + 63 - (s.core core).ropePtr) % 64).min?).getD 64

/-- The ropes that a core would grant before a rope (R312). -/
def State.ropesAhead (s : State) (core rope : Nat) (r : Rope) : List (Nat × Rope) :=
  s.ropes.filter fun x => x.1 != rope && decide (s.ropePlace core x.2 < s.ropePlace core r) && s.ropeAble x.1 x.2

/-- Every core of its members grants a rope's step: those ahead of it there are themselves behind another elsewhere (R312). -/
def State.ropeTakes (s : State) (rope : Nat) (r : Rope) : Bool :=
  s.ropeAble rope r && (r.turn.map coreOf).all fun core => (s.ropesAhead core rope r).all fun x =>
    (x.2.turn.map coreOf).any fun k => !(s.ropesAhead k x.1 x.2).isEmpty

/-- The members of a rope's turn whose span instruction only a replay keeps from issuing are refused once more in this cycle (R166). -/
def State.refuseSpans (s : State) (rope : Nat) (r : Rope) : State :=
  let urged := r.turn.foldl (fun s m => s.modThread m fun t => { t with spanRefused := 8 }) s
  if s.ropeAble rope r || !urged.ropeAble rope r then s else
  r.turn.foldl (fun (u : State) m => match s.thread? m with
    | some t => if s.spanWaits (coreOf m) t && t.hold != some (.otherCycle s.cycle) then u.refused m (.otherCycle s.cycle) true else u
    | none => u) s

/-- ROPE_STEP (R322): the step is tried, and taken where every member can execute it and its core grants it. -/
def execRopeStep (rope : Nat) (s : State) : Host.Outcome State Fault Refusal :=
  event s fun s0 =>
    let s := s0.advanceRopes
    match amGet s.ropes rope with
    | none => s
    | some r =>
      let inside := r.members.filter fun m => !r.left.contains m && !r.solo.contains m
      let steppers := inside.filter fun m => match s.thread? m with | some t => t.stepped | none => false
      if !steppers.isEmpty && inside.all s.memberReady then inside.foldl State.haltStep s
      else if !s.ropeTakes rope r then s.refuseSpans rope r
      else
        match s.tryStep rope r with
        | some s1 => ({ s1 with cur := s.cur, latch := {} } : State).advanceRope rope true
        | none => s

/-! The turns of replays -/

/-- A rope's member on the core has been refused 8 times in a row, and its step is taken in this cycle (R166). -/
def State.ropeFirst (s : State) (core : Nat) : Bool :=
  let s := s.advanceRopes
  s.ropes.any fun x => (x.2.turn.any fun m => coreOf m == core && (s.thread? m).any fun t => decide (8 ≤ t.spanRefused)) &&
    s.ropeTakes x.1 x.2

/-- A span instruction of the barrel that was refused 8 times in a row goes before the replays of this cycle (R166). -/
def State.spanFirst (s : State) (core : Nat) : Bool :=
  (s.core core).issuedAt != some s.cycle && (s.ropeFirst core || match (s.grant core).1.bind fun n => s.thread? (core * 64 + n) with
    | some t => decide (8 ≤ t.spanRefused)
    | none => false)

/-- The span pipe is free for a slot's replay, and it is the turn of its sequencer: the first of those ready after the one
served last (R166). -/
def State.replayTurn (s : State) (slot : Nat) : Bool :=
  let core := coreOf slot
  let c := s.core core
  let ready := s.readyReplays core
  c.pipeAt != some s.cycle && !s.spanFirst core &&
  ((List.range 4).map fun i => (c.seqPtr + 1 + i) % 4).find? (fun q => ready.any (·.1 == q)) ==
    (ready.find? (·.2 == slot)).map (·.1)

/-- PITCH_REPLAY (R165): the sequencer issues the next replay, in a cycle that power gating allows (R415) and in its turn at
the span pipe (R166); it waits on registers and ports, and one that would trap stops the body (R167). -/
def execPitchReplay (slot : Nat) (s : State) : Host.Outcome State Fault Refusal :=
  event s fun s =>
    match s.tryReplay slot with
    | some (s1, 0) =>
      if !s.replayTurn slot then s else
      let q : Nat := match (s.thread? slot).bind (·.body) with | some b => b.seq | none => 0
      (s1.modThread slot fun t => { t with body := t.body.bind PitchBody.advance }).modCore (coreOf slot) fun c =>
        { c with pipeAt := some s.cycle, seqPtr := q }
    | some (s1, 3) => s1.stopReached slot
    | some (s1, _) => s1
    | none => s

end Sys2Proof.Machine
end

