-- ==== Sys2Proof/Machine/Dispatch.lean ====
section
/-! DEFINITION. Sys2Proof/Machine/Dispatch.lean: exec, one arm per constructor of Instr, each one call of its meaning. -/

namespace Sys2Proof.Machine

def exec (i : Instr) (s : State) : Host.Outcome State Fault Refusal :=
  match i with
  | .lb rd rs1 imm => Sys2Proof.Machine.execLb rd rs1 imm s
  | .lh rd rs1 imm => Sys2Proof.Machine.execLh rd rs1 imm s
  | .lw rd rs1 imm => Sys2Proof.Machine.execLw rd rs1 imm s
  | .ld rd rs1 imm => Sys2Proof.Machine.execLd rd rs1 imm s
  | .lbu rd rs1 imm => Sys2Proof.Machine.execLbu rd rs1 imm s
  | .lhu rd rs1 imm => Sys2Proof.Machine.execLhu rd rs1 imm s
  | .lwu rd rs1 imm => Sys2Proof.Machine.execLwu rd rs1 imm s
  | .fence fm pred succ => Sys2Proof.Machine.execFence fm pred succ s
  | .fenceI => Sys2Proof.Machine.execFenceI s
  | .addi rd rs1 imm => Sys2Proof.Machine.execAddi rd rs1 imm s
  | .slti rd rs1 imm => Sys2Proof.Machine.execSlti rd rs1 imm s
  | .sltiu rd rs1 imm => Sys2Proof.Machine.execSltiu rd rs1 imm s
  | .xori rd rs1 imm => Sys2Proof.Machine.execXori rd rs1 imm s
  | .ori rd rs1 imm => Sys2Proof.Machine.execOri rd rs1 imm s
  | .andi rd rs1 imm => Sys2Proof.Machine.execAndi rd rs1 imm s
  | .slli rd rs1 sh => Sys2Proof.Machine.execSlli rd rs1 sh s
  | .srli rd rs1 sh => Sys2Proof.Machine.execSrli rd rs1 sh s
  | .srai rd rs1 sh => Sys2Proof.Machine.execSrai rd rs1 sh s
  | .auipc rd imm => Sys2Proof.Machine.execAuipc rd imm s
  | .addiw rd rs1 imm => Sys2Proof.Machine.execAddiw rd rs1 imm s
  | .slliw rd rs1 sh => Sys2Proof.Machine.execSlliw rd rs1 sh s
  | .srliw rd rs1 sh => Sys2Proof.Machine.execSrliw rd rs1 sh s
  | .sraiw rd rs1 sh => Sys2Proof.Machine.execSraiw rd rs1 sh s
  | .sb rs2 rs1 imm => Sys2Proof.Machine.execSb rs2 rs1 imm s
  | .sh rs2 rs1 imm => Sys2Proof.Machine.execSh rs2 rs1 imm s
  | .sw rs2 rs1 imm => Sys2Proof.Machine.execSw rs2 rs1 imm s
  | .sd rs2 rs1 imm => Sys2Proof.Machine.execSd rs2 rs1 imm s
  | .add rd rs1 rs2 => Sys2Proof.Machine.execAdd rd rs1 rs2 s
  | .sub rd rs1 rs2 => Sys2Proof.Machine.execSub rd rs1 rs2 s
  | .sll rd rs1 rs2 => Sys2Proof.Machine.execSll rd rs1 rs2 s
  | .slt rd rs1 rs2 => Sys2Proof.Machine.execSlt rd rs1 rs2 s
  | .sltu rd rs1 rs2 => Sys2Proof.Machine.execSltu rd rs1 rs2 s
  | .xor rd rs1 rs2 => Sys2Proof.Machine.execXor rd rs1 rs2 s
  | .srl rd rs1 rs2 => Sys2Proof.Machine.execSrl rd rs1 rs2 s
  | .sra rd rs1 rs2 => Sys2Proof.Machine.execSra rd rs1 rs2 s
  | .or rd rs1 rs2 => Sys2Proof.Machine.execOr rd rs1 rs2 s
  | .and rd rs1 rs2 => Sys2Proof.Machine.execAnd rd rs1 rs2 s
  | .mul rd rs1 rs2 => Sys2Proof.Machine.execMul rd rs1 rs2 s
  | .mulh rd rs1 rs2 => Sys2Proof.Machine.execMulh rd rs1 rs2 s
  | .mulhsu rd rs1 rs2 => Sys2Proof.Machine.execMulhsu rd rs1 rs2 s
  | .mulhu rd rs1 rs2 => Sys2Proof.Machine.execMulhu rd rs1 rs2 s
  | .div rd rs1 rs2 => Sys2Proof.Machine.execDiv rd rs1 rs2 s
  | .divu rd rs1 rs2 => Sys2Proof.Machine.execDivu rd rs1 rs2 s
  | .rem rd rs1 rs2 => Sys2Proof.Machine.execRem rd rs1 rs2 s
  | .remu rd rs1 rs2 => Sys2Proof.Machine.execRemu rd rs1 rs2 s
  | .lui rd imm => Sys2Proof.Machine.execLui rd imm s
  | .addw rd rs1 rs2 => Sys2Proof.Machine.execAddw rd rs1 rs2 s
  | .subw rd rs1 rs2 => Sys2Proof.Machine.execSubw rd rs1 rs2 s
  | .sllw rd rs1 rs2 => Sys2Proof.Machine.execSllw rd rs1 rs2 s
  | .srlw rd rs1 rs2 => Sys2Proof.Machine.execSrlw rd rs1 rs2 s
  | .sraw rd rs1 rs2 => Sys2Proof.Machine.execSraw rd rs1 rs2 s
  | .mulw rd rs1 rs2 => Sys2Proof.Machine.execMulw rd rs1 rs2 s
  | .divw rd rs1 rs2 => Sys2Proof.Machine.execDivw rd rs1 rs2 s
  | .divuw rd rs1 rs2 => Sys2Proof.Machine.execDivuw rd rs1 rs2 s
  | .remw rd rs1 rs2 => Sys2Proof.Machine.execRemw rd rs1 rs2 s
  | .remuw rd rs1 rs2 => Sys2Proof.Machine.execRemuw rd rs1 rs2 s
  | .beq rs1 rs2 imm => Sys2Proof.Machine.execBeq rs1 rs2 imm s
  | .bne rs1 rs2 imm => Sys2Proof.Machine.execBne rs1 rs2 imm s
  | .blt rs1 rs2 imm => Sys2Proof.Machine.execBlt rs1 rs2 imm s
  | .bge rs1 rs2 imm => Sys2Proof.Machine.execBge rs1 rs2 imm s
  | .bltu rs1 rs2 imm => Sys2Proof.Machine.execBltu rs1 rs2 imm s
  | .bgeu rs1 rs2 imm => Sys2Proof.Machine.execBgeu rs1 rs2 imm s
  | .jalr rd rs1 imm => Sys2Proof.Machine.execJalr rd rs1 imm s
  | .jal rd imm => Sys2Proof.Machine.execJal rd imm s
  | .ecall => Sys2Proof.Machine.execEcall s
  | .ebreak => Sys2Proof.Machine.execEbreak s
  | .csrrw csr rd rs1 => Sys2Proof.Machine.execCsrrw csr rd rs1 s
  | .csrrs csr rd rs1 => Sys2Proof.Machine.execCsrrs csr rd rs1 s
  | .csrrc csr rd rs1 => Sys2Proof.Machine.execCsrrc csr rd rs1 s
  | .csrrwi csr rd uimm => Sys2Proof.Machine.execCsrrwi csr rd uimm s
  | .csrrsi csr rd uimm => Sys2Proof.Machine.execCsrrsi csr rd uimm s
  | .csrrci csr rd uimm => Sys2Proof.Machine.execCsrrci csr rd uimm s
  | .fadd span bc ty rd rs1 rs2 => Sys2Proof.Machine.execFadd span bc ty rd rs1 rs2 s
  | .fsub span bc ty rd rs1 rs2 => Sys2Proof.Machine.execFsub span bc ty rd rs1 rs2 s
  | .fmul span bc ty rd rs1 rs2 => Sys2Proof.Machine.execFmul span bc ty rd rs1 rs2 s
  | .fmac span bc ty rd rs1 rs2 => Sys2Proof.Machine.execFmac span bc ty rd rs1 rs2 s
  | .fmsc span bc ty rd rs1 rs2 => Sys2Proof.Machine.execFmsc span bc ty rd rs1 rs2 s
  | .fmin span bc ty rd rs1 rs2 => Sys2Proof.Machine.execFmin span bc ty rd rs1 rs2 s
  | .fmax span bc ty rd rs1 rs2 => Sys2Proof.Machine.execFmax span bc ty rd rs1 rs2 s
  | .fdiv span bc ty rd rs1 rs2 => Sys2Proof.Machine.execFdiv span bc ty rd rs1 rs2 s
  | .fsqrt span bc ty rd rs1 rs2 => Sys2Proof.Machine.execFsqrt span bc ty rd rs1 rs2 s
  | .frcpe span bc ty rd rs1 rs2 => Sys2Proof.Machine.execFrcpe span bc ty rd rs1 rs2 s
  | .frsqe span bc ty rd rs1 rs2 => Sys2Proof.Machine.execFrsqe span bc ty rd rs1 rs2 s
  | .fsgnj span bc ty rd rs1 rs2 => Sys2Proof.Machine.execFsgnj span bc ty rd rs1 rs2 s
  | .fsgnjn span bc ty rd rs1 rs2 => Sys2Proof.Machine.execFsgnjn span bc ty rd rs1 rs2 s
  | .fsgnjx span bc ty rd rs1 rs2 => Sys2Proof.Machine.execFsgnjx span bc ty rd rs1 rs2 s
  | .fsum span bc ty rd rs1 rs2 => Sys2Proof.Machine.execFsum span bc ty rd rs1 rs2 s
  | .fmaxa span bc ty rd rs1 rs2 => Sys2Proof.Machine.execFmaxa span bc ty rd rs1 rs2 s
  | .spanAdd span bc ty rd rs1 rs2 => Sys2Proof.Machine.execSpanAdd span bc ty rd rs1 rs2 s
  | .spanSub span bc ty rd rs1 rs2 => Sys2Proof.Machine.execSpanSub span bc ty rd rs1 rs2 s
  | .spanMin span bc ty rd rs1 rs2 => Sys2Proof.Machine.execSpanMin span bc ty rd rs1 rs2 s
  | .spanMax span bc ty rd rs1 rs2 => Sys2Proof.Machine.execSpanMax span bc ty rd rs1 rs2 s
  | .spanMaxn span bc ty rd rs1 rs2 => Sys2Proof.Machine.execSpanMaxn span bc ty rd rs1 rs2 s
  | .spanMul span bc ty rd rs1 rs2 => Sys2Proof.Machine.execSpanMul span bc ty rd rs1 rs2 s
  | .spanMulh span bc ty rd rs1 rs2 => Sys2Proof.Machine.execSpanMulh span bc ty rd rs1 rs2 s
  | .spanAnd span bc ty rd rs1 rs2 => Sys2Proof.Machine.execSpanAnd span bc ty rd rs1 rs2 s
  | .spanOr span bc ty rd rs1 rs2 => Sys2Proof.Machine.execSpanOr span bc ty rd rs1 rs2 s
  | .spanXor span bc ty rd rs1 rs2 => Sys2Proof.Machine.execSpanXor span bc ty rd rs1 rs2 s
  | .spanSll span bc ty rd rs1 rs2 => Sys2Proof.Machine.execSpanSll span bc ty rd rs1 rs2 s
  | .spanSrl span bc ty rd rs1 rs2 => Sys2Proof.Machine.execSpanSrl span bc ty rd rs1 rs2 s
  | .spanSra span bc ty rd rs1 rs2 => Sys2Proof.Machine.execSpanSra span bc ty rd rs1 rs2 s
  | .fsl span bc ty rd rs1 rs2 => Sys2Proof.Machine.execFsl span bc ty rd rs1 rs2 s
  | .fsr span bc ty rd rs1 rs2 => Sys2Proof.Machine.execFsr span bc ty rd rs1 rs2 s
  | .gmax span bc ty rd rs1 rs2 => Sys2Proof.Machine.execGmax span bc ty rd rs1 rs2 s
  | .cmpeq span ty rd rs1 rs2 => Sys2Proof.Machine.execCmpeq span ty rd rs1 rs2 s
  | .cmplt span ty rd rs1 rs2 => Sys2Proof.Machine.execCmplt span ty rd rs1 rs2 s
  | .cmple span ty rd rs1 rs2 => Sys2Proof.Machine.execCmple span ty rd rs1 rs2 s
  | .cmpltn span ty rd rs1 rs2 => Sys2Proof.Machine.execCmpltn span ty rd rs1 rs2 s
  | .cvt span ty rd rs1 sel => Sys2Proof.Machine.execCvt span ty rd rs1 sel s
  | .cvtr span ty rd rs1 sel => Sys2Proof.Machine.execCvtr span ty rd rs1 sel s
  | .clz span ty rd rs1 => Sys2Proof.Machine.execClz span ty rd rs1 s
  | .popc span ty rd rs1 => Sys2Proof.Machine.execPopc span ty rd rs1 s
  | .abs span ty rd rs1 => Sys2Proof.Machine.execAbs span ty rd rs1 s
  | .neg span ty rd rs1 => Sys2Proof.Machine.execNeg span ty rd rs1 s
  | .perm span ty rd rs1 rs2 => Sys2Proof.Machine.execPerm span ty rd rs1 rs2 s
  | .gsum span ty rd rs1 => Sys2Proof.Machine.execGsum span ty rd rs1 s
  | .fclass span ty rd rs1 => Sys2Proof.Machine.execFclass span ty rd rs1 s
  | .lmsk span ty rd rs1 => Sys2Proof.Machine.execLmsk span ty rd rs1 s
  | .lexp span ty rd rs1 => Sys2Proof.Machine.execLexp span ty rd rs1 s
  | .qenc span ty rd rs1 rs2 => Sys2Proof.Machine.execQenc span ty rd rs1 rs2 s
  | .qdec span ty rd rs1 rs2 => Sys2Proof.Machine.execQdec span ty rd rs1 rs2 s
  | .qfp8 span ty rd rs1 rs2 => Sys2Proof.Machine.execQfp8 span ty rd rs1 rs2 s
  | .qfp8x span ty rd rs1 rs2 => Sys2Proof.Machine.execQfp8x span ty rd rs1 rs2 s
  | .dfp8 span ty rd rs1 rs2 => Sys2Proof.Machine.execDfp8 span ty rd rs1 rs2 s
  | .dfp8x span ty rd rs1 rs2 => Sys2Proof.Machine.execDfp8x span ty rd rs1 rs2 s
  | .tabld t rs1 => Sys2Proof.Machine.execTabld t rs1 s
  | .ldg span rd rs1 imm => Sys2Proof.Machine.execLdg span rd rs1 imm s
  | .stg span rs2 rs1 imm => Sys2Proof.Machine.execStg span rs2 rs1 imm s
  | .lde rd rs1 => Sys2Proof.Machine.execLde rd rs1 s
  | .ldt rd rs1 => Sys2Proof.Machine.execLdt rd rs1 s
  | .stf rs1 rs2 => Sys2Proof.Machine.execStf rs1 rs2 s
  | .stp rs1 rs2 => Sys2Proof.Machine.execStp rs1 rs2 s
  | .tagrd rd rs1 => Sys2Proof.Machine.execTagrd rd rs1 s
  | .tagset rd rs1 rs2 => Sys2Proof.Machine.execTagset rd rs1 rs2 s
  | .waitA rd rs1 rs2 => Sys2Proof.Machine.execWaitA rd rs1 rs2 s
  | .wake rd rs1 rs2 => Sys2Proof.Machine.execWake rd rs1 rs2 s
  | .ldx rd rs1 => Sys2Proof.Machine.execLdx rd rs1 s
  | .stx rs2 rs1 rm => Sys2Proof.Machine.execStx rs2 rs1 rm s
  | .amadd size ar rd rs2 rs1 => Sys2Proof.Machine.execAmadd size ar rd rs2 rs1 s
  | .amand size ar rd rs2 rs1 => Sys2Proof.Machine.execAmand size ar rd rs2 rs1 s
  | .amor size ar rd rs2 rs1 => Sys2Proof.Machine.execAmor size ar rd rs2 rs1 s
  | .amxor size ar rd rs2 rs1 => Sys2Proof.Machine.execAmxor size ar rd rs2 rs1 s
  | .ammin size ar rd rs2 rs1 => Sys2Proof.Machine.execAmmin size ar rd rs2 rs1 s
  | .ammax size ar rd rs2 rs1 => Sys2Proof.Machine.execAmmax size ar rd rs2 rs1 s
  | .amminn size ar rd rs2 rs1 => Sys2Proof.Machine.execAmminn size ar rd rs2 rs1 s
  | .ammaxn size ar rd rs2 rs1 => Sys2Proof.Machine.execAmmaxn size ar rd rs2 rs1 s
  | .amswp size ar rd rs2 rs1 => Sys2Proof.Machine.execAmswp size ar rd rs2 rs1 s
  | .amcas size ar rd rs2 rs1 => Sys2Proof.Machine.execAmcas size ar rd rs2 rs1 s
  | .amfadd size ar rd rs2 rs1 => Sys2Proof.Machine.execAmfadd size ar rd rs2 rs1 s
  | .amfaddC size ar rd rs2 rs1 => Sys2Proof.Machine.execAmfaddC size ar rd rs2 rs1 s
  | .fenceS kind scope => Sys2Proof.Machine.execFenceS kind scope s
  | .fenceE => Sys2Proof.Machine.execFenceE s
  | .pbind rd rs1 rs2 => Sys2Proof.Machine.execPbind rd rs1 rs2 s
  | .punb rd rs1 => Sys2Proof.Machine.execPunb rd rs1 s
  | .pstat rd rs1 => Sys2Proof.Machine.execPstat rd rs1 s
  | .psave rs1 rs2 => Sys2Proof.Machine.execPsave rs1 rs2 s
  | .prest rd rs1 rs2 => Sys2Proof.Machine.execPrest rd rs1 rs2 s
  | .pskip rd rs1 rs2 => Sys2Proof.Machine.execPskip rd rs1 rs2 s
  | .isect rd rs1 => Sys2Proof.Machine.execIsect rd rs1 s
  | .tlook rd rs1 rs2 => Sys2Proof.Machine.execTlook rd rs1 rs2 s
  | .tins rd rs1 rs2 => Sys2Proof.Machine.execTins rd rs1 rs2 s
  | .tinv rd rs1 rs2 => Sys2Proof.Machine.execTinv rd rs1 rs2 s
  | .reach rs2hi rs1hi rdhi => Sys2Proof.Machine.execReach rs2hi rs1hi rdhi s
  | .when neg pbit => Sys2Proof.Machine.execWhen neg pbit s
  | .pitch len stag rs1 sd sa sb rot => Sys2Proof.Machine.execPitch len stag rs1 sd sa sb rot s
  | .mmBf16 s3 rd rs1 rs2 => Sys2Proof.Machine.execMmBf16 s3 rd rs1 rs2 s
  | .mmF16 s3 rd rs1 rs2 => Sys2Proof.Machine.execMmF16 s3 rd rs1 rs2 s
  | .mmE4m3 s3 rd rs1 rs2 => Sys2Proof.Machine.execMmE4m3 s3 rd rs1 rs2 s
  | .mmE5m2 s3 rd rs1 rs2 => Sys2Proof.Machine.execMmE5m2 s3 rd rs1 rs2 s
  | .mmE4m3E5m2 s3 rd rs1 rs2 => Sys2Proof.Machine.execMmE4m3E5m2 s3 rd rs1 rs2 s
  | .mmE5m2E4m3 s3 rd rs1 rs2 => Sys2Proof.Machine.execMmE5m2E4m3 s3 rd rs1 rs2 s
  | .mmC8 s3 rd rs1 rs2 => Sys2Proof.Machine.execMmC8 s3 rd rs1 rs2 s
  | .mmBf16C8 s3 rd rs1 rs2 => Sys2Proof.Machine.execMmBf16C8 s3 rd rs1 rs2 s
  | .mmE2m1 s3 rd rs1 rs2 => Sys2Proof.Machine.execMmE2m1 s3 rd rs1 rs2 s
  | .mmI8 s3 rd rs1 rs2 => Sys2Proof.Machine.execMmI8 s3 rd rs1 rs2 s
  | .mmF32x s3 rd rs1 rs2 => Sys2Proof.Machine.execMmF32x s3 rd rs1 rs2 s
  | .mbload rd rs1 => Sys2Proof.Machine.execMbload rd rs1 s
  | .mst rd rs1 => Sys2Proof.Machine.execMst rd rs1 s
  | .mwait rd rs1 => Sys2Proof.Machine.execMwait rd rs1 s
  | .mpoll rd rs1 => Sys2Proof.Machine.execMpoll rd rs1 s
  | .mrestart rd rs1 => Sys2Proof.Machine.execMrestart rd rs1 s
  | .mclr rd rs1 => Sys2Proof.Machine.execMclr rd rs1 s
  | .hcopy rd rs1 => Sys2Proof.Machine.execHcopy rd rs1 s
  | .hcopy2 rd rs1 => Sys2Proof.Machine.execHcopy2 rd rs1 s
  | .hcopyn rd rs1 => Sys2Proof.Machine.execHcopyn rd rs1 s
  | .hgath rd rs1 => Sys2Proof.Machine.execHgath rd rs1 s
  | .hscat rd rs1 => Sys2Proof.Machine.execHscat rd rs1 s
  | .hpair rd rs1 => Sys2Proof.Machine.execHpair rd rs1 s
  | .hwait rd rs1 => Sys2Proof.Machine.execHwait rd rs1 s
  | .hpoll rd rs1 => Sys2Proof.Machine.execHpoll rd rs1 s
  | .jobint rd rs1 => Sys2Proof.Machine.execJobint rd rs1 s
  | .salloc rd rs1 => Sys2Proof.Machine.execSalloc rd rs1 s
  | .sfree rd rs1 => Sys2Proof.Machine.execSfree rd rs1 s
  | .sset rd rs1 rs2 => Sys2Proof.Machine.execSset rd rs1 rs2 s
  | .supd rs1 rs2 rt => Sys2Proof.Machine.execSupd rs1 rs2 rt s
  | .sroll rd rs1 rs2 => Sys2Proof.Machine.execSroll rd rs1 rs2 s
  | .sscale rd rs1 rs2 => Sys2Proof.Machine.execSscale rd rs1 rs2 s
  | .sscaleH rd rs1 rs2 => Sys2Proof.Machine.execSscaleH rd rs1 rs2 s
  | .sread rd rs1 rs2 => Sys2Proof.Machine.execSread rd rs1 rs2 s
  | .sgen rd rs1 => Sys2Proof.Machine.execSgen rd rs1 s
  | .sflush rd => Sys2Proof.Machine.execSflush rd s
  | .sscaleG rd rs1 rs2 => Sys2Proof.Machine.execSscaleG rd rs1 rs2 s
  | .spawn rd rs1 => Sys2Proof.Machine.execSpawn rd rs1 s
  | .exit => Sys2Proof.Machine.execExit s
  | .yield => Sys2Proof.Machine.execYield s
  | .trav rd rs1 => Sys2Proof.Machine.execTrav rd rs1 s
  | .msgReg rs1 rs2 => Sys2Proof.Machine.execMsgReg rs1 rs2 s
  | .msgDec rs1 rs2 => Sys2Proof.Machine.execMsgDec rs1 rs2 s
  | .ctrSet rd rs1 rs2 => Sys2Proof.Machine.execCtrSet rd rs1 rs2 s
  | .ctrRd rd rs1 => Sys2Proof.Machine.execCtrRd rd rs1 s
  | .hcall rd rs1 rs2 => Sys2Proof.Machine.execHcall rd rs1 rs2 s
  | .hret rs1 => Sys2Proof.Machine.execHret rs1 s
  | .xempty nlog rd => Sys2Proof.Machine.execXempty nlog rd s
  | .ixret => Sys2Proof.Machine.execIxret s
  | .ropeForm rd rs1 => Sys2Proof.Machine.execRopeForm rd rs1 s
  | .ropeEnd => Sys2Proof.Machine.execRopeEnd s
  | .unclip rd => Sys2Proof.Machine.execUnclip rd s
  | .clip rd rs1 => Sys2Proof.Machine.execClip rd rs1 s
  | .collRed rd rs1 rs2 => Sys2Proof.Machine.execCollRed rd rs1 rs2 s
  | .gqPush rs1 rs2 => Sys2Proof.Machine.execGqPush rs1 rs2 s
  | .gqPop rd rs1 => Sys2Proof.Machine.execGqPop rd rs1 s
  | .gqWin rd rs1 rs2 => Sys2Proof.Machine.execGqWin rd rs1 rs2 s
  | .tret rs1 => Sys2Proof.Machine.execTret rs1 s
  | .xret => Sys2Proof.Machine.execXret s
  | .beat => Sys2Proof.Machine.execBeat s
  | .cairnOpen rd rs1 => Sys2Proof.Machine.execCairnOpen rd rs1 s
  | .cairnClose rd rs1 => Sys2Proof.Machine.execCairnClose rd rs1 s
  | .hintRegion => Sys2Proof.Machine.execHintRegion s
  | .packageReset => Sys2Proof.Machine.execPackageReset s
  | .cxlLinkReset => Sys2Proof.Machine.execCxlLinkReset s
  | .powerMeasure watts => Sys2Proof.Machine.execPowerMeasure watts s
  | .thermalThrottle => Sys2Proof.Machine.execThermalThrottle s
  | .thermalTrip => Sys2Proof.Machine.execThermalTrip s
  | .patrolScrub word => Sys2Proof.Machine.execPatrolScrub word s
  | .queueDoorbell q tail => Sys2Proof.Machine.execQueueDoorbell q tail s
  | .queueEnable q v => Sys2Proof.Machine.execQueueEnable q v s
  | .registerWrite r v => Sys2Proof.Machine.execRegisterWrite r v s
  | .dispatchRecord => Sys2Proof.Machine.execDispatchRecord s
  | .launchAccept die => Sys2Proof.Machine.execLaunchAccept die s
  | .launchEligible lid => Sys2Proof.Machine.execLaunchEligible lid s
  | .dependenceReread lid => Sys2Proof.Machine.execDependenceReread lid s
  | .launchPlace die => Sys2Proof.Machine.execLaunchPlace die s
  | .threadStart slot => Sys2Proof.Machine.execThreadStart slot s
  | .launchComplete lid => Sys2Proof.Machine.execLaunchComplete lid s
  | .createTenant t sroot sentry swdog => Sys2Proof.Machine.execCreateTenant t sroot sentry swdog s
  | .assign t clusters slices => Sys2Proof.Machine.execAssign t clusters slices s
  | .writeAccessTableWord set master v => Sys2Proof.Machine.execWriteAccessTableWord set master v s
  | .writeRouteEntry t cls v => Sys2Proof.Machine.execWriteRouteEntry t cls v s
  | .bindQueue q t => Sys2Proof.Machine.execBindQueue q t s
  | .setHdmRange range hostBase base len t cls => Sys2Proof.Machine.execSetHdmRange range hostBase base len t cls s
  | .resetTenant t => Sys2Proof.Machine.execResetTenant t s
  | .destroyTenant t => Sys2Proof.Machine.execDestroyTenant t s
  | .setPowerLimit watts => Sys2Proof.Machine.execSetPowerLimit watts s
  | .haltOrRelease isLaunch ident release => Sys2Proof.Machine.execHaltOrRelease isLaunch ident release s
  | .setBivouac t base units => Sys2Proof.Machine.execSetBivouac t base units s
  | .hostRead addr len => Sys2Proof.Machine.execHostRead addr len s
  | .hostWrite addr bytes => Sys2Proof.Machine.execHostWrite addr bytes s
  | .spdmCertificate => Sys2Proof.Machine.execSpdmCertificate s
  | .spdmMeasurements => Sys2Proof.Machine.execSpdmMeasurements s
  | .peerAccess port tenant cls op pa => Sys2Proof.Machine.execPeerAccess port tenant cls op pa s
  | .linkReplay link => Sys2Proof.Machine.execLinkReplay link s
  | .linkFailure link => Sys2Proof.Machine.execLinkFailure link s
  | .routerForward node port reply => Sys2Proof.Machine.execRouterForward node port reply s
  | .combineWindowClose node reply idx => Sys2Proof.Machine.execCombineWindowClose node reply idx s
  | .ageIncrement pkt => Sys2Proof.Machine.execAgeIncrement pkt s
  | .depotSpill node port => Sys2Proof.Machine.execDepotSpill node port s
  | .depotReinject node port => Sys2Proof.Machine.execDepotReinject node port s
  | .homeAccess r => Sys2Proof.Machine.execHomeAccess r s
  | .memoryReply slot v => Sys2Proof.Machine.execMemoryReply slot v s
  | .holdRetry slot => Sys2Proof.Machine.execHoldRetry slot s
  | .messageArrival pkt => Sys2Proof.Machine.execMessageArrival pkt s
  | .messageRetry pkt => Sys2Proof.Machine.execMessageRetry pkt s
  | .registerDelivery core idx => Sys2Proof.Machine.execRegisterDelivery core idx s
  | .counterDecrement core => Sys2Proof.Machine.execCounterDecrement core s
  | .taskStart core => Sys2Proof.Machine.execTaskStart core s
  | .handlerStart core => Sys2Proof.Machine.execHandlerStart core s
  | .traverseLanding pkt => Sys2Proof.Machine.execTraverseLanding pkt s
  | .bivouacRefill core => Sys2Proof.Machine.execBivouacRefill core s
  | .arrivalResend pkt => Sys2Proof.Machine.execArrivalResend pkt s
  | .threadWake slot => Sys2Proof.Machine.execThreadWake slot s
  | .jobAccept octet matrix => Sys2Proof.Machine.execJobAccept octet matrix s
  | .haulJobStart octet words => Sys2Proof.Machine.execHaulJobStart octet words s
  | .haulJobFinal octet => Sys2Proof.Machine.execHaulJobFinal octet s
  | .mbloadJob octet words => Sys2Proof.Machine.execMbloadJob octet words s
  | .multiplyJob octet words => Sys2Proof.Machine.execMultiplyJob octet words s
  | .mstJob octet words => Sys2Proof.Machine.execMstJob octet words s
  | .mclrJob octet => Sys2Proof.Machine.execMclrJob octet s
  | .matrixJobFinal octet => Sys2Proof.Machine.execMatrixJobFinal octet s
  | .summitUpdateApply idx => Sys2Proof.Machine.execSummitUpdateApply idx s
  | .userInterruptDelivery slot => Sys2Proof.Machine.execUserInterruptDelivery slot s
  | .portPrefetch slot port => Sys2Proof.Machine.execPortPrefetch slot port s
  | .portPushPerform slot port => Sys2Proof.Machine.execPortPushPerform slot port s
  | .pitchReplay slot => Sys2Proof.Machine.execPitchReplay slot s
  | .ropeStep rope => Sys2Proof.Machine.execRopeStep rope s
  | .barrierCfgWrite cluster idx v => Sys2Proof.Machine.execBarrierCfgWrite cluster idx v s
  | .barrierArriveWait slot idx => Sys2Proof.Machine.execBarrierArriveWait slot idx s
  | .barrierArrive slot idx => Sys2Proof.Machine.execBarrierArrive slot idx s
  | .barrierChildArrival pkt => Sys2Proof.Machine.execBarrierChildArrival pkt s
  | .barrierParentRelease pkt => Sys2Proof.Machine.execBarrierParentRelease pkt s
  | .mutexAcquire slot idx => Sys2Proof.Machine.execMutexAcquire slot idx s
  | .mutexTry slot idx => Sys2Proof.Machine.execMutexTry slot idx s
  | .mutexRelease slot idx => Sys2Proof.Machine.execMutexRelease slot idx s
  | .eventWait slot idx => Sys2Proof.Machine.execEventWait slot idx s
  | .eventSet cluster idx v => Sys2Proof.Machine.execEventSet cluster idx v s
  | .eventClear cluster idx => Sys2Proof.Machine.execEventClear cluster idx s
  | .eventCfgWrite cluster idx v => Sys2Proof.Machine.execEventCfgWrite cluster idx v s
  | .eventForwardedSet pkt => Sys2Proof.Machine.execEventForwardedSet pkt s
  | .collRoundComplete round partners => Sys2Proof.Machine.execCollRoundComplete round partners s
  | .collRoundFail round => Sys2Proof.Machine.execCollRoundFail round s
  | .gqCreditGrant t q => Sys2Proof.Machine.execGqCreditGrant t q s
  | .gqEntryArrival pkt => Sys2Proof.Machine.execGqEntryArrival pkt s
  | .cairnBackgroundCapture t granule => Sys2Proof.Machine.execCairnBackgroundCapture t granule s
  | .pageWalk cluster t page => Sys2Proof.Machine.execPageWalk cluster t page s
  | .walkComplete die idx => Sys2Proof.Machine.execWalkComplete die idx s
  | .stlbinv t v => Sys2Proof.Machine.execStlbinv t v s
  | .sprePark die => Sys2Proof.Machine.execSprePark die s
  | .spreSpill die => Sys2Proof.Machine.execSpreSpill die s
  | .spreSpillStores die => Sys2Proof.Machine.execSpreSpillStores die s
  | .spreResume die => Sys2Proof.Machine.execSpreResume die s
  | .spreHalt die => Sys2Proof.Machine.execSpreHalt die s
  | .spreReleaseHalt die => Sys2Proof.Machine.execSpreReleaseHalt die s
  | .sxvalRead core => Sys2Proof.Machine.execSxvalRead core s
  | .sxvalWrite core v => Sys2Proof.Machine.execSxvalWrite core v s
  | .activationStart core => Sys2Proof.Machine.execActivationStart core s
  | .watchdogFire lid => Sys2Proof.Machine.execWatchdogFire lid s
  | .spawnReply slot => Sys2Proof.Machine.execSpawnReply slot s
  | .peerGroupLeave group package => Sys2Proof.Machine.execPeerGroupLeave group package s

end Sys2Proof.Machine
end

