-- ==== Sys2Proof/Machine/Schedule.lean ====
section
/-! DEFINITION. Sys2Proof/Machine/Schedule.lean: what moves next. The agenda says it; the manual leaves the order of the
agents open, so every agenda is a run. With the agenda empty the model goes on by itself: a step of another agent that
changes something comes first, then the cores, the ropes and the replays issue in turn (notes/assumptions/1.md). -/

namespace Sys2Proof.Machine

/-- The rope whose next step a core grants in this cycle (R311 row 2, R312). -/
def State.ropeTurn (s : State) (core : Nat) : Option Nat :=
  let s := s.advanceRopes
  (s.ropes.find? fun r => (r.2.turn.map coreOf).contains core && s.ropeTakes r.1 r.2).map (·.1)

/-- A store found the store buffer full: its slot was not eligible (R310, R311). -/
def State.foundFull (s : State) (slot : Nat) : Bool :=
  match s.thread? slot with
  | some t => (t.run == .ready) && t.hold == some .bufferRoom
  | none => false

/-- A core's turns in a cycle: the slot the barrel grants runs an instruction, one that is refused passes the turn on, and
with none eligible the cycle is idle (R311, R313, R166). -/
def issueTurn (ex : Instr → State → Host.Outcome State Fault Refusal)
    (badPair : BitVec 3 → BitVec 5 → BitVec 5 → BitVec 5 → State → Host.Outcome State Fault Refusal)
    (core : Nat) : Nat → State → Host.Outcome State Fault Refusal
  | 0, s => .next (s.afterGrant core)
  | fuel + 1, s =>
    match (s.grant core).1.bind fun n => (s.thread? (core * 64 + n)).map fun t => (n, t) with
    | none => .next (s.afterGrant core)
    | some (n, t) =>
      let slot := core * 64 + n
      let span := s.spanNext slot
      if span && s.spanWaits core t then issueTurn ex badPair core fuel (s.refused slot (.otherCycle s.cycle) true) else
      match runSlot ex badPair slot (s.turn core n span) with
      | .next s1 => if s1.foundFull slot then issueTurn ex badPair core fuel (s.refused slot .bufferRoom false) else .next s1
      | r => r

/-- A core's cycle (R311): at most one instruction issues; a rope's step that the core grants is taken. -/
def issueCore (ex : Instr → State → Host.Outcome State Fault Refusal)
    (badPair : BitVec 3 → BitVec 5 → BitVec 5 → BitVec 5 → State → Host.Outcome State Fault Refusal)
    (core : Nat) (s : State) : Host.Outcome State Fault Refusal :=
  if (s.core core).issuedAt = some s.cycle then .next s else
  match s.ropeTurn core with
  | some rope => execRopeStep rope s
  | none => issueTurn ex badPair core 64 s

/-! The resource table (R316) -/

/-- Items of 16 bits, the lowest first. -/
def packed : List Nat → Nat
  | [] => 0
  | a :: l => a + 2 ^ 16 * packed l

/-- The words of a tenant's resource table. -/
def Tenant.resources (t : Tenant) : List Nat :=
  [1, packed [62, 2016], packed [16, 4], packed [4, 4], packed [256, 16, 8], 4, packed [16, 16, 64], packed [32, 32, 64],
   packed [256, 1024, 64], packed [16, 8, 16], t.poolBase.toNat, t.poolCount, t.gqCount, t.clusters.toNat % 2 ^ 64, t.clusters.toNat / 2 ^ 64]

/-- A supervisor publishes its tenant's resource table: restab names it, and its words are written there. -/
def State.publish (s : State) (tn va queues : Nat) : State :=
  if (amGet s.tenants tn).isNone then s else
  let s1 := s.modTenant tn fun x => { x with restab := BitVec.ofNat 64 va, gqCount := queues }
  (s1.tenant tn).resources.zipIdx.foldl (fun (s : State) w =>
    match s.deviceStep tn (va + 8 * w.2) (.device true) with
    | (s, .ok pa) => s.writeWord (pa / 8) 0xFF#8 (BitVec.ofNat 64 w.1) none
    | (s, .error _) => s) s1

/-- What an agenda item does; with every clock stopped only an event may still be one that restarts the package (R415). -/
def runItem (ex : Instr → State → Host.Outcome State Fault Refusal)
    (badPair : BitVec 3 → BitVec 5 → BitVec 5 → BitVec 5 → State → Host.Outcome State Fault Refusal)
    (s : State) (i : Item) : Host.Outcome State Fault Refusal :=
  match i with
  -- an encoded instruction runs only where a core issues it
  | .event i => if (encodeParts i).isSome then .next s else ex i s
  | .issue core => if s.tripped then .fault .clockStopped else issueCore ex badPair core s
  | .dropMicro core i =>
    if s.tripped then .fault .clockStopped else .next (s.modCore core fun c => { c with tlb := dropAt c.tlb i })
  | .dropCluster cl i =>
    if s.tripped then .fault .clockStopped else .next (s.modCluster cl fun c => { c with tlb := dropAt c.tlb i })
  | .dropGranule core i =>
    if s.tripped then .fault .clockStopped else .next (s.modCore core fun c => { c with fetch := dropAt c.fetch i })
  | .dropRecord core i =>
    if s.tripped then .fault .clockStopped else .next (s.modCore core fun c => { c with recs := dropAt c.recs i })
  | .upset k => event s fun s => { s with mem := s.mem.upset k }
  | .upsetReg slot n => event s fun s => s.modThread slot fun t =>
      if n = 0 ∨ t.limit ≤ n then t else { t with regs := amPut t.regs n { t.reg n with perr := true } }
  | .upsetRegion oct r => event s fun s => if 16 ≤ r then s else s.modOctet oct fun o =>
      let x := regionOf o.regions r
      if x.state = 0 then o else { o with regions := amPut o.regions r { x with upset := true } }
  | .upsetTile oct t => event s fun s => if 4 ≤ t then s else s.modOctet oct fun o =>
      { o with tiles := amPut o.tiles t { tileOf o.tiles t with upset := true } }
  | .peerGroup g l => event s fun s => { s with peerGroups := amPut s.peerGroups g l }
  | .acknowledged f => event s fun s => s.ackAway f
  | .refusedAway f => event s fun s => s.refuseAway f
  | .outsideFails slot c => event s fun s => s.replyArrives slot (.error (if c = 0x08 ∨ c = 0x0E then c else 0x09))
  | .command => execNextCommand s
  | .barWrite off v => execBarWrite off v s
  | .barRead off => execBarRead off s
  | .flash f => event s fun s => { s with flash := f }
  | .resources t va n => event s fun s => s.publish t va n

/-- A step of an agent. -/
abbrev Turn := State → Host.Outcome State Fault Refusal

/-! The steps that the default order may take, each only where a unit has something to do -/

/-- Steps of a slot's thread: a reply, a wake, its ports, a user interrupt. -/
def threadSteps (s : State) (slot : Nat) (t : Thread) : List Turn :=
  (match t.pend with
    | some p => if p.mode = 9 then [execSpawnReply slot] else [execMemoryReply slot (Config.freeWord s.fresh)]
    | none => []) ++
  (match t.run with | .waiting _ => [execThreadWake slot] | _ => []) ++
  (if t.uints.isEmpty then [] else [execUserInterruptDelivery slot]) ++
  t.ports.flatMap fun p => [execPortPushPerform slot p.1, execPortPrefetch slot p.1]

/-- Steps of a core's own units. -/
def coreSteps (s : State) (n : Nat) (c : Core) : List Turn :=
  (if c.sb.isEmpty then [] else [execHomeAccess (.buffered n 0 0)]) ++
  (let waiting := (s.onCore n).flatMap (·.2.waitingDeliveries)
    if c.msgs.isEmpty && waiting.isEmpty then [] else
    (List.range (c.msgs.length + waiting.length)).map (execRegisterDelivery n ·) ++ [execCounterDecrement n, execHandlerStart n]) ++
  (if c.readyQ.isEmpty && c.arrivals.isEmpty then [] else [execTaskStart n]) ++
  (if c.taskSpill.isEmpty && c.arrivalSpill.isEmpty && !(s.die (dieOf n)).spillEngine.any (·.1 == n) then [] else [execBivouacRefill n]) ++
  (if c.actQueue.isEmpty then [] else [execActivationStart n])

/-- Steps of an octet's engines: sixteen words of a job at a time. -/
def octetSteps (n : Nat) (o : Octet) : List Turn :=
  (if o.candidates.isEmpty then [] else [execJobAccept n true, execJobAccept n false]) ++
  (if o.haul.isEmpty then [] else [execHaulJobFinal n, execHaulJobStart n 16]) ++
  (if o.matrix.isEmpty then [] else [execMatrixJobFinal n, execMclrJob n, execMbloadJob n 16, execMultiplyJob n 16, execMstJob n 16])

/-- Steps about a packet: at its destination, sent again, or on its way through the routers. -/
def packetSteps (s : State) (p : Packet) : List Turn :=
  if p.returned then [execMessageRetry p.ident, execArrivalResend p.ident] else
  if p.landed then
    match p.payload with
    | .message .. => [execMessageArrival p.ident]
    | .context .. => [execTraverseLanding p.ident]
    | .registers .. => []
    | .update _ => (List.range (s.packets.filter fun q => match q.payload with | .update _ => q.landed | _ => false).length).map execSummitUpdateApply
    | .entry .. => [execGqEntryArrival p.ident]
    | .childArrival .. => [execBarrierChildArrival p.ident]
    | .parentRelease .. => [execBarrierParentRelease p.ident]
    | .forwardedSet .. => [execEventForwardedSet p.ident]
    | _ => if p.isReply then [] else [execHomeAccess (.packet p.ident)]
  else match p.node, p.depot with
    | some n, none => (List.range 16).map (execRouterForward n · p.isReply) ++ [execAgeIncrement p.ident] ++
        (if s.slow then [execDepotSpill n 5] else [])
    | _, some (n, q) => [execDepotReinject n q, execAgeIncrement p.ident]
    | none, none => []

/-- Steps of a launch. -/
def launchSteps (lid : Nat) (l : Launch) : List Turn :=
  [execLaunchEligible lid, execDependenceReread lid, execLaunchComplete lid, execWatchdogFire lid] ++
  l.starting.map fun x => execThreadStart (x.1 * 64 + x.2.1)

/-- Steps of a die's launch unit and walker. -/
def dieSteps (n : Nat) (d : Die) : List Turn :=
  (if d.inbox.isEmpty then [] else [execLaunchAccept n]) ++
  (if d.launches.isEmpty then [] else [execLaunchPlace n]) ++
  (if d.walks.isEmpty then [] else [execWalkComplete n 0]) ++
  (if d.spreInbox.isEmpty then [] else
    [execSprePark n, execSpreSpill n, execSpreSpillStores n, execSpreResume n, execSpreHalt n, execSpreReleaseHalt n])

/-- Steps of a tenant's gradient queues, and of its epoch: the capture of the least granule that is not captured. -/
def tenantSteps (n : Nat) (t : Tenant) : List Turn :=
  t.queues.flatMap (fun q => if q.2.grants.isEmpty then [] else [execGqCreditGrant n q.1]) ++
  match t.epoch with
  | some e => match (e.granules.filter fun g => !e.captured.contains g).min? with
    | some g => [execCairnBackgroundCapture n g]
    | none => []
  | none => []

/-- Steps of a collective round; the partners' results are words from outside the package. -/
def roundSteps (s : State) (n : Nat) (r : Round) : List Turn :=
  let others := (amGetD s.peerGroups (ctlPg r.group) []).length - 1
  [execCollRoundFail n, execCollRoundComplete n ((List.range others).map fun i => Config.freeWord (s.fresh + i))]

/-- The steps of other agents that may have something to do. -/
def otherSteps (s : State) : List Turn :=
  s.threads.flatMap (fun t => threadSteps s t.1 t.2) ++
  s.packets.flatMap (packetSteps s) ++
  s.returns.map (fun h => execHoldRetry h.1.slot) ++
  s.cores.flatMap (fun c => coreSteps s c.1 c.2) ++
  s.octets.flatMap (fun o => octetSteps o.1 o.2) ++
  s.rounds.flatMap (fun r => roundSteps s r.1 r.2) ++
  s.tenants.flatMap (fun t => tenantSteps t.1 t.2) ++
  s.dies.flatMap (fun d => dieSteps d.1 d.2) ++
  s.launches.flatMap (fun l => launchSteps l.1 l.2) ++
  s.combines.map (fun e => execCombineWindowClose e.node e.isReply 0) ++
  (if s.queues.any fun q => !q.2.bells.isEmpty then [execDispatchRecord] else []) ++
  (if s.commands.isEmpty && s.resetting.isNone then [] else [execNextCommand])

/-- The first step of a list that changes the machine beyond the count of free values, with what it gives. -/
def firstChange (s : State) : List Turn → Option State
  | [] => none
  | f :: l => match f s with
    | .next t => if { t with fresh := s.fresh } = s then firstChange s l else some t
    | _ => firstChange s l

/-- The steps that issue instructions of ropes and pitch bodies. -/
def sideIssues (s : State) : List Turn :=
  s.ropes.map (fun r => execRopeStep r.1) ++
  s.threads.flatMap fun t => if t.2.body.isSome then [execPitchReplay t.1] else []

/-- The cores with a slot that can issue, in rising order. -/
def issuers (s : State) : List Nat :=
  (s.threads.foldr (fun t l => nsIns l (coreOf t.1)) []).filter fun c => (s.core c).issuedAt != some s.cycle && (s.grant c).1.isSome

/-- The next core after the focus that can issue, in a circle; the focus itself where none can. -/
def nextCore (s : State) : Nat :=
  let l := issuers s
  match l.find? (s.focus < ·) with
  | some c => c
  | none => l.headD s.focus

/-- A step with the agenda empty (notes/assumptions/1.md): a step of another agent in no time; else, a cycle later, a rope
or a replay in the even cycles and where no core can issue; else a core. ex and badPair are as for runWords. -/
def defaultStep (ex : Instr → State → Host.Outcome State Fault Refusal)
    (badPair : BitVec 3 → BitVec 5 → BitVec 5 → BitVec 5 → State → Host.Outcome State Fault Refusal)
    (s : State) : Host.Outcome State Fault Refusal :=
  if s.tripped then .fault .clockStopped else
  -- the free words that the default order offers are used up
  match firstChange { s with fresh := s.fresh + 64 } (otherSteps s) with
  | some t => .next t
  | none =>
    let s1 : State := { s with cycle := (s.cycle + 1) % 2 ^ 64 }
    let core := nextCore s1
    let cores := issueCore ex badPair core { s1 with focus := core }
    if s1.cycle % 2 = 0 || (issuers s1).isEmpty then
      match firstChange s1 (sideIssues s1) with
      | some t => .next t
      | none => cores
    else cores

end Sys2Proof.Machine
end

