-- ==== Sys2Proof/Machine/Step.lean ====
section
/-! DEFINITION. Sys2Proof/Machine/Step.lean: the step: what the agenda names next moves, or the default order
(notes/assumptions/1.md). -/

namespace Sys2Proof.Machine

/-- One step of the machine. -/
def step (s : State) : Host.Outcome State Fault Refusal :=
  match s.agenda with
  | (dt, i) :: rest => runItem exec badPair { s with cycle := (s.cycle + dt) % 2 ^ 64, agenda := rest } i
  | [] => defaultStep exec badPair s

/-- s with an instruction of nbits bits, numbered as the opcode table numbers them, where the next step fetches it. -/
def State.withFetchWord (s : State) (nbits w : Nat) : State := withWord s nbits w

end Sys2Proof.Machine
end

