-- ==== Sys2Proof/Safety.lean ====
section
/-! DEFINITION. Sys2Proof/Safety.lean: the terms in which claims speak: when nothing keeps an instruction from executing,
what a retirement and a trap leave, and what of the machine an instruction has no part in. -/

namespace Sys2Proof.Machine

/-- Thread t in slot State.cur executes an instruction with these operands: the clocks run, its guard lets it (R40), every
operand is aligned and inside its window (R38, R41), no operand is bound to a stream port (R150) or held by a pitch body
(R165), and every source is full (R74) with good parity (R178). It is not a replay of a body. -/
structure CanIssue (s : State) (t : Thread) (us : List RegUse) : Prop where
  clocks : s.tripped = false
  thread : s.thread? s.cur = some t
  direct : s.latch.replay = 0
  guard : s.latch.guardOk t.pw = true
  aligned : ∀ u ∈ us, u.n % u.span = 0
  inWindow : ∀ u ∈ us, ∀ n ∈ u.regs, n < t.limit
  unbound : ∀ h ∈ t.ports, ∀ u ∈ us, ∀ n ∈ u.regs, h.2.covers n = false
  unheld : heldByBody t us = false
  full : ∀ u ∈ us, u.read = true → ∀ n ∈ u.regs, (t.reg n).full = true
  parity : ∀ u ∈ us, u.read = true → ∀ n ∈ u.regs, (t.reg n).perr = false

/-- The thread after its instruction retires: it goes on at pc, and instret counts the instruction (R79). -/
def Thread.retired (t : Thread) (pc : Word) : Thread :=
  { t with pc := pc, run := .ready, hold := none, pend := none, instret := t.instret + 1, stepped := t.stepOne,
           carried := none }

/-- The state in which thread t of slot State.cur has retired and nothing else has changed. -/
def State.retires (s : State) (t : Thread) (pc : Word) : State :=
  { s.setThread s.cur (t.retired pc) with latch := {} }

/-- The thread with words written to the registers from n on (R15, R120). -/
def Thread.setXs (t : Thread) (n : Nat) : List Word → Thread
  | [] => t
  | w :: ws => (t.setX n w).setXs (n + 1) ws

/-- The address after the instruction's words (R32). -/
def State.nextPc (s : State) (t : Thread) : Word := t.pc + BitVec.ofNat 64 (4 * (s.latch.n + 1))

/-- s1 is s but for what the TLBs of cores and clusters hold. -/
structure SameButTlbs (s s1 : State) : Prop where
  rest : s1 = { s with cores := s1.cores, clusters := s1.clusters }
  core : ∀ n, ∃ l, s1.core n = { s.core n with tlb := l }
  cluster : ∀ n, ∃ l, s1.cluster n = { s.cluster n with tlb := l }

/-- Where an access of the executing thread at an address leads, with the state that translating it leaves (R67, R352). -/
def State.checked (s : State) (t : Thread) (va : Word) (a : Access) : State × Except Nat Target :=
  s.reach ⟨s.cur, t, s.latch.tval, s.nextPc t, []⟩ va a

/-- The access passes its checks and lands at byte ad of this package's memory, at its place in its word; s1 is s but for
what translating left in the TLBs. -/
def Lands (s : State) (t : Thread) (va : Word) (a : Access) (s1 : State) (ad : Nat) : Prop :=
  ∃ tgt cls, s.checked t va a = (s1, .ok tgt) ∧ tgt.place = some (ad, cls) ∧ ad % 8 = va.toNat % 8

/-- No store that the executing thread's core has still to perform touches word k, and none of the thread, port pushes among
them, has to come before an access of it (R118, R154, R290, R292). -/
def Settled (s : State) (k : Nat) : Prop :=
  (∀ e ∈ (s.core (coreOf s.cur)).sb, ∀ w ∈ e.words, w.1 ≠ k) ∧ s.ownBefore (coreOf s.cur) s.cur k = []

/-- Accesses at several addresses, checked in order, land at the bytes listed, each in a state that ok accepts for its word. -/
def LandsAll (t : Thread) (a : Access) (ok : State → Nat → Prop) : State → List Word → State → List Nat → Prop
  | s, [], s1, ads => s1 = s ∧ ads = []
  | s, va :: vs, s2, ads => ∃ s1 ad rest, Lands s t va a s1 ad ∧ ok s1 (ad / 8) ∧ LandsAll t a ok s1 vs s2 rest ∧ ads = ad :: rest

/-- A plain load finds word k at its home: no store waits before it, and the word is not poisoned. -/
def Loadable (s : State) (k : Nat) : Prop := Settled s k ∧ s.mem.poisoned k = false

/-- The addresses of n words from ea on. -/
def wordsFrom (ea : Word) (n : Nat) : List Word := (List.range n).map fun k => ea + BitVec.ofNat 64 (8 * k)

/-- The addresses of the n words of a group at ea, none of which lies past the end of ea's local store (R120). -/
def State.groupFrom (s : State) (ea : Word) (n : Nat) : List Word := (List.range n).map (groupWord (coreOf s.cur) ea)

/-- The store-limit check of R67 lets a store through whose base register is r. -/
def AboveLimit (t : Thread) (r : Nat) (ea : Word) : Prop := r = 2 → t.sbound.toNat ≤ ea.toNat

/-- The state in which the executing thread's core has accepted one more store of a tenant, of words whose pages have these
classes (R90, R290). -/
def State.buffers (s : State) (words : List (Nat × BitVec 8 × Word)) (whole : Bool) (tenant : Nat) (classes : List Nat) : State :=
  { s.modCore (coreOf s.cur) (fun k => { k with sb := k.sb ++ [⟨s.nextId, s.cur, words, whole, [], tenant, classes⟩] }) with
    nextId := s.nextId + 1 }

/-- A load of R66: destination, base, immediate, size and sign. -/
def loadForm : Instr → Option (BitVec 5 × BitVec 5 × BitVec 12 × Nat × Bool)
  | .lb d a i => some (d, a, i, 1, true)
  | .lh d a i => some (d, a, i, 2, true)
  | .lw d a i => some (d, a, i, 4, true)
  | .ld d a i => some (d, a, i, 8, true)
  | .lbu d a i => some (d, a, i, 1, false)
  | .lhu d a i => some (d, a, i, 2, false)
  | .lwu d a i => some (d, a, i, 4, false)
  | _ => none

/-- A store of R66: data, base, immediate and size. -/
def storeForm : Instr → Option (BitVec 5 × BitVec 5 × BitVec 12 × Nat)
  | .sb b a i => some (b, a, i, 1)
  | .sh b a i => some (b, a, i, 2)
  | .sw b a i => some (b, a, i, 4)
  | .sd b a i => some (b, a, i, 8)
  | _ => none

/-- n bytes of memory from address a, read little-endian, extended to 64 bits (R5, R66). -/
def extended (m : Memory) (a n : Nat) (signed : Bool) : Word :=
  if signed then (BitVec.ofNat (8 * n) (m.read a n)).signExtend 64 else BitVec.ofNat 64 (m.read a n)

/-- The bits of a user CSR that a write changes (R14, R77, R78, R376): none of the read-only ones. -/
def csrMask (a : BitVec 12) : Word :=
  match a.toNat with
  | 0x001 => 0x1F#64
  | 0x002 => 0x7#64
  | 0x003 => 0xFF#64
  | 0x803 => 0x80000000000000FF#64
  | 0x807 => 0x3#64
  | 0x800 | 0x801 | 0x802 | 0x804 | 0x805 | 0x806 | 0x808 => 0xFFFFFFFFFFFFFFFF#64
  | _ => 0#64

/-- Two CSR addresses share bits: fflags and frm with fcsr (R77). -/
def csrAliases (a b : BitVec 12) : Bool :=
  a == b || (a == 3#12 && (b == 1#12 || b == 2#12)) || (b == 3#12 && (a == 1#12 || a == 2#12))

/-- Every earlier access of the executing thread that a release waits for is performed (R273, R285). -/
def Released (s : State) (t : Thread) : Prop :=
  t.hold = none ∧ (s.core (coreOf s.cur)).sb = [] ∧ (∀ f ∈ s.flights, f.slot ≠ s.cur) ∧ (∀ p ∈ t.ports, p.2.pushes = []) ∧
  t.hostWrites = false

/-- No epoch is open, so that a write captures nothing (R371). -/
def NoEpoch (s : State) : Prop := ∀ tn, (s.tenant tn).epoch = none

/-- The answer retires the thread as t1, at pc, in a state u for which p holds. -/
def Retires (s : State) (o : Host.Outcome State Fault Refusal) (t1 : Thread) (pc : Word) (p : State → Prop) : Prop :=
  ∃ u, o = .next u ∧ u.thread? s.cur = some (t1.retired pc) ∧ u.latch = {} ∧ p u

/-- Memory after is memory before but for n bytes from address a, which hold v, little-endian; no tag differs. -/
def WroteBytes (m m' : Memory) (a n v : Nat) : Prop :=
  m'.read a n = v ∧ (∀ x, ¬ (a ≤ x ∧ x < a + n) → m'.byte x = m.byte x) ∧ ∀ k, m'.full k = m.full k

/-- No byte and no tag of memory differs. -/
def SameMemory (m m' : Memory) : Prop := (∀ x, m'.byte x = m.byte x) ∧ ∀ k, m'.full k = m.full k

/-- No byte differs, and no tag but that of word k, which is now f. -/
def SameButTag (m m' : Memory) (k : Nat) (f : Bool) : Prop :=
  (∀ x, m'.byte x = m.byte x) ∧ ∀ j, m'.full j = if j = k then f else m.full j

/-- The n words from a multiple of 8 in the executing core's own window: no store still to be performed touches them, none is
poisoned, and ws are their values. -/
def OwnWords (s : State) (va : Word) (n : Nat) (ws : List Word) : Prop :=
  let k := (storeBase (coreOf s.cur) + (va.toNat - Config.ownBase)) / 8
  va.toNat % 8 = 0 ∧ Config.ownBase ≤ va.toNat ∧ va.toNat + 8 * n ≤ Config.ownBase + storeSize (coreOf s.cur) ∧
  (∀ i, i < n → Settled s (k + i) ∧ s.mem.poisoned (k + i) = false) ∧ ws = (List.range n).map fun i => s.mem.word (k + i)

/-- The word number of an address of the executing core's own window. -/
def State.ownKey (s : State) (va : Word) : Nat := (storeBase (coreOf s.cur) + (va.toNat - Config.ownBase)) / 8

/-- Memory after is memory before but for the n words from word k on, which hold ws; no tag differs. -/
def WroteWords (m m' : Memory) (k : Nat) (ws : List Word) : Prop :=
  (∀ i, i < ws.length → m'.word (k + i) = ws.getD i 0) ∧ (∀ x, ¬ (k ≤ x / 8 ∧ x / 8 < k + ws.length) → m'.byte x = m.byte x) ∧
  ∀ j, m'.full j = m.full j

/-- Thread t in slot State.cur executes an instruction whose one source register a is bound to a leased port, the thread's
only one, and whose other operands, b read and d written, are plain registers. -/
structure ReadsPort (s : State) (t : Thread) (h : Nat) (p : Port) (a b d : Nat) : Prop where
  clocks : s.tripped = false
  thread : s.thread? s.cur = some t
  direct : s.latch.replay = 0
  guard : s.latch.guardOk t.pw = true
  port : t.ports = [(h, p)]
  bound : p.bound = some a
  single : p.g = 1
  reads : p.kind = 0 ∨ p.kind = 1 ∨ p.kind = 2 ∧ p.fwd = false
  window : a < t.limit ∧ b < t.limit ∧ d < t.limit
  dest : d ≠ a
  body : t.body = none
  full : b ≠ a → (t.reg b).full = true ∧ (t.reg b).perr = false

/-- The state in which the executing thread's core has sent one packet, of age 0, to an endpoint (R102): it has travelled the
crossbar (R117), or waits at the core's router, behind its pair where that is in the depot (R105); a depot with no room for it there
sends a record (R107). -/
def State.sent (s : State) (dst : Nat) (p : Payload) : State :=
  let q : Packet := ⟨s.nextId, false, coreOf s.cur, dst, none, 0, s.cycle, none, false, p, s.cycle, 0⟩
  let n := routerOf q.src
  let far := s.slow && !crossbar q.src q.dst
  let full := far && (s.queueAt q n 0).depot.isNone && s.spilledPair q n (outputPort n (q.next n))
  { s with
    packets := s.packets ++ [if far then s.queueAt q n 0 else q]
    nextId := s.nextId + 1
    checks := s.checks ++ if full then [⟨7, nodeDie n⟩] else [] }

/-- The state in which the executing thread waits for the reply to a request p, which its core has sent to the home of word k as one
packet (R75, R94). -/
def State.asks (s : State) (t : Thread) (p : Pend) (k cls : Nat) (op : HomeOp) : State :=
  ({ s.setThread s.cur { t with run := .waiting .reply, pend := some p } with latch := {} } : State).sent (homeEp (8 * k))
    (.request s.cur t.tenant [cls] op)

/-- The state with no word of an instruction read: what a step of another agent leaves of it (R41). -/
def State.between (s : State) : State := { s with latch := {} }

/-- The state in which the base camp controller has done a command (R407): status 2, no code. -/
def State.commandDone (s : State) : State := { s with latch := {}, mailboxStatus := 2, mailboxCode := 0 }

/-- The base camp controller may run a command: the clocks run, the firmware runs, no tenant reset is under way and no command started
before is left (R407, R413). -/
def State.obeys (s : State) : Prop := s.tripped = false ∧ s.firmware = true ∧ s.resetting = none ∧ s.commands = []

/-- The atomics (R278): operation, size, acquire-release bit, registers. -/
def atomicForm : Instr → Option (AmOp × BitVec 1 × BitVec 1 × BitVec 5 × BitVec 5 × BitVec 5)
  | .amadd z r d b a => some (.add, z, r, d, b, a)
  | .amand z r d b a => some (.and, z, r, d, b, a)
  | .amor z r d b a => some (.or, z, r, d, b, a)
  | .amxor z r d b a => some (.xor, z, r, d, b, a)
  | .ammin z r d b a => some (.min, z, r, d, b, a)
  | .ammax z r d b a => some (.max, z, r, d, b, a)
  | .amminn z r d b a => some (.minn, z, r, d, b, a)
  | .ammaxn z r d b a => some (.maxn, z, r, d, b, a)
  | .amswp z r d b a => some (.swp, z, r, d, b, a)
  | .amcas z r d b a => some (.cas, z, r, d, b, a)
  | .amfadd z r d b a => some (.fadd, z, r, d, b, a)
  | .amfaddC z r d b a => some (.faddc, z, r, d, b, a)
  | _ => none

/-- What an atomic of n bits leaves in memory, of the old value, X[rs2] and X[rd] (R278, R280). -/
def atomicNew (op : AmOp) (n old b c : Nat) : Nat :=
  let signed (v : Nat) : Int := (BitVec.ofNat n v).toInt
  match op with
  | .add => (old + b) % 2 ^ n
  | .and => old &&& b
  | .or => old ||| b
  | .xor => old ^^^ b
  | .min => if signed b < signed old then b else old
  | .max => if signed old < signed b then b else old
  | .minn => min old b
  | .maxn => max old b
  | .swp => b
  | .cas => if old = c then b else old
  | .fadd | .faddc => ((if n = 64 then f64 else f32).add .rne old b).bits % 2 ^ n

/-! Jobs -/

/-- The haul forms of R129: f5 code and registers. -/
def haulOp : Instr → Option (Nat × BitVec 5 × BitVec 5)
  | .hcopy d a => some (0x08, d, a)
  | .hcopy2 d a => some (0x09, d, a)
  | .hcopyn d a => some (0x0A, d, a)
  | .hgath d a => some (0x0B, d, a)
  | .hscat d a => some (0x0C, d, a)
  | .hpair d a => some (0x0D, d, a)
  | _ => none

/-- The matrix multiplies by format pair (R218), with xs of R227. -/
def multiplyOp : Instr → Option (Nat × BitVec 3 × BitVec 5 × BitVec 5 × BitVec 5)
  | .mmBf16 x d a b => some (0, x, d, a, b)
  | .mmF16 x d a b => some (1, x, d, a, b)
  | .mmE4m3 x d a b => some (2, x, d, a, b)
  | .mmE5m2 x d a b => some (3, x, d, a, b)
  | .mmE4m3E5m2 x d a b => some (4, x, d, a, b)
  | .mmE5m2E4m3 x d a b => some (5, x, d, a, b)
  | .mmC8 x d a b => some (6, x, d, a, b)
  | .mmBf16C8 x d a b => some (7, x, d, a, b)
  | .mmE2m1 x d a b => some (8, x, d, a, b)
  | .mmI8 x d a b => some (9, x, d, a, b)
  | .mmF32x x d a b => some (10, x, d, a, b)
  | _ => none

/-- No candidate of a kind waits at the executing core's octet, its queue of that kind has room and has accepted none in this cycle,
and every other core of the octet has issued its instruction of this cycle or holds no thread (R127, R128). -/
def QueueFree (s : State) (matrix : Bool) : Prop :=
  let oct := octetOf (coreOf s.cur)
  let o := s.octet oct
  (∀ c ∈ o.candidates, c.2 ≠ matrix) ∧ (if matrix then o.matrix else o.haul).length < 16 ∧
  (if matrix then o.matAt else o.haulAt) ≠ some s.cycle ∧
  ∀ c, c < 8 → oct * 8 + c ≠ coreOf s.cur →
    (s.core (oct * 8 + c)).issuedAt = some s.cycle ∨ ∀ slot, coreOf slot = oct * 8 + c → s.thread? slot = none

/-- No region or tile of the octet, as the jobs accepted will leave them, is another tenant's (R229). -/
def ViewOwned (o : Octet) (tn : Nat) : Prop :=
  (∀ r ∈ o.viewRegions, r.2.state ≠ 0 → r.2.tenant = tn) ∧ ∀ t ∈ o.viewTiles, t.2.state ≠ 0 → t.2.tenant = tn

/-- The answer is a state in which the executing core's octet has accepted one more job, last in its queue of a kind, for
which p holds: the thread has retired with the job's 16-bit identifier in register d and the job among those not known to be
final; the sequence number has moved on, the job's state is queued, and no byte of memory differs. -/
def Accepts (s : State) (o : Host.Outcome State Fault Refusal) (t : Thread) (d : Nat) (matrix : Bool) (p : Job → Prop) : Prop :=
  let core := coreOf s.cur
  let seq := if matrix then (s.core core).matSeq else (s.core core).haulSeq
  let r : JobRef := ⟨octetOf core, matrix, core % 8, seq⟩
  ∃ u j t1, o = .next u ∧ p j ∧ j.ref = r ∧ j.slot = s.cur ∧ j.tenant = t.tenant ∧ j.launch = t.launch ∧ j.state = 0 ∧
    j.pos = 0 ∧ j.updates = [] ∧
    (if matrix then (u.octet r.octet).matrix = (s.octet r.octet).matrix ++ [j]
      else (u.octet r.octet).haul = (s.octet r.octet).haul ++ [j]) ∧
    u.thread? s.cur = some t1 ∧ t1.pc = s.nextPc t ∧ t1.run = .ready ∧ t1.pend = none ∧ t1.instret = t.instret + 1 ∧
    t1.jobs = t.jobs ++ [r] ∧ t1.jobMap.head? = some r ∧ t1.mark = (t.mark || matrix) ∧
    (∀ n, t1.reg n = (t.setX d (BitVec.ofNat 64 ((if matrix then 2 ^ 15 else 0) + core % 8 * 2 ^ 12 + seq % 2 ^ 12))).reg n) ∧
    (u.jobState r).state = 0 ∧ (if matrix then (u.core core).matSeq else (u.core core).haulSeq) = (seq + 1) % 4096 ∧ u.mem = s.mem

/-! The sums of R199 and R200 -/

/-- The value of a finite number. -/
def Fv.ratio : Fv → Option Rat
  | .fin n m e => some ((if n then -1 else 1) * (m : Rat) * 2 ^ e)
  | _ => none

/-- One step of R199: an accumulator a, the bits of an FP32 number, takes a group's products, of the pairs ps, with the tensor scales sA
and sB, and becomes b. The exact sum is rounded once; a NaN anywhere, or products of unlike infinity, make it the canonical NaN. -/
structure SumStep (sA sB : Fv) (ps : List (Fv × Fv)) (a b : Nat) : Prop where
  finite : ∀ (x y z : Rat) (rs : List (Rat × Rat)), sA.ratio = some x → sB.ratio = some y → (f32.decode a).ratio = some z →
    ps.map (fun p => (p.1.ratio, p.2.ratio)) = rs.map (fun r => (some r.1, some r.2)) →
    ∃ v : Fv, v.ratio = some (z + x * y * (rs.map fun r => r.1 * r.2).sum) ∧ b = (f32.ofFv .rne v).bits
  nan : (sA.isNan ∨ sB.isNan ∨ (f32.decode a).isNan ∨ ∃ p ∈ ps, (p.1.mul p.2).1.isNan) → b = f32.nan
  unlike : (∃ p ∈ ps, (p.1.mul p.2).1 = .inf false) → (∃ p ∈ ps, (p.1.mul p.2).1 = .inf true) → b = f32.nan

/-- The parts of A's and of B's elements that each pass of a multiply takes (R200): all of the element, or for mm.f32x the middle part
of A with the high part of B, high with middle, and high with high. -/
def partPairs (pair : Nat) : List ((Fv → Fv) × (Fv → Fv)) :=
  if pair = 10 then [(partM, partH), (partH, partM), (partH, partH)] else [(id, id)]

/-- The pairs of elements whose products pass q of a multiply sums in group g for element (i, c): an element that 2:4 sparsity leaves
out of B gives none (R199). -/
def Octet.groupPairs (o : Octet) (j : Job) (p : Panel) (i c : Nat) (parts : (Fv → Fv) × (Fv → Fv)) (g : Nat) : List (Fv × Fv) :=
  (List.range 16).filterMap fun n =>
    (o.bValue p (j.panelAt * 8192) j.tabB (tK0 j.desc + (16 * g + n)) (c + if tJhalf j.desc then 64 else 0)).map fun y =>
      (parts.1 (j.aValue i (16 * g + n)).1, parts.2 y.1)

/-- b is what the accumulator a of element (i, c) becomes over all passes of a multiply and, in each, all groups of 16 products in the
order of k (R199, R200). -/
def Octet.Sums (o : Octet) (j : Job) (p : Panel) (i c a b : Nat) : Prop :=
  let groups := tK j.desc / 16
  ∃ acc : Nat → Nat, acc 0 = a ∧ acc ((partPairs j.op).length * groups) = b ∧
    ∀ (q g : Nat) (parts : (Fv → Fv) × (Fv → Fv)), (partPairs j.op)[q]? = some parts → g < groups →
      SumStep (f32.decode (j.arg.extractLsb' 32 32).toNat) (f32.decode (j.arg.extractLsb' 0 32).toNat)
        (o.groupPairs j p i c parts g) (acc (q * groups + g)) (acc (q * groups + g + 1))

/-- The job heads its octet's queue of a kind, under its own name, and no other entry of the octet has that name. -/
def Heads (s : State) (oct : Nat) (matrix : Bool) (j : Job) (rest : List Job) : Prop :=
  (if matrix then (s.octet oct).matrix else (s.octet oct).haul) = j :: rest ∧ j.ref.octet = oct ∧ j.ref.matrix = matrix ∧
  (∀ k ∈ rest, k.ref ≠ j.ref) ∧ ∀ k ∈ (if matrix then (s.octet oct).haul else (s.octet oct).matrix), k.ref ≠ j.ref

/-! Launches (R301 to R306) -/

/-- The conditions of R303 on a record, with their codes, in order, in the fields of its words (R301, R302, R365). -/
def State.refusals (s : State) (r : Record) : List (Nat × Prop) :=
  let w (i : Nat) : Nat := (r.words.getD i 0).toNat
  let cfg := w 2
  let opt := cfg.testBit 27
  let slots := cfg % 2 ^ 6
  let window := 8 * (cfg / 2 ^ 8 % 2 ^ 5)
  let ctx := cfg / 2 ^ 16 % 2 ^ 2
  let rope := cfg / 2 ^ 20 % 2 ^ 4 + 1
  let stk := w 7 / 2 ^ 32 % 2 ^ 14
  let cluster := w 1 / 2 ^ 4 % 2 ^ 4
  let col := w 1 / 2 ^ 8 % 2 ^ 4
  let row := w 1 / 2 ^ 12 % 2 ^ 3
  let width := w 1 / 2 ^ 16 % 2 ^ 6 + 1
  let height := w 1 / 2 ^ 24 % 2 ^ 5 + 1
  [(1, if opt then 3 < cluster ∨ row ≠ 0 ∨ height ≠ 1 ∨ 64 < 16 * cluster + col + width
      else 64 < 16 * (cluster % 4) + col + width ∨ 32 < 8 * (cluster / 4) + row + height),
   (2, slots = 0 ∨ 62 < slots), (3, window = 0 ∨ 128 < window ∨ ctx ≠ 0 ∧ window ≠ 8 * ctx),
   (4, width % rope ≠ 0 ∨ ctx ≠ 0 ∧ rope ≠ 1 ∨ opt ∧ (rope ≠ 1 ∨ ctx ≠ 0)), (5, 32 < cfg / 2 ^ 32 % 2 ^ 6), (6, w 0 % 4 ≠ 0),
   (7, stk ≠ 0 ∧ 131072 < slots * 16 * stk), (8, 2016 < slots * window),
   (9, ∃ c ∈ coresOf r.rect r.opt, s.assigned c r.tenant = false), (10, 1024 ≤ s.pendingOn (rectDie r.rect)),
   (11, ∃ i ∈ [3, 4, 5], w i % 8 ≠ 0 ∨ 0x7E0000000000 ≤ w i), (14, (s.tenant r.tenant).sbivlen = 0)]

/-- The code of the first condition that holds. -/
def FirstCode (l : List (Nat × Prop)) (code : Nat) : Prop :=
  ∃ i p, l[i]? = some (code, p) ∧ p ∧ ∀ (j : Nat) (q : Nat × Prop), j < i → l[j]? = some q → ¬ q.2

/-- The slots and windows of R306 for a launch: place, core, slot, ordinal and base of each thread. The ordinal is the slot's rank among
the core's free ones; in the order of ordinals each window takes the lowest base that is free. -/
structure FirstFit (s : State) (l : Launch) (fit : List (Nat × Nat × Nat × Nat × Nat)) : Prop where
  threads : fit.map (fun f => (f.1, f.2.1, f.2.2.2.1)) =
    l.cores.zipIdx.flatMap fun c => (List.range l.record.slots).map fun k => (c.2, c.1, k)
  slots : ∀ f ∈ fit, (s.freeSlots f.2.1)[f.2.2.2.1]? = some f.2.2.1
  windows : ∀ f ∈ fit,
    let W := l.record.window
    let taken := s.windowsOn f.2.1 ++ (fit.filter fun g => g.1 = f.1 ∧ g.2.2.2.1 < f.2.2.2.1).map fun g => (g.2.2.2.2, W)
    let free (b : Nat) : Prop := ∀ u ∈ taken, b + W ≤ u.1 ∨ u.1 + u.2 ≤ b
    let b := f.2.2.2.2
    b % 8 = 0 ∧ b + W ≤ 2016 ∧ free b ∧ ∀ a, a < b → a % 8 = 0 → ¬ free a

/-! What lands at a thread (R175, R176) -/

/-- The thread once something has landed at it in a cycle: it issues no earlier than the next, and the registers it took a delivery in
take no second one of the cycle. -/
def Thread.marked (t : Thread) (cycle : Nat) (took : List Nat) : Thread :=
  { t with landedAt := some cycle, landed := took ++ if t.landedAt = some cycle then t.landed else [] }

/-- The thread whose outstanding load of the belay window has its reply (R331). -/
def Thread.answered (t : Thread) (v : Word) : Thread := { t with pend := t.pend.map fun p => { p with got := p.got ++ [(0, v)] } }

/-! Summit records -/

/-- The checks of R245 on the handle of a form of the executing thread pass for an access of a level: the record's first
word is word k; s1 is s but for what translating left in the TLBs. -/
def OnRecord (s : State) (t : Thread) (v : Word) (level : Nat) (s1 : State) (k : Nat) : Prop :=
  ∃ cls, s.recHome (coreOf s.cur) t.tenant (masterOf t.tenant (coreOf s.cur)) (v.toNat % 2 ^ 32) level = (s1, .ok (k, cls))

/-- A form's request to the record of a handle, whose first word is word k, has its turn: where requests travel, a TLB of the core holds
the page, and none that came to the home in an earlier cycle waits there for the word (R94, R385). -/
def RecordTurn (s : State) (t : Thread) (v : Word) (k : Nat) : Prop :=
  s.slow = true → s.misses (coreOf s.cur) t.tenant (s.recVa t.tenant (v.toNat % 2 ^ 32)).toNat = false ∧
    ∀ p ∈ s.packets, p.atHome = true → k ∈ p.payload.keys → s.cycle ≤ p.came

/-- The state once a request of the executing thread's core for word k has crossed the routers, which merge no further request into
their entries for it (R101). -/
def State.crossed (s : State) (k : Nat) : State :=
  let home := homeEp (8 * k)
  if s.slow && !crossbar (coreOf s.cur) home then s.closeEntries (requestPath (routerOf (coreOf s.cur)) (routerOf home)) [k] else s

/-- The greatest number a scale target holds (R255), as m * 2 ^ e: e4m3, e5m2, f16, bf16 and i8. -/
def targetBound (target : Nat) : Option (Nat × Int) :=
  match target with
  | 0 => some (7, 6)
  | 1 => some (7, 13)
  | 3 => some (2047, 5)
  | 4 => some (255, 120)
  | 5 => some (127, 0)
  | _ => none

/-- b is Mx of R255 for a target, with the selected code table: of that, the greatest magnitude of a finite value, or 1 if it has none. -/
def IsTargetBound (tab : CodeTable) (target : Nat) (b : Nat × Int) : Prop :=
  targetBound target = some b ∨ target = 2 ∧
    (((∀ c, c < 256 → (tab.value c).ratio = none) ∧ b = (1, 0)) ∨
     ((∃ c neg, c < 256 ∧ tab.value c = .fin neg b.1 b.2) ∧ ∀ c r, c < 256 → (tab.value c).ratio = some r →
       r ≤ (b.1 : Rat) * 2 ^ b.2 ∧ -r ≤ (b.1 : Rat) * 2 ^ b.2))

/-- E of R255 for the maximum m * 2 ^ e, m not zero, the bound p * 2 ^ q and a margin: x is the floor of the base-2
logarithm of their exact ratio. -/
def ScaleExponent (m : Nat) (e : Int) (p : Nat) (q : Int) (margin : Nat) (E : Int) : Prop :=
  ∃ x : Int, let z := x + e - q
    m * 2 ^ z.toNat ≤ p * 2 ^ (-z).toNat ∧ p * 2 ^ (-(z + 1)).toNat < m * 2 ^ (z + 1).toNat ∧ E = max (-126) (min 127 (x - margin))

/-- 2 ^ E in FP32, for E from -127 to 127. -/
def f32Power (E : Int) : Nat := if E = -127 then 2 ^ 22 else (E + 127).toNat * 2 ^ 23

/-- The quantisation word that R255 gives for a maximum (FP32 bits), a target word, the selected code table, a generation and a
threshold. -/
def IsScale (tw : Word) (tab : CodeTable) (maximum gen thr : Nat) (v : Word) : Prop :=
  ∃ E : Int,
    v = BitVec.ofNat 64 (gen % 2 ^ 24 * 2 ^ 40 + thr % 256 * 2 ^ 32 + f32Power (if tw.getLsbD 7 then -E else E)) ∧
    (maximum = 0 → E = 0) ∧ (maximum = 0x7F800000 → E = -126) ∧
    (0 < maximum → maximum < 0x7F800000 → ∀ b, IsTargetBound tab (tw.toNat % 16) b →
      (b.1 = 0 → E = -126) ∧
      (0 < b.1 →
      let m := if maximum < 2 ^ 23 then maximum else 2 ^ 23 + maximum % 2 ^ 23
      let e : Int := (if maximum < 2 ^ 23 then 1 else maximum / 2 ^ 23 : Nat) - 150
      ScaleExponent m e b.1 b.2 (tw.toNat / 2 ^ 8 % 8) E))

/-- Windows gen - 1 down to gen - hlen of the ring of the record at word k: M of R255. -/
def ringMax (m : Memory) (k hlen gen : Nat) : Nat :=
  ((List.range hlen).map fun i => if gen < i + 1 then 0
    else let slot := (gen - (i + 1)) % 16; (m.word (k + 4 + slot / 2)).toNat / 2 ^ (32 * (slot % 2)) % 2 ^ 32).foldl max 0

/-! Span arithmetic, lane by lane (R201 to R213) -/

/-- Lane i, of width w, of the registers that x gives, from register r on (R201). -/
def laneAt (x : Nat → Word) (r w i : Nat) : Nat := (x (r + i * w / 64)).toNat / 2 ^ (i * w % 64) % 2 ^ w

/-- n of R201: the lanes of width w of a span. -/
def lanesIn (span : BitVec 2) (w : Nat) : Nat := if span = 0 then 1 else 2 ^ span.toNat * (64 / w)

/-- The registers n lanes of width w take (R202). -/
def regsFor (n w : Nat) : Nat := if n * w ≤ 64 then 1 else n * w / 64

/-- The answer retires the thread with flags fl raised and n lanes of width w written from register d on: lane i is v i. At
span 1 the bits above the lane are as fill says; otherwise bits above the last lane are 0 (R202, R203). -/
def SpanWrites (s : State) (t : Thread) (o : Host.Outcome State Fault Refusal) (fl : BitVec 5) (single : Bool) (fill : Fill)
    (d n w : Nat) (v : Nat → Nat) : Prop :=
  ∃ ws : List Word, ws.length = regsFor n w ∧
    o = .next (s.retires (({ t with fcsr := t.fcsr ||| fl.setWidth 8 } : Thread).setXs d ws) (s.nextPc t)) ∧
    (∀ i, i < n → laneAt (fun j => ws.getD j 0) 0 w i = v i % 2 ^ w) ∧
    (∀ j, n * w ≤ j → j < 64 * regsFor n w → (ws.getD (j / 64) 0).getLsbD (j % 64) =
      (single && match fill with | .ones => true | .sign => (ws.getD 0 0).getLsbD (w - 1) | .zeros => false))

/-- A lanewise form: its span, type code and registers, whether it broadcasts rs2, rounds by frm, reads rd and reads rs2, and
what it makes of a lane of rd, of rs1 and of rs2. -/
structure LaneOp where
  span : BitVec 2
  bc : BitVec 1 := 0
  ty : Nat
  rd : BitVec 5
  rs1 : BitVec 5
  rs2 : BitVec 5 := 0
  rounds : Bool := false
  readsRd : Bool := false
  readsRs2 : Bool := true
  ones : Bool := false
  lane : Mode → Nat → Nat → Nat → Res

/-- A floating-point form of custom-0 (R204, R205). -/
def fpOp (span : BitVec 2) (bc : BitVec 1) (ty : BitVec 2) (rd rs1 rs2 : BitVec 5) (rounds : Bool)
    (lane : Fmt → Mode → Nat → Nat → Nat → Res) : LaneOp :=
  { span, bc, ty := ty.toNat, rd, rs1, rs2, rounds, ones := true, lane := lane (tyFmt ty.toNat) }

/-- An integer form of custom-0 on lanes read as bit vectors (R204). -/
def intOp (span : BitVec 2) (bc : BitVec 1) (ty : BitVec 2) (rd rs1 rs2 : BitVec 5)
    (lane : (w : Nat) → BitVec w → BitVec w → BitVec w → BitVec w) : LaneOp :=
  let w := tyWidth (4 + ty.toNat)
  { span, bc, ty := 4 + ty.toNat, rd, rs1, rs2
    lane := fun _ d a b => ⟨(lane w (BitVec.ofNat w d) (BitVec.ofNat w a) (BitVec.ofNat w b)).toNat, 0⟩ }

/-- A compare of custom-1 (R208): all ones where it holds; a NaN makes it false, with NV where signals says. -/
def cmpOp (span : BitVec 2) (ty : Nat) (rd rs1 rs2 : BitVec 5) (signals : Bool) (fp : Int → Bool)
    (int : (w : Nat) → BitVec w → BitVec w → Bool) : LaneOp :=
  let w := tyWidth ty
  { span, ty, rd, rs1, rs2
    lane := fun _ _ a b =>
      if ty < 4 then
        let x := (tyFmt ty).decode a
        let y := (tyFmt ty).decode b
        if x.isNan || y.isNan then ⟨0, if signals then 16#5 else 0⟩
        else ⟨if fp (x.cmp y) then 2 ^ w - 1 else 0, 0⟩
      else ⟨if int w (BitVec.ofNat w a) (BitVec.ofNat w b) then 2 ^ w - 1 else 0, 0⟩ }

/-- A form of one source of custom-1 (R209). -/
def oneOp (span : BitVec 2) (ty : Nat) (rd rs1 : BitVec 5) (ones : Bool) (lane : (w : Nat) → BitVec w → Nat) : LaneOp :=
  let w := tyWidth ty
  { span, ty, rd, rs1, readsRs2 := false, ones, lane := fun _ _ a _ => ⟨lane w (BitVec.ofNat w a), 0⟩ }

/-- The lanewise forms of R204, R205, R208 and R209. -/
def laneForm : Instr → Option LaneOp
  | .fadd sp bc ty d a b => some (fpOp sp bc ty d a b true fun f m _ x y => f.add m x y)
  | .fsub sp bc ty d a b => some (fpOp sp bc ty d a b true fun f m _ x y => f.sub m x y)
  | .fmul sp bc ty d a b => some (fpOp sp bc ty d a b true fun f m _ x y => f.mul m x y)
  | .fmac sp bc ty d a b => some { fpOp sp bc ty d a b true (fun f m z x y => f.fma m false z x y) with readsRd := true }
  | .fmsc sp bc ty d a b => some { fpOp sp bc ty d a b true (fun f m z x y => f.fma m true z x y) with readsRd := true }
  | .fmin sp bc ty d a b => some (fpOp sp bc ty d a b false fun f _ _ x y =>
      fpPick f x y fun o neg => o == -1 || (o == 0 && neg))
  | .fmax sp bc ty d a b => some (fpOp sp bc ty d a b false fun f _ _ x y =>
      fpPick f x y fun o neg => o == 1 || (o == 0 && !neg))
  | .fdiv sp bc ty d a b => some (fpOp sp bc ty d a b true fun f m _ x y => f.div m x y)
  | .fsqrt sp bc ty d a b => some { fpOp sp bc ty d a b true (fun f m _ x _ => f.sqrt m x) with readsRs2 := false }
  | .frcpe sp bc ty d a b => some { fpOp sp bc ty d a b false (fun f _ _ x _ => recip f x) with readsRs2 := false }
  | .frsqe sp bc ty d a b => some { fpOp sp bc ty d a b false (fun f _ _ x _ => recipSqrt f x) with readsRs2 := false }
  | .fsgnj sp bc ty d a b => some (fpOp sp bc ty d a b false fun f _ _ x y => withSign f x (signOf f y))
  | .fsgnjn sp bc ty d a b => some (fpOp sp bc ty d a b false fun f _ _ x y => withSign f x (!signOf f y))
  | .fsgnjx sp bc ty d a b => some (fpOp sp bc ty d a b false fun f _ _ x y => withSign f x (signOf f x != signOf f y))
  | .spanAdd sp bc ty d a b => some (intOp sp bc ty d a b fun _ _ x y => x + y)
  | .spanSub sp bc ty d a b => some (intOp sp bc ty d a b fun _ _ x y => x - y)
  | .spanMin sp bc ty d a b => some (intOp sp bc ty d a b fun _ _ x y => if y.toInt < x.toInt then y else x)
  | .spanMax sp bc ty d a b => some (intOp sp bc ty d a b fun _ _ x y => if x.toInt < y.toInt then y else x)
  | .spanMaxn sp bc ty d a b => some (intOp sp bc ty d a b fun _ _ x y => if x.toNat < y.toNat then y else x)
  | .spanMul sp bc ty d a b => some (intOp sp bc ty d a b fun _ _ x y => x * y)
  | .spanMulh sp bc ty d a b => some (intOp sp bc ty d a b fun w _ x y => BitVec.ofInt w (x.toInt * y.toInt / 2 ^ w))
  | .spanAnd sp bc ty d a b => some (intOp sp bc ty d a b fun _ _ x y => x &&& y)
  | .spanOr sp bc ty d a b => some (intOp sp bc ty d a b fun _ _ x y => x ||| y)
  | .spanXor sp bc ty d a b => some (intOp sp bc ty d a b fun _ _ x y => x ^^^ y)
  | .spanSll sp bc ty d a b => some (intOp sp bc ty d a b fun w _ x y => x <<< (y.toNat % w))
  | .spanSrl sp bc ty d a b => some (intOp sp bc ty d a b fun w _ x y => x >>> (y.toNat % w))
  | .spanSra sp bc ty d a b => some (intOp sp bc ty d a b fun w _ x y => x.sshiftRight (y.toNat % w))
  | .fsl sp bc ty d a b => some { intOp sp bc ty d a b (fun w z x y =>
      ((z ++ x) <<< (y.toNat % (2 * w))).extractLsb' w w) with readsRd := true }
  | .fsr sp bc ty d a b => some { intOp sp bc ty d a b (fun w z x y =>
      ((z ++ x) >>> (y.toNat % (2 * w))).extractLsb' 0 w) with readsRd := true }
  | .cmpeq sp ty d a b => some (cmpOp sp ty.toNat d a b false (· == 0) fun _ x y => x == y)
  | .cmplt sp ty d a b => some (cmpOp sp ty.toNat d a b true (· < 0) fun _ x y => x.slt y)
  | .cmple sp ty d a b => some (cmpOp sp ty.toNat d a b true (· ≤ 0) fun _ x y => x.sle y)
  | .cmpltn sp ty d a b => some (cmpOp sp (4 + ty.toNat) d a b false (fun _ => false) fun _ x y => x.ult y)
  | .clz sp ty d a => some (oneOp sp (4 + ty.toNat) d a false fun _ x => x.clz.toNat)
  | .popc sp ty d a => some (oneOp sp (4 + ty.toNat) d a false fun w x => ((List.range w).filter fun i => x.getLsbD i).length)
  | .abs sp ty d a => some (oneOp sp ty.toNat d a (ty.toNat < 4) fun w x =>
      if ty.toNat < 4 then x.toNat % 2 ^ (w - 1) else (if x.toInt < 0 then 0 - x else x).toNat)
  | .neg sp ty d a => some (oneOp sp ty.toNat d a (ty.toNat < 4) fun w x =>
      if ty.toNat < 4 then (x ^^^ BitVec.twoPow w (w - 1)).toNat else (0 - x).toNat)
  | .fclass sp ty d a => some (oneOp sp ty.toNat d a false fun _ x => classOf (tyFmt ty.toNat) x.toNat)
  | _ => none

/-- The operands of a lanewise form (R203). -/
def LaneOp.uses (o : LaneOp) (l : Latch) : List RegUse :=
  let k := regsFor (lanesIn o.span (tyWidth o.ty)) (tyWidth o.ty)
  [rs (l.rs1 o.rs1) k] ++ (if o.readsRs2 then [rs (l.rs2 o.rs2) (if o.bc = 1 then 1 else k)] else []) ++
    [if o.readsRd then rmod (l.rd o.rd) k else rdst (l.rd o.rd) k]

/-- Lane i that a lanewise form computes for a thread. -/
def LaneOp.at (o : LaneOp) (l : Latch) (t : Thread) (m : Mode) (i : Nat) : Res :=
  let w := tyWidth o.ty
  o.lane m (laneAt t.x (l.rd o.rd) w i) (laneAt t.x (l.rs1 o.rs1) w i)
    (laneAt t.x (l.rs2 o.rs2) w (if o.bc = 1 then 0 else i))

/-- The flags that n results raise together. -/
def orFlags (n : Nat) (r : Nat → Res) : BitVec 5 := (List.range n).foldl (fun f i => f ||| (r i).flags) 0

/-! The integer instructions, in the integers of R64 and R65 -/

/-- 1 for true. -/
def truth (p : Bool) : Word := if p then 1#64 else 0#64

/-- The low 32 bits as a W form's result (R64): read signed, in 64 bits. -/
def wordOfInt (v : Int) : Word := (BitVec.ofInt 32 v).signExtend 64

/-- The low half of a register, as the two readings of a 32-bit number. -/
def lowS (v : Word) : Int := (v.setWidth 32).toInt
def lowU (v : Word) : Nat := v.toNat % 2 ^ 32

/-- The register forms of R64 and R65: destination, sources, and what the rule makes of their values. -/
def regForm : Instr → Option (BitVec 5 × BitVec 5 × BitVec 5 × (Word → Word → Word))
  | .add d a b => some (d, a, b, fun x y => BitVec.ofNat 64 (x.toNat + y.toNat))
  | .sub d a b => some (d, a, b, fun x y => BitVec.ofInt 64 (x.toInt - y.toInt))
  | .sll d a b => some (d, a, b, fun x y => BitVec.ofNat 64 (x.toNat * 2 ^ (y.toNat % 64)))
  | .slt d a b => some (d, a, b, fun x y => truth (x.toInt < y.toInt))
  | .sltu d a b => some (d, a, b, fun x y => truth (x.toNat < y.toNat))
  | .xor d a b => some (d, a, b, fun x y => x ^^^ y)
  | .srl d a b => some (d, a, b, fun x y => BitVec.ofNat 64 (x.toNat / 2 ^ (y.toNat % 64)))
  | .sra d a b => some (d, a, b, fun x y => BitVec.ofInt 64 (x.toInt / 2 ^ (y.toNat % 64)))
  | .or d a b => some (d, a, b, fun x y => x ||| y)
  | .and d a b => some (d, a, b, fun x y => x &&& y)
  | .mul d a b => some (d, a, b, fun x y => BitVec.ofNat 64 (x.toNat * y.toNat))
  | .mulh d a b => some (d, a, b, fun x y => BitVec.ofInt 64 (x.toInt * y.toInt / 2 ^ 64))
  | .mulhsu d a b => some (d, a, b, fun x y => BitVec.ofInt 64 (x.toInt * y.toNat / 2 ^ 64))
  | .mulhu d a b => some (d, a, b, fun x y => BitVec.ofNat 64 (x.toNat * y.toNat / 2 ^ 64))
  | .div d a b => some (d, a, b, fun x y => if y = 0 then BitVec.ofInt 64 (-1) else BitVec.ofInt 64 (x.toInt.tdiv y.toInt))
  | .divu d a b => some (d, a, b, fun x y => if y = 0 then BitVec.ofInt 64 (-1) else BitVec.ofNat 64 (x.toNat / y.toNat))
  | .rem d a b => some (d, a, b, fun x y => if y = 0 then x else BitVec.ofInt 64 (x.toInt.tmod y.toInt))
  | .remu d a b => some (d, a, b, fun x y => if y = 0 then x else BitVec.ofNat 64 (x.toNat % y.toNat))
  | .addw d a b => some (d, a, b, fun x y => wordOfInt (lowU x + lowU y))
  | .subw d a b => some (d, a, b, fun x y => wordOfInt (lowS x - lowS y))
  | .sllw d a b => some (d, a, b, fun x y => wordOfInt (lowU x * 2 ^ (y.toNat % 32)))
  | .srlw d a b => some (d, a, b, fun x y => wordOfInt (lowU x / 2 ^ (y.toNat % 32)))
  | .sraw d a b => some (d, a, b, fun x y => wordOfInt (lowS x / 2 ^ (y.toNat % 32)))
  | .mulw d a b => some (d, a, b, fun x y => wordOfInt (lowU x * lowU y))
  | .divw d a b => some (d, a, b, fun x y => if lowU y = 0 then wordOfInt (-1) else wordOfInt ((lowS x).tdiv (lowS y)))
  | .divuw d a b => some (d, a, b, fun x y => if lowU y = 0 then wordOfInt (-1) else wordOfInt (lowU x / lowU y))
  | .remw d a b => some (d, a, b, fun x y => if lowU y = 0 then wordOfInt (lowU x) else wordOfInt ((lowS x).tmod (lowS y)))
  | .remuw d a b => some (d, a, b, fun x y => if lowU y = 0 then wordOfInt (lowU x) else wordOfInt (lowU x % lowU y))
  | _ => none

/-- The immediate forms of R64: destination, source, and what the rule makes of the source and the immediate. -/
def immForm : Instr → Option (BitVec 5 × BitVec 5 × (Word → Word))
  | .addi d a i => some (d, a, fun x => BitVec.ofInt 64 (x.toInt + i.toInt))
  | .slti d a i => some (d, a, fun x => truth (x.toInt < i.toInt))
  | .sltiu d a i => some (d, a, fun x => truth (x.toNat < (BitVec.ofInt 64 i.toInt).toNat))
  | .xori d a i => some (d, a, fun x => x ^^^ BitVec.ofInt 64 i.toInt)
  | .ori d a i => some (d, a, fun x => x ||| BitVec.ofInt 64 i.toInt)
  | .andi d a i => some (d, a, fun x => x &&& BitVec.ofInt 64 i.toInt)
  | .slli d a n => some (d, a, fun x => BitVec.ofNat 64 (x.toNat * 2 ^ n.toNat))
  | .srli d a n => some (d, a, fun x => BitVec.ofNat 64 (x.toNat / 2 ^ n.toNat))
  | .srai d a n => some (d, a, fun x => BitVec.ofInt 64 (x.toInt / 2 ^ n.toNat))
  | .addiw d a i => some (d, a, fun x => wordOfInt (lowS x + i.toInt))
  | .slliw d a n => some (d, a, fun x => wordOfInt (lowU x * 2 ^ n.toNat))
  | .srliw d a n => some (d, a, fun x => wordOfInt (lowU x / 2 ^ n.toNat))
  | .sraiw d a n => some (d, a, fun x => wordOfInt (lowS x / 2 ^ n.toNat))
  | _ => none

/-- When a branch of R68 is taken: its sources, its immediate in halves of a word, and the comparison. -/
def branchForm : Instr → Option (BitVec 5 × BitVec 5 × BitVec 12 × (Word → Word → Bool))
  | .beq a b i => some (a, b, i, fun x y => x.toNat = y.toNat)
  | .bne a b i => some (a, b, i, fun x y => x.toNat ≠ y.toNat)
  | .blt a b i => some (a, b, i, fun x y => x.toInt < y.toInt)
  | .bge a b i => some (a, b, i, fun x y => y.toInt ≤ x.toInt)
  | .bltu a b i => some (a, b, i, fun x y => x.toNat < y.toNat)
  | .bgeu a b i => some (a, b, i, fun x y => y.toNat ≤ x.toNat)
  | _ => none

/-! The operands of every form (R38), for what holds of all of them -/

/-- The span forms whose lanes are not independent, the conversions and the coding forms. -/
def spanUses (l : Latch) : Instr → Option (List RegUse)
  | .gmax sp _ ty d a _ | .gsum sp ty d a => some (same sp (4 + ty.toNat) d a)
  | .fmaxa sp _ ty d a _ | .fsum sp _ ty d a _ => some (same sp ty.toNat d a)
  | .perm sp ty d a b =>
    let k := regsFor (lanesIn sp (tyWidth ty.toNat)) (tyWidth ty.toNat)
    some [rs (l.rs1 a) k, rs (l.rs2 b) k, rdst (l.rd d) k]
  | .lmsk sp ty d a => some [rs (l.rs1 a) (regsFor (lanesIn sp (tyWidth ty.toNat)) (tyWidth ty.toNat)), rdst (l.rd d)]
  | .lexp sp ty d a => some [rs (l.rs1 a), rdst (l.rd d) (regsFor (lanesIn sp (tyWidth ty.toNat)) (tyWidth ty.toNat))]
  | .cvt sp ty d a sel | .cvtr sp ty d a sel =>
    let n := lanesIn sp (tyWidth ty.toNat)
    let k := regsFor n (tyWidth (sel.toNat % 8))
    if k ≤ 8 then some [rs (l.rs1 a) (regsFor n (tyWidth ty.toNat)), rdst (l.rd d) k] else none
  | .qenc sp ty d a b | .qfp8 sp ty d a b | .qfp8x sp ty d a b =>
    let n := lanesIn sp (tyWidth ty.toNat)
    some [rs (l.rs1 a) (regsFor n (tyWidth ty.toNat)), rs (l.rs2 b), rdst (l.rd d) (regsFor n 8)]
  | .qdec sp ty d a b | .dfp8 sp ty d a b | .dfp8x sp ty d a b =>
    let n := lanesIn sp (tyWidth ty.toNat)
    some [rs (l.rs1 a) (regsFor n 8), rs (l.rs2 b), rdst (l.rd d) (regsFor n (tyWidth ty.toNat))]
  | _ => none
where
  same (sp : BitVec 2) (ty : Nat) (d a : BitVec 5) : List RegUse :=
    let k := regsFor (lanesIn sp (tyWidth ty)) (tyWidth ty)
    [rs (l.rs1 a) k, rdst (l.rd d) k]

/-- The forms that name whole registers and groups, but for the integer, memory, atomic and job forms that have a table above. -/
def plainUses (l : Latch) : Instr → Option (List RegUse)
  | .ecall | .ebreak | .fence _ _ _ | .fenceI | .fenceS _ _ | .fenceE | .exit | .yield | .ropeEnd | .xret | .ixret | .beat => some []
  | .lui d _ | .auipc d _ | .jal d _ | .sflush d | .unclip d => some [rdst (l.rd d)]
  | .csrrwi _ d _ | .csrrsi _ d _ | .csrrci _ d _ => some [rdst (l.rd d)]
  | .jalr d a _ | .csrrw _ d a | .csrrs _ d a | .csrrc _ d a => some [rs (l.rs1 a), rdst (l.rd d)]
  | .ldx d a | .lde d a | .ldt d a | .tagrd d a | .mbload d a | .mst d a | .mclr d a | .mrestart d a | .hwait d a | .hpoll d a
  | .jobint d a | .punb d a | .pstat d a | .isect d a | .salloc d a | .sfree d a | .sgen d a | .trav d a | .ctrRd d a
  | .spawn d a | .ropeForm d a | .clip d a | .cairnOpen d a | .cairnClose d a => some [rs (l.rs1 a), rdst (l.rd d)]
  | .mwait d a | .mpoll d a => some [rs (l.rs1 a), rdst (l.rd d) 2]
  | .ldg sp d a _ => some [rs (l.rs1 a), rdst (l.rd d) (2 ^ sp.toNat)]
  | .stg sp b a _ => some [rs (l.rs1 a), rs (l.rs2 b) (2 ^ sp.toNat)]
  | .stx b a r => some [rs (l.rs1 a), rs (l.rs2 b), rs (l.rd r)]
  | .stf a b | .stp a b | .psave a b | .msgReg a b | .msgDec a b => some [rs (l.rs1 a), rs (l.rs2 b)]
  | .tagset d a b | .waitA d a b | .wake d a b | .prest d a b | .pskip d a b | .tinv d a b | .sset d a b | .sroll d a b
  | .sscale d a b | .sscaleH d a b | .sscaleG d a b | .ctrSet d a b | .gqWin d a b =>
    some [rs (l.rs1 a), rs (l.rs2 b), rdst (l.rd d)]
  | .tlook d a b | .tins d a b => some [rs (l.rs1 a), rs (l.rs2 b), rdst (l.rd d) 2]
  | .sread d a b => some [rs (l.rs1 a), rs (l.rs2 b), rdst (l.rd d) 4]
  | .pbind d a b => some [rs (l.rs1 a), rname (l.rs2 b), rdst (l.rd d)]
  | .collRed d a b => some [rs (l.rs1 a), rs (l.rs2 b), rname (l.rd d)]
  | .hcall d a b => some [rs (l.rs1 a), rs (l.rs2 b) 2, rname (l.rd d)]
  | .supd a b r => some [rs (l.rs1 a), rs (l.rs2 b), rs (l.rd r)]
  | .xempty k d => some [rname (l.rd d) (2 ^ k.toNat)]
  | .tabld _ a | .hret a | .tret a | .gqPush a _ | .gqPop _ a => some [rs (l.rs1 a)]
  | _ => none

/-- The operands of every form that a prefix may stand before (R38, R41), but for the span of a queue's words (R367). -/
def formUses (l : Latch) (i : Instr) : Option (List RegUse) :=
  ((regForm i).map fun f => [rs (l.rs1 f.2.1), rs (l.rs2 f.2.2.1), rdst (l.rd f.1)]) <|>
  ((immForm i).map fun f => [rs (l.rs1 f.2.1), rdst (l.rd f.1)]) <|>
  ((branchForm i).map fun f => [rs (l.rs1 f.1), rs (l.rs2 f.2.1)]) <|>
  ((loadForm i).map fun f => [rs (l.rs1 f.2.1), rdst (l.rd f.1)]) <|>
  ((storeForm i).map fun f => [rs (l.rs1 f.2.1), rs (l.rs2 f.1)]) <|>
  ((atomicForm i).map fun f => [rs (l.rs1 f.2.2.2.2.2), rs (l.rs2 f.2.2.2.2.1), rdst (l.rd f.2.2.2.1)]) <|>
  ((laneForm i).map fun o => o.uses l) <|>
  ((haulOp i).map fun f => [rs (l.rs1 f.2.2), rdst (l.rd f.2.1)]) <|>
  ((multiplyOp i).map fun f => [rs (l.rs1 f.2.2.2.1), rs (l.rs2 f.2.2.2.2), rs (8 + f.2.1.toNat), rdst (l.rd f.2.2.1)]) <|>
  spanUses l i <|> plainUses l i

end Sys2Proof.Machine
end

