-- ==== Sys2Proof/Certificates/Slice0/Obligations.lean ====
section
/-! DEFINITION. Sys2Proof/Certificates/Slice0/Obligations.lean: the statements about the machine, for the provers. -/

open Sys2Proof Sys2Proof.Machine

/-- R84, R114, R418: what a package reset leaves. -/
def Obligations.ResetState : Prop :=
  (∀ a, State.reset.mem.byte a = 0) ∧
  (∀ k, State.reset.mem.full k = true ∧ State.reset.mem.poisoned k = false) ∧
  State.reset.mem.wf = true ∧ State.reset.cycle = 0 ∧ State.reset.tripped = false ∧
  (∀ tgt m, m % 8 ≠ 7 → State.reset.accessWord tgt m = 0#32) ∧
  (∀ slot, State.reset.thread? slot = none) ∧ State.reset.tenants = [] ∧ State.reset.launches = [] ∧
  State.reset.ropes = [] ∧ State.reset.packets = [] ∧ State.reset.holds = []

/-- R41, R71, R311: the step runs what the decoder reads at the pc of the slot granted. -/
def Obligations.StepRunsDecoded : Prop :=
  ∀ (s : State) (dt core n : Nat) (rest : List (Nat × Item)) (t : Thread) (g : Granule) (w : BitVec 32) (i : Instr),
    let s1 : State := { s with cycle := (s.cycle + dt) % 2 ^ 64, agenda := rest }
    let slot := core * 64 + n
    let s2 : State := { s1.turn core n (s1.spanNext slot) with cur := slot, latch := {} }
    let s3 : State := { s2 with latch := { word := w } }
    s.agenda = (dt, .issue core) :: rest → s.tripped = false → (s1.core core).issuedAt ≠ some s1.cycle →
    s1.ropeTurn core = none → (s1.grant core).1 = some n → n < 64 →
    s1.thread? slot = some t → (s1.spanNext slot && s1.spanWaits core t) = false →
    t.body = none → t.stepped = false → t.pc.toNat % 4 = 0 →
    amGet (s2.core core).fetch (t.pc.toNat / 64) = some g →
    g.poison.contains (t.pc.toNat % 64 / 8) = false →
    (g.words.getD (t.pc.toNat % 64 / 8) 0).extractLsb' (8 * (t.pc.toNat % 8)) 32 = w →
    (decodeWord w = .ok i →
      (∀ r, exec i s3 = .fault r → step s = .fault r) ∧
      (∀ s4, exec i s3 = .next s4 → s4.latch.more = false → s4.foundFull slot = false → step s = .next s4)) ∧
    (∀ e, decodeWord w = .error e → (∀ f p d a b, e ≠ .reservedPair f p d a b) →
      step s = .next (s3.trap slot 0x01 (w.setWidth 64)))

/-- R38, R39, R40, R41: reach and when as parts of the instruction that follows. The latch is the model's own
(notes/assumptions/7.md). -/
def Obligations.PrefixedStep : Prop :=
  (∀ (s : State) (t : Thread) (a b c : BitVec 2) (neg : BitVec 1) (p : BitVec 6),
    s.tripped = false → s.thread? s.cur = some t →
    (s.latch.reach = none → exec (.reach a b c) s = .next { s with
      latch := { s.latch with reach := some (c, b, a), n := s.latch.n + 1, more := true } }) ∧
    (s.latch.reach ≠ none → exec (.reach a b c) s = .next (s.trap s.cur 0x01 (s.latch.word.setWidth 64))) ∧
    (s.latch.guard = none → exec (.when neg p) s = .next { s with
      latch := { s.latch with guard := some (decide (neg = 1#1), p), n := s.latch.n + 1, more := true } }) ∧
    (s.latch.guard ≠ none → exec (.when neg p) s = .next (s.trap s.cur 0x01 (s.latch.word.setWidth 64)))) ∧
  (∀ (s s1 : State) (t : Thread) (w : BitVec 32) (fuel : Nat) (a b c : BitVec 2) (neg : BitVec 1) (p : BitVec 6),
    s.thread? s.cur = some t → s.fetch32 s.cur t (t.pc + BitVec.ofNat 64 (4 * s.latch.n)) = (s1, .ok w) →
    s1.tripped = false → (s1.thread? s1.cur).isSome = true → s1.latch.more = false →
    (decodeWord w = .ok (.reach a b c) → s1.latch.reach = none →
      runWords exec badPair (fuel + 1) s = runWords exec badPair fuel { s1 with
        latch := { s1.latch with word := w, reach := some (c, b, a), n := s1.latch.n + 1 } }) ∧
    (decodeWord w = .ok (.when neg p) → s1.latch.guard = none →
      runWords exec badPair (fuel + 1) s = runWords exec badPair fuel { s1 with
        latch := { s1.latch with word := w, guard := some (decide (neg = 1#1), p), n := s1.latch.n + 1 } })) ∧
  (∀ (l : Latch) (f : BitVec 5) (d a b : BitVec 2),
    (l.reach = some (d, a, b) →
      l.rd f = d.toNat * 32 + f.toNat ∧ l.rs1 f = a.toNat * 32 + f.toNat ∧ l.rs2 f = b.toNat * 32 + f.toNat) ∧
    (l.reach = none → l.rd f = f.toNat ∧ l.rs1 f = f.toNat ∧ l.rs2 f = f.toNat))

/-- R64, R65: the register forms, whose values regForm gives. -/
def Obligations.IntegerRegisterForms : Prop :=
  ∀ (i : Instr) (rd rs1 rs2 : BitVec 5) (f : Word → Word → Word), regForm i = some (rd, rs1, rs2, f) →
  ∀ (s : State) (t : Thread),
    let d := s.latch.rd rd; let a := s.latch.rs1 rs1; let b := s.latch.rs2 rs2
    CanIssue s t [rs a, rs b, rdst d] → exec i s = .next (s.retires (t.setX d (f (t.x a) (t.x b))) (s.nextPc t))

/-- R64: the immediate forms, whose values immForm gives, lui and auipc. -/
def Obligations.IntegerImmediateForms : Prop :=
  (∀ (i : Instr) (rd rs1 : BitVec 5) (f : Word → Word), immForm i = some (rd, rs1, f) →
    ∀ (s : State) (t : Thread),
      let d := s.latch.rd rd; let a := s.latch.rs1 rs1
      CanIssue s t [rs a, rdst d] → exec i s = .next (s.retires (t.setX d (f (t.x a))) (s.nextPc t))) ∧
  (∀ (rd : BitVec 5) (imm : BitVec 20) (s : State) (t : Thread),
    let d := s.latch.rd rd
    let u := BitVec.ofInt 64 (imm.toInt * 2 ^ 12)
    CanIssue s t [rdst d] →
    exec (.lui rd imm) s = .next (s.retires (t.setX d u) (s.nextPc t)) ∧
    exec (.auipc rd imm) s = .next (s.retires (t.setX d (t.pc + u)) (s.nextPc t)))

/-- R45, R73: what a no-operation changes. That a hint's source fields are not held to the window limit is DEDUCED
(notes/assumptions/71.md). -/
def Obligations.HintsDoNothing : Prop :=
  ∀ (s : State) (t : Thread), CanIssue s t [] →
    (∀ i rs1 rs2 f, regForm i = some (0, rs1, rs2, f) → s.latch.reach = none → exec i s = .next (s.retires t (s.nextPc t))) ∧
    (∀ i rs1 f, immForm i = some (0, rs1, f) → s.latch.reach = none → exec i s = .next (s.retires t (s.nextPc t))) ∧
    (∀ imm, s.latch.reach = none → exec (.lui 0 imm) s = .next (s.retires t (s.nextPc t)) ∧
      exec (.auipc 0 imm) s = .next (s.retires t (s.nextPc t))) ∧
    (∀ fm pred succ, pred = 0 ∨ succ = 0 → exec (.fence fm pred succ) s = .next (s.retires t (s.nextPc t))) ∧
    (s.latch.n = 0 → exec .hintRegion s = .next (s.retires t (s.nextPc t))) ∧
    (s.latch.n ≠ 0 → exec .hintRegion s = .next (s.trap s.cur 0x01 (s.latch.word.setWidth 64))) ∧
    (∀ w : BitVec 32, w.extractLsb' 0 7 = 0x7B#7 → w.extractLsb' 12 3 = 7#3 → decodeWord w = .ok .hintRegion)

/-- R68, R31, R32: control transfer; branchForm gives the branches' comparisons. -/
def Obligations.ControlTransfers : Prop :=
  (∀ (i : Instr) (rs1 rs2 : BitVec 5) (imm : BitVec 12) (f : Word → Word → Bool), branchForm i = some (rs1, rs2, imm, f) →
    ∀ (s : State) (t : Thread),
      let a := s.latch.rs1 rs1; let b := s.latch.rs2 rs2
      let target := t.pc + BitVec.ofInt 64 (2 * imm.toInt)
      CanIssue s t [rs a, rs b] →
      exec i s = .next (
        if f (t.x a) (t.x b) = false then s.retires t (s.nextPc t)
        else if target.toNat % 4 = 0 then s.retires t target
        else s.trapAt s.cur 0x03 target t.pc)) ∧
  (∀ (s : State) (t : Thread) (rd rs1 : BitVec 5) (imm : BitVec 12) (off : BitVec 20),
    let d := s.latch.rd rd; let a := s.latch.rs1 rs1
    let goto (x : Word) : State :=
      if x.toNat % 4 = 0 then s.retires (t.setX d (s.nextPc t)) x else s.trapAt s.cur 0x03 x t.pc
    (CanIssue s t [rdst d] → exec (.jal rd off) s = .next (goto (t.pc + BitVec.ofInt 64 (2 * off.toInt)))) ∧
    (CanIssue s t [rs a, rdst d] → exec (.jalr rd rs1 imm) s = .next (goto ((t.x a + BitVec.ofInt 64 imm.toInt) &&& ~~~(1#64)))))

/-- R72: the environment calls. -/
def Obligations.EnvironmentCalls : Prop :=
  decodeWord 0x00000073#32 = .ok .ecall ∧ decodeWord 0x00100073#32 = .ok .ebreak ∧
  (∀ (s s1 : State) (t : Thread) (w : BitVec 32) (fuel : Nat), s.thread? s.cur = some t →
    s.fetch32 s.cur t (t.pc + BitVec.ofNat 64 (4 * s.latch.n)) = (s1, .ok w) →
    w.extractLsb' 0 7 = 0x73#7 → w.extractLsb' 12 3 = 0#3 ∨ w.extractLsb' 12 3 = 4#3 →
    w ≠ 0x00000073#32 → w ≠ 0x00100073#32 →
    runWords exec badPair (fuel + 1) s =
      .next (({ s1 with latch := { s1.latch with word := w } } : State).trap s1.cur 0x01 (w.setWidth 64))) ∧
  (∀ (s : State) (t : Thread), CanIssue s t [] →
    let v := BitVec.ofNat 64 (4 * (s.latch.n + 1))
    exec .ecall s = .next (s.trapAt s.cur 0x05 v t.pc) ∧
    exec .ebreak s = .next (s.trapAt s.cur 0x04 v t.pc) ∧
    (t.level = .user → s.launchStopped t.launch = false → ∃ u t1, exec .ecall s = .next u ∧ u.thread? s.cur = some t1 ∧ t1.run = .parked .activation ∧
      ({ target := some s.cur, scause := 5, sepc := t.pc, stval := v, tenant := t.tenant } : Activation) ∈
        (u.core (coreOf s.cur)).actQueue) ∧
    (t.level = .user → s.launchStopped t.launch = false → t.xtvec ≠ 0 → t.xtvec.toNat % 4 = 0 → t.xcause.toNat < 2 ^ 63 →
      ∃ u t1, exec .ebreak s = .next u ∧ u.thread? s.cur = some t1 ∧ t1.run = .ready ∧ t1.pc = t.xtvec ∧
        t1.xcause = BitVec.ofNat 64 (2 ^ 63 + 4) ∧ t1.xepc = t.pc ∧ t1.xtval = v ∧ t1.xepc + t1.xtval = s.nextPc t)) ∧
  (∀ (s : State) (t : Thread) (neg : Bool) (p : BitVec 6), s.tripped = false → s.thread? s.cur = some t →
    s.latch.replay = 0 → s.latch.guard = some (neg, p) → t.pw.getLsbD p.toNat = neg →
    exec .ecall s = .next (s.retires t (s.nextPc t)) ∧ exec .ebreak s = .next (s.retires t (s.nextPc t)))

/-- R40: a false guard, for every form whose operands formUses gives. -/
def Obligations.GuardedOff : Prop :=
  ∀ (s : State) (t : Thread) (i : Instr) (us : List RegUse) (neg : Bool) (p : BitVec 6),
    s.tripped = false → s.thread? s.cur = some t → s.latch.replay = 0 →
    s.latch.guard = some (neg, p) → t.pw.getLsbD p.toNat = neg →
    formUses s.latch i = some us → (∀ u ∈ us, u.n % u.span = 0) → (∀ u ∈ us, ∀ n ∈ u.regs, n < t.limit) →
    exec i s = .next (s.retires t (s.nextPc t))

/-- R38, R74, R178: what keeps a register form from executing. -/
def Obligations.OperandTraps : Prop :=
  ∀ (i : Instr) (rd rs1 rs2 : BitVec 5) (f : Word → Word → Word), regForm i = some (rd, rs1, rs2, f) →
  ∀ (s : State) (t : Thread),
    let d := s.latch.rd rd; let a := s.latch.rs1 rs1; let b := s.latch.rs2 rs2
    s.tripped = false → s.thread? s.cur = some t → s.latch.replay = 0 → s.latch.guard = none → t.ports = [] → t.body = none →
    (rd ≠ 0 ∨ s.latch.reach ≠ none) →
    (∀ n, n ∈ [d, a, b] → t.limit ≤ n → (∀ m ∈ [d, a, b], t.limit ≤ m → n ≤ m) →
      exec i s = .next (s.trapAt s.cur 0x02 (BitVec.ofNat 64 n) t.pc)) ∧
    ((∀ n ∈ [d, a, b], n < t.limit) →
      (∀ n, n ∈ [a, b] → (t.reg n).full = false → (∀ m ∈ [a, b], (t.reg m).full = false → n ≤ m) →
        exec i s = .next { s.setThread s.cur { t with run := .waiting (.fullReg n) } with latch := {} }) ∧
      (∀ n, (∀ m ∈ [a, b], (t.reg m).full = true) → n ∈ [a, b] → (t.reg n).perr = true →
        (∀ m ∈ [a, b], (t.reg m).perr = true → n ≤ m) →
        exec i s = .next ((s.check 2 s.cur).trapAt s.cur 0x0E (BitVec.ofNat 64 n) t.pc)))

/-- R66, R67, R75, R94: a load of this package's memory. State.slow is the model's (DESIGN CHOICE, notes/assumptions/1.md): both of
its values are stated. -/
def Obligations.LoadsReadMemory : Prop :=
  ∀ (i : Instr) (rd rs1 : BitVec 5) (imm : BitVec 12) (n : Nat) (sg : Bool), loadForm i = some (rd, rs1, imm, n, sg) →
  (∀ (s s1 : State) (t : Thread) (ad : Nat),
    let d := s.latch.rd rd; let a := s.latch.rs1 rs1
    let ea := t.x a + BitVec.ofInt 64 imm.toInt
    CanIssue s t [rs a, rdst d] → s.slow = false → t.ctx = 0 → ea.toNat % n = 0 →
    Lands s t ea .load s1 ad → Settled s1 (ad / 8) → s.mem.poisoned (ad / 8) = false →
    exec i s = .next (s1.retires (t.setX d (extended s.mem ad n sg)) (s.nextPc t)) ∧ SameButTlbs s s1) ∧
  (∀ (s s1 : State) (t : Thread) (ad : Nat),
    let d := s.latch.rd rd; let a := s.latch.rs1 rs1
    let ea := t.x a + BitVec.ofInt 64 imm.toInt
    let asm : Asm := .scalar n (ea.toNat % 8) sg
    CanIssue s t [rs a, rdst d] → s.slow = true → t.ctx = 0 → ea.toNat % n = 0 →
    Lands s t ea .load s1 ad → Settled s1 (ad / 8) →
    (∃ cls, exec i s = .next (s1.asks t ⟨asm, d, s.nextPc t, [ad / 8], [], [], 1, 0, ea, []⟩ (ad / 8) cls (.load [ad / 8]))) ∧
    ∀ m : Memory, asm.result [m.word (ad / 8)] = [extended m ad n sg])

/-- R290: forwarding from the store buffer. -/
def Obligations.LoadsForward : Prop :=
  ∀ (i : Instr) (rd rs1 : BitVec 5) (imm : BitVec 12) (n : Nat) (sg : Bool), loadForm i = some (rd, rs1, imm, n, sg) →
  ∀ (s s1 : State) (t : Thread) (ad id slot : Nat) (older : List SbEntry) (m : BitVec 8) (v : Word) (whole : Bool) (sent : List Nat) (tn : Nat) (cls : List Nat),
    let d := s.latch.rd rd; let a := s.latch.rs1 rs1
    let ea := t.x a + BitVec.ofInt 64 imm.toInt
    CanIssue s t [rs a, rdst d] → s.slow = false → t.ctx = 0 → ea.toNat % n = 0 →
    Lands s t ea .load s1 ad → s1.pushesTo s.cur (atWord fun w => w == ad / 8) = [] →
    (s.core (coreOf s.cur)).sb = older ++ [⟨id, slot, [(ad / 8, m, v)], whole, sent, tn, cls⟩] →
    (∀ k, k < n → m.getLsbD (ad % 8 + k) = true) →
    ∃ seen : List Nat, (slot = s.cur → (∀ e ∈ older, e.slot = s.cur) → seen = t.seen) ∧ (slot ≠ s.cur → id ∈ seen) ∧
      exec i s = .next (s1.retires
        (({ t with seen } : Thread).setX d (let w := BitVec.ofNat (8 * n) (v.toNat / 2 ^ (8 * (ad % 8)))
          if sg then w.signExtend 64 else w.setWidth 64)) (s.nextPc t))

/-- R66, R67, R290: a store of this package's memory. -/
def Obligations.StoresEnterTheBuffer : Prop :=
  ∀ (i : Instr) (rs2 rs1 : BitVec 5) (imm : BitVec 12) (n : Nat), storeForm i = some (rs2, rs1, imm, n) →
  ∀ (s s1 : State) (t : Thread) (tgt : Target) (ad cls : Nat),
    let a := s.latch.rs1 rs1; let b := s.latch.rs2 rs2
    let ea := t.x a + BitVec.ofInt 64 imm.toInt
    let mask := BitVec.ofNat 8 ((2 ^ n - 1) * 2 ^ (ea.toNat % 8))
    CanIssue s t [rs a, rs b] → t.ctx = 0 → ea.toNat % n = 0 → AboveLimit t a ea →
    s.checked t ea .store = (s1, .ok tgt) → tgt.place = some (ad, cls) →
    (s.core (coreOf s.cur)).sb.length < 16 →
    let u := s1.buffers [(ad / 8, mask, t.x b <<< (8 * (ea.toNat % 8)))] false t.tenant [cls]
    exec i s = .next (u.retires t (s.nextPc t)) ∧ SameButTlbs s s1 ∧ ∀ x, u.mem.byte x = s.mem.byte x

/-- R94, R113, R290: a store performed at its home. With State.slow false (DESIGN CHOICE, notes/assumptions/1.md) it is performed
in the step; a store that its home denies is notes/assumptions/60.md. The last clauses are the requests that
travel, State.slow true. -/
def Obligations.BufferedStoresReachMemory : Prop :=
  (∀ (s : State) (core idx : Nat) (e : SbEntry) (rest : List SbEntry),
    let now := if e.whole then e.words else (e.words.drop idx).take 1
    let left := e.words.filter fun w => !(now.map (·.1)).contains w.1
    let held (x : SbEntry) := (x.ident, x.slot, x.words, x.whole)
    s.tripped = false → s.slow = false → (s.core core).sb = e :: rest → now ≠ [] → s.flights = [] → e.sent = [] →
    (∀ x ∈ rest, x.ident ≠ e.ident) → e.classes.length = e.words.length → (∀ w ∈ e.words, isAway w.1 = false) →
    (∀ x ∈ e.words.zip e.classes, s.homeAllows e.tenant core x.2 2 x.1.1 = true) →
    (∀ t, s.thread? e.slot = some t → ∀ p ∈ t.ports, p.2.pushes = []) → (∀ tn, (s.tenant tn).epoch = none) →
    ∃ u, exec (.homeAccess (.buffered core 0 idx)) s = .next u ∧
      (∀ a, u.mem.byte a = (now.foldl (fun m w => m.write w.1 w.2.1 w.2.2) s.mem).byte a) ∧
      (∀ a, (∀ w ∈ now, ¬ (8 * w.1 ≤ a ∧ a < 8 * w.1 + 8 ∧ w.2.1.getLsbD (a - 8 * w.1) = true)) → u.mem.byte a = s.mem.byte a) ∧
      (∀ k, u.mem.full k = s.mem.full k) ∧
      (u.core core).sb.map held = (if left = [] then [] else [held { e with words := left }]) ++ rest.map held ∧
      (∀ slot, (u.thread? slot).map (·.regs) = (s.thread? slot).map (·.regs))) ∧
  (∀ (s : State) (pkt slot tn cls : Nat) (p : Packet) (op : HomeOp),
    let k := op.keys.headD 0
    let run := exec (.homeAccess (.packet pkt)) s
    let answered (u : State) (w : Word) : Prop := ∃ r ∈ u.packets, r.ident = p.ident ∧ r.isReply = true ∧ r.src = p.dst ∧ r.dst = p.src ∧
      r.payload = .reply slot [(k, w)] none
    s.tripped = false → s.packet? pkt = some p → p.atHome = true → s.homeGrants p = true → p.payload = .request slot tn [cls] op →
    (s.homeAllows tn p.src cls op.level k = false → (∀ id ws, op ≠ .store id ws) → (∀ id x v, op ≠ .put id x v) →
      run = .next (s.between.replyTo p (.reply slot [] (some (k, 0x09))))) ∧
    (s.homeAllows tn p.src cls op.level k = true → NoEpoch s →
      (op = .load [k] → s.mem.poisoned k = false → run = .next (s.between.replyTo p (.reply slot [(k, s.mem.word k)] none))) ∧
      (∀ o wide ar ad a b, op = .atomic o wide ar ad a b → s.mem.poisoned k = false →
        let n := if wide then 8 else 4
        ad % n = 0 → ∃ u, run = .next u ∧ answered u (s.mem.word k) ∧
          WroteBytes s.mem u.mem ad n (atomicNew o (8 * n) (s.mem.read ad n) (a.toNat % 2 ^ (8 * n)) (b.toNat % 2 ^ (8 * n)))) ∧
      (∀ id m v, op = .store id [(k, m, v)] → ∃ u, run = .next u ∧ (∀ x, u.mem.byte x = (s.mem.write k m v).byte x) ∧
        ∀ j, u.mem.full j = s.mem.full j) ∧
      (∀ kind v, op = .sync kind k v → kind ≤ 2 → (∀ h ∈ s.holds, h.key ≠ k) →
        (s.mem.full k = (decide (kind < 2)) → s.mem.poisoned k = false →
          ∃ u, run = .next u ∧ u.holds = s.holds ∧ u.mem.full k = decide (kind ≠ 1) ∧ (∀ j, j ≠ k → u.mem.full j = s.mem.full j) ∧
            u.mem.word k = (if kind = 2 then v else s.mem.word k) ∧ ∀ x, x / 8 ≠ k → u.mem.byte x = s.mem.byte x) ∧
        (s.mem.full k ≠ (decide (kind < 2)) → s.holdFull k = false →
          ∃ u, run = .next u ∧ u.mem = s.mem ∧ u.holds = s.holds ++ [⟨slot, k, kind, v, none, cls, 0, 0⟩]))))

/-- R120, R121, R122: group, unaligned and masked accesses. -/
def Obligations.GroupAccess : Prop :=
  (∀ (s s1 : State) (t : Thread) (ads : List Nat) (rd rs1 : BitVec 5), s.slow = false → t.ctx = 0 →
      let d := s.latch.rd rd; let a := s.latch.rs1 rs1
      (∀ (span : BitVec 2) (imm : BitVec 10),
        let n := 2 ^ span.toNat
        let ea := t.x a + BitVec.ofInt 64 (8 * imm.toInt)
        CanIssue s t [rs a, rdst d n] → ea.toNat % 8 = 0 → LandsAll t .load Loadable s (s.groupFrom ea n) s1 ads →
        exec (.ldg span rd rs1 imm) s = .next (s1.retires (t.setXs d (ads.map fun ad => s.mem.word (ad / 8))) (s.nextPc t))) ∧
      (let ea := t.x a
       let off := ea.toNat % 8
       let w0 := ea - BitVec.ofNat 64 off
       CanIssue s t [rs a, rdst d] → LandsAll t .load Loadable s (if off = 0 then [w0] else [w0, w0 + 8]) s1 ads →
        exec (.ldx rd rs1) s = .next (s1.retires (t.setX d (BitVec.ofNat 64
          (((s.mem.word (ads.headD 0 / 8)).toNat + 2 ^ 64 * (s.mem.word (ads.getLastD 0 / 8)).toNat) / 2 ^ (8 * off))))
          (s.nextPc t)))) ∧
  (∀ (s s1 : State) (t : Thread) (rs2 rs1 : BitVec 5), t.ctx = 0 →
      let a := s.latch.rs1 rs1; let b := s.latch.rs2 rs2
      (∀ (span : BitVec 2) (imm : BitVec 10) (ads : List Nat),
        let n := 2 ^ span.toNat
        let ea := t.x a + BitVec.ofInt 64 (8 * imm.toInt)
        CanIssue s t [rs a, rs b n] → ea.toNat % 8 = 0 → (∀ va ∈ s.groupFrom ea n, AboveLimit t a va) →
        LandsAll t .store (fun _ _ => True) s (s.groupFrom ea n) s1 ads → (s.core (coreOf s.cur)).sb.length < 16 →
        ∃ whole cls, cls.length = n ∧ exec (.stg span rs2 rs1 imm) s = .next
          ((s1.buffers ((ads.zipIdx).map fun x => (x.1 / 8, 0xFF#8, t.x (b + x.2))) whole t.tenant cls).retires t (s.nextPc t))) ∧
      (∀ (rm : BitVec 5),
        let r := s.latch.rd rm
        let m := (t.x r).setWidth 8
        CanIssue s t [rs a, rs b, rs r] →
        (m = 0 → exec (.stx rs2 rs1 rm) s = .next (s.retires t (s.nextPc t))) ∧
        (let ea := t.x a
         let off := ea.toNat % 8
         let w0 := ea - BitVec.ofNat 64 off
         let low := ((List.range 8).find? fun i => m.getLsbD i).getD 0
         let puts : List (Word × BitVec 8 × Word) :=
           (if m <<< off ≠ 0 then [(w0, m <<< off, t.x b <<< (8 * off))] else []) ++
           (if off ≠ 0 ∧ m >>> (8 - off) ≠ 0 then [(w0 + 8, m >>> (8 - off), t.x b >>> (64 - 8 * off))] else [])
         ∀ ads, m ≠ 0 → AboveLimit t a (ea + BitVec.ofNat 64 low) →
          LandsAll t .store (fun _ _ => True) s (puts.map (·.1)) s1 ads → (s.core (coreOf s.cur)).sb.length < 16 →
          ∃ cls, cls.length = puts.length ∧ exec (.stx rs2 rs1 rm) s = .next
            ((s1.buffers ((ads.zip puts).map fun x => (x.1 / 8, x.2.2)) false t.tenant cls).retires t (s.nextPc t)))))

/-- R67 steps 1 and 2, R120. -/
def Obligations.MisalignedAccessTraps : Prop :=
  (∀ (i : Instr) (rd rs1 : BitVec 5) (imm : BitVec 12) (n : Nat) (sg : Bool), loadForm i = some (rd, rs1, imm, n, sg) →
    ∀ (s : State) (t : Thread),
      let ea := t.x (s.latch.rs1 rs1) + BitVec.ofInt 64 imm.toInt
      CanIssue s t [rs (s.latch.rs1 rs1), rdst (s.latch.rd rd)] → ea.toNat % n ≠ 0 →
      exec i s = .next (s.trapAt s.cur 0x03 ea t.pc)) ∧
  (∀ (i : Instr) (rs2 rs1 : BitVec 5) (imm : BitVec 12) (n : Nat), storeForm i = some (rs2, rs1, imm, n) →
    ∀ (s : State) (t : Thread),
      let ea := t.x (s.latch.rs1 rs1) + BitVec.ofInt 64 imm.toInt
      CanIssue s t [rs (s.latch.rs1 rs1), rs (s.latch.rs2 rs2)] →
      (ea.toNat % n ≠ 0 → exec i s = .next (s.trapAt s.cur 0x03 ea t.pc)) ∧
      (ea.toNat % n = 0 → s.latch.rs1 rs1 = 2 → ea.toNat < t.sbound.toNat → exec i s = .next (s.trapAt s.cur 0x06 ea t.pc))) ∧
  (∀ (s : State) (t : Thread) (span : BitVec 2) (r rs1 : BitVec 5) (imm : BitVec 10),
    let ea := t.x (s.latch.rs1 rs1) + BitVec.ofInt 64 (8 * imm.toInt)
    ea.toNat % 8 ≠ 0 →
    (CanIssue s t [rs (s.latch.rs1 rs1), rdst (s.latch.rd r) (2 ^ span.toNat)] →
      exec (.ldg span r rs1 imm) s = .next (s.trapAt s.cur 0x03 ea t.pc)) ∧
    (CanIssue s t [rs (s.latch.rs1 rs1), rs (s.latch.rs2 r) (2 ^ span.toNat)] →
      exec (.stg span r rs1 imm) s = .next (s.trapAt s.cur 0x03 ea t.pc)))

/-- R374, R377, R378: taking a trap, for every cause. -/
def Obligations.TrapRouting : Prop :=
  ∀ (s : State) (t : Thread) (c : Nat) (v pc : Word), s.thread? s.cur = some t → s.latch.replay = 0 → t.level ≠ .supervisor →
    let user := c = 0x02 ∨ c = 0x03 ∨ c = 0x04 ∨ c = 0x06 ∨ c = 0x0A ∨ c = 0x0B ∨ c = 0x0C
    let s0 : State := ({ s with latch := {} } : State).detach s.cur
    let t0 : Thread := { t with hold := none, pend := none, stepped := t.stepOne, carried := none }
    (t.level = .user → s.launchStopped t.launch = false → user → t.xtvec ≠ 0 → t.xtvec.toNat % 4 = 0 → t.xcause.toNat < 2 ^ 63 →
      s.trapAt s.cur c v pc = s0.setThread s.cur { t0 with
        xcause := BitVec.ofNat 64 (2 ^ 63 + c), xepc := pc, xtval := v, pc := t.xtvec, run := .ready }) ∧
    (t.level = .user → s.launchStopped t.launch = true →
      s.trapAt s.cur c v pc = s0.setThread s.cur { t0 with kept := some (c, v, pc), run := .parked .resume }) ∧
    ((t.level = .user → s.launchStopped t.launch = false) →
      t.level ≠ .user ∨ ¬ user ∨ t.xtvec = 0 ∨ t.xtvec.toNat % 4 ≠ 0 ∨ 2 ^ 63 ≤ t.xcause.toNat →
      let a : Activation := { target := some s.cur, scause := BitVec.ofNat 64 (c + if user then 256 else 0), sepc := pc
                              stval := v, tenant := t.tenant }
      let q := (s.core (coreOf s.cur)).actQueue
      s.trapAt s.cur c v pc = ((s0.setThread s.cur { t0 with run := .parked .activation, kept := some (c, v, pc) }).modCore
        (coreOf s.cur) fun k => { k with actQueue := if t.level = .user then q ++ [a] else a :: q }).post t.tenant s.cur 0 c 1 v 0)

/-- R398 to R400: the returns. -/
def Obligations.TrapReturn : Prop :=
  ∀ (s : State) (t : Thread),
    (CanIssue s t [] → t.body = none → s.ropeOf s.cur = none →
      exec .xret s = .next (
        if t.xepc.toNat % 4 = 0 then s.retires { t with xcause := t.xcause &&& 0x7FFFFFFFFFFFFFFF#64 } t.xepc
        else s.trapAt s.cur 0x03 t.xepc t.pc)) ∧
    (CanIssue s t [] →
      (t.level ≠ .user → exec .beat s = .next (s.retires t (s.nextPc t))) ∧
      (∀ l, t.level = .user → amGet s.launches t.launch = some l →
        exec .beat s = .next ((s.setLaunch t.launch (if l.record.persist then { l with beatAt := s.cycle } else l)).retires t
          (s.nextPc t)))) ∧
    (∀ (core slot : Nat) (a : Activation) (u : Thread) (rs1 : BitVec 5),
      CanIssue s t [rs (s.latch.rs1 rs1)] → s.cur = core * 64 + 63 → t.level = .supervisor → t.hold = none →
      (s.core core).act = some a → a.target = some slot → a.saved = none → slot ≠ s.cur → coreOf slot = core → s.thread? slot = some u →
      u.body = none → u.ports = [] → u.pend = none → s.ropeOf slot = none → (s.core core).sb = [] → s.flights = [] → t.ports = [] →
      t.hostWrites = false →
      ∃ s', exec (.tret rs1) s = .next s' ∧ (s'.core core).act = none ∧ s'.thread? s.cur = none ∧
        (let act := (t.x (s.latch.rs1 rs1)).toNat % 4
         let halted : Bool := u.halted && decide (a.scause.toNat % 256 ≠ 0x11)
         let handles := u.xtvec ≠ 0 ∧ u.xtvec.toNat % 4 = 0 ∧ u.xcause.toNat < 2 ^ 63
         (act = 0 ∨ act = 3 → s'.thread? slot = some { u with
            pc := a.sepc, run := .ready, hold := none, halted, kept := none, stepOne := decide (act = 3), stepped := false }) ∧
         (act = 1 → handles → s'.thread? slot = some { u with
            xcause := BitVec.ofNat 64 (2 ^ 63 + a.scause.toNat % 256), xepc := a.sepc, xtval := a.stval, pc := u.xtvec
            run := .ready, hold := none, halted, kept := none }) ∧
         (act = 2 ∨ (act = 1 ∧ ¬ handles) → s'.thread? slot = none)))

/-- R378, R379: the start of an activation. -/
def Obligations.ActivationStarts : Prop :=
  ∀ (s : State) (core slot : Nat) (a : Activation) (rest : List Activation),
    s.tripped = false → (s.core core).actQueue = a :: rest → a.target = some slot → slot ≠ core * 64 + 63 →
    s.thread? (core * 64 + 63) = none → (s.core core).act = none → (s.tenant a.tenant).frozen = false → s.actHeld a = false →
    ∃ u t, exec (.activationStart core) s = .next u ∧ (u.core core).actQueue = rest ∧ ((u.core core).act).isSome = true ∧
      u.thread? (core * 64 + 63) = some t ∧ t.level = .supervisor ∧ t.limit = 32 ∧ t.tenant = a.tenant ∧
      t.pc = (s.tenant a.tenant).sentry ∧ t.x 10 = slotidOf slot ∧ t.x 11 = a.scause ∧ t.x 12 = a.stval ∧ t.x 13 = a.sepc ∧
      (∀ n, (t.reg n).full = true) ∧ u.mem = s.mem

/-- R76, R77: the Zicsr forms on a thread's own CSRs. -/
def Obligations.CsrInstructions : Prop :=
  ∀ (s : State) (t : Thread) (csr : BitVec 12) (rd r : BitVec 5),
    let d := s.latch.rd rd; let a := s.latch.rs1 r
    (∀ old, s.userCsr s.cur t csr = some old →
      let writes (v : Word) : State := s.retires ((t.setCsr csr v).setX d old) (s.nextPc t)
      let keeps : State := s.retires (t.setX d old) (s.nextPc t)
      (CanIssue s t [rs a, rdst d] →
        exec (.csrrw csr rd r) s = .next (writes (t.x a)) ∧
        exec (.csrrs csr rd r) s = .next (if a = 0 then keeps else writes (old ||| t.x a)) ∧
        exec (.csrrc csr rd r) s = .next (if a = 0 then keeps else writes (old &&& ~~~ t.x a))) ∧
      (CanIssue s t [rdst d] →
        exec (.csrrwi csr rd r) s = .next (writes (BitVec.ofNat 64 r.toNat)) ∧
        exec (.csrrsi csr rd r) s = .next (if r = 0 then keeps else writes (old ||| BitVec.ofNat 64 r.toNat)) ∧
        exec (.csrrci csr rd r) s = .next (if r = 0 then keeps else writes (old &&& ~~~ BitVec.ofNat 64 r.toNat)))) ∧
    (s.userCsr s.cur t csr = none → t.level ≠ .supervisor →
      let illegal : State := s.trapAt s.cur 0x01 (s.latch.word.setWidth 64) t.pc
      (CanIssue s t [rs a, rdst d] → exec (.csrrw csr rd r) s = .next illegal ∧ exec (.csrrs csr rd r) s = .next illegal ∧
        exec (.csrrc csr rd r) s = .next illegal) ∧
      (CanIssue s t [rdst d] → exec (.csrrwi csr rd r) s = .next illegal ∧ exec (.csrrsi csr rd r) s = .next illegal ∧
        exec (.csrrci csr rd r) s = .next illegal))

/-- R14, R77, R78, R376: what a CSR write leaves. -/
def Obligations.CsrReadBack : Prop :=
  ∀ (s : State) (slot : Nat) (t : Thread) (a b : BitVec 12) (v old : Word),
    let legal (t : Thread) : Prop := t.xcause &&& ~~~ csrMask 0x803 = 0 ∧ t.tabsel &&& ~~~ csrMask 0x807 = 0
    (legal t → legal (t.setCsr a v)) ∧
    (legal t → s.userCsr slot t a = some old → s.userCsr slot (t.setCsr a v) a = some ((old &&& ~~~ csrMask a) ||| (v &&& csrMask a))) ∧
    (csrAliases a b = false → s.userCsr slot (t.setCsr a v) b = s.userCsr slot t b) ∧
    (s.userCsr slot t 3 = some old →
      s.userCsr slot t 1 = some (BitVec.ofNat 64 (old.toNat % 32)) ∧ s.userCsr slot t 2 = some (BitVec.ofNat 64 (old.toNat / 32))) ∧
    (∀ n, (t.setCsr a v).reg n = t.reg n)

/-- R76, R381, R389: reads and writes of supervisor CSRs by the six forms. -/
def Obligations.SupervisorCsrs : Prop :=
  ∀ (s : State) (t : Thread) (csr : BitVec 12) (rd r : BitVec 5),
    let d := s.latch.rd rd; let a := s.latch.rs1 r; let v := t.x a; let core := coreOf s.cur
    let imm : Word := BitVec.ofNat 64 r.toNat
    let ten := s.tenant t.tenant
    let out (u : State) (old : Word) : State := u.retires (t.setX d old) (s.nextPc t)
    CanIssue s t [rs a, rdst d] →
    (t.level = .supervisor →
      let forms (csr : BitVec 12) (old : Word) (w : Word → State) : Prop :=
        exec (.csrrw csr rd r) s = .next (out (w v) old) ∧
        exec (.csrrs csr rd r) s = .next (out (if a = 0 then s else w (old ||| v)) old) ∧
        exec (.csrrc csr rd r) s = .next (out (if a = 0 then s else w (old &&& ~~~ v)) old) ∧
        exec (.csrrwi csr rd r) s = .next (out (w imm) old) ∧
        exec (.csrrsi csr rd r) s = .next (out (if r = 0 then s else w (old ||| imm)) old) ∧
        exec (.csrrci csr rd r) s = .next (out (if r = 0 then s else w (old &&& ~~~ imm)) old)
      forms 0x140 ten.sentry (fun x => s.setTenant t.tenant { ten with sentry := x }) ∧
      forms 0x149 ten.shtab (fun x => s.setTenant t.tenant { ten with shtab := x }) ∧
      forms 0x14B ten.swdog (fun x => s.setTenant t.tenant { ten with swdog := x }) ∧
      forms 0x14A ten.srpool (fun x => s.setTenant t.tenant { ten with srpool := x &&& 0xFFFFFFFFFFFF1FFF#64 }) ∧
      forms 0x14E ten.sgqsel (fun x => s.setTenant t.tenant { ten with sgqsel := x &&& 0xFFFF#64 }) ∧
      forms 0x150 ten.sbiv (fun x => s.setTenant t.tenant { ten with sbiv := x &&& ~~~ 0x1FFFFF#64 }) ∧
      forms 0x151 ten.sbivlen (fun x => s.setTenant t.tenant { ten with sbivlen := x &&& 0xFFFFFFFF#64 }) ∧
      forms 0x147 (ten.sroot &&& 0xFFFFFFFFF000#64) (fun _ => s) ∧
      (∀ x, (s.core core).act = some x →
        forms 0x141 x.scause (fun y => s.setCore core { s.core core with act := some { x with scause := y &&& 0x1FF#64 } }) ∧
        forms 0x142 x.sepc (fun y => s.setCore core { s.core core with act := some { x with sepc := y } }) ∧
        forms 0x143 x.stval (fun y => s.setCore core { s.core core with act := some { x with stval := y } })) ∧
      forms 0x14D (s.core core).spre (fun x =>
        let die := x.toNat / 2 ^ 29 % 8
        let no := (s.core core).spreNo + 1
        let s1 := s.setCore core { s.core core with spre := 1, spreNo := no }
        s1.setDie die { s.die die with spreInbox := (s.die die).spreInbox ++ [(x, core, no, t.tenant)] })) ∧
    (t.level ≠ .supervisor → 0x140 ≤ csr.toNat → csr.toNat ≤ 0x151 → ∀ i ∈ [Instr.csrrw csr rd r, .csrrs csr rd r, .csrrc csr rd r,
        .csrrwi csr rd r, .csrrsi csr rd r, .csrrci csr rd r],
      exec i s = .next (s.trapAt s.cur 0x01 (s.latch.word.setWidth 64) t.pc))

/-- R201 to R205, R208, R209: the lanewise forms, whose lanes laneForm gives. -/
def Obligations.LanewiseForms : Prop :=
  ∀ (i : Instr) (o : LaneOp), laneForm i = some o → ∀ (s : State) (t : Thread), CanIssue s t (o.uses s.latch) →
    let w := tyWidth o.ty
    let n := lanesIn o.span w
    (∀ m, modeOf (t.fcsr.toNat / 32) = some m ∨ o.rounds = false ∧ m = (modeOf (t.fcsr.toNat / 32)).getD .rne →
      SpanWrites s t (exec i s) (orFlags n (o.at s.latch t m)) (o.span == 0) (if o.ones then .ones else .sign)
        (s.latch.rd o.rd) n w (fun j => (o.at s.latch t m j).bits)) ∧
    (o.rounds = true → 5 ≤ t.fcsr.toNat / 32 → exec i s = .next (s.trapAt s.cur 0x01 (s.latch.word.setWidth 64) t.pc))

/-- R206, R209, R210: forms whose lanes are not independent. -/
def Obligations.ReductionsAndMasks : Prop :=
  ∀ (s : State) (t : Thread) (span : BitVec 2) (bc : BitVec 1) (ty : BitVec 2) (ty3 : BitVec 3) (rd rs1 rs2 : BitVec 5),
    let d := s.latch.rd rd; let a := s.latch.rs1 rs1; let b := s.latch.rs2 rs2
    (let w := tyWidth (4 + ty.toNat); let n := lanesIn span w; let k := regsFor n w
     let l := (List.range n).map (laneAt t.x a w)
     CanIssue s t [rs a k, rdst d k] →
      SpanWrites s t (exec (.gmax span bc ty rd rs1 rs2) s) 0 (span == 0) .sign d n w (fun _ => l.foldl max 0) ∧
      SpanWrites s t (exec (.gsum span ty rd rs1) s) 0 (span == 0) .sign d n w (fun _ => l.foldl (· + ·) 0)) ∧
    (let w := tyWidth ty.toNat; let n := lanesIn span w; let k := regsFor n w
     let f := tyFmt ty.toNat
     let l := (List.range n).map (laneAt t.x a w)
     CanIssue s t [rs a k, rdst d k] →
      (let isNan := l.any fun v => (f.decode v).isNan
       SpanWrites s t (exec (.fmaxa span bc ty rd rs1 rs2) s)
        (if isNan then l.foldl (fun fl v => fl ||| (f.decode v).sigFlag) 0 else 0) (span == 0) .ones d n w
        (fun _ => if isNan then f.nan else (l.map fun v => v % 2 ^ (w - 1)).foldl max 0)) ∧
      (∀ m, modeOf (t.fcsr.toNat / 32) = some m →
        let r := sumTree f m (Nat.log2 n) l
        SpanWrites s t (exec (.fsum span bc ty rd rs1 rs2) s) r.flags (span == 0) .ones d n w (fun _ => r.bits))) ∧
    (let w := tyWidth ty3.toNat; let n := lanesIn span w; let k := regsFor n w
     let fill : Fill := if ty3.toNat < 4 then .ones else .sign
     (CanIssue s t [rs a k, rs b k, rdst d k] →
      SpanWrites s t (exec (.perm span ty3 rd rs1 rs2) s) 0 (span == 0) fill d n w
        (fun i => laneAt t.x a w (laneAt t.x b w i % n))) ∧
     (CanIssue s t [rs a k, rdst d] →
      exec (.lmsk span ty3 rd rs1) s = .next (s.retires (t.setX d (BitVec.ofNat 64 (((List.range n).map fun i =>
        laneAt t.x a w i / 2 ^ (w - 1) * 2 ^ i).sum))) (s.nextPc t))) ∧
     (CanIssue s t [rs a, rdst d k] →
      SpanWrites s t (exec (.lexp span ty3 rd rs1) s) 0 (span == 0) .sign d n w
        (fun i => if (t.x a).getLsbD i then 2 ^ w - 1 else 0)))

/-- R193, R211: conversions. -/
def Obligations.Conversions : Prop :=
  ∀ (s : State) (t : Thread) (span : BitVec 2) (ty : BitVec 3) (rd rs1 sel : BitVec 5),
    let d := s.latch.rd rd; let a := s.latch.rs1 rs1
    let dt := sel.toNat % 8
    let w := tyWidth ty.toNat; let n := lanesIn span w
    let k := regsFor n (tyWidth dt)
    let fill : Fill := if dt < 4 then .ones else .sign
    let conv (signed : Bool) (m : Mode) (i : Nat) : Res := convertLane ty.toNat dt signed m (laneAt t.x a w i)
    CanIssue s t [rs a (regsFor n w), rdst d k] →
    (k ≤ 8 →
      (∀ m, modeOf (t.fcsr.toNat / 32) = some m →
        SpanWrites s t (exec (.cvt span ty rd rs1 sel) s) (orFlags n (conv (!sel.getLsbD 3) m)) (span == 0) fill d n
          (tyWidth dt) (fun i => (conv (!sel.getLsbD 3) m i).bits)) ∧
      (∀ m, modeOf (sel.toNat / 8) = some m →
        SpanWrites s t (exec (.cvtr span ty rd rs1 sel) s) (orFlags n (conv true m)) (span == 0) fill d n
          (tyWidth dt) (fun i => (conv true m i).bits))) ∧
    (8 < k →
      exec (.cvt span ty rd rs1 sel) s = .next (s.trapAt s.cur 0x01 (s.latch.word.setWidth 64) t.pc) ∧
      exec (.cvtr span ty rd rs1 sel) s = .next (s.trapAt s.cur 0x01 (s.latch.word.setWidth 64) t.pc))

/-- R212, R213: quantising and dequantising. -/
def Obligations.Quantising : Prop :=
  ∀ (s : State) (t : Thread) (span ty : BitVec 2) (rd rs1 rs2 : BitVec 5),
    let d := s.latch.rd rd; let a := s.latch.rs1 rs1; let b := s.latch.rs2 rs2
    let w := tyWidth ty.toNat; let n := lanesIn span w; let f := tyFmt ty.toNat
    let table : CodeTable := amGetD (s.core (coreOf s.cur)).tables (t.tabsel.toNat % 4) {}
    let scale := f32.decode ((t.x b).toNat % 2 ^ 32)
    let most := (t.x b).toNat / 2 ^ 32 % 256
    (CanIssue s t [rs a (regsFor n w), rs b, rdst d (regsFor n 8)] →
      let code (q : Fv → Fv → Quant) (i : Nat) : Quant := q (f.decode (laneAt t.x a w i)) scale
      let sats (q : Fv → Fv → Quant) : Nat := ((List.range n).filter fun i => (code q i).sat).length
      let flags (q : Fv → Fv → Quant) : BitVec 5 := (List.range n).foldl (fun fl i => fl ||| (code q i).flags) 0
      (∀ (i : Instr) (q : Fv → Fv → Quant), (i, q) ∈ [(Instr.qenc span ty rd rs1 rs2, table.quantise), (.qfp8 span ty rd rs1 rs2, e4m3.quantise)] →
        (sats q ≤ most → SpanWrites s t (exec i s) (flags q) (span == 0) .zeros d n 8 (fun j => (code q j).bits)) ∧
        (most < sats q → exec i s = .next (s.trapAt s.cur 0x0B (BitVec.ofNat 64 (256 * most + sats q)) t.pc))) ∧
      SpanWrites s t (exec (.qfp8x span ty rd rs1 rs2) s) (flags e5m2.quantise) (span == 0) .zeros d n 8
        (fun j => (code e5m2.quantise j).bits)) ∧
    (CanIssue s t [rs a (regsFor n 8), rs b, rdst d (regsFor n w)] → ∀ m, modeOf (t.fcsr.toNat / 32) = some m →
      ∀ (i : Instr) (v : Nat → Fv), (i, v) ∈ [(Instr.qdec span ty rd rs1 rs2, table.value), (.dfp8 span ty rd rs1 rs2, e4m3.decode),
        (.dfp8x span ty rd rs1 rs2, e5m2.decode)] →
      let lane (j : Nat) : Res := f.finish m ((v (laneAt t.x a 8 j)).mul scale)
      SpanWrites s t (exec i s) (orFlags n lane) (span == 0) .ones d n w (fun j => (lane j).bits))

/-- R214: tabld. -/
def Obligations.TableLoad : Prop :=
  ∀ (s s1 : State) (t : Thread) (tab : BitVec 2) (rs1 : BitVec 5) (ads : List Nat),
    let ea := t.x (s.latch.rs1 rs1); let core := coreOf s.cur
    CanIssue s t [rs (s.latch.rs1 rs1)] →
    (ea.toNat % 64 ≠ 0 → exec (.tabld tab rs1) s = .next (s.trapAt s.cur 0x03 ea t.pc)) ∧
    (ea.toNat % 64 = 0 → s.slow = false → s.tableBusy s.cur tab.toNat = false → s.tableLoads s.cur = false →
      LandsAll t .load Loadable s (wordsFrom ea 128) s1 ads →
      ∃ es, es.length = 256 ∧
        (∀ i, i < 128 → es.getD (2 * i) 0 = (s.mem.word (ads.getD i 0 / 8)).extractLsb' 0 32 ∧
          es.getD (2 * i + 1) 0 = (s.mem.word (ads.getD i 0 / 8)).extractLsb' 32 32) ∧
        exec (.tabld tab rs1) s = .next
          ((s1.setCore core { s1.core core with tables := amPut (s1.core core).tables tab.toNat ⟨true, es⟩ }).retires t (s.nextPc t)))

/-- R278 to R280: the atomics, whose values atomicNew gives, at once and as a request (State.slow, notes/assumptions/1.md). -/
def Obligations.Atomics : Prop :=
  ∀ (i : Instr) (op : AmOp) (size ar : BitVec 1) (rd rs2 rs1 : BitVec 5), atomicForm i = some (op, size, ar, rd, rs2, rs1) →
  ∀ (s : State) (t : Thread),
    let d := s.latch.rd rd; let a := s.latch.rs1 rs1; let b := s.latch.rs2 rs2
    let ea := t.x a
    let n := if size = 1 then 8 else 4
    CanIssue s t [rs a, rs b, if op = .cas then rmod d else rdst d] →
    (ea.toNat % n ≠ 0 → exec i s = .next (s.trapAt s.cur 0x03 ea t.pc)) ∧
    (∀ s1 ad leaf, ea.toNat % n = 0 → s.slow = false → t.ctx = 0 →
      s.checked t ea .atomic = (s1, .ok (.mem ad leaf)) → ad % 8 = ea.toNat % 8 →
      s1.ownBefore (coreOf s.cur) s.cur (ad / 8) = [] → (ar = 1 → Released s t) → s.mem.poisoned (ad / 8) = false → NoEpoch s →
      let old := s.mem.read ad n
      let v : Word := if n = 8 then BitVec.ofNat 64 old
        else if op = .fadd ∨ op = .faddc then BitVec.ofNat 64 (old + (2 ^ 64 - 2 ^ 32)) else (BitVec.ofNat 32 old).signExtend 64
      Retires s (exec i s) (t.setX d v) (s.nextPc t) fun u =>
        WroteBytes s.mem u.mem ad n (atomicNew op (8 * n) old ((t.x b).toNat % 2 ^ (8 * n)) ((t.x d).toNat % 2 ^ (8 * n)))) ∧
    (∀ s1 ad leaf, ea.toNat % n = 0 → s.slow = true → t.ctx = 0 →
      s.checked t ea .atomic = (s1, .ok (.mem ad leaf)) → ad % 8 = ea.toNat % 8 →
      s1.ownBefore (coreOf s.cur) s.cur (ad / 8) = [] → (ar = 1 → Released s t) →
      ∃ asm cls, exec i s = .next (s1.asks t ⟨asm, d, s.nextPc t, [ad / 8], [], [], 1, 0, ea, []⟩ (ad / 8) cls
          (.atomic op (size == 1) (ar == 1) ad (t.x b) (if op = .cas then t.x d else 0))) ∧
        ∀ m : Memory, asm.result [m.word (ad / 8)] =
          [let old := m.read ad n
           if n = 8 then BitVec.ofNat 64 old
           else if op = .fadd ∨ op = .faddc then BitVec.ofNat 64 (old + (2 ^ 64 - 2 ^ 32)) else (BitVec.ofNat 32 old).signExtend 64])

/-- R270, R271: the synchronising memory instructions, at once and as requests (State.slow, notes/assumptions/1.md). -/
def Obligations.FullEmptyAccess : Prop :=
  (∀ (s s1 : State) (t : Thread) (ad : Nat) (rd rs1 rs2 : BitVec 5),
    let d := s.latch.rd rd; let a := s.latch.rs1 rs1; let b := s.latch.rs2 rs2
    let ea := t.x a; let k := ad / 8
    let held (i : Instr) (kind : Nat) (v : Word) : Prop := ∃ u cls, exec i s = .next u ∧ u.holds = s.holds ++ [⟨s.cur, k, kind, v, none, cls, 0, 0⟩] ∧
      u.mem = s.mem ∧ (u.thread? s.cur).map (·.run) = some (.waiting .reply) ∧ (u.thread? s.cur).map (·.pc) = some t.pc
    ea.toNat % 8 = 0 → t.ctx = 0 → s.slow = false → s1.ownBefore (coreOf s.cur) s.cur k = [] → (∀ h ∈ s.holds, h.key ≠ k) → NoEpoch s →
    (Lands s t ea .tag s1 ad → CanIssue s t [rs a, rdst d] →
      (s.mem.full k = true → s.mem.poisoned k = false →
        Retires s (exec (.lde rd rs1) s) (t.setX d (s.mem.word k)) (s.nextPc t) fun u => SameMemory s.mem u.mem) ∧
      (s.mem.full k = false → s.holdFull k = false → held (.lde rd rs1) 0 0) ∧
      Retires s (exec (.tagrd rd rs1) s) (t.setX d (if s.mem.full k then 1 else 0)) (s.nextPc t) fun u => SameMemory s.mem u.mem) ∧
    (Lands s t ea .readWrite s1 ad →
      (CanIssue s t [rs a, rdst d] →
        (s.mem.full k = true → s.mem.poisoned k = false →
          Retires s (exec (.ldt rd rs1) s) (t.setX d (s.mem.word k)) (s.nextPc t) fun u => SameButTag s.mem u.mem k false) ∧
        (s.mem.full k = false → s.holdFull k = false → held (.ldt rd rs1) 1 0)) ∧
      (CanIssue s t [rs a, rs b, rdst d] →
        Retires s (exec (.tagset rd rs1 rs2) s) (t.setX d (if s.mem.full k then 1 else 0)) (s.nextPc t) fun u =>
          SameButTag s.mem u.mem k ((t.x b).getLsbD 0)) ∧
      (CanIssue s t [rs a, rs b] → AboveLimit t a ea → Released s t →
        (s.mem.full k = false → Retires s (exec (.stf rs1 rs2) s) t (s.nextPc t) fun u =>
          u.mem.word k = t.x b ∧ (∀ x, x / 8 ≠ k → u.mem.byte x = s.mem.byte x) ∧
          ∀ j, u.mem.full j = if j = k then true else s.mem.full j) ∧
        (s.mem.full k = true → s.holdFull k = false → held (.stf rs1 rs2) 2 (t.x b)) ∧
        Retires s (exec (.stp rs1 rs2) s) t (s.nextPc t) fun u =>
          u.mem.word k = t.x b ∧ (∀ x, x / 8 ≠ k → u.mem.byte x = s.mem.byte x) ∧
          ∀ j, u.mem.full j = if j = k then true else s.mem.full j))) ∧
  (∀ (s s1 : State) (t : Thread) (ad : Nat) (rd rs1 rs2 : BitVec 5) (h : Held),
    let d := s.latch.rd rd; let a := s.latch.rs1 rs1; let b := s.latch.rs2 rs2
    let ea := t.x a; let k := ad / 8
    let run := exec (.tagset rd rs1 rs2) s
    let answered (u : State) (h : Held) : Prop := ∀ x p, s.thread? h.slot = some x → x.pend = some p →
      ∃ y, u.thread? h.slot = some y ∧ y.pend = some { p with got := p.got ++ [(k, s.mem.word k)] }
    ea.toNat % 8 = 0 → t.ctx = 0 → s.slow = false → s1.ownBefore (coreOf s.cur) s.cur k = [] → NoEpoch s →
    Lands s t ea .readWrite s1 ad → CanIssue s t [rs a, rs b, rdst d] → s.mem.poisoned k = false →
    (∀ w ∈ s.watches, w.key / 8 ≠ k / 8) → (∀ x ∈ s.holds, x.key = k → x.port = none ∧ x.slot ≠ s.cur) → (s.holds.map (·.slot)).Nodup →
    s.holds.find? (fun x => x.key == k) = some h →
    (s.mem.full k = false → (t.x b).getLsbD 0 = true → (∀ x ∈ s.holds, x.key = k → x.kind ≤ 1) → h.kind = 1 →
      ∃ u, run = .next u ∧ u.holds = s.holds.erase h ∧ answered u h ∧ SameMemory s.mem u.mem) ∧
    (s.mem.full k = false → (t.x b).getLsbD 0 = true → (∀ x ∈ s.holds, x.key = k → x.kind = 0) →
      ∃ u, run = .next u ∧ u.holds = s.holds.filter (fun x => x.key != k) ∧ (∀ x ∈ s.holds, x.key = k → answered u x) ∧
        SameButTag s.mem u.mem k true) ∧
    (s.mem.full k = true → (t.x b).getLsbD 0 = false → (∀ x ∈ s.holds, x.key = k → x.kind = 2) →
      ∃ u, run = .next u ∧ u.holds = s.holds.erase h ∧ u.mem.word k = h.data ∧ (∀ x, x / 8 ≠ k → u.mem.byte x = s.mem.byte x) ∧
        ∀ j, u.mem.full j = s.mem.full j)) ∧
  (∀ (s s1 : State) (t : Thread) (ad : Nat) (rd rs1 rs2 : BitVec 5),
    let d := s.latch.rd rd; let a := s.latch.rs1 rs1; let b := s.latch.rs2 rs2
    let ea := t.x a; let k := ad / 8
    let asks (i : Instr) (asm : Asm) (r mode : Nat) (op : HomeOp) : Prop :=
      ∃ cls, exec i s = .next (s1.asks t ⟨asm, r, s.nextPc t, [k], [], [], mode, 0, ea, []⟩ k cls op)
    ea.toNat % 8 = 0 → t.ctx = 0 → s.slow = true → s1.ownBefore (coreOf s.cur) s.cur k = [] →
    (Lands s t ea .tag s1 ad → CanIssue s t [rs a, rdst d] →
      asks (.lde rd rs1) .group d 4 (.sync 0 k 0) ∧ asks (.tagrd rd rs1) .group d 1 (.tagrd k)) ∧
    (Lands s t ea .readWrite s1 ad →
      (CanIssue s t [rs a, rdst d] → asks (.ldt rd rs1) .group d 4 (.sync 1 k 0)) ∧
      (CanIssue s t [rs a, rs b, rdst d] → asks (.tagset rd rs1 rs2) .group d 1 (.tagset k ((t.x b).getLsbD 0))) ∧
      (CanIssue s t [rs a, rs b] → AboveLimit t a ea → Released s t →
        asks (.stf rs1 rs2) .none 0 4 (.sync 2 k (t.x b)) ∧
        ∃ cls, exec (.stp rs1 rs2) s = .next
          ((({ s1 with flights := s1.flights ++ [⟨s.nextId, s.cur, k, t.x b, false, none, none, none⟩] } : State).sent (homeEp (8 * k))
            (.request s.cur t.tenant [cls] (.put s.nextId k (t.x b)))).retires t (s.nextPc t)))))

/-- R275, R277: wait.a and wake, at once and as requests (State.slow, notes/assumptions/1.md). -/
def Obligations.AddressWaits : Prop :=
  (∀ (s s1 : State) (t : Thread) (ad : Nat) (rd rs1 rs2 : BitVec 5),
    let d := s.latch.rd rd; let a := s.latch.rs1 rs1; let b := s.latch.rs2 rs2
    let ea := t.x a; let k := ad / 8
    ea.toNat % 8 = 0 → t.ctx = 0 → s.slow = false → s1.ownBefore (coreOf s.cur) s.cur k = [] → CanIssue s t [rs a, rs b, rdst d] →
    (Lands s t ea .wait s1 ad → s.mem.poisoned k = false →
      (s.mem.word k ≠ t.x b → exec (.waitA rd rs1 rs2) s = .next (s1.retires (t.setX d (s.mem.word k)) (s.nextPc t))) ∧
      (s.mem.word k = t.x b → s.watchFull k = false → ∃ u, exec (.waitA rd rs1 rs2) s = .next u ∧
        u.watches = s.watches ++ [⟨some s.cur, 0, 0, k⟩] ∧ (u.thread? s.cur).map (·.run) = some (.waiting .reply) ∧
        (u.thread? s.cur).map (·.pc) = some t.pc ∧ u.mem = s.mem)) ∧
    (Lands s t ea .wake s1 ad → s.mem.poisoned k = false → Released s t → t.pend = none → s.watches.Nodup →
      let out := (s.watches.filter (·.key == k)).take (t.x b).toNat
      Retires s (exec (.wake rd rs1 rs2) s) (t.setX d (BitVec.ofNat 64 out.length)) (s.nextPc t) fun u =>
        (∀ w, w ∈ u.watches ↔ w ∈ s.watches ∧ w ∉ out) ∧ u.mem = s.mem)) ∧
  (∀ (s s1 : State) (t : Thread) (ad : Nat) (rd rs1 rs2 : BitVec 5),
    let d := s.latch.rd rd; let a := s.latch.rs1 rs1; let b := s.latch.rs2 rs2
    let ea := t.x a; let k := ad / 8
    let asks (i : Instr) (mode : Nat) (op : HomeOp) : Prop :=
      ∃ cls, exec i s = .next (s1.asks t ⟨.group, d, s.nextPc t, [k], [], [], mode, 0, ea, []⟩ k cls op)
    ea.toNat % 8 = 0 → t.ctx = 0 → s.slow = true → s1.ownBefore (coreOf s.cur) s.cur k = [] → CanIssue s t [rs a, rs b, rdst d] →
    (Lands s t ea .wait s1 ad → asks (.waitA rd rs1 rs2) 5 (.wait k (t.x b))) ∧
    (Lands s t ea .wake s1 ad → Released s t → asks (.wake rd rs1 rs2) 1 (.wake k (t.x b))))

/-- R70, R71, R152, R177, R284 to R286. -/
def Obligations.FencesAndEmptying : Prop :=
  (∀ (s : State) (t : Thread), CanIssue s t [] → t.ports = [] →
    (Released s t →
      (∀ fm p q, p ≠ 0 → q ≠ 0 → exec (.fence fm p q) s = .next (s.retires t (s.nextPc t))) ∧
      (∀ kind scope, exec (.fenceS kind scope) s = .next (s.retires t (s.nextPc t))) ∧
      (s.ropeOf s.cur = none → exec .fenceI s = .next
        ((s.setCore (coreOf s.cur) { s.core (coreOf s.cur) with fetch := [] }).retires t (s.nextPc t)))) ∧
    (∀ scope e rest, t.hold = none → scope ≠ 0 → (s.core (coreOf s.cur)).sb = e :: rest → (∃ w ∈ e.words, isAway w.1 = false) →
      (∀ f ∈ s.flights, f.ident ≠ e.ident) → (coreOf s.cur, s.core (coreOf s.cur)) ∈ s.cores →
      ∃ u ids, exec (.fenceS 1 scope) s = .next u ∧ e.ident ∈ ids ∧ (u.thread? s.cur).map (·.run) = some (.waiting (.drained ids))) ∧
    (let js := t.jobs.filter fun j => !s.jobFinal j
     exec .fenceE s = .next (if js = [] then s.retires { t with jobs := [] } (s.nextPc t)
      else { s.setThread s.cur { t with run := .waiting (.jobsFinal js) } with latch := {} })) ∧
    (∀ (nlog : BitVec 2) (rd : BitVec 5),
      let n := 2 ^ nlog.toNat; let d := s.latch.rd rd
      CanIssue s t [rname d n] → t.body = none →
      ∃ t1, exec (.xempty nlog rd) s = .next (s.retires t1 (s.nextPc t)) ∧
        (∀ r, t1.x r = t.x r) ∧ (∀ r, (t1.reg r).full = if r ≠ 0 ∧ d ≤ r ∧ r < d + n then false else (t.reg r).full) ∧
        t1.pw = t.pw ∧ t1.fcsr = t.fcsr ∧ t1.limit = t.limit)) ∧
  (∀ (s : State) (t : Thread) (scope : BitVec 3), CanIssue s t [] →
    ∃ u t1, exec (.fenceS 0 scope) s = .next u ∧ u.thread? s.cur = some t1 ∧ t1.pc = s.nextPc t ∧ t1.run = .ready ∧ t1.regs = t.regs ∧
      t1.instret = t.instret + 1 ∧ u.mem = s.mem ∧
      ∀ h p, amGet t.ports h = some p → ∃ q, amGet t1.ports h = some q ∧ q.pos = p.pos ∧ q.bound = p.bound ∧ q.pushes = p.pushes ∧
        q.ctl = p.ctl ∧ (p.kind ≤ 1 → q.held = [] ∧ q.asks = []))

/-- R149, R157 to R159: leasing, releasing and saving ports. -/
def Obligations.PortLeases : Prop :=
  ∀ (s : State) (t : Thread) (rd rs1 rs2 : BitVec 5),
    let d := s.latch.rd rd; let a := s.latch.rs1 rs1; let b := s.latch.rs2 rs2
    let h := (t.x a).toNat % 32
    let bound (p : Port) (xb : Nat) : Thread := match s.bindCode s.cur t p xb with
      | some k => t.setX d (BitVec.ofNat 64 k)
      | none =>
        let n := freeHandle t
        { t with ports := amPut t.ports n { p with bound := if xb = 0 then none else some xb } }.setX d (BitVec.ofNat 64 n)
    let legal (p : Port) (xb : Nat) : Prop := (p.kind = 0 ∨ p.kind = 1 ∨ p.kind = 3 → p.base.toNat % 8 = 0) ∧ p.illegal = false ∧
      xb % p.g = 0 ∧ (xb ≠ 0 → xb + p.g ≤ t.limit)
    t.body = none →
    (∀ ws, CanIssue s t [rs a, rname b, rdst d] → (t.x a).toNat % 64 = 0 → OwnWords s (t.x a) 8 ws → legal (portOfDesc ws) b →
      exec (.pbind rd rs1 rs2) s = .next (s.retires (bound (portOfDesc ws) b) (s.nextPc t))) ∧
    (∀ ws, CanIssue s t [rs a, rs b, rdst d] → (t.x a).toNat % 64 = 0 → OwnWords s (t.x a) 8 ws →
      let w7 := ws.getD 7 0
      let p := portOfDesc ws
      let xb := if w7.getLsbD 47 then w7.toNat / 2 ^ 40 % 2 ^ 7 else 0
      let p1 : Port := { p with pos := w7.toNat % 2 ^ 40, ixh := if p.kind = 1 then (t.x b).toNat % 16 else p.ixh }
      legal p1 xb → exec (.prest rd rs1 rs2) s = .next (s.retires (bound p1 xb) (s.nextPc t))) ∧
    (CanIssue s t [rs a, rdst d] →
      (amGet t.ports h = none →
        exec (.punb rd rs1) s = .next (s.retires (t.setX d 1) (s.nextPc t)) ∧
        (h ≠ 16 → exec (.pstat rd rs1) s = .next (s.retires (t.setX d 0) (s.nextPc t)))) ∧
      (∀ p, amGet t.ports h = some p →
        ((∃ q ∈ t.ports, q.2.kind = 1 ∧ q.2.ixh = h) → exec (.punb rd rs1) s = .next (s.retires (t.setX d 2) (s.nextPc t))) ∧
        ((∀ q ∈ t.ports, ¬ (q.2.kind = 1 ∧ q.2.ixh = h)) → p.pushes = [] → exec (.punb rd rs1) s = .next
          ((s.dropAsk s.cur h).retires ({ t with ports := amDel t.ports h }.setX d (if p.failed = none then 0 else 3)) (s.nextPc t))) ∧
        (h < 16 → (∀ c, p.failed = some c → c.1 < 256) → (∀ e ∈ p.held, ∀ c, e.fault = some c → c.1 < 256) →
          ∃ v : Word, exec (.pstat rd rs1) s = .next (s.retires (t.setX d v) (s.nextPc t)) ∧
          v.toNat % 16 = h ∧ v.toNat / 16 % 8 = p.kind ∧ v.getLsbD 7 = true ∧ v.getLsbD 8 = p.bound.isSome ∧
          v.getLsbD 10 = t.portEnded p ∧ v.toNat / 2 ^ 24 = p.pos % 2 ^ 40)) ∧
      (h = 16 → exec (.pstat rd rs1) s = .next (s.retires (t.setX d 0) (s.nextPc t)))) ∧
    (CanIssue s t [rs a, rs b] →
      (amGet t.ports h = none → exec (.psave rs1 rs2) s = .next (s.trapAt s.cur 0x01 s.latch.tval t.pc)) ∧
      (∀ p, amGet t.ports h = some p → p.pushes = [] → NoEpoch s → (t.x b).toNat % 64 = 0 → Config.ownBase ≤ (t.x b).toNat →
        (t.x b).toNat + 64 ≤ Config.ownBase + storeSize (coreOf s.cur) → s.ownBefore (coreOf s.cur) s.cur (s.ownKey (t.x b)) = [] →
        Retires s (exec (.psave rs1 rs2) s) t (s.nextPc t) fun u => WroteWords s.mem u.mem (s.ownKey (t.x b))
          [p.ctl, p.base, p.counts, p.stride 0, p.stride 1, p.stride 2, p.stride 3,
           BitVec.ofNat 64 (p.pos % 2 ^ 40 + match p.bound with | some r => r % 128 * 2 ^ 40 + 2 ^ 47 | none => 0)]))

/-- R150, R153, R154: stream ports as operands. -/
def Obligations.PortOperands : Prop :=
  ∀ (i : Instr) (rd rs1 rs2 : BitVec 5) (f : Word → Word → Word), regForm i = some (rd, rs1, rs2, f) →
  ∀ (s : State) (t : Thread) (h : Nat) (p : Port),
    let d := s.latch.rd rd; let a := s.latch.rs1 rs1; let b := s.latch.rs2 rs2
    ¬ (rd = 0 ∧ s.latch.reach = none) →
    (ReadsPort s t h p a b d → p.kind = 2 → p.held = [] → p.asks = [] →
      ∀ w at', amGetD (s.core (coreOf s.cur)).fifos p.dir [] = [(w, at')] → at' ≠ s.cycle → exec i s = .next
        ((s.modCore (coreOf s.cur) fun c => { c with fifos := amPut c.fifos p.dir [] }).retires
          ({ t with ports := [(h, { p with pos := p.pos + 1 })] }.setX d (f w (if b = a then w else t.x b))) (s.nextPc t))) ∧
    (ReadsPort s t h p a b d → (p.kind = 2 → amGetD (s.core (coreOf s.cur)).fifos p.dir [] = []) →
      (∀ w ws ix rest, p.held = (⟨w :: ws, none, ix⟩ : Element) :: rest → exec i s = .next (s.retires
        ({ t with ports := [(h, { p with held := rest, pos := p.pos + 1 })] }.setX d (f w (if b = a then w else t.x b)))
        (s.nextPc t))) ∧
      (∀ ws c va ix rest, p.held = (⟨ws, some (c, va), ix⟩ : Element) :: rest → 
        exec i s = .next ((s.dropFault s.cur h).trap s.cur 0x0A va)) ∧
      (p.kind = 0 → p.held = [] → p.total ≤ p.pos → exec i s = .next (s.trapAt s.cur 0x0A 0 t.pc))) ∧
    (s.tripped = false → s.thread? s.cur = some t → s.latch.replay = 0 → s.latch.guardOk t.pw = true → t.body = none →
      t.ports = [(h, p)] → p.bound = some d → p.g = 1 → p.kind = 3 → p.failed = none → p.pos < p.total → p.readyWords < 16 →
      a < t.limit → b < t.limit → d < t.limit → a ≠ d → b ≠ d →
      (t.reg a).full = true → (t.reg b).full = true → (t.reg a).perr = false → (t.reg b).perr = false →
      ∃ id, exec i s = .next ({ s with nextId := id + 1 }.retires { t with ports := [(h, { p with
        pushes := p.pushes ++ [(⟨id, p.addr p.pos, [f (t.x a) (t.x b)]⟩ : Push)], pos := p.pos + 1 })] } (s.nextPc t)))

/-- R156, R160, R161, R167: skipping and intersecting. That a waiting pskip's count stays with its port is DESIGN CHOICE
(notes/assumptions/86.md). -/
def Obligations.SkipAndIntersect : Prop :=
  (∀ (s : State) (t : Thread) (rd rs1 rs2 : BitVec 5),
    let d := s.latch.rd rd; let a := s.latch.rs1 rs1; let b := s.latch.rs2 rs2
    let h := (t.x a).toNat % 32
    CanIssue s t [rs a, rs b, rdst d] →
      (h = 16 → exec (.pskip rd rs1 rs2) s = .next (s.retires ({ t with body := none }.setX d 0) (s.nextPc t))) ∧
      (∀ p body, h ≠ 16 → amGet t.ports h = some p → t.body = some body → h ∈ body.heldPorts →
        exec (.pskip rd rs1 rs2) s = .next { s.setThread s.cur { t with run := .waiting (.heldBy [] [h]) } with latch := {} })) ∧
  ∀ (s : State) (t : Thread) (rd rs1 rs2 : BitVec 5), t.body = none →
    let d := s.latch.rd rd; let a := s.latch.rs1 rs1; let b := s.latch.rs2 rs2
    (CanIssue s t [rs a, rs b, rdst d] →
      let h := (t.x a).toNat % 32
      (h ≠ 16 → amGet t.ports h = none → exec (.pskip rd rs1 rs2) s = .next (s.trapAt s.cur 0x01 s.latch.tval t.pc)) ∧
      (∀ p, h ≠ 16 → amGet t.ports h = some p →
        (p.kind = 4 → exec (.pskip rd rs1 rs2) s = .next (s.retires (t.setX d 0) (s.nextPc t))) ∧
        (p.kind = 0 ∨ p.kind = 3 → p.again = [] → (∀ x ∈ p.asks, x.ix = none) →
          let k := min (t.x b).toNat (p.total - p.pos)
          let past := p.held.length < k
          exec (.pskip rd rs1 rs2) s = .next ((if past then s.dropAsk s.cur h else s).retires ({ t with
            ports := amPut t.ports h { p with
              held := p.held.drop k, asks := if past then [] else p.asks, pos := p.pos + k } }.setX d (BitVec.ofNat 64 k))
            (s.nextPc t))) ∧
        (∀ q, p.kind = 1 → p.held = [] → p.asks = [] → p.again = [] → amGet t.ports p.ixh = some q → q.kind = 0 → q.asks = [] →
          q.again = [] → p.ixh ≠ h →
          let k := min (t.x b).toNat (q.total - q.pos)
          0 < k → exec (.pskip rd rs1 rs2) s = .next (((s.dropAsk s.cur h).dropAsk s.cur p.ixh).retires ({ t with
            ports := amPut (amPut t.ports h { p with pos := p.pos + k }) p.ixh { q with held := q.held.drop k, pos := q.pos + k }
            }.setX d (BitVec.ofNat 64 k)) (s.nextPc t))) ∧
        (p.kind = 2 → p.fwd = false → p.skipping = none → p.held.length ≤ 16 → amGetD (s.core (coreOf s.cur)).fifos p.dir [] = [] →
          let n := (t.x b).toNat
          (n ≤ p.held.length → exec (.pskip rd rs1 rs2) s = .next (s.retires ({ t with
            ports := amPut t.ports h { p with held := p.held.drop n, pos := p.pos + n } }.setX d (BitVec.ofNat 64 n)) (s.nextPc t))) ∧
          (p.held.length < n → exec (.pskip rd rs1 rs2) s = .next { s.setThread s.cur { t with
            ports := amPut t.ports h { p with held := [], pos := p.pos + p.held.length, skipping := some (t.pc, p.held.length) }
            run := .waiting (.skipWords h) } with latch := {} })))) ∧
    (∀ (ha hb hq : Nat) (pa pb pq : Port) (xs ys : List Word), CanIssue s t [rs a, rdst d] →
      ha = (t.x a).toNat % 16 → hb = (t.x a).toNat / 16 % 16 → hq = (t.x a).toNat / 256 % 16 →
      ha ≠ hb → ha ≠ hq → hb ≠ hq →
      amGet t.ports ha = some pa → amGet t.ports hb = some pb → amGet t.ports hq = some pq →
      pa.kind = 0 → pb.kind = 0 → pq.kind = 3 → pa.g = 1 → pb.g = 1 → pq.g = 1 →
      pa.bound = none → pb.bound = none → pq.bound = none → pq.pushes = [] → pq.failed = none →
      pa.held = xs.map (fun w => ⟨[w], none, none⟩) → pb.held = ys.map (fun w => ⟨[w], none, none⟩) →
      pa.pos + xs.length = pa.total → pb.pos + ys.length = pb.total → xs.length ≤ 16 → ys.length ≤ 16 →
      xs ≠ [] → ys ≠ [] → xs.Pairwise (fun v w => v.toNat < w.toNat) → ys.Pairwise (fun v w => v.toNat < w.toNat) →
      let lim := min (xs.getLastD 0).toNat (ys.getLastD 0).toNat
      let fa := xs.filter fun w => w.toNat ≤ lim
      let fb := ys.filter fun w => w.toNat ≤ lim
      let m := fa.filter fun w => fb.contains w
      pq.pos + m.length ≤ pq.total →
      ∃ u ta qa qb qq, exec (.isect rd rs1) s = .next u ∧ u.thread? s.cur = some ta ∧ ta.pc = s.nextPc t ∧
        amGet ta.ports ha = some qa ∧ amGet ta.ports hb = some qb ∧ amGet ta.ports hq = some qq ∧
        qa.held.map (·.words) = (xs.drop fa.length).map (fun w => [w]) ∧ qa.pos = pa.pos + fa.length ∧
        qb.held.map (·.words) = (ys.drop fb.length).map (fun w => [w]) ∧ qb.pos = pb.pos + fb.length ∧
        qq.pushes.map (fun e => (e.addr, e.words)) = m.zipIdx.map (fun w => (pq.addr (pq.pos + w.2), [w.1])) ∧
        qq.pos = pq.pos + m.length ∧
        (d ≠ 0 → ta.x d = BitVec.ofNat 64 (m.length + (if fa.length = xs.length then 2 ^ 63 else 0) +
          if fb.length = ys.length then 2 ^ 62 else 0)) ∧
        (∀ r, r ≠ d → ta.reg r = t.reg r) ∧ u.mem = s.mem)

/-- R123 to R125: the software cache's tag table. -/
def Obligations.TagTables : Prop :=
  ∀ (s : State) (t : Thread) (rd rs1 rs2 : BitVec 5),
    let d := s.latch.rd rd; let a := s.latch.rs1 rs1; let b := s.latch.rs2 rs2
    let tab := t.x a; let va := (t.x b).toNat
    let hw := s.mem.word (s.ownKey tab)
    let dbase := hw.toNat / 2 ^ 28 % 2 ^ 18; let lsz := hw.toNat / 2 ^ 12 % 16
    let wlog := hw.toNat / 2 ^ 6 % 4; let slog := hw.toNat % 64
    let n := 2 ^ wlog
    let key := va / 2 ^ lsz % 2 ^ 56
    let set := key % 2 ^ slog
    let ke := s.ownKey tab + 8 + set * n
    let at' := tab + BitVec.ofNat 64 (64 + set * n * 8)
    let es := (List.range n).map fun i => s.mem.word (ke + i)
    let line (w : Nat) : Word := BitVec.ofNat 64 (Config.ownBase + dbase + (set * n + w) * 2 ^ lsz)
    let low := BitVec.ofNat 64 (va % 2 ^ lsz)
    let size := storeSize (coreOf s.cur)
    let off := tab.toNat - Config.ownBase
    tab.toNat % 64 = 0 → Config.ownBase ≤ tab.toNat → tab.toNat < Config.ownBase + size →
    6 ≤ lsz → lsz ≤ 12 → slog ≤ 12 → dbase % 2 ^ lsz = 0 → off + 64 + 2 ^ slog * n * 8 ≤ size → dbase + 2 ^ (slog + wlog + lsz) ≤ size →
    (s.core (coreOf s.cur)).sb = [] → (∀ f ∈ s.flights, f.slot ≠ s.cur) →
    s.pushesTo s.cur (atWord fun w => sameOrder w (s.ownKey tab)) = [] → NoEpoch s → s.mem.poisoned (s.ownKey tab) = false →
    (∀ i, i < n → s.mem.poisoned (ke + i) = false) →
    (CanIssue s t [rs a, rs b, rdst d 2] →
      (∀ w, tagHit es key = some w → Retires s (exec (.tlook rd rs1 rs2) s)
        (t.setXs d [line w + low, at' + BitVec.ofNat 64 (8 * w)]) (s.nextPc t)
        fun u => WroteWords s.mem u.mem ke (tagTouch es w (entAge (es.getD w 0)))) ∧
      (tagHit es key = none → Retires s (exec (.tlook rd rs1 rs2) s) (t.setXs d [0, at']) (s.nextPc t)
        fun u => SameMemory s.mem u.mem) ∧
      (∀ w, tagHit es key = some w → let es1 := tagTouch es w (entAge (es.getD w 0))
        Retires s (exec (.tins rd rs1 rs2) s) (t.setXs d [line w + 2, es1.getD w 0]) (s.nextPc t)
          fun u => WroteWords s.mem u.mem ke es1) ∧
      (∀ w, tagHit es key = none → (∀ i, i < w → entValid (es.getD i 0) = true) → w < n → entValid (es.getD w 0) = false →
        Retires s (exec (.tins rd rs1 rs2) s) (t.setXs d [line w, 0]) (s.nextPc t) fun u => WroteWords s.mem u.mem ke
          ((tagTouch es w (n - 1)).set w (BitVec.ofNat 64 (key * 256 + 128)))) ∧
      (tagHit es key = none → (∀ e ∈ es, entValid e = true) → match tagVictim es with
        | some w => Retires s (exec (.tins rd rs1 rs2) s) (t.setXs d [line w + 1, es.getD w 0]) (s.nextPc t)
            fun u => WroteWords s.mem u.mem ke ((tagTouch es w (entAge (es.getD w 0))).set w (BitVec.ofNat 64 (key * 256 + 128)))
        | none => Retires s (exec (.tins rd rs1 rs2) s) (t.setXs d [3, 0]) (s.nextPc t) fun u => SameMemory s.mem u.mem)) ∧
    (CanIssue s t [rs a, rs b, rdst d] →
      (∀ w, tagHit es key = some w → Retires s (exec (.tinv rd rs1 rs2) s) (t.setX d (es.getD w 0)) (s.nextPc t) fun u =>
        WroteWords s.mem u.mem ke (es.zipIdx.map fun x => if x.2 = w then 0
          else if entValid x.1 ∧ entAge (es.getD w 0) < entAge x.1 then entWithAge x.1 (entAge x.1 - 1) else x.1)) ∧
      (tagHit es key = none → Retires s (exec (.tinv rd rs1 rs2) s) (t.setX d 0) (s.nextPc t) fun u => SameMemory s.mem u.mem))

/-- R164, R165: pitch and its replays. -/
def Obligations.PitchStarts : Prop :=
  (∀ (s s1 : State) (t : Thread) (len : BitVec 4) (stag rs1 : BitVec 5) (sd sa sb : BitVec 1) (rot : BitVec 2)
    (is : List BodyInstr) (words : Nat), CanIssue s t [rs rs1.toNat] → s.latch.n = 0 → t.body = none →
    readBody s.cur t (3 * (len.toNat + 1) + 1) s (len.toNat + 1) 1 {} [] = (s1, .ok (is, words)) →
    let npc := t.pc + BitVec.ofNat 64 (4 * words)
    let b : PitchBody := { instrs := is, stag := stag.toNat, rot := rot.toNat, sd := sd == 1, sa := sa == 1, sb := sb == 1
                           count := (t.x rs1.toNat).toNat % 2 ^ 32, iter := 0, index := 0, heldRegs := [], heldPorts := []
                           stop := none, taken := false, resumeAt := none }
    let regs := b.registers t
    (b.count = 0 → exec (.pitch len stag rs1 sd sa sb rot) s = .next (s1.retires t npc)) ∧
    (b.count ≠ 0 → b.check t = none → s1.bodiesOn (coreOf s.cur) < 4 →
      exec (.pitch len stag rs1 sd sa sb rot) s = .next (s1.retires { t with body := some { b with
        heldRegs := regs, heldPorts := (t.ports.filter fun hp => regs.any hp.2.covers).map (·.1)
        seq := s1.freeSequencer (coreOf s.cur) } } npc))) ∧
  (∀ (s : State) (slot : Nat) (t : Thread) (b : PitchBody) (w : BitVec 32) (span : BitVec 2) (ty : BitVec 2) (rd rs1 rs2 : BitVec 5),
    s.tripped = false → s.thread? slot = some t → t.body = some b → b.stop = none → b.sd = false → b.sa = false → b.sb = false →
    b.index = 0 → b.instrs = [⟨.fadd span 0 ty rd rs1 rs2, w, (0, 0, 0), none⟩] →
    decodeWord w = .ok (.fadd span 0 ty rd rs1 rs2) → t.frozen = false → t.halted = false →
    s.launchStopped t.launch = false → s.gating = 0 → t.fcsr = 0 → t.ports = [] →
    t.landedAt ≠ some s.cycle → s.replayTurn slot = true →
    let n := lanesIn span (tyWidth ty.toNat); let k := regsFor n (tyWidth ty.toNat)
    (∀ u ∈ [rs rs1.toNat k, rs rs2.toNat k, rdst rd.toNat k], u.n % u.span = 0 ∧ ∀ r ∈ u.regs, r < t.limit) →
    (∀ u ∈ [rs rs1.toNat k, rs rs2.toNat k], ∀ r ∈ u.regs, (t.reg r).full = true ∧ (t.reg r).perr = false) →
    ∃ u t1, exec (.pitchReplay slot) s = .next u ∧ u.thread? slot = some t1 ∧ t1.pc = t.pc ∧ t1.instret = t.instret + 1 ∧
      t1.body = (if b.iter + 1 < b.count then some { b with iter := b.iter + 1 } else none) ∧ u.mem = s.mem ∧
      (∀ i, i < n → rd ≠ 0 → laneAt t1.x rd.toNat (tyWidth ty.toNat) i =
        ((tyFmt ty.toNat).add .rne (laneAt t.x rs1.toNat (tyWidth ty.toNat) i) (laneAt t.x rs2.toNat (tyWidth ty.toNat) i)).bits %
          2 ^ tyWidth ty.toNat) ∧
      (∀ r, ¬ (rd.toNat ≤ r ∧ r < rd.toNat + k) → t1.reg r = t.reg r))

/-- R127 to R129, R133: the issue of haul jobs. -/
def Obligations.HaulIssue : Prop :=
  ∀ (i : Instr) (op : Nat) (rd rs1 : BitVec 5), haulOp i = some (op, rd, rs1) → ∀ (s : State) (t : Thread),
    let d := s.latch.rd rd; let a := s.latch.rs1 rs1
    let va := t.x a
    isOpt (coreOf s.cur) = false → CanIssue s t [rs a, rdst d] →
    (va.toNat % 64 ≠ 0 → exec i s = .next (s.trapAt s.cur 0x03 va t.pc)) ∧
    (va.toNat % 64 = 0 → va.toNat < Config.ownBase ∨ Config.ownBase + storeSize (coreOf s.cur) < va.toNat + 64 →
      exec i s = .next (s.trapAt s.cur 0x08 va t.pc)) ∧
    (∀ ws, va.toNat % 64 = 0 → OwnWords s va 8 ws → QueueFree s false →
      (haulBad ws op = none → Accepts s (exec i s) t d false fun j => j.op = op ∧ j.desc = ws) ∧
      (∀ v, haulBad ws op = some (some v) → ∃ u t1, exec i s = .next u ∧ u.thread? s.cur = some t1 ∧ t1.regs = t.regs ∧
        (u.octet (octetOf (coreOf s.cur))).haul = (s.octet (octetOf (coreOf s.cur))).haul ∧
        ((t1.run = .ready ∧ t1.xcause = BitVec.ofNat 64 (2 ^ 63 + 3) ∧ t1.xtval = v ∧ t1.xepc = t.pc) ∨
         ((t1.run = .parked .activation ∨ t1.run = .parked .resume) ∧ t1.kept = some (3, v, t.pc)) ∨ t.level = .supervisor)) ∧
      (haulBad ws op = some none → ∃ u t1, exec i s = .next u ∧ u.thread? s.cur = some t1 ∧ t1.regs = t.regs ∧
        (u.octet (octetOf (coreOf s.cur))).haul = (s.octet (octetOf (coreOf s.cur))).haul ∧
        (((t1.run = .parked .activation ∨ t1.run = .parked .resume) ∧ t1.kept = some (1, s.latch.tval, t.pc)) ∨
          t.level = .supervisor)))

/-- R218, R220, R226 to R228, R235, R239: the issue of matrix jobs. -/
def Obligations.MatrixIssue : Prop :=
  ∀ (s : State) (t : Thread), isOpt (coreOf s.cur) = false → s.assigned (coreOf s.cur) t.tenant = true → QueueFree s true →
    let core := coreOf s.cur
    (∀ (i : Instr) (pair : Nat) (s3 : BitVec 3) (rd rs1 rs2 : BitVec 5), multiplyOp i = some (pair, s3, rd, rs1, rs2) →
      let d := s.latch.rd rd; let a := s.latch.rs1 rs1; let b := s.latch.rs2 rs2
      ∀ da dt, CanIssue s t [rs a, rs b, rs (8 + s3.toNat), rdst d] → (t.x a).toNat % 32 = 0 → (t.x b).toNat % 32 = 0 →
        OwnWords s (t.x a) 4 da → OwnWords s (t.x b) 4 dt →
        (∀ code, mmIssueCode pair (da ++ dt) = some code →
          exec i s = .next (s.trapAt s.cur 0x0D (BitVec.ofNat 64 code) t.pc)) ∧
        (mmIssueCode pair (da ++ dt) = none → mmAcceptCode s (s.octet (octetOf core)) core t.tenant pair (da ++ dt) = none →
          Accepts s (exec i s) t d true fun j => j.op = pair ∧ j.desc = da ++ dt ∧ j.arg = t.x (8 + s3.toNat))) ∧
    (∀ (rd rs1 : BitVec 5), ViewOwned (s.octet (octetOf core)) t.tenant →
      let d := s.latch.rd rd; let a := s.latch.rs1 rs1
      CanIssue s t [rs a, rdst d] →
      (∀ ws, (t.x a).toNat % 32 = 0 → OwnWords s (t.x a) 4 ws → mbloadIssue ws = none →
        Accepts s (exec (.mbload rd rs1) s) t d true fun j => j.op = 0x10 ∧ j.desc = ws) ∧
      (∀ ws, (t.x a).toNat % 64 = 0 → OwnWords s (t.x a) 8 ws → mstIssue ws = none →
        Accepts s (exec (.mst rd rs1) s) t d true fun j => j.op = 0x11 ∧ j.desc = ws) ∧
      (Accepts s (exec (.mclr rd rs1) s) t d true fun j => j.op = 0x12 ∧ j.arg = t.x a ∧
        (∀ i, i < 4 → (16 + i ∈ j.writes ↔ (t.x a).getLsbD i = true)) ∧
        ∀ i, i < 16 → (t.x a).getLsbD (4 + i) = true → i ∈ j.writes))

/-- R139 to R142, R240, R241: what a thread asks about its jobs. -/
def Obligations.JobQueries : Prop :=
  ∀ (s : State) (t : Thread) (rd rs1 : BitVec 5), isOpt (coreOf s.cur) = false →
    let d := s.latch.rd rd; let a := s.latch.rs1 rs1
    let r := t.jobNamed s.cur (t.x a)
    let j := s.jobState r
    let word := BitVec.ofNat 64 (j.addr % 2 ^ 48 * 2 ^ 16 + j.cause % 256 * 256 + j.state % 256)
    let waits (o : Host.Outcome State Fault Refusal) : Prop := ∃ u, o = .next u ∧
      u.thread? s.cur = some { t with run := .waiting (.jobsFinal [r]) } ∧ u.mem = s.mem
    (CanIssue s t [rs a, rdst d] →
      let status := if r.matrix then 6 else word
      exec (.hpoll rd rs1) s = .next (s.retires (t.setX d status) (s.nextPc t)) ∧
      (r.matrix = true ∨ 2 ≤ j.state → exec (.hwait rd rs1) s = .next (s.retires (t.setX d status) (s.nextPc t))) ∧
      (r.matrix = false → j.state < 2 → waits (exec (.hwait rd rs1) s)) ∧
      (exec (.jobint rd rs1) s = .next (s.retires
        (if 2 ≤ j.state then t.setX d 0 else if 8 ≤ t.armed.length then t.setX d 2
          else { t with armed := t.armed ++ [r], armedAt := some s.cycle }.setX d 1) (s.nextPc t))) ∧
      ((t.x a).toNat % 4 = 0 → exec (.mrestart rd rs1) s = .next (s.retires
        ({ t with mlabel := t.x a, mark := false }.setX d t.mlabel) (s.nextPc t))) ∧
      ((t.x a).toNat % 4 ≠ 0 → exec (.mrestart rd rs1) s = .next (s.trapAt s.cur 0x03 (t.x a) t.pc))) ∧
    (CanIssue s t [rs a, rdst d 2] →
      let status := if r.matrix then [word, j.info] else [6, 0]
      exec (.mpoll rd rs1) s = .next (s.retires (t.setXs d status) (s.nextPc t)) ∧
      (r.matrix = false ∨ 2 ≤ j.state → exec (.mwait rd rs1) s = .next (s.retires (t.setXs d status) (s.nextPc t))) ∧
      (r.matrix = true → j.state < 2 → waits (exec (.mwait rd rs1) s)))

/-- R128, R134, R136, R138, R199, R200, R230, R231, R236, R238, R239: the engines' steps, where requests complete in the step that makes
them (s.slow = false, notes/assumptions/1.md). -/
def Obligations.EnginesRun : Prop :=
  ∀ (s : State) (oct : Nat) (j : Job) (rest : List Job), s.tripped = false → s.slow = false → NoEpoch s →
    let s0 : State := ({ s with latch := {} } : State).startJob j.ref
    let ends (o : Host.Outcome State Fault Refusal) (m : Bool) : Prop := ∃ u, o = .next u ∧
      (if m then (u.octet oct).matrix else (u.octet oct).haul) = rest ∧
      ((∃ x ∈ (if m then (s.core j.ref.coreNo).matStates else (s.core j.ref.coreNo).haulStates), x.seq = j.ref.seq) →
        (u.jobState j.ref).state = j.ending.1 ∧ (u.jobState j.ref).cause = j.ending.2.1)
    -- no write of the job is under way, and no thread has armed it in this cycle (R142)
    let quiet : Prop := (∀ f ∈ s.flights, f.job ≠ some j.ref) ∧ ∀ p ∈ s.threads, p.2.armedAt = some s.cycle → j.ref ∉ p.2.armed
    (Heads s oct false j rest →
      (∀ s1 s2 src dst t1 t2 a b x y, j.state ≤ 1 → haulAct j.desc j.op j.arg.toNat j.pos = some (.copy dst src) → ctlRec j.desc = false →
        s0.resolve j.core j.tenant j.master src .load = (s1, .ok t1) → t1.place = some (a, x) → s.mem.poisoned (a / 8) = false →
        s1.resolve j.core j.tenant j.master dst .store = (s2, .ok t2) → t2.place = some (b, y) → (∀ h ∈ s.holds, h.key ≠ b / 8) →
        (∀ f ∈ s.flights, f.job ≠ some j.ref) →
        ∃ u, exec (.haulJobStart oct 1) s = .next u ∧
          (readsWord j.desc j.op ((s0.engineRead j src).1.indexEntry j) dst = false → u.mem.word (b / 8) = s.mem.word (a / 8)) ∧
          (∀ z, z / 8 ≠ b / 8 → u.mem.byte z = s.mem.byte z) ∧
          (∀ k, u.mem.full k = if k = b / 8 ∧ ctlFull j.desc then true else s.mem.full k) ∧
          (u.octet oct).haul.head?.map (·.pos) = some (j.pos + 1)) ∧
      (j.state = 2 → j.updates = [] → quiet → ends (exec (.haulJobFinal oct) s) false)) ∧
    (Heads s oct true j rest →
      (j.state = 2 → j.updates = [] → quiet → j.discarded = false → (j.op ≤ 10 → aSync j.desc ≠ 2) → ends (exec (.matrixJobFinal oct) s) true) ∧
      (∀ s1 t1 a x, j.op = 0x10 → j.state = 1 → j.pos < gBytes j.desc / 8 →
        ({ s with latch := {} } : State).resolve j.core j.tenant j.master (panelWord j.desc j.pos) .load = (s1, .ok t1) → t1.place = some (a, x) →
        s.mem.poisoned (a / 8) = false → (∀ f ∈ s.flights, f.job ≠ some j.ref) →
        ∃ u, exec (.mbloadJob oct 1) s = .next u ∧ u.mem = s.mem ∧
          (∀ i, i < 8 → (u.octet oct).byte (gBreg j.desc * 8192 + 8 * j.pos + i) = (s.mem.byte (a / 8 * 8 + i)).toNat) ∧
          (u.octet oct).matrix.head?.map (·.pos) = some (j.pos + 1)) ∧
      (∀ p, j.op ≤ 10 → (j.op = 10 → 0 < j.panelLen ∧ j.panelAt + j.panelLen ≤ 8) → j.state = 1 → j.pos = j.aPlaces → s.gating = 0 → (s.octet oct).panelStands j = true → j.poison = none →
        (∀ i, i < j.panelLen → (regionOf (s.octet oct).regions (j.panelAt + i)).upset = false) →
        (tileOf (s.octet oct).tiles (tTile j.desc)).upset = false → (tileOf (s.octet oct).tiles (tTile j.desc)).state ≠ 2 →
        (regionOf (s.octet oct).regions j.panelAt).state = 1 → (regionOf (s.octet oct).regions j.panelAt).panel = some p →
        ∃ u, exec (.multiplyJob oct 0) s = .next u ∧
          (let old := (tileOf (s.octet oct).tiles (tTile j.desc)).elems
           let new := tileOf (u.octet oct).tiles (tTile j.desc)
           new.state = 1 ∧ new.tenant = j.tenant ∧ new.launch = j.launch ∧
           (∀ i c, i < shapeRows (tShape j.desc) → c < shapeCols (tShape j.desc) →
             ∃ v, (s.octet oct).Sums j p i c (if tInit j.desc then 0 else (amGetD old (i * 128 + c) 0).toNat) v ∧
               amGetD new.elems (i * 128 + c) 0 = BitVec.ofNat 32 v) ∧
           ((old.map (·.1)).Nodup → ∀ i c, c < 128 → ¬ (i < shapeRows (tShape j.desc) ∧ c < shapeCols (tShape j.desc)) →
             amGetD new.elems (i * 128 + c) 0 = amGetD old (i * 128 + c) 0)) ∧
          (u.octet oct).matrix = { j with state := 2, flags := j.flags ||| ((s.octet oct).multiply j p).2 } :: rest ∧
          u.mem = s.mem) ∧
      (∀ s1 t1 a x, j.op = 0x11 → j.state = 1 → sFmt j.desc = 0 → sTwin j.desc = false → sFull j.desc = false → sRec j.desc = false →
        sShape j.desc ≠ 3 → j.pos < shapeRows (sShape j.desc) * shapeCols (sShape j.desc) / 2 →
        (tileOf (s.octet oct).tiles (sTile j.desc)).upset = false → (tileOf (s.octet oct).tiles (sTile j.desc)).state ≠ 2 →
        let w := shapeCols (sShape j.desc) / 2
        let at' := wrap ((dword j.desc 0).toNat + (j.pos / w : Nat) * (dword j.desc 1).toInt + (8 * (j.pos % w) : Nat))
        let e (c : Nat) : Nat := (storeElement 0 j.tabA (amGetD (tileOf (s.octet oct).tiles (sTile j.desc)).elems
          (j.pos / w * 128 + c) 0).toNat (f32.decode ((dword j.desc 5).toNat % 2 ^ 32))).bits
        s0.resolve j.core j.tenant j.master at' .store = (s1, .ok t1) → t1.place = some (a, x) →
        j.discarded = false → (∀ f ∈ s.flights, f.job ≠ some j.ref) →
        ∃ u, exec (.mstJob oct 1) s = .next u ∧
          u.mem.word (a / 8) = BitVec.ofNat 64 (e (j.pos % w * 2) + e (j.pos % w * 2 + 1) * 2 ^ 32) ∧
          (∀ z, z / 8 ≠ a / 8 → u.mem.byte z = s.mem.byte z) ∧ (∀ k, u.mem.full k = s.mem.full k)) ∧
      (j.op = 0x12 → j.state ≤ 1 →
        ∃ u, exec (.mclrJob oct) s = .next u ∧ (∀ r ∈ j.writes, if r < 16 then regionOf (u.octet oct).regions r = {}
            else tileOf (u.octet oct).tiles (r - 16) = {}) ∧
          (∀ r, r < 16 → r ∉ j.writes → regionOf (u.octet oct).regions r = regionOf (s.octet oct).regions r) ∧
          (∀ r, 16 + r ∉ j.writes → tileOf (u.octet oct).tiles r = tileOf (s.octet oct).tiles r) ∧
          (u.octet oct).matrix = { j with state := 2 } :: rest ∧ u.mem = s.mem)) ∧
    (∀ (slot : Nat) (t : Thread) (p : Pend), s.thread? slot = some t → octetOf (coreOf slot) = oct → t.pend = some p →
      p.mode = 8 → p.phase = 0x12 → p.keys = [] → t.ports = [] → p.got = [(0, p.word 0), (1, p.word 1)] →
      (s.octet oct).candidates = [(slot, true)] → (s.octet oct).matrix.length < 16 → ViewOwned (s.octet oct) t.tenant →
      (s.octet oct).matAt ≠ some s.cycle →
      (∀ c, c < 8 → oct * 8 + c ≠ coreOf slot →
        (s.core (oct * 8 + c)).issuedAt = some s.cycle ∨ ∀ n, coreOf n = oct * 8 + c → s.thread? n = none) →
      ∃ u j t1, exec (.jobAccept oct true) s = .next u ∧ (u.octet oct).matrix = (s.octet oct).matrix ++ [j] ∧ j.op = 0x12 ∧
        j.arg = p.word 1 ∧ (∀ i, i < 4 → (16 + i ∈ j.writes ↔ (p.word 1).getLsbD i = true)) ∧
        (∀ i, i < 16 → (p.word 1).getLsbD (4 + i) = true → i ∈ j.writes) ∧ j.slot = slot ∧ (u.octet oct).candidates = [] ∧ u.thread? slot = some t1 ∧ t1.run = .ready ∧
        t1.pc = p.npc ∧ (p.rd ≠ 0 → t1.x p.rd = BitVec.ofNat 64 j.ref.ident) ∧ u.mem = s.mem)

/-- R244, R245, R260 to R262. That the col die's word is consulted is the model's reading (notes/assumptions/87.md). -/
def Obligations.RecordAllocation : Prop :=
  ∀ (s s1 : State) (t : Thread) (k : Nat) (rd rs1 rs2 : BitVec 5),
    let d := s.latch.rd rd; let a := s.latch.rs1 rs1; let b := s.latch.rs2 rs2
    let tn := t.tenant
    let w1 := s.mem.word (k + 1)
    t.updates = [] → NoEpoch s →
    (CanIssue s t [rs a, rdst d] →
      let hlen := (t.x a).toNat / 2 ^ 16 % 32
      let h := lowestFree (s.tenant tn).handles 0
      (hlen = 0 ∨ 16 < hlen → exec (.salloc rd rs1) s = .next (s.trapAt s.cur 0x01 s.latch.tval t.pc)) ∧
      (1 ≤ hlen → hlen ≤ 16 →
        ((s.tenant tn).poolCount = 0 →
          exec (.salloc rd rs1) s = .next (s.retires (t.setX d 0x8000000000000002#64) (s.nextPc t))) ∧
        (0 < (s.tenant tn).poolCount → (s.tenant tn).poolCount ≤ h →
          exec (.salloc rd rs1) s = .next (s.retires (t.setX d 0x8000000000000001#64) (s.nextPc t))) ∧
        (h < (s.tenant tn).poolCount → OnRecord s t (BitVec.ofNat 64 h) 3 s1 k → RecordTurn s t (BitVec.ofNat 64 h) k →
          (∀ cls, s1.accessOk colDie (masterOf tn (coreOf s.cur)) cls 3 = false) →
          exec (.salloc rd rs1) s = .next (s1.trapAt s.cur 0x09 (s.recVa tn h) t.pc)) ∧
        (h < (s.tenant tn).poolCount → OnRecord s t (BitVec.ofNat 64 h) 3 s1 k → RecordTurn s t (BitVec.ofNat 64 h) k →
          (∀ cls, s1.accessOk colDie (masterOf tn (coreOf s.cur)) cls 3 = true) →
          Retires s (exec (.salloc rd rs1) s) (t.setX d (BitVec.ofNat 64 h)) (s.nextPc t) fun u =>
            WroteWords s.mem u.mem k ([0, BitVec.ofNat 64 (2 ^ 47 + (t.x a).toNat % 2 ^ 21)] ++ List.replicate 30 0) ∧
            (u.tenant tn).handles = nsIns (s.tenant tn).handles h))) ∧
    (CanIssue s t [rs a, rdst d] → OnRecord s t (t.x a) 3 s1 k → RecordTurn s t (t.x a) k → s.mem.poisoned (k + 1) = false →
      amGet s.updatedAt k ≠ some s.cycle →
      (w1.getLsbD 47 = false → Retires s (exec (.sfree rd rs1) s) (t.setX d 1) (s.nextPc t) fun u => u.mem = s.mem) ∧
      (w1.getLsbD 47 = true → Retires s (exec (.sfree rd rs1) s) (t.setX d 0) (s.nextPc t) fun u =>
        WroteWords s.mem u.mem (k + 1) [0] ∧
        (u.tenant tn).handles = nsDel (s.tenant tn).handles ((t.x a).toNat % 2 ^ 32))) ∧
    (CanIssue s t [rs a, rs b, rdst d] → OnRecord s t (t.x a) 3 s1 k → RecordTurn s t (t.x a) k → s.mem.poisoned (k + 1) = false →
      amGet s.updatedAt k ≠ some s.cycle →
      let w := t.x b
      let hl := w.toNat / 2 ^ 16 % 32
      let all := (List.range 32).map fun i => s.mem.word (k + i)
      w1.getLsbD 47 = true → (w.getLsbD 58 = true → 1 ≤ hl ∧ hl ≤ 16) →
      Retires s (exec (.sset rd rs1 rs2) s) (t.setX d w1) (s.nextPc t) fun u =>
        (∀ j, j < 64 → (u.mem.word (k + 1)).getLsbD j =
          if j < 8 ∧ w.getLsbD 56 ∨ 8 ≤ j ∧ j < 16 ∧ w.getLsbD 57 ∨ 16 ≤ j ∧ j < 21 ∧ w.getLsbD 58 then w.getLsbD j
          else if 48 ≤ j ∧ w.getLsbD 60 ∨ 44 ≤ j ∧ j < 47 ∧ w.getLsbD 61 then false else w1.getLsbD j) ∧
        (∀ i, i < 32 → i ≠ 1 → u.mem.word (k + i) =
          if 12 ≤ i ∧ w.getLsbD 59 ∨ 4 ≤ i ∧ i < 12 ∧ w.getLsbD 62 then 0
          else if i = 0 ∧ w.getLsbD 62 then all.getD 0 0 &&& 0xFFFFFFFF00000000#64 else all.getD i 0) ∧
        (∀ x, ¬ (k ≤ x / 8 ∧ x / 8 < k + 32) → u.mem.byte x = s.mem.byte x) ∧ ∀ j, u.mem.full j = s.mem.full j)

/-- R260, R264, R266. Where requests travel, the routers' entries for the record's first word close (R101). -/
def Obligations.RecordReads : Prop :=
  ∀ (s s1 : State) (t : Thread) (k : Nat) (rd rs1 rs2 : BitVec 5),
    let d := s.latch.rd rd; let a := s.latch.rs1 rs1; let b := s.latch.rs2 rs2
    let w0 := (s.mem.word k).toNat
    let w1 := s.mem.word (k + 1)
    let rec' := (s.tenant t.tenant).poolBase + BitVec.ofNat 64 (256 * ((t.x a).toNat % 2 ^ 32))
    t.updates = [] → NoEpoch s → RecordTurn s t (t.x a) k →
    (CanIssue s t [rs a, rs b, rdst d 4] → OnRecord s t (t.x a) 1 s1 k →
      let g := (t.x b).toNat % 8
      (∀ i, i < 4 → s.mem.poisoned (k + (4 * g + i)) = false) →
      exec (.sread rd rs1 rs2) s = .next (if w1.getLsbD 47 then (s1.crossed k).retires
          (t.setXs d ((List.range 4).map fun i => s.mem.word (k + (4 * g + i)))) (s.nextPc t)
        else (s1.crossed k).trapAt s.cur 0x08 rec' t.pc)) ∧
    (CanIssue s t [rs a, rdst d] → OnRecord s t (t.x a) 1 s1 k → s.mem.poisoned k = false →
      exec (.sgen rd rs1) s = .next (if w1.getLsbD 47 then
          (s1.crossed k).retires (t.setX d (BitVec.ofNat 64 (w0 / 2 ^ 32))) (s.nextPc t)
        else (s1.crossed k).trapAt s.cur 0x08 rec' t.pc)) ∧
    (CanIssue s t [rs a, rs b, rdst d] → OnRecord s t (t.x a) 3 s1 k → w1.getLsbD 47 = false → s.mem.poisoned k = false →
      s.mem.poisoned (k + 1) = false → amGet s.updatedAt k ≠ some s.cycle →
      exec (.sroll rd rs1 rs2) s = .next ((s1.crossed k).trapAt s.cur 0x08 rec' t.pc)) ∧
    (CanIssue s t [rs a, rs b, rdst d] → OnRecord s t (t.x a) 3 s1 k →
      let head := w1.toNat / 2 ^ 36 % 16
      let slot := k + (4 + head / 2)
      let old := w0 % 2 ^ 32
      let gen := (w0 / 2 ^ 32 + 1) % 2 ^ 32
      w1.getLsbD 47 = true → s.mem.poisoned k = false → s.mem.poisoned (k + 1) = false → s.mem.poisoned slot = false →
      amGet s.updatedAt k ≠ some s.cycle →
      Retires s (exec (.sroll rd rs1 rs2) s) (t.setX d (BitVec.ofNat 64 (gen * 2 ^ 32 + old))) (s.nextPc t) fun u =>
        u.mem.word k = BitVec.ofNat 64 (gen * 2 ^ 32) ∧
        (∀ j, j < 64 → (u.mem.word (k + 1)).getLsbD j = if 36 ≤ j ∧ j < 40 then ((head + 1) % 16).testBit (j - 36)
          else if 48 ≤ j ∧ (t.x b).getLsbD 1 then false else w1.getLsbD j) ∧
        (u.mem.word slot).toNat / 2 ^ (32 * (head % 2)) % 2 ^ 32 = old ∧
        (u.mem.word slot).toNat / 2 ^ (32 * (1 - head % 2)) % 2 ^ 32 =
          (s.mem.word slot).toNat / 2 ^ (32 * (1 - head % 2)) % 2 ^ 32 ∧
        (∀ i, 2 ≤ i → i < 32 → k + i ≠ slot →
          u.mem.word (k + i) = if 12 ≤ i ∧ (t.x b).getLsbD 0 then 0 else s.mem.word (k + i)) ∧
        (∀ x, ¬ (k ≤ x / 8 ∧ x / 8 < k + 32) → u.mem.byte x = s.mem.byte x) ∧ ∀ j, u.mem.full j = s.mem.full j)

/-- R255 to R257, R265. -/
def Obligations.RecordScales : Prop :=
  ∀ (s s1 : State) (t : Thread) (k : Nat) (rd rs1 rs2 : BitVec 5),
    let d := s.latch.rd rd; let a := s.latch.rs1 rs1; let b := s.latch.rs2 rs2
    let core := coreOf s.cur
    let tw := t.x b
    let w0 := (s.mem.word k).toNat
    let w1 := (s.mem.word (k + 1)).toNat
    let hlen := w1 / 2 ^ 16 % 32
    let gen := w0 / 2 ^ 32
    let M (g : Nat) : Nat := ringMax s.mem k hlen g
    let tab := amGetD (s.core core).tables (t.tabsel.toNat % 4) {}
    let ready : Prop := t.updates = [] ∧ w1.testBit 47 = true ∧
      ∀ i ∈ [0, 1] ++ (List.range 8).map (4 + ·), s.mem.poisoned (k + i) = false
    CanIssue s t [rs a, rs b, rdst d] → OnRecord s t (t.x a) 1 s1 k → RecordTurn s t (t.x a) k →
    (6 ≤ tw.toNat % 16 → ∀ i ∈ [Instr.sscale rd rs1 rs2, .sscaleH rd rs1 rs2, .sscaleG rd rs1 rs2],
      exec i s = .next (s1.trapAt s.cur 0x01 s.latch.tval t.pc)) ∧
    (tw.toNat % 16 < 6 →
    (∀ e, s.recHit core t.tenant ((t.x a).toNat % 2 ^ 32) = some e → e.max ≤ 0x7F800000 →
      ∃ v, IsScale tw tab e.max e.gen e.thr v ∧ exec (.sscale rd rs1 rs2) s = .next (s1.retires (t.setX d v) (s.nextPc t))) ∧
    (ready → M gen ≤ 0x7F800000 →
      ∃ v, IsScale tw tab (M gen) gen (w1 % 256) v ∧
        (s.recHit core t.tenant ((t.x a).toNat % 2 ^ 32) = none →
          Retires s (exec (.sscale rd rs1 rs2) s) (t.setX d v) (s.nextPc t) fun u => u.mem = s.mem ∧
            ((u.core core).recs.head?).map (fun e => (e.gen, e.max, e.thr)) = some (gen, M gen, w1 % 256)) ∧
        Retires s (exec (.sscaleH rd rs1 rs2) s) (t.setX d v) (s.nextPc t) fun u => u.mem = s.mem ∧
          ((u.core core).recs.head?).map (fun e => (e.gen, e.max, e.thr)) = some (gen, M gen, w1 % 256)) ∧
    (ready →
      let g := tw.toNat / 2 ^ 32
      (16 - hlen < (gen + 2 ^ 32 - g) % 2 ^ 32 → exec (.sscaleG rd rs1 rs2) s =
        .next ((s1.crossed k).trapAt s.cur 0x0C (BitVec.ofNat 64 (gen * 2 ^ 32 + g)) t.pc)) ∧
      ((gen + 2 ^ 32 - g) % 2 ^ 32 ≤ 16 - hlen → M g ≤ 0x7F800000 →
        ∃ v, IsScale tw tab (M g) g (w1 % 256) v ∧
          exec (.sscaleG rd rs1 rs2) s = .next ((s1.crossed k).retires (t.setX d v) (s.nextPc t)))))

/-- R250 to R252, R263, R267. In the first clause requests complete in the issuing step (notes/assumptions/1.md). -/
def Obligations.RecordUpdates : Prop :=
  (∀ (s s1 : State) (t : Thread) (k cnt sat : Nat) (ws : List Word) (rt rs1 rs2 : BitVec 5),
    let a := s.latch.rs1 rs1; let b := s.latch.rs2 rs2; let r := s.latch.rd rt
    let es := (List.range cnt).map fun i => (ws.getD (i / 2) 0).toNat / 2 ^ (32 * (i % 2)) % 2 ^ 31
    let w (m : Memory) (i : Nat) : Nat := (m.word (k + i)).toNat
    let bin (r v : Nat) : Nat :=
      if v = 0 then 0 else
      let e : Int := if v < 2 ^ 23 then (Nat.log2 v : Int) - 149 else (v / 2 ^ 23 : Nat) - 127
      let b := e - (BitVec.ofNat 8 r).toInt + 20
      if b < 1 then 0 else if 38 < b then 39 else b.toNat
    let half (m : Memory) (i : Nat) : Nat := w m (12 + i / 2) / 2 ^ (32 * (i % 2)) % 2 ^ 32
    CanIssue s t [rs a, rs b, rs r] → NoEpoch s →
    (t.x r).toNat / 2 ^ 24 % 16 = 0 → (t.x r).toNat % 2 ^ 24 = cnt → (t.x r).toNat / 2 ^ 32 % 2 ^ 16 = sat →
    0 < cnt → 4 * cnt ≤ 4096 → OwnWords s1 (t.x b) ((4 * cnt + 7) / 8) ws → (t.x b).toNat + 4 * cnt ≤ Config.ownBase + storeSize (coreOf s.cur) →
    (∀ v ∈ es, v < 0x7F800000) → OnRecord s t (t.x a) 3 s1 k → RecordTurn s t (t.x a) k →
    (∀ e, s.slow = true → s.recHit (coreOf s.cur) t.tenant ((t.x a).toNat % 2 ^ 32) = some e → t.updates.length < 16 →
      ∃ u t1 q v, exec (.supd rs1 rs2 rt) s = .next u ∧ u.thread? s.cur = some t1 ∧ t1.regs = t.regs ∧ t1.pc = s.nextPc t ∧
        t1.updates = t.updates ++ [s.nextId] ∧ u.mem = s.mem ∧ q ∈ u.packets ∧ q.ident = s.nextId ∧ q.dst = homeEp (8 * k) ∧
        q.payload = .update v ∧ v.key = k ∧ v.max.toNat = es.foldl max 0 ∧ v.ref = e.ref ∧ v.sat = sat ∧ v.count = 1 ∧
        ∀ i, i < 40 → amGetD v.incr i 0 = (es.filter fun x => bin e.ref x = i).length) ∧
    (s.slow = false → s.recHit (coreOf s.cur) t.tenant ((t.x a).toNat % 2 ^ 32) = none → t.updates = [] →
    (w s.mem 1).testBit 47 = true → (∀ i, i < 32 → s.mem.poisoned (k + i) = false) →
    ∃ u t1, exec (.supd rs1 rs2 rt) s = .next u ∧ u.thread? s.cur = some t1 ∧ t1.regs = t.regs ∧ t1.pc = s.nextPc t ∧
      t1.updates = [] ∧ t1.refused = t.refused ∧
      w u.mem 0 % 2 ^ 32 = es.foldl max (w s.mem 0 % 2 ^ 32) ∧ w u.mem 0 / 2 ^ 32 = w s.mem 0 / 2 ^ 32 ∧
      w u.mem 1 / 2 ^ 48 = min 0xFFFF (w s.mem 1 / 2 ^ 48 + sat) ∧ w u.mem 1 % 2 ^ 48 = w s.mem 1 % 2 ^ 48 ∧
      w u.mem 2 = (w s.mem 2 + 1) % 2 ^ 32 ∧
      (∀ i, i < 40 → half u.mem i =
        min (2 ^ 32 - 1) (half s.mem i + (es.filter fun v => bin (w s.mem 1 / 256 % 256) v = i).length)) ∧
      (∀ i, 3 ≤ i → i < 12 → w u.mem i = w s.mem i) ∧
      (∀ x, ¬ (k ≤ x / 8 ∧ x / 8 < k + 32) → u.mem.byte x = s.mem.byte x) ∧ ∀ j, u.mem.full j = s.mem.full j)) ∧
  (∀ (s : State) (p : Packet) (before rest : List Packet) (u : Update), s.tripped = false →
    s.packets = before ++ p :: rest → p.payload = .update u → p.node = none → p.depot = none → p.returned = false → NoEpoch s →
    (∀ q ∈ before ++ rest, q.ident ≠ p.ident) →
    (∀ q ∈ before, ∀ v, q.payload ≠ .update v) → s.homeGrants p = true → p.came < s.cycle → (s.slow = false ∨ s.watches = []) →
    (s.mem.word (u.key + 1)).getLsbD 47 = true → (∀ i, i < 32 → s.mem.poisoned (u.key + i) = false) →
    let ps := u.allParts.filter fun x => s.accessOk (sliceOf (8 * u.key)) x.master u.cls 3
    let w (m : Memory) (i : Nat) : Nat := (m.word (u.key + i)).toNat
    let half (m : Memory) (i : Nat) : Nat := w m (12 + i / 2) / 2 ^ (32 * (i % 2)) % 2 ^ 32
    let same : Prop := u.ref = w s.mem 1 / 256 % 256
    ps ≠ [] → (∀ x ∈ ps, ∀ b ∈ x.incr, b.1 < 40) →
    ∃ s', exec (.summitUpdateApply 0) s = .next s' ∧ s'.packets.map (·.ident) = (before ++ rest).map (·.ident) ++ (if s.sendsAck p then [p.ident] else []) ∧
      w s'.mem 0 % 2 ^ 32 = (ps.map (·.max.toNat)).foldl max (w s.mem 0 % 2 ^ 32) ∧ w s'.mem 0 / 2 ^ 32 = w s.mem 0 / 2 ^ 32 ∧
      w s'.mem 2 = (w s.mem 2 + (ps.map (·.count)).sum) % 2 ^ 32 ∧
      w s'.mem 1 / 2 ^ 48 = min 0xFFFF (w s.mem 1 / 2 ^ 48 + (ps.map (·.sat)).sum) ∧ w s'.mem 1 % 2 ^ 44 = w s.mem 1 % 2 ^ 44 ∧
      (w s'.mem 1).testBit 47 = true ∧ (w s'.mem 1).testBit 46 = ((w s.mem 1).testBit 46 || ps.any (·.nan)) ∧
      (w s'.mem 1).testBit 45 = ((w s.mem 1).testBit 45 || ps.any (·.inf)) ∧
      ((w s'.mem 1).testBit 44 = true ↔ (w s.mem 1).testBit 44 = true ∨ ¬ same) ∧
      (∀ i, i < 40 → (¬ same → half s'.mem i = half s.mem i) ∧
        (same → half s'.mem i = min (2 ^ 32 - 1)
          (half s.mem i + (((ps.flatMap (·.incr)).filter fun b => b.1 = i).map (·.2)).sum))) ∧
      (∀ i, 3 ≤ i → i < 12 → w s'.mem i = w s.mem i) ∧
      ∀ x, ¬ (u.key ≤ x / 8 ∧ x / 8 < u.key + 32) → s'.mem.byte x = s.mem.byte x) ∧
  (∀ (s : State) (t : Thread) (rd : BitVec 5), let d := s.latch.rd rd
    CanIssue s t [rdst d] → t.updates = [] → (∀ j ∈ t.jobs, s.jobFinal j = true) →
    (t.poisonedUpd = none → exec (.sflush rd) s = .next
      (s.retires ({ t with refused := 0 }.setX d (BitVec.ofNat 64 (min 0xFFFF t.refused))) (s.nextPc t))) ∧
    (∀ va, t.poisonedUpd = some va → exec (.sflush rd) s = .next
      ((s.setThread s.cur { t with poisonedUpd := none }).trapAt s.cur 0x0E va t.pc)))

/-- R303, R318: spawn, exit and yield. -/
def Obligations.SpawnExitYield : Prop :=
  ∀ (s : State) (t : Thread),
    (∀ (rd rs1 : BitVec 5),
      let d := s.latch.rd rd; let a := s.latch.rs1 rs1; let va := t.x a
      CanIssue s t [rs a, rdst d] →
      (va.toNat % 64 ≠ 0 → exec (.spawn rd rs1) s = .next (s.trapAt s.cur 0x03 va t.pc)) ∧
      (∀ (s0 s1 : State) (ad : Nat) (ads : List Nat),
        let n := (s.mem.word (ad / 8)).toNat / 2 ^ 32 % 64
        va.toNat % 64 = 0 → s.slow = false → t.spawns.length < 16 → Released s t →
        t.spawnRead = none → LandsAll t .load Loadable s [va + 16#64] s0 [ad] →
        LandsAll t .load Loadable s0 (wordsFrom va (8 + min n 32)) s1 ads →
        let r : Record := {
          tenant := t.tenant, words := ads.map fun x => s.mem.word (x / 8), spawner := some s.cur, queue := none
          prioCap := match amGet s.launches t.launch with | some l => l.record.prio | none => 3 }
        let die := rectDie r.rect
        let ident := die * 2 ^ 29 + (s.die die).seq
        (s.die die).inbox = [] →
        (∀ code, FirstCode (s.refusals r) code →
          exec (.spawn rd rs1) s = .next (s1.retires (t.setX d (BitVec.ofNat 64 (2 ^ 63 + code))) (s.nextPc t))) ∧
        ((∀ c ∈ s.refusals r, ¬ c.2) →
          Retires s (exec (.spawn rd rs1) s)
            ({ t with spawns := t.spawns ++ [ident] }.setX d (BitVec.ofNat 64 ident)) (s.nextPc t) fun u =>
            (u.die die).seq = ((s.die die).seq + 1) % 2 ^ 29 ∧ u.mem = s.mem ∧
            ∃ l, amGet u.launches ident = some l ∧ l.record = r ∧ l.state = 0 ∧ l.cores = coresOf r.rect r.opt)) ∧
      (∀ ws, va.toNat % 64 = 0 → s.slow = true → t.spawns.length < 16 → Released s t → t.spawnRead = some (true, ws) →
        let r : Record := {
          tenant := t.tenant, words := ws, spawner := some s.cur, queue := none
          prioCap := match amGet s.launches t.launch with | some l => l.record.prio | none => 3 }
        ∃ u x p, exec (.spawn rd rs1) s = .next u ∧ (u.die (rectDie r.rect)).inbox = (s.die (rectDie r.rect)).inbox ++ [r] ∧
          u.thread? s.cur = some x ∧ x.run = .waiting .reply ∧ x.pend = some p ∧ p.mode = 9 ∧ p.rd = d ∧ p.npc = s.nextPc t ∧
          x.regs = t.regs ∧ u.mem = s.mem)) ∧
    (CanIssue s t [] →
      (s.cur % 64 = 63 → exec .exit s = .next (s.trapAt s.cur 0x01 s.latch.tval t.pc)) ∧
      (s.cur % 64 ≠ 63 → t.body = none → Released s t →
        ∃ u, exec .exit s = .next u ∧ u.thread? s.cur = none ∧ u.latch = {} ∧ (∀ h ∈ u.holds, h.slot ≠ s.cur) ∧
          ((s.core (coreOf s.cur)).msgs = [] → u.mem = s.mem) ∧
          (isOpt (coreOf s.cur) = false → ∀ i, ((u.cluster (clusterOf (coreOf s.cur))).mutex i).owner ≠ some s.cur)) ∧
      exec .yield s = .next (s.retires (if s.inStream s.cur then t else { t with yielded := true }) (s.nextPc t)))

/-- R343 to R350: messages and task counters. -/
def Obligations.Messages : Prop :=
  ∀ (s : State) (t : Thread) (rd rs1 rs2 : BitVec 5),
    let d := s.latch.rd rd; let a := s.latch.rs1 rs1; let b := s.latch.rs2 rs2
    let w := (t.x a).toNat
    let core := coreOf s.cur
    (CanIssue s t [rs a, rs b] →
      exec (.msgReg rs1 rs2) s = .next ((s.sent (w / 64 % 2 ^ 14)
        (.message (.reg (w % 2 ^ 20) (w / 2 ^ 20 % 2 ^ 7) (t.x b)) t.tenant s.cur (t.x a))).retires t (s.nextPc t)) ∧
      (let n := (t.x b).toNat % 2 ^ 32
       exec (.msgDec rs1 rs2) s = .next ((if n = 0 then s else s.sent (w / 64 % 2 ^ 14)
        (.message (.dec (w / 64 % 2 ^ 14) (w / 2 ^ 20 % 2 ^ 8) n) t.tenant s.cur (t.x a))).retires t (s.nextPc t)))) ∧
    (CanIssue s t [rs a, rs b 2, rname d] → t.body = none →
      exec (.hcall rd rs1 rs2) s = .next ((s.sent (w / 64 % 2 ^ 14)
        (.message (.call (w / 64 % 2 ^ 14) (w / 2 ^ 20 % 2 ^ 6) (t.x b) (t.x (b + 1)) s.cur d 0
          (match t.level with | .handler .. => true | _ => false)) t.tenant s.cur (t.x a))).retires
          (if d = 0 then t else { t.emptyX d with calls := t.calls ++ [d] }) (s.nextPc t))) ∧
    (∀ ws, CanIssue s t [rs a, rs b, rdst d] → OwnWords s (t.x b) 3 ws → (t.x b).toNat % 32 = 0 →
      (t.x b).toNat + 32 ≤ Config.ownBase + storeSize core → (ws.getD 0 0).toNat % 4 = 0 →
      let i := w / 2 ^ 32 % 2 ^ 8
      let n := w % 2 ^ 32
      (((s.core core).counter i).state ≠ 0 → exec (.ctrSet rd rs1 rs2) s = .next (s.retires (t.setX d 1) (s.nextPc t))) ∧
      (((s.core core).counter i).state = 0 → n ≠ 0 → Released s t →
        let k : Counter := ⟨1, n, false, some ⟨ws.getD 0 0, ws.getD 1 0, ws.getD 2 0, i, t.launch, t.tenant, 0⟩⟩
        exec (.ctrSet rd rs1 rs2) s = .next ((s.setCore core { s.core core with
          counters := amPut (s.core core).counters i k }).retires (t.setX d 0) (s.nextPc t))) ∧
      (((s.core core).counter i).state = 0 → n = 0 → Released s t → (s.core core).readyQ.length < 16 → (s.core core).taskSpill = [] →
        let k : Task := ⟨ws.getD 0 0, ws.getD 1 0, ws.getD 2 0, i, t.launch, t.tenant, 0⟩
        Retires s (exec (.ctrSet rd rs1 rs2) s) (t.setX d 0) (s.nextPc t) fun u =>
          (u.core core).counter i = ⟨2, 0, false, some k⟩ ∧
          (u.core core).readyQ = (s.core core).readyQ ++ [{ k with arrived := s.nextId }] ∧ u.mem = s.mem)) ∧
    (CanIssue s t [rs a, rdst d] →
      let k := (s.core core).counter (w % 2 ^ 8)
      let mine : Prop := ∃ x, k.task = some x ∧ x.launch = t.launch ∧ x.tenant = t.tenant
      (mine → exec (.ctrRd rd rs1) s = .next (s.retires (t.setX d (BitVec.ofNat 64
        ((if k.surplus then 2 ^ 34 else 0) + k.state % 4 * 2 ^ 32 + k.count % 2 ^ 32))) (s.nextPc t))) ∧
      (¬ mine → exec (.ctrRd rd rs1) s = .next (s.retires (t.setX d 0) (s.nextPc t))))

/-- R351, R355, R357. -/
def Obligations.HandlerAndTraverse : Prop :=
  ∀ (s : State) (t : Thread) (rd rs1 : BitVec 5),
    let d := s.latch.rd rd; let a := s.latch.rs1 rs1
    let core := coreOf s.cur
    (CanIssue s t [rs a] →
      (∀ caller reg h tn, t.level = .handler caller reg h tn → t.body = none → (∀ p ∈ t.ports, p.2.pushes = []) →
        (∀ p ∈ s.packets, ∀ x tn c op, p.payload = .request x tn c op → x ≠ s.cur) → (s.slow = false ∨ s.watches = []) →
        ∃ u, exec (.hret rs1) s = .next u ∧ u.thread? s.cur = none ∧ u.latch = {} ∧
          (reg = 0 → u.packets = s.packets) ∧
          (reg ≠ 0 → ∃ p, u.packets = s.packets ++ [p] ∧ p.src = core ∧ p.dst = coreOf caller ∧ p.age = 0 ∧
            p.payload = .message (.reply caller reg (t.x a)) tn (core * 64 + 63) (Message.target (.reply caller reg (t.x a))))) ∧
      (t.level = .user ∨ t.level = .supervisor → exec (.hret rs1) s = .next (s.trapAt s.cur 0x01 s.latch.tval t.pc))) ∧
    (CanIssue s t [] →
      (t.shadow = none → exec .ixret s = .next (s.trapAt s.cur 0x01 s.latch.tval t.pc)) ∧
      (∀ h, t.shadow = some h → h.regs.length = 4 → s.ropeOf s.cur = none →
        ∃ t1, exec .ixret s = .next (s.retires t1 h.pc) ∧ t1 = { t with shadow := none, regs := t1.regs } ∧
          ∀ n, t1.reg n = if 4 ≤ n ∧ n < 8 then h.regs.getD (n - 4) {} else t.reg n)) ∧
    (CanIssue s t [rs a, rdst d] →
      (t.ctx = 0 → exec (.trav rd rs1) s = .next (s.trapAt s.cur 0x01 s.latch.tval t.pc)) ∧
      (∀ s1 tgt, t.ctx ≠ 0 → s.origin core t.tenant (t.x a).toNat .load = (s1, .ok tgt) →
        (ownerOf tgt = none ∨ ownerOf tgt = some core →
          exec (.trav rd rs1) s = .next (s1.retires (t.setX d 0) (s.nextPc t))) ∧
        (∀ o, ownerOf tgt = some o → o ≠ core → s.assigned o t.tenant = true → t.body = none → t.calls = [] → Released s t → t.seen = [] →
          (∀ p ∈ s.packets, ∀ x tn c op, p.payload = .request x tn c op → x ≠ s.cur) → (s.slow = false ∨ s.watches = []) →
          ∃ u p q t1, exec (.trav rd rs1) s = .next u ∧ u.thread? s.cur = none ∧ u.packets = s.packets ++ [p, q] ∧
            p.src = core ∧ p.dst = o ∧ p.payload = .context t1 o ∧ q.payload = .registers p.ident (t.ctx / 8) ∧ t1.run = .traversing ∧ t1.pc = s.nextPc t ∧
            t1.instret = t.instret + 1 ∧ ∀ n, t1.reg n = (t.setX d 1).reg n)))

/-- R327 to R329. -/
def Obligations.RopeInstructions : Prop :=
  ∀ (s : State) (t : Thread) (rd rs1 : BitVec 5),
    let d := s.latch.rd rd; let a := s.latch.rs1 rs1
    let L := (t.x a).toNat % 32
    let core := coreOf s.cur
    let run := (amGet s.launches t.launch).bind fun l => l.run core L
    (CanIssue s t [rs a, rdst d] →
      (∀ r, s.ropeOf s.cur = some r →
        exec (.ropeForm rd rs1) s = .next (s.retires ({ t with ropeFailed := true }.setX d 0x8000000000000003#64) (s.nextPc t))) ∧
      (s.ropeOf s.cur = none → run = none →
        exec (.ropeForm rd rs1) s = .next (s.retires ({ t with ropeFailed := true }.setX d 0x8000000000000001#64) (s.nextPc t))) ∧
      (∀ (cores : List Nat) (mates : List (Nat × Thread)),
        s.ropeOf s.cur = none → run = some cores → cores.map (s.partner t.launch t.ordinal) = mates.map some →
        (s.cur, t) ∈ mates → (mates.map (·.1)).Nodup →
        (∀ m ∈ mates, s.thread? m.1 = some m.2 ∧ m.2.ports = [] ∧ (m.1 ≠ s.cur → m.2.forming = some L ∧ ∀ p, m.2.pend = some p → p.pops = [])) →
        ∃ u id r, exec (.ropeForm rd rs1) s = .next u ∧ amGet u.ropes id = some r ∧ r.members = mates.map (·.1) ∧ r.launch = t.launch ∧
          r.step = 0 ∧ r.solo = [] ∧ r.left = [] ∧ r.leaderOut = false ∧ r.length = none ∧
          ∀ i m x, mates[i]? = some (m, x) → ∃ x1, u.thread? m = some x1 ∧ x1.run = .ready ∧ x1.pend = none ∧
            (m = s.cur → x1 = (({ t with ropeFailed := false }.setX d (BitVec.ofNat 64 i)).retired (s.nextPc t)).marked s.cycle []) ∧
            ∀ p, m ≠ s.cur → x.pend = some p → x1.pc = p.npc ∧ ∀ n, x1.reg n = (x.setX p.rd (BitVec.ofNat 64 i)).reg n)) ∧
    (CanIssue s t [] →
      (s.ropeOf s.cur = none → exec .ropeEnd s = .next (s.retires t (s.nextPc t))) ∧
      (∀ id r m, s.ropeOf s.cur = some (id, r) → r.members.head? ≠ some s.cur → r.length = none → m ∈ r.members → m ≠ s.cur →
        m ∉ r.left →
        exec .ropeEnd s = .next ((s.setRope id { r with
          left := r.left ++ [s.cur], solo := r.solo.filter (· != s.cur) }).retires t (s.nextPc t)))) ∧
    (CanIssue s t [rdst d] →
      (s.ropeOf s.cur = none → exec (.unclip rd) s = .next (s.retires (t.setX d 0) (s.nextPc t))) ∧
      (∀ id r, s.ropeOf s.cur = some (id, r) →
        (r.members.head? = some s.cur → exec (.unclip rd) s = .next (s.retires (t.setX d 2) (s.nextPc t))) ∧
        (r.members.head? ≠ some s.cur → s.cur ∉ r.solo → exec (.unclip rd) s =
          .next ((s.setRope id { r with solo := r.solo ++ [s.cur] }).retires (t.setX d 1) (s.nextPc t))) ∧
        (r.members.head? ≠ some s.cur → s.cur ∈ r.solo →
          exec (.unclip rd) s = .next (s.retires (t.setX d 0) (s.nextPc t))))) ∧
    (CanIssue s t [rs a, rdst d] →
      ((t.x a).toNat % 4 ≠ 0 → exec (.clip rd rs1) s = .next (s.trapAt s.cur 0x03 (t.x a) t.pc)) ∧
      ((t.x a).toNat % 4 = 0 →
        (s.ropeOf s.cur = none → exec (.clip rd rs1) s = .next (s.retires (t.setX d 0) (s.nextPc t))) ∧
        (∀ id r, s.ropeOf s.cur = some (id, r) → r.leaderOut = false → s.cur ∉ r.solo →
          exec (.clip rd rs1) s = .next (s.retires (t.setX d 2) (s.nextPc t))) ∧
        (∀ id r, s.ropeOf s.cur = some (id, r) → s.cur ∈ r.solo →
          ∃ u x, exec (.clip rd rs1) s = .next u ∧ u.thread? s.cur = some x ∧ x.run = .parked (.clip (t.x a)) ∧ x.pc = t.pc ∧
            x.regs = t.regs ∧ u.ropes = s.ropes)))

/-- R363, R367, R368, R370, R373. -/
def Obligations.CollectivesAndQueues : Prop :=
  ∀ (s : State) (t : Thread) (rd rs1 rs2 : BitVec 5),
    let d := s.latch.rd rd; let a := s.latch.rs1 rs1; let b := s.latch.rs2 rs2
    let core := coreOf s.cur
    let tn := t.tenant
    (∀ l, CanIssue s t [rs a, rs b, rname d] → amGet s.launches t.launch = some l → Released s t → t.body = none → t.colls = [] →
      t.ctx = 0 → t.ordinal < l.record.slots →
      let g := t.x a
      let op := g.toNat % 8
      let ty := g.toNat / 16 % 8
      op ≤ 5 → (ty = 0 ∨ ty = 1 ∨ ty = 4 ∨ ty = 5) → (3 ≤ op → 4 ≤ ty) → g.toNat / 256 % 4 = 0 →
      let t1 := { if d = 0 then t else t.emptyX d with colls := [d] }
      let one := (l.cores.idxOf core * l.record.slots + t.ordinal, s.cur, d, t.x b)
      (s.rounds = [] → Retires s (exec (.collRed rd rs1 rs2) s) t1 (s.nextPc t) fun u =>
        u.rounds = [(s.nextId, (⟨l.ident, g, 0, [one], none⟩ : Round))]) ∧
      (∀ id r, s.rounds = [(id, r)] → r.launch = l.ident → r.group = g → r.place = 0 → (∀ c ∈ r.contributions, c.2.1 ≠ s.cur) →
        Retires s (exec (.collRed rd rs1 rs2) s) t1 (s.nextPc t) fun u =>
          u.rounds = [(id, { r with contributions := r.contributions ++ [one] })])) ∧
    (let q := (t.x a).toNat % 2 ^ 16
     let h := amGetD (s.tenant tn).queues q {}
     let n := 2 ^ (h.word.toNat / 2 ^ 40 % 4)
     h.word.getLsbD 63 = true → q < (s.tenant tn).gqCount →
      (CanIssue s t [rs a, rs b, rdst d] → 0 < (t.x b).toNat % 256 → (∀ w ∈ t.windows, w.queue ≠ q) → t.windows.length < 4 →
        h.grants = [] →
        Retires s (exec (.gqWin rd rs1 rs2) s)
          ({ t with
              windows := t.windows ++ [(⟨q, (t.x b).toNat % 256, 0, s.nextId⟩ : GqWindow)]
              gqName := if t.gqName = 0 then s.nextId else t.gqName }.setX d 0) (s.nextPc t) fun u =>
            amGetD (u.tenant tn).queues q {} = { h with held := h.held + 1, grants := [s.nextId] }) ∧
      (∀ w, CanIssue s t [rs a, rs b n] → t.windows = [w] → w.queue = q → 0 < w.credits →
        Retires s (exec (.gqPush rs1 rs2) s) { t with windows := [{ w with credits := w.credits - 1 }] } (s.nextPc t) fun u =>
          ∃ p, u.packets = s.packets ++ [p] ∧ p.src = core ∧ p.dst = Config.computeCores + h.word.toNat % 2 ^ 9 ∧
            p.payload = .entry tn q ((List.range n).map fun i => t.x (b + i)) t.gqName h.word) ∧
      (CanIssue s t [rs a, rdst d n] → core = Config.computeCores + h.word.toNat % 2 ^ 9 → h.head < h.tail → h.waiters = [] →
        let k := (storeBase core + h.word.toNat / 2 ^ 16 % 2 ^ 18 + 8 * n * (h.head % 2 ^ (h.word.toNat / 2 ^ 36 % 16))) / 8
        h.word.toNat / 2 ^ 16 % 2 ^ 18 + 8 * n * (h.head % 2 ^ (h.word.toNat / 2 ^ 36 % 16) + 1) ≤ Config.optStoreBytes →
        (∀ i, i < n → s.mem.poisoned (k + i) = false) → s.ownBefore core s.cur k = [] →
        (∀ i, i < n → sbTouching (s.core core).sb (k + i) = []) →
        Retires s (exec (.gqPop rd rs1) s) (t.setXs d ((List.range n).map fun i => s.mem.word (k + i))) (s.nextPc t) fun u =>
          amGetD (u.tenant tn).queues q {} = { h with head := h.head + 1, used := h.used - 1 } ∧ u.mem = s.mem)) ∧
    (∀ ws, CanIssue s t [rs a, rdst d] → OwnWords s (t.x a) 3 ws → (t.x a).toNat % 32 = 0 →
      (t.x a).toNat + 32 ≤ Config.ownBase + storeSize core →
      let base := (ws.getD 0 0).toNat
      let len := (ws.getD 1 0).toNat
      let dst := (ws.getD 2 0).toNat
      base % 2 ^ 16 = 0 → len % 2 ^ 16 = 0 → dst % 2 ^ 16 = 0 → 2 ^ 16 ≤ len → len ≤ 2 ^ 36 → base + len ≤ dst ∨ dst + len ≤ base →
      (destOk s tn (len / 4096) dst (dst + len) = false →
        exec (.cairnOpen rd rs1) s = .next (s.trapAt s.cur 0x01 s.latch.tval t.pc)) ∧
      (destOk s tn (len / 4096) dst (dst + len) = true →
      ((s.tenant tn).epoch ≠ none →
        exec (.cairnOpen rd rs1) s = .next (s.retires (t.setX d 0x8000000000000001#64) (s.nextPc t))) ∧
      ((s.tenant tn).epoch = none → Released s t →
        let bit := !(s.tenant tn).epochBit
        Retires s (exec (.cairnOpen rd rs1) s) (t.setX d (if bit then 1 else 0)) (s.nextPc t) fun u =>
          (u.tenant tn).epochBit = bit ∧ u.mem = s.mem ∧ ∃ e, (u.tenant tn).epoch = some e ∧ e.base = base ∧ e.len = len ∧ e.dst = dst ∧
            e.core = core ∧ e.captured = [] ∧ e.byWrites = 0 ∧ e.failed = false))) ∧
    (CanIssue s t [rs a, rdst d] →
      ((s.tenant tn).epoch = none →
        exec (.cairnClose rd rs1) s = .next (s.retires (t.setX d 0x8000000000000001#64) (s.nextPc t))) ∧
      (∀ e, (s.tenant tn).epoch = some e → (t.x a).getLsbD 0 = true ∨ e.failed = true ∨ (∀ g ∈ e.granules, g ∈ e.captured) →
        exec (.cairnClose rd rs1) s = .next ((s.setTenant tn { s.tenant tn with epoch := none }).retires (t.setX d
          (if (t.x a).getLsbD 0 then 0x8000000000000003#64 else if e.failed then 0x8000000000000002#64
           else BitVec.ofNat 64 (min (2 ^ 32 - 1) e.byWrites))) (s.nextPc t))))

/-- R407, R445, R446: the commands of the base camp controller. -/
def Obligations.TenantCommands : Prop :=
  (∀ (s : State) (t : Nat) (sroot sentry swdog : Word),
    (s.obeys → t ≤ 15 → amGet s.tenants t = none →
      exec (.createTenant t sroot sentry swdog) s = .next (s.setTenant t { sroot, sentry, swdog }).commandDone) ∧
    (s.tripped = false → s.firmware = false → s.resetting = none →
      exec (.createTenant t sroot sentry swdog) s = .next { s with latch := {}, mailboxStatus := 3, mailboxCode := 0xFF })) ∧
  (∀ (s : State) (t : Nat) (x : Tenant) (cl : BitVec 128) (sl : BitVec 512),
    s.obeys → t ≤ 15 → amGet s.tenants t = some x →
    (∀ y ∈ s.tenants, y.1 ≠ t → y.2.clusters &&& cl = 0 ∧ y.2.slices &&& sl = 0) →
    x.clusters &&& ~~~cl = 0 → x.slices &&& ~~~sl = 0 → s.idleOn (coreIn (x.clusters ^^^ cl) (x.slices ^^^ sl)) = true →
    ∃ u, exec (.assign t cl sl) s = .next u ∧ u.mailboxStatus = 2 ∧ (u.tenant t).clusters = cl ∧ (u.tenant t).slices = sl ∧
      (∀ a, a < Config.hbmEnd → u.mem.byte a = s.mem.byte a) ∧
      ∀ core a, core < 16384 → cl.getLsbD (core / 128) = true → x.clusters.getLsbD (core / 128) = false →
        storeBase core ≤ a → a < storeBase core + storeSize core → u.mem.byte a = 0) ∧
  (∀ (s : State) (set : Word) (master : BitVec 7) (v : BitVec 32) (y : Tenant),
    let w := set.toNat
    let named (x : Nat) : Prop := (x < 512 ∧ w % 2 = 1) ∨ (x = 512 ∧ w / 2 % 2 = 1) ∨ (x = 513 ∧ w / 4 % 2 = 1) ∨
      (514 ≤ x ∧ x < 538 ∧ w / 8 % 2 = 1) ∨ (x = w / 2 ^ 16 % 512 ∧ w / 16 % 2 = 1) ∨ (x = 514 + w / 2 ^ 32 % 32 ∧ w / 32 % 2 = 1)
    s.obeys → amGet s.tenants (master.toNat / 8) = some y → master.toNat % 8 ≠ 7 → w % 64 ≠ 0 → w / 2 ^ 32 % 32 < 24 →
    ∃ u, exec (.writeAccessTableWord set master v) s = .next u ∧ u = { s with latch := {}, access := u.access, mailboxStatus := 2, mailboxCode := 0 } ∧
      (∀ x, named x → amGet u.access (master.toNat * 1024 + x) = some v) ∧
      ∀ k, (∀ x, named x → k ≠ master.toNat * 1024 + x) → amGet u.access k = amGet s.access k) ∧
  (∀ (s : State) (t : Nat) (x : Tenant), s.obeys → t ≤ 15 → amGet s.tenants t = some x →
    (∀ cls v, cls ≤ 15 → exec (.writeRouteEntry t cls v) s = .next (s.setTenant t { x with routes := amPut x.routes cls v }).commandDone) ∧
    (∀ q, q ≤ 4095 → (s.queue q).en = false →
      exec (.bindQueue q t) s = .next (s.setQueue q { s.queue q with tenant := t }).commandDone) ∧
    (∀ range hb base len cls, range ≤ 15 → cls ≤ 15 → hb % 2 ^ 30 = 0 → base % 2 ^ 30 = 0 → len % 2 ^ 30 = 0 → 0 < len →
      base + len ≤ Config.hbmEnd →
      (∀ r ∈ s.hdm, r.1 ≠ range → (hb + len ≤ r.2.hostBase ∨ r.2.hostBase + r.2.len ≤ hb) ∧
        (base + len ≤ r.2.base ∨ r.2.base + r.2.len ≤ base)) →
      exec (.setHdmRange range hb base len t cls) s = .next { s with hdm := amPut s.hdm range ⟨hb, base, len, t, cls⟩ }.commandDone) ∧
    (∀ base units, base % 2 ^ 21 = 0 → x.blocks = [] → exec (.setBivouac t base units) s =
      .next (s.setTenant t { x with sbiv := BitVec.ofNat 64 base, sbivlen := BitVec.ofNat 64 (units % 2 ^ 32) }).commandDone) ∧
    (∃ u, exec (.resetTenant t) s = .next u ∧
      (u.mailboxStatus = 1 ∧ u.resetting = some t ∧ (u.tenant t).frozen = true ∨
       u.mailboxStatus = 2 ∧ u.resetting = none ∧ (u.tenant t).frozen = false ∧ (u.tenant t).handles = [] ∧
         ∀ slot y, u.thread? slot = some y → y.tenant ≠ t)) ∧
    ((∀ o ∈ s.octets, ∀ j ∈ o.2.haul ++ o.2.matrix, j.tenant ≠ t) → (∀ p ∈ s.threads, p.2.tenant ≠ t) →
      (∀ c ∈ s.cores, s.assigned c.1 t = true → c.2.sb = []) → s.flights = [] → s.packets = [] →
      ∃ u, exec (.resetTenant t) s = .next u ∧ u.mailboxStatus = 2 ∧ u.mailboxCode = 0 ∧ u.resetting = none ∧
        (u.tenant t).frozen = false ∧ (u.tenant t).handles = [] ∧ ∀ l ∈ u.launches, l.2.record.tenant ≠ t) ∧
    ((∀ l ∈ s.launches, l.2.record.tenant ≠ t) → (∀ p ∈ s.threads, p.2.tenant ≠ t) → (∀ d ∈ s.dies, ∀ r ∈ d.2.inbox, r.tenant ≠ t) →
      s.idleOn (coreIn x.clusters x.slices) = true →
      ∃ u, exec (.destroyTenant t) s = .next u ∧ u.mailboxStatus = 2 ∧ amGet u.tenants t = none)) ∧
  (∀ (s : State) (t : Nat) (x : Tenant), s.tripped = false → s.resetting = some t → amGet s.tenants t = some x → s.resetReady t = true →
    ∃ u, exec (.resetTenant t) s = .next u ∧ u.mailboxStatus = 2 ∧ u.mailboxCode = 0 ∧ u.resetting = none ∧
      (u.tenant t).frozen = false ∧ (u.tenant t).handles = [] ∧ (∀ slot y, u.thread? slot = some y → y.tenant ≠ t) ∧
      (∀ l ∈ u.launches, l.2.record.tenant ≠ t) ∧
      ∀ core a, core < 16384 → s.assigned core t = true → storeBase core ≤ a → a < storeBase core + storeSize core → u.mem.byte a = 0) ∧
  (∀ (s : State) (watts : Nat), s.obeys → 500 ≤ watts → watts ≤ 3600 →
    exec (.setPowerLimit watts) s = .next { s with powerLimit := watts }.commandDone) ∧
  (∀ (s : State) (slot : Nat) (t : Thread), s.obeys → s.thread? slot = some t → s.ropeOf slot = none →
    (t.inFlight = false → s.replyComing slot = false → s.activationRuns slot = false →
      ∃ u t1, exec (.haltOrRelease false slot false) s = .next u ∧ u.mailboxStatus = 2 ∧ u.thread? slot = some t1 ∧ t1.halted = true ∧
        t1.regs = t.regs ∧ (t1.run = .parked .resume ∨ t1.run = .parked .activation)) ∧
    (∀ a, t.halted = true → s.launchStopped t.launch = false → t.pend = none → (s.core (coreOf slot)).act = none →
      (s.core (coreOf slot)).actQueue = [a] → a.target = some slot →
      ∃ u t1, exec (.haltOrRelease false slot true) s = .next u ∧ u.mailboxStatus = 2 ∧ u.thread? slot = some t1 ∧
        t1.halted = false ∧ t1.run = .ready ∧ t1.pc = a.sepc ∧ t1.regs = t.regs)) ∧
  (∀ (s : State) (i : Nat) (v : Word), s.obeys → i < 5 ∨ 8 ≤ i ∧ i < 16 →
    exec (.registerWrite (.mailboxWord i) v) s = .next { s with latch := {}, mailboxWords := amPut s.mailboxWords i v }) ∧
  (∀ (s : State) (c : Word), s.obeys → amGet s.mailboxWords 0 = some c → c.toNat % 256 = 0 ∨ 11 < c.toNat % 256 →
    exec (.registerWrite (.mailboxWord 5) 1) s = .next { s with latch := {}, mailboxStatus := 3, mailboxCode := 1 }) ∧
  (∀ (s : State) (c : Command), s.tripped = false → s.firmware = true → s.commandOf = some c →
    exec (.registerWrite (.mailboxWord 5) 1) s =
      .next { s with latch := {}, commands := s.commands ++ [c], mailboxStatus := 1, mailboxCode := 0 }) ∧
  (∀ (s : State) (q t : Nat), s.tripped = false → s.firmware = true → s.resetting.isSome ∨ s.commands ≠ [] →
    exec (.bindQueue q t) s = .next { s with latch := {}, commands := s.commands ++ [.bindQueue q t] })

/-- R402 to R405, R412 to R418: the package's outside. A host's or peer's request reaches its home where none waits there (State.unitAt);
the tenant configuration's layout is the model's choice (notes/assumptions/92.md). -/
def Obligations.HostAndPackage : Prop :=
  (∀ s : State, ∃ u, exec .packageReset s = .next u ∧
    u = { State.reset with
      flash := s.flash, fuses := s.fuses, firmware := u.firmware, mailboxStatus := if u.firmware then 0 else 3
      mailboxCode := if u.firmware then 0 else 0xFF
      fresh := s.fresh, agenda := s.agenda, focus := s.focus, cur := s.cur, slow := s.slow } ∧
    (u.firmware = true ↔ Config.sha256 (bitsBytes 64 s.flash.key) = s.fuses.keyHash ∧
      Config.slhVerify s.flash.key (Config.sha256 (wordBytes (BitVec.ofNat 64 s.flash.version) ++ s.flash.image)) s.flash.sig = true ∧
      s.fuses.rollback ≤ s.flash.version)) ∧
  ∀ s : State, s.tripped = false →
    (∃ u, exec .cxlLinkReset s = .next u ∧ u = { s with latch := {}, hostReply := [], linksDown := u.linksDown } ∧
      ∀ l, l ∈ u.linksDown ↔ l ∈ s.linksDown ∧ l ≠ .cxl) ∧
    (∀ w : Nat,
      let g := if s.powerLimit < w then min 7 (s.gating + 1) else if 100 * w < 95 * s.powerLimit then s.gating - 1 else s.gating
      exec (.powerMeasure w) s = .next { s with latch := {}, gating := g }) ∧
    exec .thermalThrottle s = .next { s with latch := {}, gating := 7 } ∧
    exec .thermalTrip s = .next { s with latch := {}, tripped := true } ∧
    (∀ k, (k ∉ s.mem.upsets → exec (.patrolScrub k) s = .next s.between) ∧
      (k ∈ s.mem.upsets → exec (.patrolScrub k) s =
        .next { s with latch := {}, mem := s.mem.poison k, checks := s.checks ++ [⟨1, 8 * k⟩] })) ∧
    (∀ q tail, q ≤ 4095 → s.queueHeld q = false → exec (.queueDoorbell q tail) s =
      .next { (s.setQueue q { s.queue q with tail := tail.toNat, bells := (s.queue q).bells ++ [(tail.toNat, s.nextId)] }) with
        latch := {}, nextId := s.nextId + 1 }) ∧
    (∀ q tail, q ≤ 4095 → s.resetting = some (s.queue q).tenant →
      exec (.queueDoorbell q tail) s = .next { s with latch := {}, heldBells := s.heldBells ++ [(q, tail)] }) ∧
    (∀ q v, q ≤ 4095 →
      let ring (t : Nat) (a n : Nat) : Prop := ∃ r ∈ s.hdm, r.2.tenant = t ∧ r.2.base ≤ a ∧ a + n ≤ r.2.base + r.2.len
      let rlog := v.toNat % 16
      let clog := (s.queue q).word1.toNat % 16
      let t := (s.queue q).tenant
      let ok : Prop := 4 ≤ rlog ∧ rlog ≤ 12 ∧ 4 ≤ clog ∧ ring t (v.toNat / 2 ^ 12 % 2 ^ 36 * 4096) (512 * 2 ^ rlog) ∧
        ring t ((s.queue q).word1.toNat / 2 ^ 4 % 2 ^ 44 * 16) (16 * 2 ^ clog)
      ∃ h, exec (.queueEnable q v) s = .next (s.setQueue q h).between ∧
        h = { s.queue q with word0 := v &&& 0x0000FFFFFFFFF00F#64, en := h.en } ∧ (h.en = true ↔ v.getLsbD 63 = true ∧ ok)) ∧
    (∀ q v, q ≤ 4095 →
      exec (.registerWrite (.queueCompletion q) v) s =
        .next (s.setQueue q { s.queue q with word1 := v &&& 0x0000FFFFFFFFFFFF#64 }).between ∧
      exec (.registerWrite (.queueChead q) v) s = .next (s.setQueue q { s.queue q with chead := v.toNat % 2 ^ 32 }).between) ∧
    (∀ a r pa, a % 8 = 0 → s.firmware = true → s.hdmOf a = some (r, pa) → pa % 8 = 0 →
      (∀ v, usablePa pa = true → s.accessOk (sliceOf pa) (r.tenant * 8 + 4) r.cls 1 = true → s.mem.poisoned (pa / 8) = false →
        s.between.unitAt epCol (pa / 8) = some v →
        exec (.hostRead a 8) s = .next { v with hostReply := [(s.mem.word (pa / 8), false)] }) ∧
      (∀ v, usablePa pa = true → s.accessOk (sliceOf pa) (r.tenant * 8 + 4) r.cls 2 = true → NoEpoch s →
        s.between.unitAt epCol (pa / 8) = some v → ∀ bytes : List Byte, bytes.length = 8 →
        ∃ u, exec (.hostWrite a bytes) s = .next u ∧ (∀ i, i < 8 → u.mem.byte (pa + i) = bytes.getD i 0) ∧
          (∀ x, x / 8 ≠ pa / 8 → u.mem.byte x = s.mem.byte x) ∧ ∀ k, u.mem.full k = s.mem.full k) ∧
      (s.accessOk (sliceOf pa) (r.tenant * 8 + 4) r.cls 1 = false →
        ∃ u w, exec (.hostRead a 8) s = .next u ∧ u.hostReply = [(w, true)] ∧ u.checks = s.checks ++ [⟨5, a⟩] ∧ u.mem = s.mem) ∧
      (s.accessOk (sliceOf pa) (r.tenant * 8 + 4) r.cls 2 = false → ∀ bytes : List Byte, bytes.length = 8 →
        exec (.hostWrite a bytes) s = .next { s with latch := {}, checks := s.checks ++ [⟨5, a⟩] })) ∧
    (∃ u ws, exec .spdmCertificate s = .next u ∧ u = { s with latch := {}, hostReply := u.hostReply, fresh := s.fresh + 1 } ∧
      u.hostReply = if s.firmware then (bitsWords 8 (Config.slhKey s.fuses.seed) ++ ws).map fun w => (w, false) else []) ∧
    (let m := [Config.sha256 Config.bootRom, Config.sha256 (wordBytes (BitVec.ofNat 64 s.flash.version) ++ s.flash.image),
        Config.sha256 (bitsBytes 32 s.fuses.keyHash ++ wordBytes (BitVec.ofNat 64 s.fuses.rollback) ++ bitsBytes 32 s.fuses.seed),
        Config.sha256 (s.tenantConfig.flatMap wordBytes)].flatMap (bitsWords 4)
     ∃ u, exec .spdmMeasurements s = .next u ∧ u = { s with latch := {}, hostReply := u.hostReply, fresh := s.fresh + 1 } ∧
      u.hostReply = if s.firmware then
        (m ++ bitsWords 3724 (Config.slhSign s.fuses.seed (Config.sha256 (m.flatMap wordBytes)))).map fun w => (w, false) else []) ∧
    (∀ q, q ≤ 4095 → execBarRead (64 * q + 16) s = .next { s with latch := {}, hostReply := [(BitVec.ofNat 64 (s.queue q).tail, false)] }) ∧
    execBarRead 0x40028 s =
      .next { s with latch := {}, hostReply := [(BitVec.ofNat 64 (s.mailboxCode * 256 + s.mailboxStatus), false)] } ∧
    (∀ port tn cls pa, usablePa pa = true → pa % 8 = 0 →
      (s.accessOk (514 + port) (tn * 8 + 5) cls 1 = true → s.accessOk (sliceOf pa) (tn * 8 + 5) cls 1 = true →
        s.mem.poisoned (pa / 8) = false → ∀ v, s.between.unitAt epCol (pa / 8) = some v →
        exec (.peerAccess port tn cls .read pa) s =
          .next { v with outside := s.outside ++ [⟨some port, pa, .answer (s.mem.word (pa / 8)), cls, tn⟩] }) ∧
      (s.accessOk (514 + port) (tn * 8 + 5) cls 2 = true → s.accessOk (sliceOf pa) (tn * 8 + 5) cls 2 = true → NoEpoch s → ∀ v x,
        s.between.unitAt epCol (pa / 8) = some x → ∃ u, exec (.peerAccess port tn cls (.write 0xFF#8 v) pa) s = .next u ∧ u.mem.word (pa / 8) = v ∧
          (∀ x, x / 8 ≠ pa / 8 → u.mem.byte x = s.mem.byte x) ∧ ∀ k, u.mem.full k = s.mem.full k)) ∧
    (∀ link, exec (.linkReplay link) s = .next s.between) ∧
    (∀ link, ∃ u, exec (.linkFailure link) s = .next u ∧ link ∈ u.linksDown ∧ u.mem = s.mem ∧ ∃ k, u.checks = s.checks ++ [⟨6, k⟩]) ∧
    (∀ group package, ∃ u, exec (.peerGroupLeave group package) s = .next u ∧ u.mem = s.mem ∧
      (∀ g ∈ u.peerGroups, g.1 = group → package ∉ g.2) ∧
      ∀ r ∈ u.rounds, ctlScope r.2.group = 2 → ctlPg r.2.group = group → r.2.failed.isSome = true)

/-- R303 to R309, R318, R393, R394: the launch unit's steps. -/
def Obligations.LaunchUnit : Prop :=
  ∀ s : State, s.tripped = false →
    (∀ q h tn x, s.firmware = true → s.queues = [(q, h)] → h.en = true → h.tenant = tn → amGet s.tenants tn = some x →
      s.resetting = none → h.head ≠ h.tail →
      (h.ctail + 2 ^ 32 - h.chead) % 2 ^ 32 + h.reserved + 2 ≤ 2 ^ (h.word1.toNat % 16) → s.mem.upsets = [] →
      let slot := h.head % 2 ^ (h.word0.toNat % 16)
      let k := (h.word0.toNat / 2 ^ 12 % 2 ^ 36 * 4096 + 512 * slot) / 8
      let r : Record := {
        tenant := tn, spawner := none, queue := some (q, h.head % 2 ^ 16), prioCap := 3
        words := (List.range (8 + min 56 ((s.mem.word (k + 2)).toNat / 2 ^ 32 % 64))).map fun i => s.mem.word (k + i) }
      (∀ i, i < r.words.length → s.ringWord h (8 * (k + i)) 1 = true ∧ s.mem.poisoned (k + i) = false) →
      ∃ u, exec .dispatchRecord s = .next u ∧ (u.queue q).head = (h.head + 1) % 2 ^ 32 ∧ (u.queue q).reserved = h.reserved + 2 ∧
        (u.die (rectDie r.rect)).inbox = (s.die (rectDie r.rect)).inbox ++ [r] ∧ u.mem = s.mem) ∧
    (∀ die r rest, (s.die die).inbox = r :: rest → rectDie r.rect = die → (∀ c ∈ s.refusals r, ¬ c.2) →
      let ident := die * 2 ^ 29 + (s.die die).seq
      ∃ u l, exec (.launchAccept die) s = .next u ∧ (u.die die).inbox = rest ∧ (u.die die).seq = ((s.die die).seq + 1) % 2 ^ 29 ∧
        (u.die die).launches = (s.die die).launches ++ [ident] ∧ amGet u.launches ident = some l ∧ l.record = r ∧ l.state = 0 ∧
        l.cores = coresOf r.rect r.opt) ∧
    (∀ lid l, amGet s.launches lid = some l → l.state = 0 → l.deps = [some 0, some 0] → ropeCrosses l.record = false →
      exec (.launchEligible lid) s = .next (s.setLaunch lid { l with state := 1 }).between) ∧
    (∀ lid l v a, amGet s.launches lid = some l → l.state = 0 → l.deps = [some v, some 0] → v ≠ 0 →
      (∀ w ∈ s.watches, ¬ (w.slot = none ∧ w.launch = lid)) → s.watchFull (a / 8) = false →
      s.device l.record.tenant (l.record.w 3).toNat .wait = .ok a → s.mem.poisoned (a / 8) = false →
      let now := s.mem.word (a / 8)
      ∃ u, exec (.dependenceReread lid) s = .next u ∧ amGet u.launches lid = some { l with deps := [some now, some 0] } ∧
        u.watches = s.watches ++ (if now = 0 then [] else [⟨none, lid, 0, a / 8⟩]) ∧ u.mem = s.mem) ∧
    (∀ die lid l fit b a, (s.die die).launches = [lid] → amGet s.launches lid = some l → l.ident = lid → l.state = 1 →
      (s.tenant l.record.tenant).frozen = false → s.fitLaunch l = some fit →
      (s.tenant l.record.tenant).freeRun ((64 + 8 * l.record.nargs + 511) / 512) = some b →
      let va := (s.tenant l.record.tenant).sbiv.toNat + 512 * b
      (∀ i, i < 8 + l.record.nargs → s.device l.record.tenant (va + 8 * i) (.device true) = .ok (a + 8 * i)) → NoEpoch s →
      ∃ u l1, exec (.launchPlace die) s = .next u ∧ amGet u.launches lid = some l1 ∧ l1.state = 2 ∧ l1.placedAt = s.cycle ∧
        l1.copy = BitVec.ofNat 64 va ∧ FirstFit s l fit ∧ l1.starting = fit.map (fun f => (f.2.1, f.2.2.1, f.2.2.2.1, f.2.2.2.2)) ∧
        (∀ i, i < 8 + l.record.nargs → u.mem.word (a / 8 + i) = l.record.w i) ∧
        ∀ core ∈ l.cores, (u.core core).fetch = []) ∧
    (∀ lid l core n k base, s.launches = [(lid, l)] → l.ident = lid → l.starting = [(core, n, k, base)] → n < 64 →
      l.record.rope = 1 →
      let r := l.record
      let top := Config.ownBase + storeSize core
      ∃ u t, exec (.threadStart (core * 64 + n)) s = .next u ∧ u.thread? (core * 64 + n) = some t ∧ t.pc = r.entry ∧ t.run = .ready ∧
        t.base = base ∧ t.limit = r.window ∧ t.launch = lid ∧ t.tenant = r.tenant ∧ t.ordinal = k ∧ t.level = .user ∧
        t.fcsr = 0 ∧ t.pw = 0 ∧ t.xtvec = 0 ∧ t.xcause = 0 ∧ t.ivec = 0 ∧ t.instret = 0 ∧
        t.sbound = (if r.stk = 0 then 0 else BitVec.ofNat 64 (top - 16 * r.stk * (k + 1))) ∧ (∀ i, (t.reg i).full = true) ∧
        (∀ i, i < r.window → t.x i =
          if i = 2 then (if r.stk = 0 then 0 else BitVec.ofNat 64 (top - 16 * r.stk * k)) else if i = 3 then r.w 6
          else if i = 4 then l.copy else if i = 5 then BitVec.ofNat 64 (l.cores.idxOf core * r.slots + k)
          else if i = 6 then BitVec.ofNat 64 (l.cores.length * r.slots)
          else if 10 ≤ i ∧ i < 18 ∧ i - 10 < r.nargs then r.w (8 + (i - 10)) else 0) ∧
        u.launches = [(lid, { l with starting := [] })]) ∧
    (∀ lid l a, amGet s.launches lid = some l → l.ident = lid → l.state = 2 → l.seqn = none → s.launchOver l = true →
      l.record.queue = none → l.record.w 5 ≠ 0 → s.device l.record.tenant (l.record.w 5).toNat .atomic = .ok a →
      s.mem.poisoned (a / 8) = false → NoEpoch s →
      ∃ u, exec (.launchComplete lid) s = .next u ∧ amGet u.launches lid = none ∧ u.mem.word (a / 8) = s.mem.word (a / 8) - 1 ∧
        ∀ x, x / 8 ≠ a / 8 → u.mem.byte x = s.mem.byte x) ∧
    (∀ slot t p v, s.thread? slot = some t → t.pend = some p → t.ports = [] → p.mode = 9 → p.asm = .scalar 8 0 false → p.keys = [0] →
      p.got = [(0, v)] → p.bad = [] → p.pops = [] → s.replyLate slot = false →
      exec (.spawnReply slot) s = .next (s.setThread slot (((t.setX p.rd v).retired p.npc).marked s.cycle [])).between) ∧
    (∀ lid l, amGet s.launches lid = some l → l.state = 2 → l.seqn = none → (s.tenant l.record.tenant).frozen = false →
      l.record.queue = none → l.record.persist = false → l.record.deadline ≠ 0 →
      1024 * l.record.deadline < l.heldFor + (s.cycle - l.placedAt) →
      ∃ u, exec (.watchdogFire lid) s = .next u ∧ (u.tenant l.record.tenant).frozen = true ∧
        ∀ slot t, u.thread? slot = some t → t.tenant = l.record.tenant → t.frozen = true)

/-- R175, R310, R340 to R354, R380. -/
def Obligations.ThreadEvents : Prop :=
  ∀ s : State, s.tripped = false →
    (∀ slot t p v, s.packets = [] → s.thread? slot = some t → t.run = .waiting .reply → t.pend = some p → t.ports = [] → p.mode = 1 →
      p.asm = .scalar 8 0 false → p.keys = [farKey 0] → p.got = [] → p.bad = [] → p.pops = [] →
      (s.replyLate slot = false →
        exec (.memoryReply slot v) s = .next (s.setThread slot (((t.setX p.rd v).retired p.npc).marked s.cycle [])).between) ∧
      (s.replyLate slot = true → exec (.memoryReply slot v) s = .next s.between)) ∧
    (∀ slot t p q k v w, s.packets = [q] → q.landed = true → q.payload = .reply slot [(k, v)] none → k < farKey 0 →
      s.thread? slot = some t → t.run = .waiting .reply → t.pend = some p → t.ports = [] → p.mode = 1 → p.asm = .scalar 8 0 false →
      p.keys = [k] → p.got = [] → p.bad = [] → p.pops = [] → s.replyLate slot = false →
      ∃ u, exec (.memoryReply slot w) s = .next u ∧ u.packets = [] ∧
        u.thread? slot = some (((t.setX p.rd v).retired p.npc).marked s.cycle []) ∧ u.mem = s.mem) ∧
    (∀ h c age t, s.returns = [(h, c, age)] → c + 64 ≤ s.cycle → s.slow = false → s.thread? h.slot = some t →
      s.homeAllows t.tenant (coreOf h.slot) h.cls (HomeOp.level (.sync h.kind h.key h.data)) h.key = true → s.holdFull h.key = false → s.mem.full h.key = decide (h.kind = 2) →
      ∃ u, exec (.holdRetry h.slot) s = .next u ∧ u.returns = [] ∧ u.holds = s.holds ++ [h] ∧ u.mem = s.mem) ∧
    (∀ slot t c, s.thread? slot = some t → t.run = .waiting c → c ≠ .reply → c ≠ .partners → t.frozen = false → s.clear slot t c = true →
      exec (.threadWake slot) s = .next (s.setThread slot ({ t with run := .ready }.marked s.cycle [])).between) ∧
    (∀ p slot reg v tn sender word t, s.packets = [p] → p.payload = .message (.reg slot reg v) tn sender word → p.landed = true →
      s.assigned (coreOf slot) tn = true → s.thread? slot = some t → t.tenant = tn → slot % 64 ≠ 63 → 0 < reg → reg < t.limit →
      (t.reg reg).full = false → (s.core (coreOf slot)).msgs = [] → t.waitingDeliveries = [] → t.frozen = false →
      t.took s.cycle reg = false →
      ∃ u, exec (.messageArrival p.ident) s = .next u ∧ u.packets = [] ∧
        u.thread? slot = some ((t.setX reg v).marked s.cycle [reg]) ∧ u.mem = s.mem) ∧
    (∀ core w slot reg v t, (s.core core).msgs = [w] → w.msg = .reg slot reg v → s.thread? slot = some t → t.frozen = false →
      (t.reg reg).full = false → 0 < reg → t.took s.cycle reg = false →
      (∀ p ∈ s.threads, coreOf p.1 = core → p.2.waitingDeliveries = []) →
      ∃ u, exec (.registerDelivery core 0) s = .next u ∧ (u.core core).msgs = [] ∧
        u.thread? slot = some ((t.setX reg v).marked s.cycle [reg])) ∧
    (∀ core w c i n k task, (s.core core).msgs = [w] → w.msg = .dec c i n → (s.core core).counter i = k → k.state = 1 →
      k.task = some task → task.tenant = w.tenant → (s.core core).decAt ≠ some s.cycle → s.between.armsNext core = false →
      (n < k.count → ∃ u, exec (.counterDecrement core) s = .next u ∧ (u.core core).msgs = [] ∧
        (u.core core).counter i = { k with count := k.count - n } ∧ (u.core core).decAt = some s.cycle ∧ u.mem = s.mem) ∧
      (k.count ≤ n → (s.core core).readyQ.length < 16 → (s.core core).taskSpill = [] →
        ∃ u, exec (.counterDecrement core) s = .next u ∧ (u.core core).msgs = [] ∧
          (u.core core).counter i = { k with count := 0, surplus := k.surplus || decide (k.count < n), state := 2 } ∧
          (u.core core).readyQ = (s.core core).readyQ ++ [{ task with arrived := s.nextId }] ∧ u.mem = s.mem)) ∧
    (∀ core, (s.core core).decAt = some s.cycle ∨ s.between.armsNext core = true →
      exec (.counterDecrement core) s = .next s.between) ∧
    (∀ p, s.packets = [p] → p.returned = true → p.arrived + 64 ≤ s.cycle →
      let q := { p with returned := false, arrived := s.cycle, came := s.cycle }
      let again := if s.slow && !crossbar p.src p.dst then s.queueAt q (routerOf p.src) 0 else q
      (∀ m tn x word, p.payload = .message m tn x word → exec (.messageRetry p.ident) s = .next { s with latch := {}, packets := [again] }) ∧
      (∀ t core, p.payload = .context t core → exec (.arrivalResend p.ident) s = .next { s with latch := {}, packets := [again] })) ∧
    (∀ core task l n b, (s.core core).readyQ = [task] → (s.core core).arrivals = [] → s.taskRuns task = true →
      amGet s.launches task.launch = some l → l.record.ctx = 0 → s.roomFor core l.record.window = some (n, b) →
      ∃ u t, exec (.taskStart core) s = .next u ∧ (u.core core).readyQ = [] ∧ amGet (u.core core).counters task.counter = none ∧
        u.thread? (core * 64 + n) = some t ∧ t.pc = task.entry ∧ t.run = .ready ∧ t.base = b ∧ t.limit = l.record.window ∧
        t.launch = task.launch ∧ t.tenant = task.tenant ∧ t.level = .user ∧ t.sbound = 0 ∧ (∀ i, (t.reg i).full = true) ∧
        ∀ i, i < l.record.window → t.x i = if i = 3 then l.record.w 6 else if i = 4 then l.copy else if i = 10 then task.arg0
          else if i = 11 then task.arg1 else if i = 12 then BitVec.ofNat 64 task.counter else 0) ∧
    (∀ core w c h a0 a1 caller reg entry own, s.thread? (core * 64 + 63) = none → (s.core core).act = none → (s.core core).actQueue = [] →
      (s.core core).msgs = [w] → w.msg = .call c h a0 a1 caller reg entry own → (s.tenant w.tenant).frozen = false →
      ∃ u t, exec (.handlerStart core) s = .next u ∧ (u.core core).msgs = [] ∧ u.thread? (core * 64 + 63) = some t ∧ t.pc = entry ∧
        t.run = .ready ∧ t.limit = 32 ∧ t.level = .handler caller reg h w.tenant ∧ t.xtvec = 0 ∧ (∀ i, (t.reg i).full = true) ∧
        ∀ i, t.x i = if i = 10 then a0 else if i = 11 then a1 else if i = 12 then slotidOf caller
          else if i = 13 then BitVec.ofNat 64 h else 0) ∧
    (∀ p q t core n b r, s.packets = [p, q] → p.payload = .context t core → q.payload = .registers p.ident r → p.landed = true →
      q.landed = true → (s.core core).arrivalSpill = [] → (∀ x ∈ (s.die (dieOf core)).spillEngine, x.1 ≠ core) →
      s.candidateFits core = false → s.roomFor core t.limit = some (n, b) → s.launchStopped t.launch = false →
      ∃ u x, exec (.traverseLanding p.ident) s = .next u ∧ u.packets = [] ∧ u.thread? (core * 64 + n) = some x ∧ x.run = .ready ∧
        x.base = b ∧ x.pc = t.pc ∧ x.regs = t.regs ∧ x.carried = t.carried) ∧
    (∀ core b t rest, (s.core core).arrivalSpill = (b, t) :: rest → (s.core core).arrivals.length < 8 → s.running t.launch = true →
      (s.core core).taskSpill = [] → (s.die (dieOf core)).spillEngine = [] → (s.core core).counters = [] →
      ∃ u, exec (.bivouacRefill core) s = .next u ∧ (u.core core).arrivalSpill = rest ∧
        (u.core core).arrivals = (s.core core).arrivals ++ [{ t with run := .traversing }] ∧ u.mem = s.mem) ∧
    (∀ slot t ui rest, s.thread? slot = some t → t.uints = ui :: rest → t.shadow = none → t.ivec ≠ 0 → t.ivec.toNat % 4 = 0 →
      t.run = .ready → t.halted = false → t.frozen = false → s.launchStopped t.launch = false → t.pend = none → t.body = none →
      s.ropeOf slot = none → s.replyComing slot = false → t.stepped = false → t.pc.toNat % 4 = 0 →
      ∃ u x, exec (.userInterruptDelivery slot) s = .next u ∧ u.thread? slot = some x ∧ x.pc = t.ivec ∧ x.run = .ready ∧ x.uints = rest ∧
        x.shadow = some ⟨[t.reg 4, t.reg 5, t.reg 6, t.reg 7], t.pc⟩ ∧
        (∀ i, x.reg i = if i = 4 then { val := t.pc } else if i = 5 then { val := ui.ident } else if i = 6 then { val := ui.status }
          else if i = 7 then { val := ui.info } else t.reg i) ∧ u.mem = s.mem)

/-- R97 to R106, R333 to R335. -/
def Obligations.FabricAndBelay : Prop :=
  ∀ s : State, s.tripped = false →
    (∀ p node port reply, s.packets = [p] → p.node = some node → p.depot = none → p.returned = false → p.isReply = reply → s.combines = [] →
      outputPort node (p.next node) = port → .dieLink node port ∉ s.linksDown →
      (p.next node = none → ∀ x e d, p.payload ≠ .ack x e d) →
      let hops : Nat := match p.next node with | some n => if n / 48 = node / 48 then 1 else 2 | none => 1
      ∃ u q, exec (.routerForward node port reply) s = .next u ∧ u.packets = [q] ∧ q.node = p.next node ∧
        q.age = min 1023 (p.age + hops) ∧
        q = { p with node := q.node, age := q.age, arrived := s.cycle, came := s.cycle, port := q.port }) ∧
    (∀ e, s.combines = [e] → e.openedAt + 8 < s.cycle →
      exec (.combineWindowClose e.node e.isReply 0) s = .next { s with latch := {}, combines := [{ e with isOpen := false }] }) ∧
    (∀ p, s.packets = [p] → p.returned = false → p.arrived + 64 ≤ s.cycle → exec (.ageIncrement p.ident) s =
      .next { s with latch := {}, packets := [{ p with age := min 1023 (p.age + 1), arrived := p.arrived + 64 }] }) ∧
    (∀ p node, s.packets = [p] → p.node = some node → p.depot = none → p.returned = false → outputPort node (p.next node) = 5 → node < 384 →
      p.flits ≤ depotRoom → amGetD s.granted (node * 8 + 5) 0 + 4096 < s.cycle →
      exec (.depotSpill node 5) s =
        .next { s with latch := {}, packets := [{ p with depot := some (node, 5) }], flowing := nsDel s.flowing (node * 8 + 5) }) ∧
    (∀ p node port, s.packets = [p] → p.depot = some (node, port) → .dieLink node port ∉ s.linksDown →
      ∃ u, exec (.depotReinject node port) s = .next u ∧ u.packets = [{ p with depot := none, arrived := s.cycle, came := s.cycle }] ∧ u.mem = s.mem) ∧
    (∀ slot t p idx, s.thread? slot = some t → t.pend = some p → t.ports = [] → p.asm = .scalar 8 0 false → p.keys = [0] → p.pops = [] →
      s.replyLate slot = false →
      let cl := clusterOf (coreOf slot)
      let b := (s.cluster cl).barrier idx
      let m := (s.cluster cl).mutex idx
      let e := (s.cluster cl).eventLine idx
      let retired (u : State) (v : Word) : Prop :=
        u.thread? slot = some (((t.setX p.rd v).retired p.npc).marked s.cycle [])
      let released (u : State) (ws : List Nat) (v : Word) : Prop :=
        ∀ x y, x ∈ ws → s.thread? x = some y → u.thread? x = some (y.answered v)
      let p1 : Nat := (b.phase + 1) % 2 ^ 32
      let out : List Nat := (b.waiters.filter (·.phase == b.phase)).map (·.slot)
      let fires (u : State) : Prop := released u out (BitVec.ofNat 64 p1) ∧
        (u.cluster cl).barrier idx = { b with phase := p1, count := 0, early := 0, waiters := b.waiters.filter (·.phase != b.phase),
                                              children := b.children.filter (·.2.2 != b.phase) } ∧
        ∃ ps, u.packets = s.packets ++ ps ∧
          ps.map (·.payload) = (b.children.filter (·.2.2 == b.phase)).map fun k => .parentRelease k.1 k.2.1
      (s.belayAsked slot = some (.barWait idx, none) → s.arrivalOk slot idx = true → b.closing = false → b.count + 1 < b.cfg.toNat % 2 ^ 16 →
        ∃ u, exec (.barrierArriveWait slot idx) s = .next u ∧
          (u.cluster cl).barrier idx = { b with count := b.count + 1, waiters := b.waiters ++ [⟨slot, b.phase⟩] }) ∧
      (s.belayAsked slot = some (.barWait idx, none) → s.arrivalOk slot idx = true → b.closing = false → b.count + 1 = b.cfg.toNat % 2 ^ 16 →
        b.early = 0 → (b.waiters.map (·.slot)).Nodup →
        ∃ u, exec (.barrierArriveWait slot idx) s = .next u ∧
          (b.cfg.getLsbD 41 = false → fires u ∧ u.thread? slot = some (({ t with pend := some { p with phase := b.phase } }).answered
            (BitVec.ofNat 64 p1))) ∧
          (b.cfg.getLsbD 41 = true →
            (u.cluster cl).barrier idx = { b with count := b.count + 1, closing := true, waiters := b.waiters ++ [⟨slot, b.phase⟩] } ∧
            ∃ q tn, u.packets = s.packets ++ [q] ∧ q.payload =
              .childArrival tn (cl / 16 * 16 + b.cfg.toNat / 2 ^ 32 % 2 ^ 4) (b.cfg.toNat / 2 ^ 36 % 2 ^ 5) cl idx)) ∧
      (s.belayAsked slot = some (.barArrive idx, none) → s.arrivalOk slot idx = true → b.closing = false → b.count + 1 < b.cfg.toNat % 2 ^ 16 →
        ∃ u, exec (.barrierArrive slot idx) s = .next u ∧ (u.cluster cl).barrier idx = { b with count := b.count + 1 } ∧
          retired u (BitVec.ofNat 64 b.phase)) ∧
      (s.belayAsked slot = some (.barArrive idx, none) → s.arrivalOk slot idx = true → b.closing = false → b.count + 1 = b.cfg.toNat % 2 ^ 16 →
        b.cfg.getLsbD 41 = false → b.early = 0 → (b.waiters.map (·.slot)).Nodup →
        ∃ u, exec (.barrierArrive slot idx) s = .next u ∧ fires u ∧ retired u (BitVec.ofNat 64 b.phase)) ∧
      (s.belayAsked slot = some (.mutAcquire idx, none) → ∀ o, m.owner = some o →
        ∃ u, exec (.mutexAcquire slot idx) s = .next u ∧
          (o = slot → (u.cluster cl).mutex idx = m ∧ retired u 2) ∧
          (o ≠ slot → (u.cluster cl).mutex idx = { m with waiters := m.waiters ++ [slot] } ∧ u.thread? slot = some t)) ∧
      (s.belayAsked slot = some (.mutAcquire idx, none) → m.owner = none →
        ∃ u, exec (.mutexAcquire slot idx) s = .next u ∧ (u.cluster cl).mutex idx = { m with owner := some slot, abandoned := false } ∧
          retired u 1) ∧
      (s.belayAsked slot = some (.mutTry idx, none) →
        ∃ u, exec (.mutexTry slot idx) s = .next u ∧
          (m.owner = none → (u.cluster cl).mutex idx = { m with owner := some slot, abandoned := false } ∧ retired u 1) ∧
          (∀ o, m.owner = some o → (u.cluster cl).mutex idx = m ∧ retired u 0)) ∧
      (s.belayAsked slot = some (.evWait idx, none) → e.set = true →
        ∃ u, exec (.eventWait slot idx) s = .next u ∧ (u.cluster cl).eventLine idx = { e with set := !e.cfg.getLsbD 0 } ∧
          retired u e.value) ∧
      (s.belayAsked slot = some (.evWait idx, none) → e.set = false →
        ∃ u, exec (.eventWait slot idx) s = .next u ∧ (u.cluster cl).eventLine idx = { e with waiters := e.waiters ++ [slot] } ∧
          u.thread? slot = some t)) ∧
    (∀ slot t p idx v, s.thread? slot = some t → t.pend = some p → t.ports = [] → p.asm = .none → p.keys = [0] → p.pops = [] →
      isOpt (coreOf slot) = false → s.replyLate slot = false → (∀ x ∈ s.threads, x.1 ≠ slot → s.belayAsked x.1 = none) →
      let cl := clusterOf (coreOf slot)
      let b := (s.cluster cl).barrier idx
      let m := (s.cluster cl).mutex idx
      let e := (s.cluster cl).eventLine idx
      let retired (u : State) : Prop := u.thread? slot = some ((t.retired p.npc).marked s.cycle [])
      let released (u : State) (ws : List Nat) (v : Word) : Prop :=
        ∀ x y, x ∈ ws → s.thread? x = some y → u.thread? x = some (y.answered v)
      (s.belayAsked slot = some (.barCfg idx, some v) → (b.waiters.map (·.slot)).Nodup →
        ∃ u, exec (.barrierCfgWrite cl idx v) s = .next u ∧ released u (b.waiters.map (·.slot)) (BitVec.allOnes 64) ∧
          (u.cluster cl).barrier idx = { b with cfg := v &&& 0x3FF3FFFFFFF#64, count := 0, early := 0, closing := false, waiters := [] } ∧
          retired u) ∧
      (s.belayAsked slot = some (.mutRelease idx, some v) → m.owner = some slot →
        ∃ u, exec (.mutexRelease slot idx) s = .next u ∧ retired u ∧
          (m.waiters = [] → (u.cluster cl).mutex idx = { owner := none, abandoned := false, waiters := [] }) ∧
          (∀ w rest, m.waiters = w :: rest → released u [w] 1 ∧
            (u.cluster cl).mutex idx = { owner := some w, abandoned := false, waiters := rest })) ∧
      (s.belayAsked slot = some (.evSet idx, some v) → e.waiters.Nodup →
        ∃ u, exec (.eventSet cl idx v) s = .next u ∧ retired u ∧
          (e.cfg.getLsbD 0 = false → released u e.waiters v ∧
            (u.cluster cl).eventLine idx = { e with set := true, value := v, waiters := [] }) ∧
          (e.cfg.getLsbD 0 = true → e.waiters = [] → (u.cluster cl).eventLine idx = { e with set := true, value := v }) ∧
          (∀ w rest, e.cfg.getLsbD 0 = true → e.waiters = w :: rest → released u [w] v ∧
            (u.cluster cl).eventLine idx = { e with set := false, value := v, waiters := rest }) ∧
          (e.cfg.getLsbD 1 = false → u.packets = s.packets) ∧
          (e.cfg.getLsbD 1 = true → ∃ q, u.packets = s.packets ++ [q] ∧ q.payload =
            .forwardedSet (cl / 16 * 16 + e.cfg.toNat / 2 ^ 4 % 2 ^ 4) (e.cfg.toNat / 2 ^ 8 % 2 ^ 6) v)) ∧
      (s.belayAsked slot = some (.evClear idx, some v) →
        ∃ u, exec (.eventClear cl idx) s = .next u ∧ (u.cluster cl).eventLine idx = { e with set := false } ∧ retired u) ∧
      (s.belayAsked slot = some (.evCfg idx, some v) →
        ∃ u, exec (.eventCfgWrite cl idx v) s = .next u ∧ (u.cluster cl).eventLine idx = { e with cfg := v &&& 0x3FF3#64 } ∧ retired u)) ∧
    (∀ p cl i, s.packets = [p] → p.landed = true →
      let b := (s.cluster cl).barrier i
      let e := (s.cluster cl).eventLine i
      (∀ tn fc fi, p.payload = .childArrival tn cl i fc fi → (s.tenant tn).clusters.getLsbD cl = true → b.closing = false →
        b.count + 1 < b.cfg.toNat % 2 ^ 16 →
        ∃ u, exec (.barrierChildArrival p.ident) s = .next u ∧ u.packets = [] ∧
          (u.cluster cl).barrier i = { b with count := b.count + 1, children := b.children ++ [(fc, fi, b.phase)] }) ∧
      (p.payload = .parentRelease cl i → b.closing = true → b.early < b.cfg.toNat % 2 ^ 16 → (b.waiters.map (·.slot)).Nodup →
        ∃ u, exec (.barrierParentRelease p.ident) s = .next u ∧
          (∀ x y, x ∈ (b.waiters.filter (·.phase == b.phase)).map (·.slot) → s.thread? x = some y →
            u.thread? x = some (y.answered (BitVec.ofNat 64 ((b.phase + 1) % 2 ^ 32)))) ∧
          u.packets.map (·.payload) = ((b.children.filter (·.2.2 == b.phase)).map fun k => .parentRelease k.1 k.2.1) ∧
          (u.cluster cl).barrier i = { b with
            phase := (b.phase + 1) % 2 ^ 32, count := b.early, early := 0, closing := false
            waiters := b.waiters.filter (·.phase != b.phase), children := b.children.filter (·.2.2 != b.phase) }) ∧
      (∀ v, p.payload = .forwardedSet cl i v → e.cfg.getLsbD 0 = false → e.cfg.getLsbD 1 = false → e.waiters = [] →
        ∃ u, exec (.eventForwardedSet p.ident) s = .next u ∧ u.packets = [] ∧
          (u.cluster cl).eventLine i = { e with set := true, value := v }))

/-- R152, R154, R155, R321, R322, R361, R363, R367, R368, R371. -/
def Obligations.PortsRopesAndRounds : Prop :=
  ∀ s : State, s.tripped = false →
    (∀ slot port t p, s.thread? slot = some t → amGet t.ports port = some p → t.portsRun = true →
      (p.kind = 2 ∨ s.nextPort (coreOf slot) = some (slot % 64 * 16 + port) ∧ (s.core (coreOf slot)).prefetchAt ≠ some s.cycle) →
      (∀ e ∈ p.held, e.fault = none) → p.readyWords + p.g ≤ 16 → p.asks = [] → s.mem.upsets = [] →
      (s.core (coreOf slot)).sb = [] → s.flights = [] → (∀ x ∈ t.ports, x.2.pushes = []) → (s.slow = false ∨ s.packets = []) →
      let took (e : Element) : Port := { p with held := p.held ++ [e], askNo := if p.sync = 1 ∧ p.kind ≠ 2 then p.askNo + 1 else p.askNo }
      let own (a : Word) : Nat := (storeBase (coreOf slot) + (a.toNat - Config.ownBase)) / 8
      let good (a : Word) : Prop := a.toNat % 8 = 0 ∧ Config.ownBase ≤ a.toNat ∧
        a.toNat + 8 * p.g ≤ Config.ownBase + storeSize (coreOf slot) ∧ 0 < p.g ∧
        ∀ i, i < p.g → s.mem.poisoned (own a + i) = false ∧ (p.sync = 1 → s.mem.full (own a + i) = true)
      let ws (a : Word) : List Word := (List.range p.g).map fun i => s.mem.word (own a + i)
      (∀ a, p.kind = 0 → p.pos + p.held.length < p.total → a = p.addr (p.pos + p.held.length) → good a →
        ∃ u, exec (.portPrefetch slot port) s = .next u ∧ u.mem = s.mem ∧
          u.port? slot port = some (took ⟨ws a, none, none⟩)) ∧
      (∀ a, p.kind = 0 → p.pos + p.held.length < p.total → a = p.addr (p.pos + p.held.length) → p.sync = 1 → p.g = 1 →
        a.toNat % 8 = 0 → Config.ownBase ≤ a.toNat → a.toNat + 8 ≤ Config.ownBase + storeSize (coreOf slot) →
        s.mem.full (own a) = false → s.holdFull (own a) = false →
        ∃ u h q, exec (.portPrefetch slot port) s = .next u ∧ u.mem = s.mem ∧ u.holds = s.holds ++ [h] ∧
          h.slot = slot ∧ h.port = some port ∧ h.key = own a ∧ h.kind = 0 ∧ u.port? slot port = some q ∧
          q.held = p.held ∧ q.asks.map (·.words) = [[none]]) ∧
      (∀ w at' rest, p.kind = 2 → amGetD (s.core (coreOf slot)).fifos p.dir [] = (w, at') :: rest → at' ≠ s.cycle →
        ∃ u, exec (.portPrefetch slot port) s = .next u ∧ u.mem = s.mem ∧ amGetD (u.core (coreOf slot)).fifos p.dir [] = rest ∧
          u.port? slot port = some (took ⟨[w], none, none⟩)) ∧
      (∀ q w ix rest a, p.kind = 1 → p.again = [] → p.ixh ≠ port → amGet t.ports p.ixh = some q → q.kind = 0 →
        q.held = ⟨[w], none, ix⟩ :: rest → a = p.base + (if p.ctl.getLsbD 15 then w else w &&& 0xFFFFFFFF#64) * p.stride 0 → good a →
        ∃ u, exec (.portPrefetch slot port) s = .next u ∧ u.mem = s.mem ∧
          u.port? slot port = some (took ⟨ws a, none, some w⟩) ∧
          u.port? slot p.ixh = some { q with held := rest, pos := q.pos + 1 })) ∧
    (∀ slot port t p q rest, s.thread? slot = some t → amGet t.ports port = some p → p.pushes = q :: rest →
      (∀ x ∈ t.ports, ∀ y ∈ x.2.pushes, q.ident ≤ y.ident) → (s.core (coreOf slot)).sb = [] → s.flights = [] →
      (s.slow = false ∨ s.packets = []) → NoEpoch s → (p.sync = 1 → s.holds = []) →
      q.addr.toNat % 8 = 0 → Config.ownBase ≤ q.addr.toNat →
      q.addr.toNat + 8 * q.words.length ≤ Config.ownBase + storeSize (coreOf slot) →
      let k := (storeBase (coreOf slot) + (q.addr.toNat - Config.ownBase)) / 8
      let inside (j : Nat) : Prop := k ≤ j ∧ j < k + q.words.length
      ∃ u, exec (.portPushPerform slot port) s = .next u ∧ (∀ i, i < q.words.length → u.mem.word (k + i) = q.words.getD i 0) ∧
        (∀ x, ¬ inside (x / 8) → u.mem.byte x = s.mem.byte x) ∧
        (∀ j, u.mem.full j = true ↔ s.mem.full j = true ∨ p.sync = 1 ∧ inside j) ∧
        (u.port? slot port).map (·.pushes) = some rest) ∧
    (∀ rope r m0 m1 t0 t1 g w rd rs1 imm, s.ropes = [(rope, r)] → r.members = [m0, m1] → m0 ≠ m1 → r.done = [] →
      r.length = none → r.solo = [] → r.left = [] → r.leaderOut = false →
      (∀ m, m = m0 ∨ m = m1 → (s.core (coreOf m)).issuedAt ≠ some s.cycle ∧ s.rowOne (coreOf m) = false) →
      s.launchStopped r.launch = false → s.thread? m0 = some t0 → s.thread? m1 = some t1 →
      (∀ t, t = t0 ∨ t = t1 → t.run = .ready ∧ t.pend = none ∧ t.frozen = false ∧ t.halted = false ∧ t.stepped = false ∧
        t.landedAt ≠ some s.cycle ∧ t.ports = [] ∧ t.body = none ∧ t.hold = none) →
      t0.pc.toNat % 4 = 0 → amGet (s.core (coreOf m0)).fetch (t0.pc.toNat / 64) = some g → (∀ i, i ∉ g.poison) →
      w = (g.words.getD (t0.pc.toNat % 64 / 8) 0).extractLsb' (if t0.pc.getLsbD 2 then 32 else 0) 32 →
      decodeWord w = .ok (.addi rd rs1 imm) → rd ≠ 0 → rd.toNat < t0.limit → rs1.toNat < t0.limit →
      (t0.reg rs1.toNat).full = true → (t0.reg rs1.toNat).perr = false →
      let led := (t0.setX rd.toNat (t0.x rs1.toNat + imm.signExtend 64)).retired (t0.pc + 4)
      (r.step = 0 → r.stream = [] →
        ∃ u r1, exec (.ropeStep rope) s = .next u ∧ amGet u.ropes rope = some r1 ∧ r1.step = 1 ∧ r1.done = [] ∧
          r1.stream = [(0, t0.pc, [w], none)] ∧ u.thread? m0 = some led ∧ u.thread? m1 = some t1) ∧
      (∀ n a w' rd' rs1' imm', r.step = n + 1 → r.stream = [(n, a, [w'], none)] → a.toNat % 4 = 0 →
        decodeWord w' = .ok (.addi rd' rs1' imm') → rd' ≠ 0 → rd'.toNat < t1.limit → rs1'.toNat < t1.limit →
        (t1.reg rs1'.toNat).full = true → (t1.reg rs1'.toNat).perr = false →
        ∃ u r1, exec (.ropeStep rope) s = .next u ∧ amGet u.ropes rope = some r1 ∧ r1.step = n + 2 ∧ r1.done = [] ∧
          r1.stream = [(n + 1, t0.pc, [w], none), (n, a, [w'], none)] ∧ u.thread? m0 = some led ∧
          u.thread? m1 = some ((t1.setX rd'.toNat (t1.x rs1'.toNat + imm'.signExtend 64)).retired (a + 4)))) ∧
    (∀ id r l, amGet s.rounds id = some r → amGet s.launches r.launch = some l → (∀ c ∈ r.contributions, c.2.1 < 2 ^ 40) →
      let delivers (u : State) (v : Word) : Prop := amGet u.rounds id = none ∧ ∃ ps, u.packets = s.packets ++ ps ∧
        ps.map (·.payload) = r.contributions.map fun c => .message (.result c.2.1 c.2.2.1 v) l.record.tenant roundSender
          (Message.target (.result c.2.1 c.2.2.1 v))
      (r.failed = none → groupSize l r.group ≤ r.contributions.length →
        let own := reduceTree r.group r.values.length r.values
        (r.group.toNat / 256 % 4 ≠ 2 → ∀ partners, ∃ u, exec (.collRoundComplete id partners) s = .next u ∧ u.mem = s.mem ∧
          delivers u (ctlWiden r.group own)) ∧
        (r.group.toNat / 256 % 4 ≠ 2 → r.group.toNat % 8 = 0 → r.group.toNat / 16 % 8 = 4 →
          ∀ s0 r0 v0 s1 r1 v1, r.contributions = [(0, s0, r0, v0), (1, s1, r1, v1)] →
          ∃ u, exec (.collRoundComplete id []) s = .next u ∧ delivers u (v0 + v1)) ∧
        (∀ group partners, r.group.toNat / 256 % 4 = 2 → amGet s.peerGroups (r.group.toNat / 2 ^ 32 % 2 ^ 10) = some group →
          partners.length + 1 = group.length →
          let others := partners.map (ctlCut r.group)
          let rank := group.idxOf 64
          ∃ u, exec (.collRoundComplete id partners) s = .next u ∧ u.mem = s.mem ∧
            delivers u (ctlWiden r.group (reduceTree r.group group.length (others.take rank ++ [own] ++ others.drop rank))))) ∧
      (∀ code, r.failed = some code → (s.slow = false ∨ s.watches = [] ∧ s.holds = []) →
        ∃ u, exec (.collRoundFail id) s = .next u ∧ delivers u (BitVec.ofNat 64 (2 ^ 63 + code)))) ∧
    (∀ t q tag rest, let h := (s.tenant t).gq q
      h.grants = tag :: rest → h.used < 2 ^ (h.word.toNat / 2 ^ 36 % 16) →
      ∃ u, exec (.gqCreditGrant t q) s = .next u ∧ ((u.tenant t).gq q).used = h.used + 1 ∧
        ∀ slot x, s.thread? slot = some x → u.thread? slot = some { x with
          windows := x.windows.map fun w => if w.tag = tag then { w with credits := w.credits + 1 } else w }) ∧
    (∀ p tn q ws sender word, s.packets = [p] → p.payload = .entry tn q ws sender word → p.landed = true → NoEpoch s → s.holds = [] →
      (s.slow = false ∨ s.watches = []) →
      let h := (s.tenant tn).gq q
      let n := 2 ^ (h.word.toNat / 2 ^ 40 % 4)
      let consumer := Config.computeCores + h.word.toNat % 2 ^ 9
      let at' := h.word.toNat / 2 ^ 16 % 2 ^ 18 + 8 * n * (h.tail % 2 ^ (h.word.toNat / 2 ^ 36 % 16))
      let k := (storeBase consumer + at') / 8
      h.word = word → at' + 8 * n ≤ Config.optStoreBytes → ws.length = n →
      ∃ u, exec (.gqEntryArrival p.ident) s = .next u ∧ u.packets = [] ∧
        (∀ i, i < n → u.mem.word (k + i) = ws.getD i 0 ∧ u.mem.full (k + i) = true) ∧
        (∀ x, ¬ (k ≤ x / 8 ∧ x / 8 < k + n) → u.mem.byte x = s.mem.byte x) ∧
        (u.tenant tn).gq q = { h with tail := h.tail + 1 }) ∧
    (∀ t g e va pa size pte, (s.tenant t).epoch = some e → e.failed = false → g ∈ e.granules → g ∉ e.captured →
      (∀ x ∈ e.granules, sliceOf (64 * x) = sliceOf (64 * g) → x ∉ e.captured → g ≤ x) →
      (∀ p ∈ s.packets, p.atHome = true → p.dst ≠ epSlice (sliceOf (64 * g))) →
      e.pagesAt g = [(va, pa, size, pte)] →
      let off := va + (64 * g - pa)
      s.mem.upsets = [] →
      ((∃ c, s.device t (e.dst + (off - e.base)) .store = .error c) ∨
          (∃ d, s.device t (e.dst + (off - e.base)) .store = .ok d ∧ Config.homedBase ≤ d) →
        ∃ u, exec (.cairnBackgroundCapture t g) s = .next u ∧ (u.tenant t).epoch = some { e with failed := true }) ∧
      (∀ d, s.device t (e.dst + (off - e.base)) .store = .ok d → d < Config.homedBase → d % 64 = 0 →
        (∀ x ∈ s.tenants, ∀ ep, x.2.epoch = some ep → ep.pagesAt (d / 64) = [] ∧ ep.pagesAt (pte / 8) = []) →
        ∃ u, exec (.cairnBackgroundCapture t g) s = .next u ∧ (u.tenant t).epoch = some { e with captured := nsIns e.captured g } ∧
          (pte / 8 ≠ d / 64 → s.holds = [] → (∀ i, i < 8 → s.mem.poisoned (8 * g + i) = false) →
            ∀ i, i < 8 → u.mem.word (d / 8 + i) = s.mem.word (8 * g + i) ∧ u.mem.full (d / 8 + i) = s.mem.full (8 * g + i))))

/-- R384 to R396: translation, pre-emption, halt and the supervisor's window on a thread. -/
def Obligations.SupervisorSteps : Prop :=
  ∀ s : State, s.tripped = false →
    (∀ cl t page x, cl < 128 → amGet s.tenants t = some x → tlbFind (s.cluster cl).tlb t (page * 4096) = none →
      (s.cluster cl).pending = [] → (s.die (cl / 16)).walks = [] →
      ∃ u, exec (.pageWalk cl t page) s = .next u ∧ (u.cluster cl).pending = [⟨t, page⟩] ∧
        (u.die (cl / 16)).walks = [⟨t, page, [cl], true⟩] ∧ u.mem = s.mem) ∧
    (∀ die w cl leaf base size k, cl < 128 → (s.slow = false ∨ s.packets = []) → (s.die die).walks = [w] → w.running = true → w.clusters = [cl] →
      s.walk w.tenant (w.page * 4096) = .ok (leaf, base, size, k) →
      ∃ u, exec (.walkComplete die 0) s = .next u ∧ (u.die die).walks = [] ∧ ⟨w.tenant, base, size, leaf⟩ ∈ (u.cluster cl).tlb ∧
        (∀ p ∈ (u.cluster cl).pending, p.tenant = w.tenant → p.page ≠ w.page) ∧ u.mem = s.mem) ∧
    (∀ t v, v.getLsbD 0 = true → ∃ u, exec (.stlbinv t v) s = .next u ∧ u.mem = s.mem ∧
      (∀ die w, w ∈ (u.die die).walks → w.tenant = t → w.running = false) ∧
      (∀ n e, e ∈ (u.core n).tlb ↔ e ∈ (s.core n).tlb ∧ e.tenant ≠ t) ∧
      ∀ n e, e ∈ (u.cluster n).tlb ↔ e ∈ (s.cluster n).tlb ∧ e.tenant ≠ t) ∧
    (∀ die w core tn lid l slot t, s.dies = [(die, s.die die)] → (s.die die).spreInbox = [(w, core, (s.core core).spreNo, tn)] → (s.die die).launches = [lid] →
      (s.die die).spillEngine = [] → w.toNat % 2 ^ 32 = lid → amGet s.launches lid = some l → l.ident = lid → l.record.tenant = tn →
      l.seqn = none → l.fired = false → l.starting = [] → l.contexts = [] → s.threads = [(slot, t)] → t.launch = lid → t.level = .user → t.pend = none → t.ports = [] →
      t.calls = [] → t.mark = false → t.kept = none → s.packets = [] → s.octets = [] → s.flights = [] → s.ropes = [] →
      (∀ c, (s.core c).sb = [] ∧ (s.core c).arrivals = [] ∧ (s.core c).arrivalSpill = [] ∧ (s.core c).act = none ∧
        (s.core c).actQueue = [] ∧ (s.core c).msgs = []) →
      let act := w.toNat / 2 ^ 32 % 8
      (act = 0 → l.state = 2 → t.run = .ready → ∃ u l1 x, exec (.sprePark die) s = .next u ∧ amGet u.launches lid = some l1 ∧ l1.state = 3 ∧
        u.thread? slot = some x ∧ x.run = .parked .resume ∧ x.regs = t.regs ∧ x.pc = t.pc ∧ (u.core core).spre = 2) ∧
      (∀ i, act = 1 ∧ i = .spreSpill die ∨ act = 2 ∧ i = .spreSpillStores die → l.state = 2 → t.run = .ready → (s.reserve l act).isSome = true →
        ∃ u l1 x, exec i s = .next u ∧ amGet u.launches lid = some l1 ∧ l1.state = 3 + act ∧ u.thread? slot = none ∧
          l1.contexts = [x] ∧ x.slot = slot ∧ x.thread.run = .spilled ∧ x.thread.regs = t.regs ∧ x.thread.pc = t.pc ∧
          (u.core core).spre = 2) ∧
      (act = 3 → l.state = 3 → t.run = .parked .resume → ∃ u l1 x, exec (.spreResume die) s = .next u ∧ amGet u.launches lid = some l1 ∧
        l1.state = 2 ∧ u.thread? slot = some x ∧ x.run = .ready ∧ x.regs = t.regs ∧ x.pc = t.pc ∧ (u.core core).spre = 2) ∧
      (act = 4 → l.state = 2 → t.run = .ready → ∃ u l1 x, exec (.spreHalt die) s = .next u ∧ amGet u.launches lid = some l1 ∧ l1.halted = true ∧
        u.thread? slot = some x ∧ x.halted = true ∧ x.regs = t.regs ∧ (u.core core).spre = 2) ∧
      (act = 5 → l.halted = true → ∃ u l1 x, exec (.spreReleaseHalt die) s = .next u ∧ amGet u.launches lid = some l1 ∧
        l1.halted = false ∧ u.thread? slot = some x ∧ x.halted = false ∧ x.regs = t.regs ∧ (u.core core).spre = 2)) ∧
    (∀ core a slot t, (s.core core).act = some a → a.saved = none → a.target = some slot → s.thread? slot = some t →
      a.sxsel.getLsbD 12 = false →
      let n := a.sxsel.toNat % 2 ^ 7
      n < t.limit →
      ((t.reg n).perr = false → ∃ u, exec (.sxvalRead core) s = .next u ∧ (u.core core).act = some { a with
        sxsel := (a.sxsel &&& 0x3FFF#64) ||| if (t.reg n).full then 0x4000#64 else 0 } ∧ u.thread? slot = some t) ∧
      ∀ v, n ≠ 0 → ∃ u x, exec (.sxvalWrite core v) s = .next u ∧ u.thread? slot = some x ∧
        x.reg n = { val := v, full := a.sxsel.getLsbD 13 } ∧ (∀ i, i ≠ n → x.reg i = t.reg i) ∧ x.pc = t.pc ∧ u.mem = s.mem)

/-- R30 to R46 and R62 to R77: one word and its reading for each family. -/
def Obligations.DecodeExamples : Prop :=
  decodeWord 0x01813403#32 = .ok (.ld 8 2 24) ∧
  decodeWord 0x00813C23#32 = .ok (.sd 8 2 24) ∧
  decodeWord 0xFFF30293#32 = .ok (.addi 5 6 0xFFF) ∧
  decodeWord 0x002081B3#32 = .ok (.add 3 1 2) ∧
  decodeWord 0x022081B3#32 = .ok (.mul 3 1 2) ∧
  decodeWord 0x123452B7#32 = .ok (.lui 5 0x12345) ∧
  decodeWord 0x00208463#32 = .ok (.beq 1 2 4) ∧
  decodeWord 0x010000EF#32 = .ok (.jal 1 8) ∧
  decodeWord 0x00000073#32 = .ok .ecall ∧
  decodeWord 0x000100FB#32 = .ok (.reach 0 2 1) ∧
  decodeWord 0x00C5D55B#32 = .ok (.pbind 10 11 12) ∧
  decodeWord 0x0205D55B#32 = .ok (.punb 10 11) ∧
  decodeWord 0x06C5D05B#32 = .ok (.psave 11 12) ∧
  decodeWord 0x0005B57B#32 = .ok (.salloc 10 11) ∧
  decodeWord 0x06C5B57B#32 = .ok (.supd 11 12 10) ∧
  decodeWord 0x1200357B#32 = .ok (.sflush 10) ∧
  decodeWord 0x0005C57B#32 = .ok (.spawn 10 11) ∧
  decodeWord 0x0200407B#32 = .ok .exit ∧
  decodeWord 0x0005E07B#32 = .ok (.tret 11) ∧
  decodeWord 0x0400607B#32 = .ok .beat ∧
  decodeWord 0x00B902BB#32 = .ok (.addw 5 18 11) ∧
  decodeWord 0x802912F3#32 = .ok (.csrrw 0x802 5 18) ∧
  decodeWord 0x03C0000F#32 = .ok (.fence 0 3 12) ∧
  decodeWord 0x40C9230B#32 = .ok (.fadd 1 0 2 6 18 12) ∧
  decodeWord 0x40C9630B#32 = .ok (.spanAdd 1 0 2 6 18 12) ∧
  decodeWord 0x40C9232B#32 = .ok (.cmpeq 1 2 6 18 12) ∧
  decodeWord 0x4829232B#32 = .ok (.cvt 1 2 6 18 2) ∧
  decodeWord 0x60C9232B#32 = .ok (.qenc 1 2 6 18 12) ∧
  decodeWord 0x2C29002B#32 = .ok (.tabld 2 18) ∧
  decodeWord 0x6B49035B#32 = .ok (.ldg 1 6 18 0x2B4) ∧
  decodeWord 0x6AC91A5B#32 = .ok (.stg 1 12 18 0x2B4) ∧
  decodeWord 0x000922DB#32 = .ok (.lde 5 18) ∧
  decodeWord 0x80B932DB#32 = .ok (.amadd 1 0 5 11 18) ∧
  decodeWord 0x0130405B#32 = .ok (.fenceS 2 3) ∧
  decodeWord 0x00B962DB#32 = .ok (.tlook 5 18 11) ∧
  decodeWord 0x3012807B#32 = .ok (.when 1 0x25) ∧
  decodeWord 0x48390B7B#32 = .ok (.pitch 4 3 18 1 0 1 2) ∧
  decodeWord 0x60B912FB#32 = .ok (.mmBf16 3 5 18 11) ∧
  decodeWord 0x000922FB#32 = .ok (.mbload 5 18) ∧
  decodeWord 0x100922FB#32 = .ok (.hcopy 5 18) ∧
  decodeWord 0x08B9407B#32 = .ok (.msgReg 18 11) ∧
  decodeWord 0x10B942FB#32 = .ok (.hcall 5 18 11) ∧
  decodeWord 0x000952FB#32 = .ok (.ropeForm 5 18) ∧
  decodeWord 0x10B952FB#32 = .ok (.collRed 5 18 11) ∧
  decodeWord 0x14B9507B#32 = .ok (.gqPush 18 11) ∧
  decodeWord 0x060962FB#32 = .ok (.cairnOpen 5 18) ∧
  decodeWord 0x0000707B#32 = .ok .hintRegion

/-- R44 and the encoding tables: no operand bit is lost between a word and its instruction. -/
def Obligations.DecodeEncode : Prop :=
  ∀ (i : Instr) (w : BitVec 32), i.wf = true → encode i = some w → decodeWord w = .ok i

/-- The canonical form of memory is an invariant of the step. -/
def Obligations.StepKeepsMemory : Prop :=
  ∀ s u : State, s.mem.wf = true → step s = .next u → u.mem.wf = true

/-- R415: the trip stops every clock, and only a package reset restarts the package. -/
def Obligations.ClockStopped : Prop :=
  (∀ (s : State) (i : Instr), s.tripped = true → i ≠ .packageReset → exec i s = .fault .clockStopped) ∧
  (∀ (s : State) (dt core : Nat) (rest : List (Nat × Item)), s.tripped = true → s.agenda = (dt, .issue core) :: rest →
    step s = .fault .clockStopped) ∧
  (∀ s : State, ∃ u, exec .packageReset s = .next u ∧ u.tripped = false)
end

