-- ==== Sys2Proof/Laws/Word.lean ====
section
/-! SUPPORT. Sys2Proof/Laws/Word.lean: what the sparse maps and sets of Word.lean read back. -/

namespace Sys2Proof

/-- A value put under a key is what that key reads; every other key reads as before. -/
theorem amGet_amPut {α : Type} (m : AMap α) (n k : Nat) (x : α) :
    amGet (amPut m n x) k = if n = k then some x else amGet m k := by
  induction m with
  | nil => simp [amPut, amGet]
  | cons p m ih =>
    obtain ⟨a, v⟩ := p
    simp only [amPut]
    split
    · subst a; simp only [amGet]; split <;> rfl
    · split
      · simp [amGet]
      · simp only [amGet, ih]; split
        · rename_i h1 _ h2; subst h2; simp [Ne.symm h1]
        · rfl

/-- A key taken out reads as nothing; every other key reads as before. -/
theorem amGet_amDel {α : Type} (m : AMap α) (n k : Nat) :
    amGet (amDel m n) k = if n = k then none else amGet m k := by
  induction m with
  | nil => simp [amDel, amGet]
  | cons p m ih =>
    obtain ⟨a, v⟩ := p
    simp only [amDel]
    split
    · subst a; rw [ih]; simp only [amGet]; split <;> rfl
    · simp only [amGet, ih]; split
      · rename_i h1 h2; subst h2; simp [Ne.symm h1]
      · rfl

theorem amGetD_amPut {α : Type} (m : AMap α) (n k : Nat) (x d : α) :
    amGetD (amPut m n x) k d = if n = k then x else amGetD m k d := by
  simp only [amGetD, amGet_amPut]; split <;> rfl

theorem amGetD_amDel {α : Type} (m : AMap α) (n k : Nat) (d : α) :
    amGetD (amDel m n) k d = if n = k then d else amGetD m k d := by
  simp only [amGetD, amGet_amDel]; split <;> rfl

/-- The members of a set after one more is added. -/
theorem mem_nsIns (m : List Nat) (n k : Nat) : k ∈ nsIns m n ↔ k = n ∨ k ∈ m := by
  induction m with
  | nil => simp [nsIns]
  | cons a m ih =>
    simp only [nsIns]
    split
    · subst a; simp
    · split
      · simp
      · simp [ih]; tauto

theorem mem_nsDel (m : List Nat) (n k : Nat) : k ∈ nsDel m n ↔ k ∈ m ∧ k ≠ n := by
  simp [nsDel]

end Sys2Proof
end

