-- ==== Sys2Proof/Laws/State.lean ====
section
/-! SUPPORT. Sys2Proof/Laws/State.lean: what each update of a unit leaves as it was, one lemma per field, and what it reads
back. -/

namespace Sys2Proof.Machine

/-! Field by field -/

section
variable (s : State) (n : Nat) (x : Thread)
@[simp] theorem State.setThread_mem : (s.setThread n x).mem = s.mem := rfl
@[simp] theorem State.setThread_cores : (s.setThread n x).cores = s.cores := rfl
@[simp] theorem State.setThread_octets : (s.setThread n x).octets = s.octets := rfl
@[simp] theorem State.setThread_clusters : (s.setThread n x).clusters = s.clusters := rfl
@[simp] theorem State.setThread_dies : (s.setThread n x).dies = s.dies := rfl
@[simp] theorem State.setThread_tenants : (s.setThread n x).tenants = s.tenants := rfl
@[simp] theorem State.setThread_launches : (s.setThread n x).launches = s.launches := rfl
@[simp] theorem State.setThread_ropes : (s.setThread n x).ropes = s.ropes := rfl
@[simp] theorem State.setThread_rounds : (s.setThread n x).rounds = s.rounds := rfl
@[simp] theorem State.setThread_holds : (s.setThread n x).holds = s.holds := rfl
@[simp] theorem State.setThread_watches : (s.setThread n x).watches = s.watches := rfl
@[simp] theorem State.setThread_returns : (s.setThread n x).returns = s.returns := rfl
@[simp] theorem State.setThread_updatedAt : (s.setThread n x).updatedAt = s.updatedAt := rfl
@[simp] theorem State.setThread_flights : (s.setThread n x).flights = s.flights := rfl
@[simp] theorem State.setThread_packets : (s.setThread n x).packets = s.packets := rfl
@[simp] theorem State.setThread_combines : (s.setThread n x).combines = s.combines := rfl
@[simp] theorem State.setThread_granted : (s.setThread n x).granted = s.granted := rfl
@[simp] theorem State.setThread_flowing : (s.setThread n x).flowing = s.flowing := rfl
@[simp] theorem State.setThread_access : (s.setThread n x).access = s.access := rfl
@[simp] theorem State.setThread_queues : (s.setThread n x).queues = s.queues := rfl
@[simp] theorem State.setThread_hdm : (s.setThread n x).hdm = s.hdm := rfl
@[simp] theorem State.setThread_mailboxWords : (s.setThread n x).mailboxWords = s.mailboxWords := rfl
@[simp] theorem State.setThread_mailboxStatus : (s.setThread n x).mailboxStatus = s.mailboxStatus := rfl
@[simp] theorem State.setThread_mailboxCode : (s.setThread n x).mailboxCode = s.mailboxCode := rfl
@[simp] theorem State.setThread_hostReply : (s.setThread n x).hostReply = s.hostReply := rfl
@[simp] theorem State.setThread_checks : (s.setThread n x).checks = s.checks := rfl
@[simp] theorem State.setThread_firmware : (s.setThread n x).firmware = s.firmware := rfl
@[simp] theorem State.setThread_flash : (s.setThread n x).flash = s.flash := rfl
@[simp] theorem State.setThread_fuses : (s.setThread n x).fuses = s.fuses := rfl
@[simp] theorem State.setThread_commands : (s.setThread n x).commands = s.commands := rfl
@[simp] theorem State.setThread_heldBells : (s.setThread n x).heldBells = s.heldBells := rfl
@[simp] theorem State.setThread_resetting : (s.setThread n x).resetting = s.resetting := rfl
@[simp] theorem State.setThread_powerLimit : (s.setThread n x).powerLimit = s.powerLimit := rfl
@[simp] theorem State.setThread_gating : (s.setThread n x).gating = s.gating := rfl
@[simp] theorem State.setThread_tripped : (s.setThread n x).tripped = s.tripped := rfl
@[simp] theorem State.setThread_linksDown : (s.setThread n x).linksDown = s.linksDown := rfl
@[simp] theorem State.setThread_peerGroups : (s.setThread n x).peerGroups = s.peerGroups := rfl
@[simp] theorem State.setThread_groupHolder : (s.setThread n x).groupHolder = s.groupHolder := rfl
@[simp] theorem State.setThread_outside : (s.setThread n x).outside = s.outside := rfl
@[simp] theorem State.setThread_cycle : (s.setThread n x).cycle = s.cycle := rfl
@[simp] theorem State.setThread_nextId : (s.setThread n x).nextId = s.nextId := rfl
@[simp] theorem State.setThread_fresh : (s.setThread n x).fresh = s.fresh := rfl
@[simp] theorem State.setThread_agenda : (s.setThread n x).agenda = s.agenda := rfl
@[simp] theorem State.setThread_focus : (s.setThread n x).focus = s.focus := rfl
@[simp] theorem State.setThread_cur : (s.setThread n x).cur = s.cur := rfl
@[simp] theorem State.setThread_latch : (s.setThread n x).latch = s.latch := rfl
@[simp] theorem State.setThread_slow : (s.setThread n x).slow = s.slow := rfl
@[simp] theorem State.setThread_threads : (s.setThread n x).threads = amPut s.threads n x := rfl
end

section
variable (s : State) (n : Nat) (x : Core)
@[simp] theorem State.setCore_mem : (s.setCore n x).mem = s.mem := rfl
@[simp] theorem State.setCore_threads : (s.setCore n x).threads = s.threads := rfl
@[simp] theorem State.setCore_octets : (s.setCore n x).octets = s.octets := rfl
@[simp] theorem State.setCore_clusters : (s.setCore n x).clusters = s.clusters := rfl
@[simp] theorem State.setCore_dies : (s.setCore n x).dies = s.dies := rfl
@[simp] theorem State.setCore_tenants : (s.setCore n x).tenants = s.tenants := rfl
@[simp] theorem State.setCore_launches : (s.setCore n x).launches = s.launches := rfl
@[simp] theorem State.setCore_ropes : (s.setCore n x).ropes = s.ropes := rfl
@[simp] theorem State.setCore_rounds : (s.setCore n x).rounds = s.rounds := rfl
@[simp] theorem State.setCore_holds : (s.setCore n x).holds = s.holds := rfl
@[simp] theorem State.setCore_watches : (s.setCore n x).watches = s.watches := rfl
@[simp] theorem State.setCore_returns : (s.setCore n x).returns = s.returns := rfl
@[simp] theorem State.setCore_updatedAt : (s.setCore n x).updatedAt = s.updatedAt := rfl
@[simp] theorem State.setCore_flights : (s.setCore n x).flights = s.flights := rfl
@[simp] theorem State.setCore_packets : (s.setCore n x).packets = s.packets := rfl
@[simp] theorem State.setCore_combines : (s.setCore n x).combines = s.combines := rfl
@[simp] theorem State.setCore_granted : (s.setCore n x).granted = s.granted := rfl
@[simp] theorem State.setCore_flowing : (s.setCore n x).flowing = s.flowing := rfl
@[simp] theorem State.setCore_access : (s.setCore n x).access = s.access := rfl
@[simp] theorem State.setCore_queues : (s.setCore n x).queues = s.queues := rfl
@[simp] theorem State.setCore_hdm : (s.setCore n x).hdm = s.hdm := rfl
@[simp] theorem State.setCore_mailboxWords : (s.setCore n x).mailboxWords = s.mailboxWords := rfl
@[simp] theorem State.setCore_mailboxStatus : (s.setCore n x).mailboxStatus = s.mailboxStatus := rfl
@[simp] theorem State.setCore_mailboxCode : (s.setCore n x).mailboxCode = s.mailboxCode := rfl
@[simp] theorem State.setCore_hostReply : (s.setCore n x).hostReply = s.hostReply := rfl
@[simp] theorem State.setCore_checks : (s.setCore n x).checks = s.checks := rfl
@[simp] theorem State.setCore_firmware : (s.setCore n x).firmware = s.firmware := rfl
@[simp] theorem State.setCore_flash : (s.setCore n x).flash = s.flash := rfl
@[simp] theorem State.setCore_fuses : (s.setCore n x).fuses = s.fuses := rfl
@[simp] theorem State.setCore_commands : (s.setCore n x).commands = s.commands := rfl
@[simp] theorem State.setCore_heldBells : (s.setCore n x).heldBells = s.heldBells := rfl
@[simp] theorem State.setCore_resetting : (s.setCore n x).resetting = s.resetting := rfl
@[simp] theorem State.setCore_powerLimit : (s.setCore n x).powerLimit = s.powerLimit := rfl
@[simp] theorem State.setCore_gating : (s.setCore n x).gating = s.gating := rfl
@[simp] theorem State.setCore_tripped : (s.setCore n x).tripped = s.tripped := rfl
@[simp] theorem State.setCore_linksDown : (s.setCore n x).linksDown = s.linksDown := rfl
@[simp] theorem State.setCore_peerGroups : (s.setCore n x).peerGroups = s.peerGroups := rfl
@[simp] theorem State.setCore_groupHolder : (s.setCore n x).groupHolder = s.groupHolder := rfl
@[simp] theorem State.setCore_outside : (s.setCore n x).outside = s.outside := rfl
@[simp] theorem State.setCore_cycle : (s.setCore n x).cycle = s.cycle := rfl
@[simp] theorem State.setCore_nextId : (s.setCore n x).nextId = s.nextId := rfl
@[simp] theorem State.setCore_fresh : (s.setCore n x).fresh = s.fresh := rfl
@[simp] theorem State.setCore_agenda : (s.setCore n x).agenda = s.agenda := rfl
@[simp] theorem State.setCore_focus : (s.setCore n x).focus = s.focus := rfl
@[simp] theorem State.setCore_cur : (s.setCore n x).cur = s.cur := rfl
@[simp] theorem State.setCore_latch : (s.setCore n x).latch = s.latch := rfl
@[simp] theorem State.setCore_slow : (s.setCore n x).slow = s.slow := rfl
@[simp] theorem State.setCore_cores : (s.setCore n x).cores = amPut s.cores n x := rfl
end

section
variable (s : State) (n : Nat) (x : Octet)
@[simp] theorem State.setOctet_mem : (s.setOctet n x).mem = s.mem := rfl
@[simp] theorem State.setOctet_threads : (s.setOctet n x).threads = s.threads := rfl
@[simp] theorem State.setOctet_cores : (s.setOctet n x).cores = s.cores := rfl
@[simp] theorem State.setOctet_clusters : (s.setOctet n x).clusters = s.clusters := rfl
@[simp] theorem State.setOctet_dies : (s.setOctet n x).dies = s.dies := rfl
@[simp] theorem State.setOctet_tenants : (s.setOctet n x).tenants = s.tenants := rfl
@[simp] theorem State.setOctet_launches : (s.setOctet n x).launches = s.launches := rfl
@[simp] theorem State.setOctet_ropes : (s.setOctet n x).ropes = s.ropes := rfl
@[simp] theorem State.setOctet_rounds : (s.setOctet n x).rounds = s.rounds := rfl
@[simp] theorem State.setOctet_holds : (s.setOctet n x).holds = s.holds := rfl
@[simp] theorem State.setOctet_watches : (s.setOctet n x).watches = s.watches := rfl
@[simp] theorem State.setOctet_returns : (s.setOctet n x).returns = s.returns := rfl
@[simp] theorem State.setOctet_updatedAt : (s.setOctet n x).updatedAt = s.updatedAt := rfl
@[simp] theorem State.setOctet_flights : (s.setOctet n x).flights = s.flights := rfl
@[simp] theorem State.setOctet_packets : (s.setOctet n x).packets = s.packets := rfl
@[simp] theorem State.setOctet_combines : (s.setOctet n x).combines = s.combines := rfl
@[simp] theorem State.setOctet_granted : (s.setOctet n x).granted = s.granted := rfl
@[simp] theorem State.setOctet_flowing : (s.setOctet n x).flowing = s.flowing := rfl
@[simp] theorem State.setOctet_access : (s.setOctet n x).access = s.access := rfl
@[simp] theorem State.setOctet_queues : (s.setOctet n x).queues = s.queues := rfl
@[simp] theorem State.setOctet_hdm : (s.setOctet n x).hdm = s.hdm := rfl
@[simp] theorem State.setOctet_mailboxWords : (s.setOctet n x).mailboxWords = s.mailboxWords := rfl
@[simp] theorem State.setOctet_mailboxStatus : (s.setOctet n x).mailboxStatus = s.mailboxStatus := rfl
@[simp] theorem State.setOctet_mailboxCode : (s.setOctet n x).mailboxCode = s.mailboxCode := rfl
@[simp] theorem State.setOctet_hostReply : (s.setOctet n x).hostReply = s.hostReply := rfl
@[simp] theorem State.setOctet_checks : (s.setOctet n x).checks = s.checks := rfl
@[simp] theorem State.setOctet_firmware : (s.setOctet n x).firmware = s.firmware := rfl
@[simp] theorem State.setOctet_flash : (s.setOctet n x).flash = s.flash := rfl
@[simp] theorem State.setOctet_fuses : (s.setOctet n x).fuses = s.fuses := rfl
@[simp] theorem State.setOctet_commands : (s.setOctet n x).commands = s.commands := rfl
@[simp] theorem State.setOctet_heldBells : (s.setOctet n x).heldBells = s.heldBells := rfl
@[simp] theorem State.setOctet_resetting : (s.setOctet n x).resetting = s.resetting := rfl
@[simp] theorem State.setOctet_powerLimit : (s.setOctet n x).powerLimit = s.powerLimit := rfl
@[simp] theorem State.setOctet_gating : (s.setOctet n x).gating = s.gating := rfl
@[simp] theorem State.setOctet_tripped : (s.setOctet n x).tripped = s.tripped := rfl
@[simp] theorem State.setOctet_linksDown : (s.setOctet n x).linksDown = s.linksDown := rfl
@[simp] theorem State.setOctet_peerGroups : (s.setOctet n x).peerGroups = s.peerGroups := rfl
@[simp] theorem State.setOctet_groupHolder : (s.setOctet n x).groupHolder = s.groupHolder := rfl
@[simp] theorem State.setOctet_outside : (s.setOctet n x).outside = s.outside := rfl
@[simp] theorem State.setOctet_cycle : (s.setOctet n x).cycle = s.cycle := rfl
@[simp] theorem State.setOctet_nextId : (s.setOctet n x).nextId = s.nextId := rfl
@[simp] theorem State.setOctet_fresh : (s.setOctet n x).fresh = s.fresh := rfl
@[simp] theorem State.setOctet_agenda : (s.setOctet n x).agenda = s.agenda := rfl
@[simp] theorem State.setOctet_focus : (s.setOctet n x).focus = s.focus := rfl
@[simp] theorem State.setOctet_cur : (s.setOctet n x).cur = s.cur := rfl
@[simp] theorem State.setOctet_latch : (s.setOctet n x).latch = s.latch := rfl
@[simp] theorem State.setOctet_slow : (s.setOctet n x).slow = s.slow := rfl
@[simp] theorem State.setOctet_octets : (s.setOctet n x).octets = amPut s.octets n x := rfl
end

section
variable (s : State) (n : Nat) (x : Cluster)
@[simp] theorem State.setCluster_mem : (s.setCluster n x).mem = s.mem := rfl
@[simp] theorem State.setCluster_threads : (s.setCluster n x).threads = s.threads := rfl
@[simp] theorem State.setCluster_cores : (s.setCluster n x).cores = s.cores := rfl
@[simp] theorem State.setCluster_octets : (s.setCluster n x).octets = s.octets := rfl
@[simp] theorem State.setCluster_dies : (s.setCluster n x).dies = s.dies := rfl
@[simp] theorem State.setCluster_tenants : (s.setCluster n x).tenants = s.tenants := rfl
@[simp] theorem State.setCluster_launches : (s.setCluster n x).launches = s.launches := rfl
@[simp] theorem State.setCluster_ropes : (s.setCluster n x).ropes = s.ropes := rfl
@[simp] theorem State.setCluster_rounds : (s.setCluster n x).rounds = s.rounds := rfl
@[simp] theorem State.setCluster_holds : (s.setCluster n x).holds = s.holds := rfl
@[simp] theorem State.setCluster_watches : (s.setCluster n x).watches = s.watches := rfl
@[simp] theorem State.setCluster_returns : (s.setCluster n x).returns = s.returns := rfl
@[simp] theorem State.setCluster_updatedAt : (s.setCluster n x).updatedAt = s.updatedAt := rfl
@[simp] theorem State.setCluster_flights : (s.setCluster n x).flights = s.flights := rfl
@[simp] theorem State.setCluster_packets : (s.setCluster n x).packets = s.packets := rfl
@[simp] theorem State.setCluster_combines : (s.setCluster n x).combines = s.combines := rfl
@[simp] theorem State.setCluster_granted : (s.setCluster n x).granted = s.granted := rfl
@[simp] theorem State.setCluster_flowing : (s.setCluster n x).flowing = s.flowing := rfl
@[simp] theorem State.setCluster_access : (s.setCluster n x).access = s.access := rfl
@[simp] theorem State.setCluster_queues : (s.setCluster n x).queues = s.queues := rfl
@[simp] theorem State.setCluster_hdm : (s.setCluster n x).hdm = s.hdm := rfl
@[simp] theorem State.setCluster_mailboxWords : (s.setCluster n x).mailboxWords = s.mailboxWords := rfl
@[simp] theorem State.setCluster_mailboxStatus : (s.setCluster n x).mailboxStatus = s.mailboxStatus := rfl
@[simp] theorem State.setCluster_mailboxCode : (s.setCluster n x).mailboxCode = s.mailboxCode := rfl
@[simp] theorem State.setCluster_hostReply : (s.setCluster n x).hostReply = s.hostReply := rfl
@[simp] theorem State.setCluster_checks : (s.setCluster n x).checks = s.checks := rfl
@[simp] theorem State.setCluster_firmware : (s.setCluster n x).firmware = s.firmware := rfl
@[simp] theorem State.setCluster_flash : (s.setCluster n x).flash = s.flash := rfl
@[simp] theorem State.setCluster_fuses : (s.setCluster n x).fuses = s.fuses := rfl
@[simp] theorem State.setCluster_commands : (s.setCluster n x).commands = s.commands := rfl
@[simp] theorem State.setCluster_heldBells : (s.setCluster n x).heldBells = s.heldBells := rfl
@[simp] theorem State.setCluster_resetting : (s.setCluster n x).resetting = s.resetting := rfl
@[simp] theorem State.setCluster_powerLimit : (s.setCluster n x).powerLimit = s.powerLimit := rfl
@[simp] theorem State.setCluster_gating : (s.setCluster n x).gating = s.gating := rfl
@[simp] theorem State.setCluster_tripped : (s.setCluster n x).tripped = s.tripped := rfl
@[simp] theorem State.setCluster_linksDown : (s.setCluster n x).linksDown = s.linksDown := rfl
@[simp] theorem State.setCluster_peerGroups : (s.setCluster n x).peerGroups = s.peerGroups := rfl
@[simp] theorem State.setCluster_groupHolder : (s.setCluster n x).groupHolder = s.groupHolder := rfl
@[simp] theorem State.setCluster_outside : (s.setCluster n x).outside = s.outside := rfl
@[simp] theorem State.setCluster_cycle : (s.setCluster n x).cycle = s.cycle := rfl
@[simp] theorem State.setCluster_nextId : (s.setCluster n x).nextId = s.nextId := rfl
@[simp] theorem State.setCluster_fresh : (s.setCluster n x).fresh = s.fresh := rfl
@[simp] theorem State.setCluster_agenda : (s.setCluster n x).agenda = s.agenda := rfl
@[simp] theorem State.setCluster_focus : (s.setCluster n x).focus = s.focus := rfl
@[simp] theorem State.setCluster_cur : (s.setCluster n x).cur = s.cur := rfl
@[simp] theorem State.setCluster_latch : (s.setCluster n x).latch = s.latch := rfl
@[simp] theorem State.setCluster_slow : (s.setCluster n x).slow = s.slow := rfl
@[simp] theorem State.setCluster_clusters : (s.setCluster n x).clusters = amPut s.clusters n x := rfl
end

section
variable (s : State) (n : Nat) (x : Die)
@[simp] theorem State.setDie_mem : (s.setDie n x).mem = s.mem := rfl
@[simp] theorem State.setDie_threads : (s.setDie n x).threads = s.threads := rfl
@[simp] theorem State.setDie_cores : (s.setDie n x).cores = s.cores := rfl
@[simp] theorem State.setDie_octets : (s.setDie n x).octets = s.octets := rfl
@[simp] theorem State.setDie_clusters : (s.setDie n x).clusters = s.clusters := rfl
@[simp] theorem State.setDie_tenants : (s.setDie n x).tenants = s.tenants := rfl
@[simp] theorem State.setDie_launches : (s.setDie n x).launches = s.launches := rfl
@[simp] theorem State.setDie_ropes : (s.setDie n x).ropes = s.ropes := rfl
@[simp] theorem State.setDie_rounds : (s.setDie n x).rounds = s.rounds := rfl
@[simp] theorem State.setDie_holds : (s.setDie n x).holds = s.holds := rfl
@[simp] theorem State.setDie_watches : (s.setDie n x).watches = s.watches := rfl
@[simp] theorem State.setDie_returns : (s.setDie n x).returns = s.returns := rfl
@[simp] theorem State.setDie_updatedAt : (s.setDie n x).updatedAt = s.updatedAt := rfl
@[simp] theorem State.setDie_flights : (s.setDie n x).flights = s.flights := rfl
@[simp] theorem State.setDie_packets : (s.setDie n x).packets = s.packets := rfl
@[simp] theorem State.setDie_combines : (s.setDie n x).combines = s.combines := rfl
@[simp] theorem State.setDie_granted : (s.setDie n x).granted = s.granted := rfl
@[simp] theorem State.setDie_flowing : (s.setDie n x).flowing = s.flowing := rfl
@[simp] theorem State.setDie_access : (s.setDie n x).access = s.access := rfl
@[simp] theorem State.setDie_queues : (s.setDie n x).queues = s.queues := rfl
@[simp] theorem State.setDie_hdm : (s.setDie n x).hdm = s.hdm := rfl
@[simp] theorem State.setDie_mailboxWords : (s.setDie n x).mailboxWords = s.mailboxWords := rfl
@[simp] theorem State.setDie_mailboxStatus : (s.setDie n x).mailboxStatus = s.mailboxStatus := rfl
@[simp] theorem State.setDie_mailboxCode : (s.setDie n x).mailboxCode = s.mailboxCode := rfl
@[simp] theorem State.setDie_hostReply : (s.setDie n x).hostReply = s.hostReply := rfl
@[simp] theorem State.setDie_checks : (s.setDie n x).checks = s.checks := rfl
@[simp] theorem State.setDie_firmware : (s.setDie n x).firmware = s.firmware := rfl
@[simp] theorem State.setDie_flash : (s.setDie n x).flash = s.flash := rfl
@[simp] theorem State.setDie_fuses : (s.setDie n x).fuses = s.fuses := rfl
@[simp] theorem State.setDie_commands : (s.setDie n x).commands = s.commands := rfl
@[simp] theorem State.setDie_heldBells : (s.setDie n x).heldBells = s.heldBells := rfl
@[simp] theorem State.setDie_resetting : (s.setDie n x).resetting = s.resetting := rfl
@[simp] theorem State.setDie_powerLimit : (s.setDie n x).powerLimit = s.powerLimit := rfl
@[simp] theorem State.setDie_gating : (s.setDie n x).gating = s.gating := rfl
@[simp] theorem State.setDie_tripped : (s.setDie n x).tripped = s.tripped := rfl
@[simp] theorem State.setDie_linksDown : (s.setDie n x).linksDown = s.linksDown := rfl
@[simp] theorem State.setDie_peerGroups : (s.setDie n x).peerGroups = s.peerGroups := rfl
@[simp] theorem State.setDie_groupHolder : (s.setDie n x).groupHolder = s.groupHolder := rfl
@[simp] theorem State.setDie_outside : (s.setDie n x).outside = s.outside := rfl
@[simp] theorem State.setDie_cycle : (s.setDie n x).cycle = s.cycle := rfl
@[simp] theorem State.setDie_nextId : (s.setDie n x).nextId = s.nextId := rfl
@[simp] theorem State.setDie_fresh : (s.setDie n x).fresh = s.fresh := rfl
@[simp] theorem State.setDie_agenda : (s.setDie n x).agenda = s.agenda := rfl
@[simp] theorem State.setDie_focus : (s.setDie n x).focus = s.focus := rfl
@[simp] theorem State.setDie_cur : (s.setDie n x).cur = s.cur := rfl
@[simp] theorem State.setDie_latch : (s.setDie n x).latch = s.latch := rfl
@[simp] theorem State.setDie_slow : (s.setDie n x).slow = s.slow := rfl
@[simp] theorem State.setDie_dies : (s.setDie n x).dies = amPut s.dies n x := rfl
end

section
variable (s : State) (n : Nat) (x : Tenant)
@[simp] theorem State.setTenant_mem : (s.setTenant n x).mem = s.mem := rfl
@[simp] theorem State.setTenant_threads : (s.setTenant n x).threads = s.threads := rfl
@[simp] theorem State.setTenant_cores : (s.setTenant n x).cores = s.cores := rfl
@[simp] theorem State.setTenant_octets : (s.setTenant n x).octets = s.octets := rfl
@[simp] theorem State.setTenant_clusters : (s.setTenant n x).clusters = s.clusters := rfl
@[simp] theorem State.setTenant_dies : (s.setTenant n x).dies = s.dies := rfl
@[simp] theorem State.setTenant_launches : (s.setTenant n x).launches = s.launches := rfl
@[simp] theorem State.setTenant_ropes : (s.setTenant n x).ropes = s.ropes := rfl
@[simp] theorem State.setTenant_rounds : (s.setTenant n x).rounds = s.rounds := rfl
@[simp] theorem State.setTenant_holds : (s.setTenant n x).holds = s.holds := rfl
@[simp] theorem State.setTenant_watches : (s.setTenant n x).watches = s.watches := rfl
@[simp] theorem State.setTenant_returns : (s.setTenant n x).returns = s.returns := rfl
@[simp] theorem State.setTenant_updatedAt : (s.setTenant n x).updatedAt = s.updatedAt := rfl
@[simp] theorem State.setTenant_flights : (s.setTenant n x).flights = s.flights := rfl
@[simp] theorem State.setTenant_packets : (s.setTenant n x).packets = s.packets := rfl
@[simp] theorem State.setTenant_combines : (s.setTenant n x).combines = s.combines := rfl
@[simp] theorem State.setTenant_granted : (s.setTenant n x).granted = s.granted := rfl
@[simp] theorem State.setTenant_flowing : (s.setTenant n x).flowing = s.flowing := rfl
@[simp] theorem State.setTenant_access : (s.setTenant n x).access = s.access := rfl
@[simp] theorem State.setTenant_queues : (s.setTenant n x).queues = s.queues := rfl
@[simp] theorem State.setTenant_hdm : (s.setTenant n x).hdm = s.hdm := rfl
@[simp] theorem State.setTenant_mailboxWords : (s.setTenant n x).mailboxWords = s.mailboxWords := rfl
@[simp] theorem State.setTenant_mailboxStatus : (s.setTenant n x).mailboxStatus = s.mailboxStatus := rfl
@[simp] theorem State.setTenant_mailboxCode : (s.setTenant n x).mailboxCode = s.mailboxCode := rfl
@[simp] theorem State.setTenant_hostReply : (s.setTenant n x).hostReply = s.hostReply := rfl
@[simp] theorem State.setTenant_checks : (s.setTenant n x).checks = s.checks := rfl
@[simp] theorem State.setTenant_firmware : (s.setTenant n x).firmware = s.firmware := rfl
@[simp] theorem State.setTenant_flash : (s.setTenant n x).flash = s.flash := rfl
@[simp] theorem State.setTenant_fuses : (s.setTenant n x).fuses = s.fuses := rfl
@[simp] theorem State.setTenant_commands : (s.setTenant n x).commands = s.commands := rfl
@[simp] theorem State.setTenant_heldBells : (s.setTenant n x).heldBells = s.heldBells := rfl
@[simp] theorem State.setTenant_resetting : (s.setTenant n x).resetting = s.resetting := rfl
@[simp] theorem State.setTenant_powerLimit : (s.setTenant n x).powerLimit = s.powerLimit := rfl
@[simp] theorem State.setTenant_gating : (s.setTenant n x).gating = s.gating := rfl
@[simp] theorem State.setTenant_tripped : (s.setTenant n x).tripped = s.tripped := rfl
@[simp] theorem State.setTenant_linksDown : (s.setTenant n x).linksDown = s.linksDown := rfl
@[simp] theorem State.setTenant_peerGroups : (s.setTenant n x).peerGroups = s.peerGroups := rfl
@[simp] theorem State.setTenant_groupHolder : (s.setTenant n x).groupHolder = s.groupHolder := rfl
@[simp] theorem State.setTenant_outside : (s.setTenant n x).outside = s.outside := rfl
@[simp] theorem State.setTenant_cycle : (s.setTenant n x).cycle = s.cycle := rfl
@[simp] theorem State.setTenant_nextId : (s.setTenant n x).nextId = s.nextId := rfl
@[simp] theorem State.setTenant_fresh : (s.setTenant n x).fresh = s.fresh := rfl
@[simp] theorem State.setTenant_agenda : (s.setTenant n x).agenda = s.agenda := rfl
@[simp] theorem State.setTenant_focus : (s.setTenant n x).focus = s.focus := rfl
@[simp] theorem State.setTenant_cur : (s.setTenant n x).cur = s.cur := rfl
@[simp] theorem State.setTenant_latch : (s.setTenant n x).latch = s.latch := rfl
@[simp] theorem State.setTenant_slow : (s.setTenant n x).slow = s.slow := rfl
@[simp] theorem State.setTenant_tenants : (s.setTenant n x).tenants = amPut s.tenants n x := rfl
end

section
variable (s : State) (n : Nat) (x : HostQueue)
@[simp] theorem State.setQueue_mem : (s.setQueue n x).mem = s.mem := rfl
@[simp] theorem State.setQueue_threads : (s.setQueue n x).threads = s.threads := rfl
@[simp] theorem State.setQueue_cores : (s.setQueue n x).cores = s.cores := rfl
@[simp] theorem State.setQueue_octets : (s.setQueue n x).octets = s.octets := rfl
@[simp] theorem State.setQueue_clusters : (s.setQueue n x).clusters = s.clusters := rfl
@[simp] theorem State.setQueue_dies : (s.setQueue n x).dies = s.dies := rfl
@[simp] theorem State.setQueue_tenants : (s.setQueue n x).tenants = s.tenants := rfl
@[simp] theorem State.setQueue_launches : (s.setQueue n x).launches = s.launches := rfl
@[simp] theorem State.setQueue_ropes : (s.setQueue n x).ropes = s.ropes := rfl
@[simp] theorem State.setQueue_rounds : (s.setQueue n x).rounds = s.rounds := rfl
@[simp] theorem State.setQueue_holds : (s.setQueue n x).holds = s.holds := rfl
@[simp] theorem State.setQueue_watches : (s.setQueue n x).watches = s.watches := rfl
@[simp] theorem State.setQueue_returns : (s.setQueue n x).returns = s.returns := rfl
@[simp] theorem State.setQueue_updatedAt : (s.setQueue n x).updatedAt = s.updatedAt := rfl
@[simp] theorem State.setQueue_flights : (s.setQueue n x).flights = s.flights := rfl
@[simp] theorem State.setQueue_packets : (s.setQueue n x).packets = s.packets := rfl
@[simp] theorem State.setQueue_combines : (s.setQueue n x).combines = s.combines := rfl
@[simp] theorem State.setQueue_granted : (s.setQueue n x).granted = s.granted := rfl
@[simp] theorem State.setQueue_flowing : (s.setQueue n x).flowing = s.flowing := rfl
@[simp] theorem State.setQueue_access : (s.setQueue n x).access = s.access := rfl
@[simp] theorem State.setQueue_hdm : (s.setQueue n x).hdm = s.hdm := rfl
@[simp] theorem State.setQueue_mailboxWords : (s.setQueue n x).mailboxWords = s.mailboxWords := rfl
@[simp] theorem State.setQueue_mailboxStatus : (s.setQueue n x).mailboxStatus = s.mailboxStatus := rfl
@[simp] theorem State.setQueue_mailboxCode : (s.setQueue n x).mailboxCode = s.mailboxCode := rfl
@[simp] theorem State.setQueue_hostReply : (s.setQueue n x).hostReply = s.hostReply := rfl
@[simp] theorem State.setQueue_checks : (s.setQueue n x).checks = s.checks := rfl
@[simp] theorem State.setQueue_firmware : (s.setQueue n x).firmware = s.firmware := rfl
@[simp] theorem State.setQueue_flash : (s.setQueue n x).flash = s.flash := rfl
@[simp] theorem State.setQueue_fuses : (s.setQueue n x).fuses = s.fuses := rfl
@[simp] theorem State.setQueue_commands : (s.setQueue n x).commands = s.commands := rfl
@[simp] theorem State.setQueue_heldBells : (s.setQueue n x).heldBells = s.heldBells := rfl
@[simp] theorem State.setQueue_resetting : (s.setQueue n x).resetting = s.resetting := rfl
@[simp] theorem State.setQueue_powerLimit : (s.setQueue n x).powerLimit = s.powerLimit := rfl
@[simp] theorem State.setQueue_gating : (s.setQueue n x).gating = s.gating := rfl
@[simp] theorem State.setQueue_tripped : (s.setQueue n x).tripped = s.tripped := rfl
@[simp] theorem State.setQueue_linksDown : (s.setQueue n x).linksDown = s.linksDown := rfl
@[simp] theorem State.setQueue_peerGroups : (s.setQueue n x).peerGroups = s.peerGroups := rfl
@[simp] theorem State.setQueue_groupHolder : (s.setQueue n x).groupHolder = s.groupHolder := rfl
@[simp] theorem State.setQueue_outside : (s.setQueue n x).outside = s.outside := rfl
@[simp] theorem State.setQueue_cycle : (s.setQueue n x).cycle = s.cycle := rfl
@[simp] theorem State.setQueue_nextId : (s.setQueue n x).nextId = s.nextId := rfl
@[simp] theorem State.setQueue_fresh : (s.setQueue n x).fresh = s.fresh := rfl
@[simp] theorem State.setQueue_agenda : (s.setQueue n x).agenda = s.agenda := rfl
@[simp] theorem State.setQueue_focus : (s.setQueue n x).focus = s.focus := rfl
@[simp] theorem State.setQueue_cur : (s.setQueue n x).cur = s.cur := rfl
@[simp] theorem State.setQueue_latch : (s.setQueue n x).latch = s.latch := rfl
@[simp] theorem State.setQueue_slow : (s.setQueue n x).slow = s.slow := rfl
@[simp] theorem State.setQueue_queues : (s.setQueue n x).queues = amPut s.queues n x := rfl
end

section
variable (s : State) (n : Nat) (x : Launch)
@[simp] theorem State.setLaunch_mem : (s.setLaunch n x).mem = s.mem := rfl
@[simp] theorem State.setLaunch_threads : (s.setLaunch n x).threads = s.threads := rfl
@[simp] theorem State.setLaunch_cores : (s.setLaunch n x).cores = s.cores := rfl
@[simp] theorem State.setLaunch_octets : (s.setLaunch n x).octets = s.octets := rfl
@[simp] theorem State.setLaunch_clusters : (s.setLaunch n x).clusters = s.clusters := rfl
@[simp] theorem State.setLaunch_dies : (s.setLaunch n x).dies = s.dies := rfl
@[simp] theorem State.setLaunch_tenants : (s.setLaunch n x).tenants = s.tenants := rfl
@[simp] theorem State.setLaunch_ropes : (s.setLaunch n x).ropes = s.ropes := rfl
@[simp] theorem State.setLaunch_rounds : (s.setLaunch n x).rounds = s.rounds := rfl
@[simp] theorem State.setLaunch_holds : (s.setLaunch n x).holds = s.holds := rfl
@[simp] theorem State.setLaunch_watches : (s.setLaunch n x).watches = s.watches := rfl
@[simp] theorem State.setLaunch_returns : (s.setLaunch n x).returns = s.returns := rfl
@[simp] theorem State.setLaunch_updatedAt : (s.setLaunch n x).updatedAt = s.updatedAt := rfl
@[simp] theorem State.setLaunch_flights : (s.setLaunch n x).flights = s.flights := rfl
@[simp] theorem State.setLaunch_packets : (s.setLaunch n x).packets = s.packets := rfl
@[simp] theorem State.setLaunch_combines : (s.setLaunch n x).combines = s.combines := rfl
@[simp] theorem State.setLaunch_granted : (s.setLaunch n x).granted = s.granted := rfl
@[simp] theorem State.setLaunch_flowing : (s.setLaunch n x).flowing = s.flowing := rfl
@[simp] theorem State.setLaunch_access : (s.setLaunch n x).access = s.access := rfl
@[simp] theorem State.setLaunch_queues : (s.setLaunch n x).queues = s.queues := rfl
@[simp] theorem State.setLaunch_hdm : (s.setLaunch n x).hdm = s.hdm := rfl
@[simp] theorem State.setLaunch_mailboxWords : (s.setLaunch n x).mailboxWords = s.mailboxWords := rfl
@[simp] theorem State.setLaunch_mailboxStatus : (s.setLaunch n x).mailboxStatus = s.mailboxStatus := rfl
@[simp] theorem State.setLaunch_mailboxCode : (s.setLaunch n x).mailboxCode = s.mailboxCode := rfl
@[simp] theorem State.setLaunch_hostReply : (s.setLaunch n x).hostReply = s.hostReply := rfl
@[simp] theorem State.setLaunch_checks : (s.setLaunch n x).checks = s.checks := rfl
@[simp] theorem State.setLaunch_firmware : (s.setLaunch n x).firmware = s.firmware := rfl
@[simp] theorem State.setLaunch_flash : (s.setLaunch n x).flash = s.flash := rfl
@[simp] theorem State.setLaunch_fuses : (s.setLaunch n x).fuses = s.fuses := rfl
@[simp] theorem State.setLaunch_commands : (s.setLaunch n x).commands = s.commands := rfl
@[simp] theorem State.setLaunch_heldBells : (s.setLaunch n x).heldBells = s.heldBells := rfl
@[simp] theorem State.setLaunch_resetting : (s.setLaunch n x).resetting = s.resetting := rfl
@[simp] theorem State.setLaunch_powerLimit : (s.setLaunch n x).powerLimit = s.powerLimit := rfl
@[simp] theorem State.setLaunch_gating : (s.setLaunch n x).gating = s.gating := rfl
@[simp] theorem State.setLaunch_tripped : (s.setLaunch n x).tripped = s.tripped := rfl
@[simp] theorem State.setLaunch_linksDown : (s.setLaunch n x).linksDown = s.linksDown := rfl
@[simp] theorem State.setLaunch_peerGroups : (s.setLaunch n x).peerGroups = s.peerGroups := rfl
@[simp] theorem State.setLaunch_groupHolder : (s.setLaunch n x).groupHolder = s.groupHolder := rfl
@[simp] theorem State.setLaunch_outside : (s.setLaunch n x).outside = s.outside := rfl
@[simp] theorem State.setLaunch_cycle : (s.setLaunch n x).cycle = s.cycle := rfl
@[simp] theorem State.setLaunch_nextId : (s.setLaunch n x).nextId = s.nextId := rfl
@[simp] theorem State.setLaunch_fresh : (s.setLaunch n x).fresh = s.fresh := rfl
@[simp] theorem State.setLaunch_agenda : (s.setLaunch n x).agenda = s.agenda := rfl
@[simp] theorem State.setLaunch_focus : (s.setLaunch n x).focus = s.focus := rfl
@[simp] theorem State.setLaunch_cur : (s.setLaunch n x).cur = s.cur := rfl
@[simp] theorem State.setLaunch_latch : (s.setLaunch n x).latch = s.latch := rfl
@[simp] theorem State.setLaunch_slow : (s.setLaunch n x).slow = s.slow := rfl
@[simp] theorem State.setLaunch_launches : (s.setLaunch n x).launches = amPut s.launches n x := rfl
end

section
variable (s : State) (n : Nat) (x : Rope)
@[simp] theorem State.setRope_mem : (s.setRope n x).mem = s.mem := rfl
@[simp] theorem State.setRope_threads : (s.setRope n x).threads = s.threads := rfl
@[simp] theorem State.setRope_cores : (s.setRope n x).cores = s.cores := rfl
@[simp] theorem State.setRope_octets : (s.setRope n x).octets = s.octets := rfl
@[simp] theorem State.setRope_clusters : (s.setRope n x).clusters = s.clusters := rfl
@[simp] theorem State.setRope_dies : (s.setRope n x).dies = s.dies := rfl
@[simp] theorem State.setRope_tenants : (s.setRope n x).tenants = s.tenants := rfl
@[simp] theorem State.setRope_launches : (s.setRope n x).launches = s.launches := rfl
@[simp] theorem State.setRope_rounds : (s.setRope n x).rounds = s.rounds := rfl
@[simp] theorem State.setRope_holds : (s.setRope n x).holds = s.holds := rfl
@[simp] theorem State.setRope_watches : (s.setRope n x).watches = s.watches := rfl
@[simp] theorem State.setRope_returns : (s.setRope n x).returns = s.returns := rfl
@[simp] theorem State.setRope_updatedAt : (s.setRope n x).updatedAt = s.updatedAt := rfl
@[simp] theorem State.setRope_flights : (s.setRope n x).flights = s.flights := rfl
@[simp] theorem State.setRope_packets : (s.setRope n x).packets = s.packets := rfl
@[simp] theorem State.setRope_combines : (s.setRope n x).combines = s.combines := rfl
@[simp] theorem State.setRope_granted : (s.setRope n x).granted = s.granted := rfl
@[simp] theorem State.setRope_flowing : (s.setRope n x).flowing = s.flowing := rfl
@[simp] theorem State.setRope_access : (s.setRope n x).access = s.access := rfl
@[simp] theorem State.setRope_queues : (s.setRope n x).queues = s.queues := rfl
@[simp] theorem State.setRope_hdm : (s.setRope n x).hdm = s.hdm := rfl
@[simp] theorem State.setRope_mailboxWords : (s.setRope n x).mailboxWords = s.mailboxWords := rfl
@[simp] theorem State.setRope_mailboxStatus : (s.setRope n x).mailboxStatus = s.mailboxStatus := rfl
@[simp] theorem State.setRope_mailboxCode : (s.setRope n x).mailboxCode = s.mailboxCode := rfl
@[simp] theorem State.setRope_hostReply : (s.setRope n x).hostReply = s.hostReply := rfl
@[simp] theorem State.setRope_checks : (s.setRope n x).checks = s.checks := rfl
@[simp] theorem State.setRope_firmware : (s.setRope n x).firmware = s.firmware := rfl
@[simp] theorem State.setRope_flash : (s.setRope n x).flash = s.flash := rfl
@[simp] theorem State.setRope_fuses : (s.setRope n x).fuses = s.fuses := rfl
@[simp] theorem State.setRope_commands : (s.setRope n x).commands = s.commands := rfl
@[simp] theorem State.setRope_heldBells : (s.setRope n x).heldBells = s.heldBells := rfl
@[simp] theorem State.setRope_resetting : (s.setRope n x).resetting = s.resetting := rfl
@[simp] theorem State.setRope_powerLimit : (s.setRope n x).powerLimit = s.powerLimit := rfl
@[simp] theorem State.setRope_gating : (s.setRope n x).gating = s.gating := rfl
@[simp] theorem State.setRope_tripped : (s.setRope n x).tripped = s.tripped := rfl
@[simp] theorem State.setRope_linksDown : (s.setRope n x).linksDown = s.linksDown := rfl
@[simp] theorem State.setRope_peerGroups : (s.setRope n x).peerGroups = s.peerGroups := rfl
@[simp] theorem State.setRope_groupHolder : (s.setRope n x).groupHolder = s.groupHolder := rfl
@[simp] theorem State.setRope_outside : (s.setRope n x).outside = s.outside := rfl
@[simp] theorem State.setRope_cycle : (s.setRope n x).cycle = s.cycle := rfl
@[simp] theorem State.setRope_nextId : (s.setRope n x).nextId = s.nextId := rfl
@[simp] theorem State.setRope_fresh : (s.setRope n x).fresh = s.fresh := rfl
@[simp] theorem State.setRope_agenda : (s.setRope n x).agenda = s.agenda := rfl
@[simp] theorem State.setRope_focus : (s.setRope n x).focus = s.focus := rfl
@[simp] theorem State.setRope_cur : (s.setRope n x).cur = s.cur := rfl
@[simp] theorem State.setRope_latch : (s.setRope n x).latch = s.latch := rfl
@[simp] theorem State.setRope_slow : (s.setRope n x).slow = s.slow := rfl
@[simp] theorem State.setRope_ropes : (s.setRope n x).ropes = amPut s.ropes n x := rfl
end

section
variable (s : State) (n : Nat) (f : Thread → Thread)
@[simp] theorem State.modThread_mem : (s.modThread n f).mem = s.mem := by unfold State.modThread; split <;> rfl
@[simp] theorem State.modThread_cores : (s.modThread n f).cores = s.cores := by unfold State.modThread; split <;> rfl
@[simp] theorem State.modThread_octets : (s.modThread n f).octets = s.octets := by unfold State.modThread; split <;> rfl
@[simp] theorem State.modThread_clusters : (s.modThread n f).clusters = s.clusters := by unfold State.modThread; split <;> rfl
@[simp] theorem State.modThread_dies : (s.modThread n f).dies = s.dies := by unfold State.modThread; split <;> rfl
@[simp] theorem State.modThread_tenants : (s.modThread n f).tenants = s.tenants := by unfold State.modThread; split <;> rfl
@[simp] theorem State.modThread_launches : (s.modThread n f).launches = s.launches := by unfold State.modThread; split <;> rfl
@[simp] theorem State.modThread_ropes : (s.modThread n f).ropes = s.ropes := by unfold State.modThread; split <;> rfl
@[simp] theorem State.modThread_rounds : (s.modThread n f).rounds = s.rounds := by unfold State.modThread; split <;> rfl
@[simp] theorem State.modThread_holds : (s.modThread n f).holds = s.holds := by unfold State.modThread; split <;> rfl
@[simp] theorem State.modThread_watches : (s.modThread n f).watches = s.watches := by unfold State.modThread; split <;> rfl
@[simp] theorem State.modThread_returns : (s.modThread n f).returns = s.returns := by unfold State.modThread; split <;> rfl
@[simp] theorem State.modThread_updatedAt : (s.modThread n f).updatedAt = s.updatedAt := by unfold State.modThread; split <;> rfl
@[simp] theorem State.modThread_flights : (s.modThread n f).flights = s.flights := by unfold State.modThread; split <;> rfl
@[simp] theorem State.modThread_packets : (s.modThread n f).packets = s.packets := by unfold State.modThread; split <;> rfl
@[simp] theorem State.modThread_combines : (s.modThread n f).combines = s.combines := by unfold State.modThread; split <;> rfl
@[simp] theorem State.modThread_granted : (s.modThread n f).granted = s.granted := by unfold State.modThread; split <;> rfl
@[simp] theorem State.modThread_flowing : (s.modThread n f).flowing = s.flowing := by unfold State.modThread; split <;> rfl
@[simp] theorem State.modThread_access : (s.modThread n f).access = s.access := by unfold State.modThread; split <;> rfl
@[simp] theorem State.modThread_queues : (s.modThread n f).queues = s.queues := by unfold State.modThread; split <;> rfl
@[simp] theorem State.modThread_hdm : (s.modThread n f).hdm = s.hdm := by unfold State.modThread; split <;> rfl
@[simp] theorem State.modThread_mailboxWords : (s.modThread n f).mailboxWords = s.mailboxWords := by unfold State.modThread; split <;> rfl
@[simp] theorem State.modThread_mailboxStatus : (s.modThread n f).mailboxStatus = s.mailboxStatus := by unfold State.modThread; split <;> rfl
@[simp] theorem State.modThread_mailboxCode : (s.modThread n f).mailboxCode = s.mailboxCode := by unfold State.modThread; split <;> rfl
@[simp] theorem State.modThread_hostReply : (s.modThread n f).hostReply = s.hostReply := by unfold State.modThread; split <;> rfl
@[simp] theorem State.modThread_checks : (s.modThread n f).checks = s.checks := by unfold State.modThread; split <;> rfl
@[simp] theorem State.modThread_firmware : (s.modThread n f).firmware = s.firmware := by unfold State.modThread; split <;> rfl
@[simp] theorem State.modThread_flash : (s.modThread n f).flash = s.flash := by unfold State.modThread; split <;> rfl
@[simp] theorem State.modThread_fuses : (s.modThread n f).fuses = s.fuses := by unfold State.modThread; split <;> rfl
@[simp] theorem State.modThread_commands : (s.modThread n f).commands = s.commands := by unfold State.modThread; split <;> rfl
@[simp] theorem State.modThread_heldBells : (s.modThread n f).heldBells = s.heldBells := by unfold State.modThread; split <;> rfl
@[simp] theorem State.modThread_resetting : (s.modThread n f).resetting = s.resetting := by unfold State.modThread; split <;> rfl
@[simp] theorem State.modThread_powerLimit : (s.modThread n f).powerLimit = s.powerLimit := by unfold State.modThread; split <;> rfl
@[simp] theorem State.modThread_gating : (s.modThread n f).gating = s.gating := by unfold State.modThread; split <;> rfl
@[simp] theorem State.modThread_tripped : (s.modThread n f).tripped = s.tripped := by unfold State.modThread; split <;> rfl
@[simp] theorem State.modThread_linksDown : (s.modThread n f).linksDown = s.linksDown := by unfold State.modThread; split <;> rfl
@[simp] theorem State.modThread_peerGroups : (s.modThread n f).peerGroups = s.peerGroups := by unfold State.modThread; split <;> rfl
@[simp] theorem State.modThread_groupHolder : (s.modThread n f).groupHolder = s.groupHolder := by unfold State.modThread; split <;> rfl
@[simp] theorem State.modThread_outside : (s.modThread n f).outside = s.outside := by unfold State.modThread; split <;> rfl
@[simp] theorem State.modThread_cycle : (s.modThread n f).cycle = s.cycle := by unfold State.modThread; split <;> rfl
@[simp] theorem State.modThread_nextId : (s.modThread n f).nextId = s.nextId := by unfold State.modThread; split <;> rfl
@[simp] theorem State.modThread_fresh : (s.modThread n f).fresh = s.fresh := by unfold State.modThread; split <;> rfl
@[simp] theorem State.modThread_agenda : (s.modThread n f).agenda = s.agenda := by unfold State.modThread; split <;> rfl
@[simp] theorem State.modThread_focus : (s.modThread n f).focus = s.focus := by unfold State.modThread; split <;> rfl
@[simp] theorem State.modThread_cur : (s.modThread n f).cur = s.cur := by unfold State.modThread; split <;> rfl
@[simp] theorem State.modThread_latch : (s.modThread n f).latch = s.latch := by unfold State.modThread; split <;> rfl
@[simp] theorem State.modThread_slow : (s.modThread n f).slow = s.slow := by unfold State.modThread; split <;> rfl
end

/-! Reading back -/

section
variable (s : State) (n m : Nat)
@[simp] theorem State.thread?_setThread (x : Thread) :
    (s.setThread n x).thread? m = if n = m then some x else s.thread? m := amGet_amPut _ _ _ _
theorem State.thread?_modThread (f : Thread → Thread) :
    (s.modThread n f).thread? m = if n = m then (s.thread? m).map f else s.thread? m := by
  unfold State.modThread
  by_cases e : n = m
  · subst e; cases h : s.thread? n <;> simp [h]
  · cases h : s.thread? n <;> simp [e]
@[simp] theorem State.core_setCore (x : Core) : (s.setCore n x).core m = if n = m then x else s.core m := by
  simp only [State.core, State.setCore, amGetD, amGet_amPut]; split <;> rfl
@[simp] theorem State.octet_setOctet (x : Octet) : (s.setOctet n x).octet m = if n = m then x else s.octet m := by
  simp only [State.octet, State.setOctet, amGetD, amGet_amPut]; split <;> rfl
@[simp] theorem State.cluster_setCluster (x : Cluster) : (s.setCluster n x).cluster m = if n = m then x else s.cluster m := by
  simp only [State.cluster, State.setCluster, amGetD, amGet_amPut]; split <;> rfl
@[simp] theorem State.die_setDie (x : Die) : (s.setDie n x).die m = if n = m then x else s.die m := by
  simp only [State.die, State.setDie, amGetD, amGet_amPut]; split <;> rfl
@[simp] theorem State.tenant_setTenant (x : Tenant) : (s.setTenant n x).tenant m = if n = m then x else s.tenant m := by
  simp only [State.tenant, State.setTenant, amGetD, amGet_amPut]; split <;> rfl
end

end Sys2Proof.Machine
end

