-- ==== Sys2Proof/Laws/Issue.lean ====
section
/-! SUPPORT. Sys2Proof/Laws/Issue.lean: what issue, retiring and writing results do, said once. -/

namespace Sys2Proof.Machine

variable {s : State} {t : Thread} {us : List RegUse}

theorem touchedPorts_nil (h : ∀ p ∈ t.ports, ∀ u ∈ us, ∀ n ∈ u.regs, p.2.covers n = false) : touchedPorts t us = [] := by
  simp only [touchedPorts, List.map_eq_nil_iff, List.filter_eq_nil_iff, List.any_eq_true, not_exists, not_and, Bool.not_eq_true]
  exact fun p hp u hu n hn => h p hp u hu n hn

theorem touchedPorts_filter_nil (f : RegUse → Bool) (h : ∀ p ∈ t.ports, ∀ u ∈ us, ∀ n ∈ u.regs, p.2.covers n = false) :
    touchedPorts t (us.filter f) = [] :=
  touchedPorts_nil fun p hp u hu => h p hp u (List.mem_filter.1 hu).1

theorem portOf_none {n : Nat} (h : ∀ p ∈ t.ports, p.2.covers n = false) : t.portOf n = none := by
  simp only [Thread.portOf, List.find?_eq_none, Bool.not_eq_true]; exact h

/-- Every operand of an instruction that can issue is read from its register. -/
theorem CanIssue.src (h : CanIssue s t us) {u : RegUse} (hu : u ∈ us) {n : Nat} (hn : n ∈ u.regs) : t.src n = t.x n := by
  have : t.portOf n = none := portOf_none fun p hp => h.unbound p hp u hu n hn
  simp [Thread.src, this]

/-- An instruction that can issue executes its body, in the slot's state as it stands. -/
theorem CanIssue.issue (h : CanIssue s t us) (body : State → Ctx → State) :
    issue s false us body = .next (body s ⟨s.cur, t, s.latch.tval, s.nextPc t, us⟩) := by
  have h1 : us.any (fun u => u.n % u.span != 0) = false := by
    simp only [List.any_eq_false, bne_iff_ne, ne_eq, Decidable.not_not]
    exact h.aligned
  have h2 : overWindow t us = none := by
    simp only [overWindow, List.min?_eq_none_iff, List.filter_eq_nil_iff, List.mem_flatMap, decide_eq_true_eq, not_le]
    rintro n ⟨u, hu, hn⟩; exact h.inWindow u hu n hn
  have h3 : portMisuse t us = false := by
    simp only [portMisuse, List.any_eq_false]
    intro p hp hx
    simp only [List.any_eq_true, Bool.and_eq_true] at hx
    obtain ⟨u, hu, ⟨-, n, hn, hc⟩, -⟩ := hx
    rw [h.unbound p hp u hu n hn] at hc; cases hc
  have h4 : emptySource t us = none := by
    simp only [emptySource, List.min?_eq_none_iff, List.filter_eq_nil_iff, List.mem_flatMap, List.mem_filter]
    rintro n ⟨u, ⟨hu, hr⟩, hn⟩
    simp [h.full u hu hr n hn]
  have h5 : badParity t us = none := by
    simp only [badParity, List.min?_eq_none_iff, List.filter_eq_nil_iff, List.mem_flatMap, List.mem_filter]
    rintro n ⟨u, ⟨hu, hr⟩, hn⟩
    simp [h.parity u hu hr n hn]
  simp only [Machine.issue, h.clocks, h.thread, issueT, h1, h2, h3, h4, h5, h.guard, h.unheld, touchedPorts_nil h.unbound]
  simp [State.nextPc, Latch.next]

theorem Thread.setXs_eq (t : Thread) (n : Nat) (ws : List Word) (k : Nat) :
    (ws.zipIdx k).foldl (fun t w => t.setX (n + w.2) w.1) t = t.setXs (n + k) ws := by
  induction ws generalizing t k with
  | nil => rfl
  | cons w ws ih => simp only [List.zipIdx_cons, List.foldl_cons, Thread.setXs, ih]; rfl

theorem amPut_amPut {α : Type} (m : AMap α) (n : Nat) (x y : α) : amPut (amPut m n x) n y = amPut m n y := by
  induction m with
  | nil => simp [amPut]
  | cons p m ih =>
    obtain ⟨a, v⟩ := p
    simp only [amPut]
    split
    · simp [amPut]
    · split
      · simp [amPut]
      · simp [amPut, *]

@[simp] theorem State.setThread_setThread (s : State) (n : Nat) (x y : Thread) :
    (s.setThread n x).setThread n y = s.setThread n y := by
  simp [State.setThread, amPut_amPut]

/-- No word is popped from a port where no operand is bound to one. -/
theorem CanIssue.popPorts (h : CanIssue s t us) (x : State) (w npc : Word) :
    x.popPorts ⟨s.cur, t, w, npc, us⟩ = x := by
  simp [State.popPorts, Ctx.handles, touchedPorts_filter_nil _ h.unbound, State.popHandles]

theorem CanIssue.handles (h : CanIssue s t us) (w npc : Word) : Ctx.handles ⟨s.cur, t, w, npc, us⟩ = [] :=
  touchedPorts_filter_nil _ h.unbound

/-- finish writes the results to registers and retires. -/
theorem CanIssue.finish (h : CanIssue s t us) {u : RegUse} (hu : u ∈ us) (hn : u.n ∈ u.regs) (w npc : Word) (ws : List Word) :
    s.finish ⟨s.cur, t, w, npc, us⟩ u.n ws = s.retires (t.setXs u.n ws) npc := by
  have hp : t.portOf u.n = none := portOf_none fun p hp => h.unbound p hp u hu _ hn
  have e : s.thread? s.cur = some t := h.thread
  have hl : s.latch.replay = 0 := h.direct
  have hz : ws.zipIdx.foldl (fun t w => t.setX (u.n + w.2) w.1) t = t.setXs u.n ws := Thread.setXs_eq t u.n ws 0
  simp [State.finish, h.popPorts, State.writeRegs, e, hp, State.retire, State.modThread, hl, State.retires,
    Thread.retired, hz]

/-- done retires with no result. -/
theorem CanIssue.done (h : CanIssue s t us) (w npc : Word) :
    s.done ⟨s.cur, t, w, npc, us⟩ = s.retires t npc := by
  have e : s.thread? s.cur = some t := h.thread
  have hl : s.latch.replay = 0 := h.direct
  simp [State.done, h.popPorts, State.retire, State.modThread, e, hl, State.retires, Thread.retired]

@[simp] theorem rs_n (n k : Nat) : (rs n k).n = n := rfl
@[simp] theorem rdst_n (n k : Nat) : (rdst n k).n = n := rfl
@[simp] theorem rmod_n (n k : Nat) : (rmod n k).n = n := rfl
@[simp] theorem rs_regs (n : Nat) : (rs n).regs = [n] := by simp [rs, RegUse.regs]
@[simp] theorem rdst_regs (n : Nat) : (rdst n).regs = [n] := by simp [rdst, RegUse.regs]
@[simp] theorem rmod_regs (n : Nat) : (rmod n).regs = [n] := by simp [rmod, RegUse.regs]
end Sys2Proof.Machine
end

