-- ==== Sys2Proof/Laws/Memory.lean ====
section
/-! SUPPORT. Sys2Proof/Laws/Memory.lean: every operation on Memory keeps the canonical form, and what reads back after it. -/

namespace Sys2Proof.Machine

/-! Rising lists -/

theorem rising_iff (l : List Nat) : rising l = true ↔ l.Pairwise (· < ·) := by
  induction l with
  | nil => simp [rising]
  | cons a l ih =>
    cases l with
    | nil => simp [rising]
    | cons b l =>
      simp only [rising, Bool.and_eq_true, decide_eq_true_eq, ih, List.pairwise_cons]
      constructor
      · rintro ⟨h, h1, h2⟩
        refine ⟨?_, h1, h2⟩
        intro c hc
        rcases List.mem_cons.1 hc with rfl | hc
        · exact h
        · exact lt_trans h (h1 c hc)
      · rintro ⟨h, h1, h2⟩
        exact ⟨h b (by simp), h1, h2⟩

theorem rising_filter {l : List Nat} (p : Nat → Bool) (h : rising l = true) : rising (l.filter p) = true := by
  rw [rising_iff] at *; exact h.filter p

theorem rising_nsDel {l : List Nat} (n : Nat) (h : rising l = true) : rising (nsDel l n) = true := rising_filter _ h

theorem rising_nsIns {l : List Nat} (n : Nat) (h : rising l = true) : rising (nsIns l n) = true := by
  rw [rising_iff] at *
  induction l with
  | nil => simp [nsIns]
  | cons a l ih =>
    obtain ⟨h1, h2⟩ := List.pairwise_cons.1 h
    simp only [nsIns]
    split
    · exact h
    · split
      · rename_i hlt
        refine List.pairwise_cons.2 ⟨fun c hc => ?_, h⟩
        rcases List.mem_cons.1 hc with rfl | hc
        · exact hlt
        · exact lt_trans hlt (h1 c hc)
      · refine List.pairwise_cons.2 ⟨fun c hc => ?_, ih h2⟩
        rcases (mem_nsIns _ _ _).1 hc with rfl | hc
        · omega
        · exact h1 c hc

theorem mem_keys_amPut {α : Type} (m : AMap α) (n k : Nat) (x : α) :
    k ∈ (amPut m n x).map (·.1) → k = n ∨ k ∈ m.map (·.1) := by
  induction m with
  | nil => simp [amPut]
  | cons p m ih =>
    obtain ⟨a, v⟩ := p
    simp only [amPut]
    split
    · subst a; simp
    · split
      · simp
      · simp only [List.map_cons, List.mem_cons]
        rintro (h | h)
        · exact .inr (.inl h)
        · rcases ih h with h | h
          · exact .inl h
          · exact .inr (.inr h)

theorem rising_amPut {α : Type} (m : AMap α) (n : Nat) (x : α) (h : rising (m.map (·.1)) = true) :
    rising ((amPut m n x).map (·.1)) = true := by
  rw [rising_iff] at *
  induction m with
  | nil => simp [amPut]
  | cons p m ih =>
    obtain ⟨a, v⟩ := p
    obtain ⟨h1, h2⟩ := List.pairwise_cons.1 h
    simp only [amPut]
    split
    · subst a; exact h
    · split
      · rename_i hlt
        refine List.pairwise_cons.2 ⟨fun c hc => ?_, h⟩
        rcases List.mem_cons.1 hc with rfl | hc
        · exact hlt
        · exact lt_trans hlt (h1 c hc)
      · refine List.pairwise_cons.2 ⟨fun c hc => ?_, ih h2⟩
        rcases mem_keys_amPut _ _ _ _ hc with rfl | hc
        · exact lt_of_le_of_ne (Nat.le_of_not_lt ‹_›) ‹_›
        · exact h1 c hc

theorem amDel_eq_filter {α : Type} (m : AMap α) (n : Nat) : amDel m n = m.filter (·.1 != n) := by
  induction m with
  | nil => rfl
  | cons p m ih => obtain ⟨a, v⟩ := p; simp only [amDel, ih, List.filter_cons]; split <;> simp_all

theorem rising_keys_filter {α : Type} (m : AMap α) (p : Nat × α → Bool) (h : rising (m.map (·.1)) = true) :
    rising ((m.filter p).map (·.1)) = true := by
  rw [rising_iff] at *
  exact h.sublist (List.Sublist.map _ List.filter_sublist)

/-! The canonical form of the cells -/

/-- The cells' part of Memory.wf. -/
def cellsWf (c : List Host.Cell) : Prop := rising (c.map (·.1)) = true ∧ c.all (fun x => x.2 != 0) = true

theorem Memory.wf_iff (m : Memory) :
    m.wf = true ↔ cellsWf m.cells ∧ rising m.empties = true ∧ rising m.poisons = true ∧ rising m.upsets = true := by
  simp [Memory.wf, cellsWf, and_assoc]

theorem cellsWf_filter {c : List Host.Cell} (p : Host.Cell → Bool) (h : cellsWf c) : cellsWf (c.filter p) := by
  refine ⟨rising_keys_filter c p h.1, ?_⟩
  have := h.2
  simp only [List.all_eq_true, List.mem_filter] at *
  exact fun x hx => this x hx.1

theorem mem_amPut {α : Type} (m : AMap α) (n : Nat) (x : α) (y : Nat × α) (h : y ∈ amPut m n x) : y = (n, x) ∨ y ∈ m := by
  induction m with
  | nil => simpa [amPut] using h
  | cons p m ih =>
    obtain ⟨a, v⟩ := p
    simp only [amPut] at h
    split at h
    · rcases List.mem_cons.1 h with h | h
      · exact .inl h
      · exact .inr (List.mem_cons_of_mem _ h)
    · split at h
      · rcases List.mem_cons.1 h with h | h
        · exact .inl h
        · exact .inr h
      · rcases List.mem_cons.1 h with h | h
        · exact .inr (by rw [h]; simp)
        · rcases ih h with h | h
          · exact .inl h
          · exact .inr (List.mem_cons_of_mem _ h)

theorem cellsWf_setCell {c : List Host.Cell} (a : Nat) (b : Byte) (h : cellsWf c) : cellsWf (setCell c a b) := by
  unfold setCell
  split
  · rw [amDel_eq_filter]; exact cellsWf_filter _ h
  · rename_i hb
    refine ⟨rising_amPut _ _ _ h.1, ?_⟩
    have h2 := h.2
    simp only [List.all_eq_true] at *
    intro x hx
    rcases mem_amPut _ _ _ _ hx with rfl | hx
    · simpa using hb
    · exact h2 x hx

theorem cellsWf_putBytes {c : List Host.Cell} (a : Nat) (mask : BitVec 8) (v : Word) (n : Nat) (h : cellsWf c) :
    cellsWf (putBytes c a mask v n) := by
  induction n with
  | zero => exact h
  | succ n ih =>
    simp only [putBytes]
    split
    · exact cellsWf_setCell _ _ ih
    · exact ih

/-! Memory operations keep the form -/

theorem Memory.wf_reset : ({} : Memory).wf = true := by decide

theorem Memory.wf_setTag {m : Memory} (k : Nat) (full : Bool) (h : m.wf = true) : (m.setTag k full).wf = true := by
  rw [Memory.wf_iff] at *
  refine ⟨h.1, ?_, h.2.2⟩
  simp only [Memory.setTag]
  split
  · exact rising_nsDel _ h.2.1
  · exact rising_nsIns _ h.2.1

theorem Memory.wf_poison {m : Memory} (k : Nat) (h : m.wf = true) : (m.poison k).wf = true := by
  rw [Memory.wf_iff] at *
  exact ⟨h.1, h.2.1, rising_nsIns _ h.2.2.1, rising_nsDel _ h.2.2.2⟩

theorem Memory.wf_upset {m : Memory} (k : Nat) (h : m.wf = true) : (m.upset k).wf = true := by
  rw [Memory.wf_iff] at *
  exact ⟨h.1, h.2.1, h.2.2.1, rising_nsIns _ h.2.2.2⟩

theorem Memory.wf_write {m : Memory} (k : Nat) (mask : BitVec 8) (v : Word) (h : m.wf = true) :
    (m.write k mask v).wf = true := by
  rw [Memory.wf_iff] at *
  simp only [Memory.write]
  split
  · exact ⟨cellsWf_putBytes _ _ _ _ h.1, h.2.1, rising_nsDel _ h.2.2.1, rising_nsDel _ h.2.2.2⟩
  · exact ⟨cellsWf_putBytes _ _ _ _ h.1, h.2.1, h.2.2.1, h.2.2.2⟩

theorem Memory.wf_clear {m : Memory} (a n : Nat) (h : m.wf = true) : (m.clear a n).wf = true := by
  rw [Memory.wf_iff] at *
  exact ⟨cellsWf_filter _ h.1, rising_filter _ h.2.1, rising_filter _ h.2.2.1, rising_filter _ h.2.2.2⟩

/-! Reading back -/

theorem amGetD_setCell (c : List Host.Cell) (a k : Nat) (b : Byte) :
    amGetD (setCell c a b) k 0 = if a = k then b else amGetD c k 0 := by
  unfold setCell
  split
  · rename_i h; rw [amGetD_amDel]; split <;> simp_all
  · rw [amGetD_amPut]

theorem amGetD_putBytes (c : List Host.Cell) (a : Nat) (mask : BitVec 8) (v : Word) (n k : Nat) :
    amGetD (putBytes c a mask v n) k 0 =
      if a ≤ k ∧ k < a + n ∧ mask.getLsbD (k - a) = true then byteOf v (k - a) else amGetD c k 0 := by
  induction n with
  | zero => simp only [putBytes]; rw [if_neg]; omega
  | succ n ih =>
    simp only [putBytes]
    by_cases hk : k = a + n
    · subst hk
      have h1 : a + n - a = n := by omega
      split
      · rename_i hm; rw [amGetD_setCell, h1]; simp [hm]
      · rename_i hm; rw [ih, h1]; rw [if_neg (by omega)]; simp [hm]
    · have e : (a ≤ k ∧ k < a + (n + 1) ∧ mask.getLsbD (k - a) = true) ↔ (a ≤ k ∧ k < a + n ∧ mask.getLsbD (k - a) = true) := by
        constructor <;> rintro ⟨h1, h2, h3⟩ <;> exact ⟨h1, by omega, h3⟩
      split
      · rw [amGetD_setCell, if_neg (Ne.symm hk), ih]; simp only [e]
      · rw [ih]; simp only [e]

/-- A byte after a write: the written ones are the value's, every other one is as before. -/
theorem Memory.byte_write (m : Memory) (k : Nat) (mask : BitVec 8) (v : Word) (a : Nat) :
    (m.write k mask v).byte a =
      if 8 * k ≤ a ∧ a < 8 * k + 8 ∧ mask.getLsbD (a - 8 * k) = true then byteOf v (a - 8 * k) else m.byte a := by
  have h : (m.write k mask v).byte a = amGetD (putBytes m.cells (8 * k) mask v 8) a 0 := by
    simp only [Memory.write, Memory.byte]; split <;> rfl
  rw [h, amGetD_putBytes]; rfl

@[simp] theorem Memory.byte_setTag (m : Memory) (k : Nat) (f : Bool) (a : Nat) : (m.setTag k f).byte a = m.byte a := rfl
@[simp] theorem Memory.byte_poison (m : Memory) (k a : Nat) : (m.poison k).byte a = m.byte a := rfl
@[simp] theorem Memory.byte_upset (m : Memory) (k a : Nat) : (m.upset k).byte a = m.byte a := rfl

/-- The tag of a word after a tag is set. -/
theorem Memory.full_setTag (m : Memory) (k : Nat) (f : Bool) (j : Nat) :
    (m.setTag k f).full j = if k = j then f else m.full j := by
  by_cases e : k = j
  · subst e; cases f <;> simp [Memory.full, Memory.setTag, mem_nsIns, mem_nsDel]
  · have e' := Ne.symm e
    cases f <;> simp [Memory.full, Memory.setTag, mem_nsIns, mem_nsDel, e, e']

end Sys2Proof.Machine
end

