-- ==== Sys2Proof/Laws/Translate.lean ====
section
/-! SUPPORT. Sys2Proof/Laws/Translate.lean: what translating an address can change: a translation that succeeds changes
nothing but what TLBs hold (R384). -/

namespace Sys2Proof.Machine

theorem SameButTlbs.refl (s : State) : SameButTlbs s s :=
  ⟨rfl, fun n => ⟨(s.core n).tlb, rfl⟩, fun n => ⟨(s.cluster n).tlb, rfl⟩⟩

theorem SameButTlbs.modCore {s s1 : State} (h : SameButTlbs s s1) (n : Nat) (f : Core → Core)
    (hf : ∀ c, ∃ l, f c = { c with tlb := l }) : SameButTlbs s (s1.modCore n f) := by
  refine ⟨?_, fun m => ?_, fun m => ?_⟩
  · have := h.rest
    rw [this]; rfl
  · obtain ⟨l, hl⟩ := h.core m
    simp only [State.modCore, State.core_setCore]
    split
    · rename_i e; subst e
      obtain ⟨l', hl'⟩ := hf (s1.core n)
      exact ⟨l', by rw [hl', hl]⟩
    · exact ⟨l, hl⟩
  · obtain ⟨l, hl⟩ := h.cluster m
    exact ⟨l, hl⟩

theorem SameButTlbs.modCluster {s s1 : State} (h : SameButTlbs s s1) (n : Nat) (f : Cluster → Cluster)
    (hf : ∀ c, ∃ l, f c = { c with tlb := l }) : SameButTlbs s (s1.modCluster n f) := by
  refine ⟨?_, fun m => ?_, fun m => ?_⟩
  · have := h.rest
    rw [this]; rfl
  · obtain ⟨l, hl⟩ := h.core m
    exact ⟨l, hl⟩
  · obtain ⟨l, hl⟩ := h.cluster m
    simp only [State.modCluster, State.cluster_setCluster]
    split
    · rename_i e; subst e
      obtain ⟨l', hl'⟩ := hf (s1.cluster n)
      exact ⟨l', by rw [hl', hl]⟩
    · exact ⟨l, hl⟩

/-- A translation that succeeds changes nothing but what the TLBs hold. -/
theorem State.translate_ok {s s1 : State} {core tn va : Nat} {r : Word × Nat}
    (h : s.translate core tn va = (s1, .ok r)) : SameButTlbs s s1 := by
  unfold State.translate at h
  split at h
  · simp only [Prod.mk.injEq] at h; rw [← h.1]; exact .refl s
  · dsimp only at h
    split at h
    · simp only [Prod.mk.injEq] at h; rw [← h.1]
      exact (SameButTlbs.refl s).modCore _ _ fun c => ⟨_, rfl⟩
    · split at h
      · simp at h
      · simp only [Prod.mk.injEq] at h; rw [← h.1]
        split
        · exact (SameButTlbs.refl s).modCore _ _ fun c => ⟨_, rfl⟩
        · exact ((SameButTlbs.refl s).modCore _ _ fun c => ⟨_, rfl⟩).modCluster _ _ fun c => ⟨_, rfl⟩

/-- An access whose checks pass changes nothing but what the TLBs hold. -/
theorem State.resolve_ok {s s1 : State} {core tn ms va : Nat} {a : Access} {r : Target}
    (h : s.resolve core tn ms va a = (s1, .ok r)) : SameButTlbs s s1 := by
  unfold State.resolve at h
  repeat' split at h
  all_goals first
    | (simp only [Prod.mk.injEq, reduceCtorEq, and_false] at h; done)
    | (have h1 := (Prod.mk.inj h).1; subst h1; first | exact .refl s | exact State.translate_ok ‹_›)

end Sys2Proof.Machine
end

