-- ==== Sys2Proof/Tests/Slice0.lean ====
section
/-! SUPPORT. Sys2Proof/Tests/Slice0.lean: the model's own tests: words of the spec's encodings and their readings, ill-formed
instructions refused, states that meet what the statements assume, and single steps with results worked out from the spec. -/

namespace Sys2Proof.Tests
open Sys2Proof Sys2Proof.Machine

/-- CanIssue as a check that runs. -/
def canIssueB (s : State) (t : Thread) (us : List RegUse) : Bool :=
  !s.tripped && s.latch.replay == 0 && s.latch.guardOk t.pw && us.all (fun u => u.n % u.span == 0) &&
  us.all (fun u => u.regs.all fun n => decide (n < t.limit)) &&
  t.ports.all (fun h => us.all fun u => u.regs.all fun n => !h.2.covers n) && !heldByBody t us &&
  us.all (fun u => !u.read || u.regs.all fun n => (t.reg n).full && !(t.reg n).perr)

/-- The check decides CanIssue. -/
theorem canIssue {s : State} {t : Thread} {us : List RegUse} (ht : s.thread? s.cur = some t) (h : canIssueB s t us = true) :
    CanIssue s t us := by
  simp only [canIssueB, Bool.and_eq_true, Bool.not_eq_true', List.all_eq_true, beq_iff_eq, decide_eq_true_eq, Bool.or_eq_true] at h
  obtain ⟨⟨⟨⟨⟨⟨⟨h1, h2⟩, h3⟩, h4⟩, h5⟩, h6⟩, h7⟩, h8⟩ := h
  refine ⟨h1, ht, h2, h3, h4, h5, h6, h7, ?_, ?_⟩
  · intro u hu hr n hn
    rcases h8 u hu with h | h
    · simp [hr] at h
    · exact (h n hn).1
  · intro u hu hr n hn
    rcases h8 u hu with h | h
    · simp [hr] at h
    · exact (h n hn).2

/-- A thread at 0x1000 with 64 registers. -/
def t0 : Thread := { pc := 0x1000, limit := 64, regs := [(5, { val := 7 }), (6, { val := 3 }), (9, { val := 5, full := false }),
  (10, { val := 1, perr := true })] }

/-- The state in which thread t of slot 0 issues on a machine as reset leaves it. -/
def on (t : Thread) : State := { State.reset with threads := [(0, t)] }

/-- A queue of the octet is free where one thread, of slot 0, is all the machine holds. -/
theorem queueFree {s : State} {t : Thread} {matrix : Bool} (hc : s.cur = 0) (ht : s.threads = [(0, t)])
    (h1 : ∀ c ∈ (s.octet 0).candidates, c.2 ≠ matrix)
    (h2 : (if matrix then (s.octet 0).matrix else (s.octet 0).haul).length < 16)
    (h3 : (if matrix then (s.octet 0).matAt else (s.octet 0).haulAt) ≠ some s.cycle) : QueueFree s matrix := by
  unfold QueueFree
  rw [hc]
  refine ⟨h1, h2, h3, fun c _ h => .inr fun slot hs => ?_⟩
  have h0 : slot ≠ 0 := fun e => h (by subst e; simpa [coreOf] using hs.symm)
  unfold State.thread?
  rw [ht]
  exact if_neg (by simpa using Ne.symm h0)
/-! What the statements about single instructions assume, on states that meet it -/

/-- A machine that fetches add x7, x5, x6 next. -/
def sFetch : State := State.reset.withFetchWord 32 0x006283B3

theorem wit_StepRunsDecoded :
    sFetch.agenda = (1, .issue 0) :: [] ∧ sFetch.tripped = false ∧ (sFetch.grant 0).1 = some 0 ∧
    sFetch.thread? 0 = some { pc := 0, limit := 128 } ∧
    amGet (sFetch.core 0).fetch 0 = some (fetchGranule 0 32 0x006283B3) ∧
    decodeWord 0x006283B3#32 = .ok (.add 7 5 6) ∧ ∃ e, decodeWord 0#32 = .error e ∧ ∀ f p d a b, e ≠ .reservedPair f p d a b :=
  ⟨rfl, rfl, by decide, rfl, rfl, rfl, _, rfl, by intros; nofun⟩

theorem wit_PrefixedStep : (on t0).tripped = false ∧ (on t0).thread? (on t0).cur = some t0 ∧ (on t0).latch.reach = none ∧
    (on t0).latch.guard = none := ⟨rfl, rfl, rfl, rfl⟩

theorem wit_IntegerForms : CanIssue (on t0) t0 [rs 5, rs 6, rdst 63] ∧ CanIssue (on t0) t0 [rs 5, rdst 0] ∧
    regForm (.sub 31 5 6) = some (31, 5, 6, fun x y => BitVec.ofInt 64 (x.toInt - y.toInt)) :=
  ⟨canIssue rfl (by decide), canIssue rfl (by decide), rfl⟩

theorem wit_HintsDoNothing : CanIssue (on t0) t0 [] ∧ (on t0).latch.reach = none ∧ (on t0).latch.n = 0 ∧
    (let s : State := { on t0 with latch := { n := 1, guard := some (true, 0) } }
     CanIssue s t0 [] ∧ s.latch.reach = none ∧ s.latch.n ≠ 0) ∧
    (0xFFFFFFFF#32 &&& 0xFFFFF07B#32).extractLsb' 12 3 = 7#3 :=
  ⟨canIssue rfl (by decide), rfl, rfl, ⟨canIssue rfl (by decide), rfl, by decide⟩, rfl⟩

theorem wit_ControlTransfers : CanIssue (on t0) t0 [rs 5, rs 6] ∧ CanIssue (on t0) t0 [rdst 63] ∧ CanIssue (on t0) t0 [rs 5, rdst 5] ∧
    (∃ f, branchForm (.bltu 6 5 1) = some (6, 5, 1, f)) ∧
    (t0.pc + BitVec.ofInt 64 (2 * (1 : BitVec 12).toInt)).toNat % 4 ≠ 0 ∧ (t0.pc + BitVec.ofInt 64 (2 * (0xFFE : BitVec 12).toInt)).toNat % 4 = 0 :=
  ⟨canIssue rfl (by decide), canIssue rfl (by decide), canIssue rfl (by decide), ⟨_, rfl⟩, by decide, by decide⟩

/-- t0 with a handler's address, as EnvironmentCalls and TrapRouting need. -/
def tVec : Thread := { t0 with xtvec := 0x2000 }

theorem wit_EnvironmentCalls : (let s := State.reset.withFetchWord 32 0x00200073
      ∃ t s1, s.thread? s.cur = some t ∧ s.fetch32 s.cur t (t.pc + BitVec.ofNat 64 (4 * s.latch.n)) = (s1, .ok 0x00200073#32)) ∧
    CanIssue (on tVec) tVec [] ∧ tVec.level = .user ∧ tVec.xtvec ≠ 0 ∧ tVec.xtvec.toNat % 4 = 0 ∧ tVec.xcause.toNat < 2 ^ 63 ∧
    (let s : State := { on t0 with latch := { n := 1, guard := some (false, 63) } }
     s.thread? s.cur = some t0 ∧ s.tripped = false ∧ s.latch.replay = 0 ∧ t0.pw.getLsbD 63 = false) :=
  ⟨⟨_, _, rfl, rfl⟩, canIssue rfl (by decide), rfl, by decide, by decide, by decide, rfl, rfl, rfl, rfl⟩

theorem wit_GuardedOff :
    (let s : State := { on t0 with latch := { n := 1, guard := some (false, 63) } }
     s.tripped = false ∧ s.thread? s.cur = some t0 ∧ s.latch.replay = 0 ∧ t0.pw.getLsbD 63 = false ∧
     s.latch.rd 31 < t0.limit ∧ s.latch.rs1 9 < t0.limit) := ⟨rfl, rfl, rfl, rfl, by decide, by decide⟩

theorem wit_OperandTraps : (on t0).latch.guard = none ∧ t0.ports = [] ∧ t0.body = none ∧
    (let s : State := { on t0 with latch := { n := 1, reach := some (2, 0, 0) } }
     s.latch.rd 0 = t0.limit ∧ s.latch.reach ≠ none) ∧ (t0.reg 9).full = false ∧ (t0.reg 10).perr = true ∧ (t0.reg 10).full = true :=
  ⟨rfl, rfl, rfl, ⟨rfl, by decide⟩, rfl, rfl, rfl⟩

/-! Memory: the first words of core 0's own store, at byte storeBase 0 -/

/-- A thread whose x5 is the address of its core's store and x6 that plus 4. -/
def tMem : Thread := { t0 with regs := [(2, { val := BitVec.ofNat 64 Config.ownBase }), (5, { val := BitVec.ofNat 64 Config.ownBase }),
  (6, { val := BitVec.ofNat 64 (Config.ownBase + 4) }), (7, { val := 0x8899AABBCCDDEEFF })] }

/-- Core 0's first three words hold 0x0807060504030201, 0 and 9. -/
def sMem : State := { on tMem with mem := { cells := ((List.range 8).map fun i => (storeBase 0 + i, BitVec.ofNat 8 (i + 1))) ++ [(storeBase 0 + 16, 9)] } }

/-- An access of tMem at its core's own store lands at once. -/
theorem lands_own : Lands sMem tMem (BitVec.ofNat 64 (Config.ownBase + 4)) .load sMem (storeBase 0 + 4) ∧
    Lands sMem tMem (BitVec.ofNat 64 Config.ownBase) .load sMem (storeBase 0) ∧
    Lands sMem tMem (BitVec.ofNat 64 Config.ownBase) .store sMem (storeBase 0) :=
  ⟨⟨_, _, rfl, rfl, rfl⟩, ⟨_, _, rfl, rfl, rfl⟩, ⟨_, _, rfl, rfl, rfl⟩⟩

theorem settled_own : Settled sMem ((storeBase 0 + 4) / 8) ∧ Settled sMem (storeBase 0 / 8) :=
  ⟨⟨nofun, by decide⟩, ⟨nofun, by decide⟩⟩

theorem wit_LoadsReadMemory : CanIssue sMem tMem [rs 6, rdst 9] ∧ sMem.slow = false ∧ tMem.ctx = 0 ∧ (tMem.x 6).toNat % 4 = 0 ∧
    sMem.mem.poisoned ((storeBase 0 + 4) / 8) = false ∧ loadForm (.lw 9 6 0) = some (9, 6, 0, 4, true) :=
  ⟨canIssue rfl (by decide), rfl, rfl, by decide, by decide, rfl⟩

/-- A buffered store of every byte of the first word. -/
def sBuf : State := { sMem with cores := [(0, { sb := [⟨7, 0, [(storeBase 0 / 8, 0xFF, 0x1122334455667788)], true, [], 0, [0]⟩] })] }

theorem wit_LoadsForward : CanIssue sBuf tMem [rs 6, rdst 9] ∧ Lands sBuf tMem (tMem.x 6) .load sBuf (storeBase 0 + 4) ∧
    sBuf.pushesTo sBuf.cur (atWord fun w => w == (storeBase 0 + 4) / 8) = [] ∧
    (sBuf.core (coreOf sBuf.cur)).sb = [] ++ [⟨7, 0, [((storeBase 0 + 4) / 8, 0xFF#8, 0x1122334455667788)], true, [], 0, [0]⟩] ∧
    ∀ k, k < 4 → (0xFF#8).getLsbD ((storeBase 0 + 4) % 8 + k) = true :=
  ⟨canIssue rfl (by decide), ⟨_, _, rfl, rfl, rfl⟩, rfl, by decide, by decide⟩

theorem wit_StoresEnterTheBuffer : CanIssue sMem tMem [rs 2, rs 7] ∧ AboveLimit tMem 2 (tMem.x 2) ∧
    (∃ tgt cls, sMem.checked tMem (tMem.x 2) .store = (sMem, .ok tgt) ∧ tgt.place = some (storeBase 0, cls)) ∧
    (sMem.core (coreOf sMem.cur)).sb.length < 16 :=
  ⟨canIssue rfl (by decide), fun _ => by decide, ⟨_, _, rfl, rfl⟩, by decide⟩

/-- No tenant of s has an open epoch where s has no tenant. -/
theorem noEpoch {s : State} (h : s.tenants = []) : NoEpoch s := fun tn => by simp only [State.tenant, h]; rfl

theorem wit_BufferedStoresReachMemory : sBuf.tripped = false ∧
    (sBuf.core 0).sb = ⟨7, 0, [(storeBase 0 / 8, 0xFF, 0x1122334455667788)], true, [], 0, [0]⟩ :: [] ∧ sBuf.flights = [] ∧
    sBuf.homeAllows 0 0 0 2 (storeBase 0 / 8) = true ∧
    (∀ t, sBuf.thread? 0 = some t → ∀ p ∈ t.ports, p.2.pushes = []) ∧ NoEpoch sBuf :=
  ⟨rfl, rfl, rfl, by decide, fun _ h => by cases h; nofun, noEpoch rfl⟩

/-- No store waits before a word of sMem, and none is poisoned. -/
theorem loadable_mem (k : Nat) : Loadable sMem k := ⟨⟨nofun, rfl⟩, rfl⟩

theorem wit_GroupAccess : CanIssue sMem tMem [rs 5, rdst 8 2] ∧
    LandsAll tMem .load Loadable sMem (sMem.groupFrom (tMem.x 5) 2) sMem [storeBase 0, storeBase 0 + 8] ∧
    CanIssue sMem tMem [rs 6, rdst 9] ∧
    LandsAll tMem .load Loadable sMem [tMem.x 6 - 4, tMem.x 6 - 4 + 8] sMem [storeBase 0, storeBase 0 + 8] ∧
    CanIssue sMem tMem [rs 5, rs 6 2] ∧ LandsAll tMem .store (fun _ _ => True) sMem (sMem.groupFrom (tMem.x 5) 2) sMem [storeBase 0, storeBase 0 + 8] ∧
    CanIssue sMem tMem [rs 5, rs 7, rs 7] ∧ (tMem.x 7).setWidth 8 ≠ 0#8 ∧ LandsAll tMem .store (fun _ _ => True) sMem [tMem.x 5] sMem [storeBase 0] := by
  refine ⟨canIssue rfl (by decide), ?_, canIssue rfl (by decide), ?_, canIssue rfl (by decide), ?_, canIssue rfl (by decide), by decide, ?_⟩
  · exact ⟨_, _, _, ⟨_, _, rfl, rfl, rfl⟩, loadable_mem _, ⟨_, _, _, ⟨_, _, rfl, rfl, rfl⟩, loadable_mem _, ⟨rfl, rfl⟩, rfl⟩, rfl⟩
  · exact ⟨_, _, _, ⟨_, _, rfl, rfl, rfl⟩, loadable_mem _, ⟨_, _, _, ⟨_, _, rfl, rfl, rfl⟩, loadable_mem _, ⟨rfl, rfl⟩, rfl⟩, rfl⟩
  · exact ⟨_, _, _, ⟨_, _, rfl, rfl, rfl⟩, trivial, ⟨_, _, _, ⟨_, _, rfl, rfl, rfl⟩, trivial, ⟨rfl, rfl⟩, rfl⟩, rfl⟩
  · exact ⟨_, _, _, ⟨_, _, rfl, rfl, rfl⟩, trivial, ⟨rfl, rfl⟩, rfl⟩

/-- A thread whose stack may not grow below 16 bytes above its store. -/
def tLow : Thread := { tMem with sbound := BitVec.ofNat 64 (Config.ownBase + 16) }

theorem wit_MisalignedAccessTraps : CanIssue sMem tMem [rs 6, rdst 9] ∧ (tMem.x 6).toNat % 8 ≠ 0 ∧ CanIssue sMem tMem [rs 6, rs 7] ∧
    CanIssue (on tLow) tLow [rs 2, rs 7] ∧ (tLow.x 2).toNat % 8 = 0 ∧ (tLow.x 2).toNat < tLow.sbound.toNat ∧
    CanIssue sMem tMem [rs 6, rdst 8 8] ∧ CanIssue sMem tMem [rs 6, rs 8 8] :=
  ⟨canIssue rfl (by decide), by decide, canIssue rfl (by decide), canIssue rfl (by decide), by decide, by decide,
    canIssue rfl (by decide), canIssue rfl (by decide)⟩

/-! Traps -/

theorem wit_TrapRouting : (on tVec).thread? (on tVec).cur = some tVec ∧ (on tVec).latch.replay = 0 ∧ tVec.level = .user ∧ tVec.xtvec ≠ 0 ∧
    tVec.xtvec.toNat % 4 = 0 ∧ tVec.xcause.toNat < 2 ^ 63 ∧ (on t0).thread? (on t0).cur = some t0 ∧ t0.xtvec = 0 ∧ t0.level ≠ .supervisor :=
  ⟨rfl, rfl, rfl, by decide, by decide, by decide, rfl, rfl, by decide⟩

/-- The supervisor of core 0, its x5 the act. -/
def tSup (act : Word) : Thread := { level := .supervisor, pc := 0x4000, regs := [(5, { val := act })] }

/-- The supervisor of core 0 runs the activation of slot 0, which is parked. -/
def sSup (act : Word) : State := { State.reset with
  threads := [(0, { tVec with run := .parked .activation }), (63, tSup act)], cur := 63
  cores := [(0, { act := some { target := some 0, scause := 7, sepc := 0x1000, stval := 9 } })] }

theorem wit_TrapReturn : CanIssue (on tVec) tVec [] ∧ tVec.body = none ∧ (on tVec).ropeOf (on tVec).cur = none ∧ tVec.xepc.toNat % 4 = 0 ∧
    CanIssue (sSup 0) (tSup 0) [] ∧ (tSup 0).level ≠ .user ∧
    CanIssue (sSup 1) (tSup 1) [rs 5] ∧ (sSup 1).cur = 0 * 64 + 63 ∧ ((sSup 1).core 0).act.map (·.target) = some (some 0) ∧
    (sSup 1).thread? 0 = some { tVec with run := .parked .activation } ∧ (sSup 1).ropeOf 0 = none ∧ ((sSup 1).core 0).sb = [] :=
  ⟨canIssue rfl (by decide), rfl, rfl, by decide, canIssue rfl (by decide), by decide, canIssue rfl (by decide), rfl, rfl, rfl, rfl, rfl⟩

theorem wit_ActivationStarts : (let s : State := { on t0 with cores := [(0, { actQueue := [{ target := some 0, scause := 7, sepc := 8, stval := 9 }] })] }
    s.tripped = false ∧ s.thread? (0 * 64 + 63) = none ∧ (s.core 0).act = none ∧ (s.tenant 0).frozen = false ∧ (s.core 0).actQueue.length = 1) :=
  ⟨rfl, rfl, rfl, rfl, rfl⟩

/-! CSRs -/

theorem wit_CsrInstructions : CanIssue (on t0) t0 [rs 5, rdst 7] ∧ CanIssue (on t0) t0 [rdst 7] ∧
    (∃ old, (on t0).userCsr (on t0).cur t0 0x803 = some old) ∧ (on t0).userCsr (on t0).cur t0 0x140 = none ∧ t0.level ≠ .supervisor :=
  ⟨canIssue rfl (by decide), canIssue rfl (by decide), ⟨_, rfl⟩, rfl, by decide⟩

theorem wit_CsrReadBack : (∃ old, (on t0).userCsr 0 t0 3 = some old) ∧ csrAliases 1 2 = false ∧ csrAliases 1 3 = true :=
  ⟨⟨_, rfl⟩, by decide, by decide⟩

theorem wit_SupervisorCsrs : CanIssue (sSup 5) (tSup 5) [rs 5, rdst 7] ∧ (tSup 5).level = .supervisor ∧ ∃ a, ((sSup 5).core 0).act = some a :=
  ⟨canIssue rfl (by decide), rfl, _, rfl⟩

/-! Span arithmetic -/

theorem wit_LanewiseForms : (∃ o, laneForm (.fmac 1 1 1 12 6 5) = some o ∧ CanIssue (on t0) t0 (o.uses (on t0).latch) ∧ o.rounds = true) ∧
    modeOf (t0.fcsr.toNat / 32) = some .rne ∧ CanIssue (on { t0 with fcsr := 0xA0 }) { t0 with fcsr := 0xA0 } [rs 6, rs 5, rdst 8] ∧
    5 ≤ ({ t0 with fcsr := 0xA0 } : Thread).fcsr.toNat / 32 :=
  ⟨⟨_, rfl, canIssue rfl (by decide), rfl⟩, rfl, canIssue rfl (by decide), by decide⟩

theorem wit_ReductionsAndMasks : CanIssue (on t0) t0 [rs 16 8, rdst 24 8] ∧ CanIssue (on t0) t0 [rs 16 8, rs 24 8, rdst 16 8] ∧
    CanIssue (on t0) t0 [rs 6, rdst 24 8] ∧ CanIssue (on t0) t0 [rs 16 8, rdst 7] ∧ regsFor (lanesIn 3 (tyWidth 3)) (tyWidth 3) = 8 ∧
    modeOf (t0.fcsr.toNat / 32) = some .rne :=
  ⟨canIssue rfl (by decide), canIssue rfl (by decide), canIssue rfl (by decide), canIssue rfl (by decide), by decide, rfl⟩

theorem wit_Conversions : regsFor (lanesIn 1 (tyWidth 2)) (tyWidth 0) = 8 ∧ CanIssue (on t0) t0 [rs 16 2, rdst 24 8] ∧
    regsFor (lanesIn 2 (tyWidth 2)) (tyWidth 0) = 16 ∧ CanIssue (on t0) t0 [rs 16 4, rdst 32 16] ∧ modeOf (t0.fcsr.toNat / 32) = some .rne ∧
    modeOf ((0x18 : BitVec 5).toNat / 8) = some .rup :=
  ⟨by decide, canIssue rfl (by decide), by decide, canIssue rfl (by decide), rfl, rfl⟩

/-- A thread that quantises 300 and 1 in x16 as bf16 lanes by the scale 2.0 in x5, no saturation allowed. -/
def tQuant : Thread := { t0 with regs := [(5, { val := 0x40000000 }), (6, { val := 0x3F800000FF40000000 }), (16, { val := 0x3F804396 })] }

theorem wit_Quantising : CanIssue (on tQuant) tQuant [rs 16, rs 5, rdst 8] ∧ CanIssue (on tQuant) tQuant [rs 16, rs 6, rdst 8] ∧
    modeOf (tQuant.fcsr.toNat / 32) = some .rne ∧
    (let w := tyWidth 3; let f := tyFmt 3
     (e4m3.quantise (f.decode (laneAt tQuant.x 16 w 0)) (f32.decode 0x40000000)).sat = true ∧
     (e4m3.quantise (f.decode (laneAt tQuant.x 16 w 1)) (f32.decode 0x40000000)).sat = false) :=
  ⟨canIssue rfl (by decide), canIssue rfl (by decide), rfl, by decide, by decide⟩

theorem lands_words : LandsAll tMem .load Loadable sMem (wordsFrom (tMem.x 5) 128) sMem ((List.range 128).map fun i => storeBase 0 + 8 * i) := by
  repeat (first | exact ⟨rfl, rfl⟩ | refine ⟨_, _, _, ⟨_, _, rfl, rfl, rfl⟩, loadable_mem _, ?_, rfl⟩)

theorem wit_TableLoad : CanIssue sMem tMem [rs 5] ∧ (tMem.x 5).toNat % 64 = 0 ∧ sMem.tableBusy sMem.cur 3 = false ∧ CanIssue sMem tMem [rs 6] ∧
    (tMem.x 6).toNat % 64 ≠ 0 :=
  ⟨canIssue rfl (by decide), by decide, by decide, canIssue rfl (by decide), by decide⟩

/-! Synchronising memory: a page of HBM at 0x10000 that every access may use, and the own store -/

/-- A thread whose x5 is a word of HBM and x6 another, x7 and x8 values. -/
def tHbm : Thread := { t0 with regs := [(5, { val := 0x10000 }), (6, { val := 0x10004 }), (7, { val := 9 }), (8, { val := 4 })] }

/-- Thread t in slot 0, with the page 0x10000 of HBM mapped to itself for every use but execution. -/
def hbm (t : Thread) : State := { on t with
  cores := [(0, { tlb := [⟨0, 0x10000, 0x10000, 0x10007⟩] })], access := [(2, 0xFFFFFFFF)] }

theorem wit_Atomics : CanIssue (hbm tHbm) tHbm [rs 5, rs 7, rmod 8] ∧ (tHbm.x 5).toNat % 8 = 0 ∧ CanIssue (hbm tHbm) tHbm [rs 6, rs 7, rdst 9] ∧
    (tHbm.x 6).toNat % 8 ≠ 0 ∧ (hbm tHbm).slow = false ∧ tHbm.ctx = 0 ∧
    (∃ leaf, (hbm tHbm).checked tHbm (tHbm.x 5) .atomic = (hbm tHbm, .ok (.mem 0x10000 leaf))) ∧ Released (hbm tHbm) tHbm ∧
    (hbm tHbm).ownBefore 0 0 (0x10000 / 8) = [] ∧ (hbm tHbm).mem.poisoned (0x10000 / 8) = false ∧ NoEpoch (hbm tHbm) :=
  ⟨canIssue rfl (by decide), by decide, canIssue rfl (by decide), by decide, rfl, rfl, ⟨_, rfl⟩, ⟨rfl, rfl, nofun, nofun, rfl⟩, rfl, rfl, noEpoch rfl⟩

/-- sMem with its first word empty. -/
def sEmpty : State := { sMem with mem := { sMem.mem with empties := [storeBase 0 / 8] } }

theorem wit_FullEmptyAccess :
    (∀ s ∈ [sMem, sEmpty], Lands s tMem (tMem.x 5) .tag s (storeBase 0) ∧ Lands s tMem (tMem.x 5) .readWrite s (storeBase 0) ∧
      CanIssue s tMem [rs 5, rdst 9] ∧ CanIssue s tMem [rs 5, rs 7, rdst 9] ∧ CanIssue s tMem [rs 5, rs 7] ∧ Released s tMem ∧
      AboveLimit tMem 5 (tMem.x 5) ∧ s.ownBefore 0 0 (storeBase 0 / 8) = [] ∧ (∀ h ∈ s.holds, h.key ≠ storeBase 0 / 8) ∧ NoEpoch s ∧
      s.slow = false ∧ tMem.ctx = 0 ∧ s.holdFull (storeBase 0 / 8) = false ∧ s.mem.poisoned (storeBase 0 / 8) = false) ∧
    (tMem.x 5).toNat % 8 = 0 ∧ sMem.mem.full (storeBase 0 / 8) = true ∧ sEmpty.mem.full (storeBase 0 / 8) = false := by
  refine ⟨fun s hs => ?_, by decide, rfl, rfl⟩
  simp only [List.mem_cons, List.not_mem_nil, or_false] at hs
  rcases hs with rfl | rfl <;>
    exact ⟨⟨_, _, rfl, rfl, rfl⟩, ⟨_, _, rfl, rfl, rfl⟩, canIssue rfl (by decide), canIssue rfl (by decide), canIssue rfl (by decide),
      ⟨rfl, rfl, nofun, nofun, rfl⟩, nofun, rfl, nofun, noEpoch rfl, rfl, rfl, by decide, rfl⟩

theorem wit_AddressWaits : (let s := { hbm tHbm with watches := [⟨some 64, 0, 0, 0x10000 / 8⟩, ⟨some 65, 0, 0, 3⟩] }
    (tHbm.x 5).toNat % 8 = 0 ∧ s.ownBefore 0 0 (0x10000 / 8) = [] ∧ CanIssue s tHbm [rs 5, rs 7, rdst 9] ∧ CanIssue s tHbm [rs 5, rs 0, rdst 9] ∧
    Lands s tHbm (tHbm.x 5) .wait s 0x10000 ∧ Lands s tHbm (tHbm.x 5) .wake s 0x10000 ∧ s.mem.word (0x10000 / 8) ≠ tHbm.x 7 ∧
    s.mem.word (0x10000 / 8) = tHbm.x 0 ∧ s.slow = false ∧ tHbm.ctx = 0 ∧ s.mem.poisoned (0x10000 / 8) = false ∧ s.watchFull (0x10000 / 8) = false ∧ Released s tHbm ∧ tHbm.pend = none ∧ s.watches.Nodup) :=
  ⟨by decide, rfl, canIssue rfl (by decide), canIssue rfl (by decide), ⟨_, _, rfl, rfl, rfl⟩, ⟨_, _, rfl, rfl, rfl⟩, by decide, by decide, rfl, rfl, rfl, by decide,
    ⟨rfl, rfl, nofun, nofun, rfl⟩, rfl, by decide⟩

theorem wit_FencesAndEmptying : CanIssue (on t0) t0 [] ∧ t0.ports = [] ∧ Released (on t0) t0 ∧ (on t0).ropeOf (on t0).cur = none ∧
    CanIssue sBuf tMem [] ∧ tMem.hold = none ∧ tMem.ports = [] ∧ (∀ e ∈ (sBuf.core (coreOf sBuf.cur)).sb, ∀ f ∈ sBuf.flights, f.ident ≠ e.ident) ∧ (coreOf sBuf.cur, sBuf.core (coreOf sBuf.cur)) ∈ sBuf.cores ∧
    (let t : Thread := { t0 with jobs := [⟨0, false, 0, 0⟩] }
     let s := { on t with cores := [(0, { haulStates := [⟨0, 1, 0, 0, 0⟩] })] }
     CanIssue s t [] ∧ t.jobs.filter (fun j => !s.jobFinal j) ≠ []) ∧
    CanIssue (on t0) t0 [rname 56 8] ∧ t0.body = none :=
  ⟨canIssue rfl (by decide), rfl, ⟨rfl, rfl, nofun, nofun, rfl⟩, rfl, canIssue rfl (by decide), rfl, rfl, fun _ _ => nofun, List.mem_singleton.2 rfl,
    ⟨canIssue rfl (by decide), by decide⟩, canIssue rfl (by decide), rfl⟩

/-! Ports -/

/-- The first 64 bytes of core 0's store: an affine read of 9 words from address 0, saved as bound to x63. -/
def sDesc (t : Thread) : State := { on t with mem := { cells := [(storeBase 0 + 16, 9), (storeBase 0 + 61, 0xBF)] } }

def descWords9 : List Word := [0, 0, 9, 0, 0, 0, 0, 0xBF0000000000]

/-- The port of that descriptor with words held. -/
def port9 (held : List Element) : Port := { portOfDesc descWords9 with held }

/-- A thread with the port under handle 3, x5 its core's store, x6 the handle. -/
def tPort : Thread := { tMem with regs := [(5, { val := BitVec.ofNat 64 Config.ownBase }), (6, { val := 3 }), (7, { val := 16 })],
                                  ports := [(3, port9 [])] }

theorem ownWords_desc : OwnWords (sDesc tPort) (tPort.x 5) 8 descWords9 :=
  ⟨by decide, by decide, by decide, fun i _ => ⟨⟨nofun, rfl⟩, rfl⟩, by decide⟩

theorem wit_PortLeases : tPort.body = none ∧ CanIssue (sDesc tPort) tPort [rs 5, rname 63, rdst 9] ∧ CanIssue (sDesc tPort) tPort [rs 5, rs 6, rdst 9] ∧
    OwnWords (sDesc tPort) (tPort.x 5) 8 descWords9 ∧ (tPort.x 5).toNat % 64 = 0 ∧
    (let p := portOfDesc descWords9; p.kind = 0 ∧ p.base.toNat % 8 = 0 ∧ p.illegal = false ∧ p.g = 1 ∧ 63 + p.g ≤ tPort.limit) ∧
    (descWords9.getD 7 0).getLsbD 47 = true ∧ (descWords9.getD 7 0).toNat / 2 ^ 40 % 2 ^ 7 = 63 ∧
    CanIssue (sDesc tPort) tPort [rs 6, rdst 9] ∧ amGet tPort.ports 3 = some (port9 []) ∧ amGet tPort.ports 16 = none ∧
    (∀ q ∈ tPort.ports, ¬ (q.2.kind = 1 ∧ q.2.ixh = 3)) ∧
    (let t : Thread := { tPort with ports := [(3, port9 []), (4, { port9 [] with ctl := 0x300000001, ixh := 3 })] }
     CanIssue (sDesc t) t [rs 6, rdst 9] ∧ ∃ q ∈ t.ports, q.2.kind = 1 ∧ q.2.ixh = 3) ∧
    CanIssue (sDesc tPort) tPort [rs 6, rs 5] ∧ (port9 []).pushes = [] ∧ NoEpoch (sDesc tPort) ∧
    (sDesc tPort).ownBefore 0 0 ((sDesc tPort).ownKey (tPort.x 5)) = [] ∧ CanIssue (sDesc tPort) tPort [rs 7, rs 5] :=
  ⟨rfl, canIssue rfl (by decide), canIssue rfl (by decide), ownWords_desc, by decide, by decide, by decide, by decide,
    canIssue rfl (by decide), rfl, rfl, by decide, ⟨canIssue rfl (by decide), by decide⟩, canIssue rfl (by decide), rfl, noEpoch rfl, rfl,
    canIssue rfl (by decide)⟩

/-- A thread whose x5 is bound to the port, with an element ready, a fault ready, or the sequence at its end. -/
def tRead (p : Port) : Thread := { t0 with ports := [(0, { p with bound := some 5 })] }

theorem wit_PortOperands : (∃ f, regForm (.add 7 5 6) = some (7, 5, 6, f)) ∧
    (∀ p ∈ [port9 [⟨[4], none, none⟩], port9 [⟨[], some (7, 8), none⟩], { port9 [] with pos := 9 }],
      ReadsPort (on (tRead p)) (tRead p) 0 { p with bound := some 5 } 5 6 7 ∧ ReadsPort (on (tRead p)) (tRead p) 0 { p with bound := some 5 } 5 5 7) ∧
    (port9 []).kind = 0 ∧ ({ port9 [] with pos := 9 } : Port).total ≤ 9 ∧
    (let p : Port := { port9 [] with ctl := 3, bound := some 7, pos := 8 }
     let t : Thread := { t0 with ports := [(0, p)] }
     (on t).thread? (on t).cur = some t ∧ p.kind = 3 ∧ p.g = 1 ∧ p.failed = none ∧ p.pos < p.total ∧ p.readyWords < 16 ∧
     (t.reg 5).full = true ∧ (t.reg 6).full = true ∧ (t.reg 5).perr = false ∧ (t.reg 6).perr = false) := by
  refine ⟨⟨_, rfl⟩, fun p hp => ?_, rfl, by decide, by decide⟩
  simp only [List.mem_cons, List.not_mem_nil, or_false] at hp
  rcases hp with rfl | rfl | rfl <;>
    exact ⟨⟨rfl, rfl, rfl, rfl, rfl, rfl, rfl, .inl rfl, by decide, by decide, rfl, fun _ => ⟨rfl, rfl⟩⟩,
      ⟨rfl, rfl, rfl, rfl, rfl, rfl, rfl, .inl rfl, by decide, by decide, rfl, fun h => absurd rfl h⟩⟩

/-- Three ports: two sorted sequences of whole ports and a port the matches go to. -/
def tIsect : Thread := { t0 with
  regs := [(5, { val := 0x210 })]
  ports := [(0, { port9 [⟨[1], none, none⟩, ⟨[3], none, none⟩] with counts := 2 }),
            (1, { port9 [⟨[3], none, none⟩, ⟨[7], none, none⟩] with counts := 2 }), (2, { port9 [] with ctl := 3 })] }

theorem wit_SkipAndIntersect : tIsect.body = none ∧ CanIssue (on tIsect) tIsect [rs 5, rdst 9] ∧
    (tIsect.x 5).toNat % 16 = 0 ∧ (tIsect.x 5).toNat / 16 % 16 = 1 ∧ (tIsect.x 5).toNat / 256 % 16 = 2 ∧
    (∃ pa pb pq, amGet tIsect.ports 0 = some pa ∧ amGet tIsect.ports 1 = some pb ∧ amGet tIsect.ports 2 = some pq ∧
      pa.kind = 0 ∧ pb.kind = 0 ∧ pq.kind = 3 ∧ pa.g = 1 ∧ pb.g = 1 ∧ pq.g = 1 ∧ pa.bound = none ∧ pb.bound = none ∧ pq.bound = none ∧
      pq.pushes = [] ∧ pq.failed = none ∧ pa.held = [(1 : Word), 3].map (fun w => (⟨[w], none, none⟩ : Element)) ∧
      pb.held = [(3 : Word), 7].map (fun w => (⟨[w], none, none⟩ : Element)) ∧ pa.pos + 2 = pa.total ∧ pb.pos + 2 = pb.total ∧
      pq.pos + 1 ≤ pq.total) ∧
    [(1 : Word), 3].Pairwise (fun v w => v.toNat < w.toNat) ∧ [(3 : Word), 7].Pairwise (fun v w => v.toNat < w.toNat) ∧
    CanIssue (sDesc tPort) tPort [rs 6, rs 7, rdst 9] ∧ CanIssue (sDesc tPort) tPort [rs 7, rs 6, rdst 9] ∧ (tPort.x 7).toNat % 32 = 16 ∧
    (tPort.x 6).toNat % 32 = 3 ∧ (port9 []).again = [] ∧
    (let t : Thread := { tPort with ports := [(3, { port9 [] with ctl := 4 })] }
     CanIssue (on t) t [rs 6, rs 7, rdst 9] ∧ ({ port9 [] with ctl := 4 } : Port).kind = 4) :=
  ⟨rfl, canIssue rfl (by decide), by decide, by decide, by decide, ⟨_, _, _, rfl, rfl, rfl, by decide⟩, by decide, by decide,
    canIssue rfl (by decide), canIssue rfl (by decide), by decide, by decide, rfl, ⟨canIssue rfl (by decide), rfl⟩⟩

/-- Cells with these bytes at these addresses. -/
def cellsOf (l : List (Nat × Nat)) : List Host.Cell := (l.map fun x => (x.1, BitVec.ofNat 8 x.2)).filter fun c => c.2 != 0

/-- A tag table of two sets of two ways at the start of core 0's store, lines of 64 bytes from offset 0x1000: the ways of set 0. -/
def sTag (w0 w1 : Nat) : State := { on tPort with mem := { cells := cellsOf [(storeBase 0, 0x41), (storeBase 0 + 1, 0x60),
  (storeBase 0 + 5, 1), (storeBase 0 + 64, w0), (storeBase 0 + 65, w0 / 256), (storeBase 0 + 72, w1), (storeBase 0 + 73, w1 / 256)] } }

/-- The line sought is that of address 0x80, whose key is 2 and whose set is 0. -/
def tTag : Thread := { tPort with regs := [(5, { val := BitVec.ofNat 64 Config.ownBase }), (6, { val := 0x80 })] }

theorem wit_TagTables : (let hw := (sTag 0 0).mem.word ((sTag 0 0).ownKey (tTag.x 5)); hw.toNat / 2 ^ 12 % 16 = 6 ∧ hw.toNat % 64 = 1 ∧
      hw.toNat / 2 ^ 6 % 4 = 1 ∧ hw.toNat / 2 ^ 28 % 2 ^ 18 = 0x1000) ∧ (tTag.x 5).toNat % 64 = 0 ∧
    (let s : State := { sTag 0 0x281 with threads := [(0, tTag)] }
     CanIssue s tTag [rs 5, rs 6, rdst 8 2] ∧ CanIssue s tTag [rs 5, rs 6, rdst 9] ∧ NoEpoch s ∧ (s.core 0).sb = [] ∧ s.flights = [] ∧
     s.pushesTo s.cur (atWord fun w => sameOrder w (s.ownKey (tTag.x 5))) = [] ∧ s.mem.poisoned (s.ownKey (tTag.x 5)) = false) ∧
    (let set (s : State) := (List.range 2).map fun i => s.mem.word (s.ownKey (tTag.x 5) + 8 + i)
     tagHit (set (sTag 0 0x281)) 2 = some 1 ∧ tagHit (set (sTag 0x180 0)) 2 = none ∧ entValid ((set (sTag 0x180 0)).getD 1 0) = false ∧
     (∀ i, i < 1 → entValid ((set (sTag 0x180 0)).getD i 0) = true) ∧
     tagHit (set (sTag 0x180 0x481)) 2 = none ∧ (∀ e ∈ set (sTag 0x180 0x481), entValid e = true) ∧ tagVictim (set (sTag 0x180 0x481)) = some 1 ∧
     tagHit (set (sTag 0x1A0 0x4A1)) 2 = none ∧ (∀ e ∈ set (sTag 0x1A0 0x4A1), entValid e = true) ∧ tagVictim (set (sTag 0x1A0 0x4A1)) = none) :=
  ⟨by decide, by decide, ⟨canIssue rfl (by decide), canIssue rfl (by decide), noEpoch rfl, rfl, rfl, rfl, rfl⟩,
    rfl, rfl, rfl, by decide, rfl, List.all_eq_true.1 rfl, rfl, rfl, List.all_eq_true.1 rfl, rfl⟩

/-- A pitch of x5 iterations over one fadd of f32 lanes, fetched from address 0. -/
def sPitch (n : Word) : State := State.withFetchWord (on { t0 with pc := 0, regs := [(5, { val := n })] }) 64 0x00C5250B4002807B

def tPitch (n : Word) : Thread := { t0 with pc := 0, regs := [(5, { val := n })] }

theorem wit_PitchStarts : (∃ s1 is, readBody 0 (tPitch 3) 4 (sPitch 3) 1 1 {} [] = (s1, .ok (is, 2)) ∧ is.map (·.instr) = [Instr.fadd 0 0 2 10 10 12] ∧
      s1.bodiesOn 0 < 4) ∧ CanIssue (sPitch 3) (tPitch 3) [rs 5] ∧ CanIssue (sPitch 0) (tPitch 0) [rs 5] ∧ (sPitch 3).latch.n = 0 ∧ (tPitch 3).body = none ∧
    (let b : PitchBody := { instrs := [⟨.fadd 0 0 2 10 10 12, 0x00C5250B, (0, 0, 0), none⟩], stag := 0, rot := 0, sd := false, sa := false, sb := false,
                            count := 2, iter := 1, index := 0, heldRegs := [10, 12], heldPorts := [], stop := none, taken := false, resumeAt := none }
     let t : Thread := { t0 with regs := [(10, { val := 0x3C00 }), (12, { val := 0x4000 })], body := some b }
     b.check t = none ∧ t.landedAt ≠ some (on t).cycle ∧ (on t).replayTurn 0 = true ∧ (on t).thread? 0 = some t ∧ decodeWord 0x00C5250B#32 = .ok (.fadd 0 0 2 10 10 12) ∧ (on t).launchStopped t.launch = false ∧
     (on t).gating = 0 ∧ t.fcsr = 0 ∧ t.ports = [] ∧ (∀ u ∈ [rs 10, rs 12, rdst 10], u.n % u.span = 0 ∧ ∀ r ∈ u.regs, r < t.limit) ∧
     ∀ u ∈ [rs 10, rs 12], ∀ r ∈ u.regs, (t.reg r).full = true ∧ (t.reg r).perr = false) :=
  ⟨⟨_, _, rfl, rfl, by decide⟩, canIssue rfl (by decide), canIssue rfl (by decide), rfl, rfl, ⟨rfl, nofun, by decide, rfl, rfl, rfl, rfl, rfl, rfl, by decide, by decide⟩⟩

/-! Engines -/

/-- A thread whose x5 and x6 are the first and the fifth word of its core's store. -/
def tEng : Thread := { t0 with regs := [(5, { val := BitVec.ofNat 64 Config.ownBase }), (6, { val := BitVec.ofNat 64 (Config.ownBase + 32) }), (7, { val := 3 }), (8, { val := 4 })] }

/-- tEng on a core of its tenant 0, with these bytes at these offsets of its store. -/
def sEng (l : List (Nat × Nat)) : State := { on tEng with
  mem := { cells := cellsOf (l.map fun x => (storeBase 0 + x.1, x.2)) }, tenants := [(0, { clusters := 1 })] }

theorem wit_HaulIssue : isOpt (coreOf (sEng []).cur) = false ∧ CanIssue (sEng []) tEng [rs 5, rdst 9] ∧ CanIssue (sEng []) tEng [rs 7, rdst 9] ∧
    (tEng.x 7).toNat % 64 ≠ 0 ∧ CanIssue (sEng []) tEng [rs 0, rdst 9] ∧ (tEng.x 0).toNat % 64 = 0 ∧ (tEng.x 0).toNat < Config.ownBase ∧
    QueueFree (sEng []) false ∧ OwnWords (sEng [(32, 16)]) (tEng.x 5) 8 [0, 0, 0, 0, 16, 0, 0, 0] ∧ haulBad [0, 0, 0, 0, 16, 0, 0, 0] 0x08 = none ∧
    OwnWords (sEng [(0, 4), (32, 16)]) (tEng.x 5) 8 [4, 0, 0, 0, 16, 0, 0, 0] ∧ haulBad [4, 0, 0, 0, 16, 0, 0, 0] 0x08 = some (some 4) :=
  ⟨rfl, canIssue rfl (by decide), canIssue rfl (by decide), by decide, canIssue rfl (by decide), by decide, by decide,
    queueFree rfl rfl nofun (by decide) (by decide), ⟨by decide, by decide, by decide, fun _ _ => ⟨⟨nofun, rfl⟩, rfl⟩, by decide⟩, by decide,
    ⟨by decide, by decide, by decide, fun _ _ => ⟨⟨nofun, rfl⟩, rfl⟩, by decide⟩, by decide⟩

/-- sEng with a bf16 panel of 16 rows in region 0, as the jobs accepted leave it. -/
def sMat (l : List (Nat × Nat)) : State := { sEng l with octets := [(0, { viewRegions := [(0, { state := 1, panel := some ⟨0, 16, false, false, 1⟩ })] })] }

theorem wit_MatrixIssue : (sMat []).assigned (coreOf (sMat []).cur) tEng.tenant = true ∧ QueueFree (sMat []) true ∧
    CanIssue (sMat []) tEng [rs 5, rs 6, rs 8, rdst 9] ∧ (tEng.x 5).toNat % 64 = 0 ∧ (tEng.x 6).toNat % 32 = 0 ∧
    OwnWords (sMat [(34, 16)]) (tEng.x 5) 4 [0, 0, 0, 0] ∧ OwnWords (sMat [(34, 16)]) (tEng.x 6) 4 [0x100000, 0, 0, 0] ∧
    mmIssueCode 0 [0, 0, 0, 0, 0x100000, 0, 0, 0] = none ∧
    mmAcceptCode (sMat [(34, 16)]) ((sMat [(34, 16)]).octet 0) 0 0 0 [0, 0, 0, 0, 0x100000, 0, 0, 0] = none ∧
    OwnWords (sMat []) (tEng.x 6) 4 [0, 0, 0, 0] ∧ mmIssueCode 0 [0, 0, 0, 0, 0, 0, 0, 0] = some 3 ∧
    ViewOwned ((sMat []).octet 0) tEng.tenant ∧ CanIssue (sMat []) tEng [rs 5, rdst 9] ∧ OwnWords (sMat [(8, 16)]) (tEng.x 5) 4 [0, 16, 0, 0] ∧
    mbloadIssue [0, 16, 0, 0] = none ∧ OwnWords (sMat []) (tEng.x 5) 8 [0, 0, 0, 0, 0, 0, 0, 0] ∧ mstIssue [0, 0, 0, 0, 0, 0, 0, 0] = none :=
  ⟨by decide, queueFree rfl rfl nofun (by decide) (by decide), canIssue rfl (by decide), by decide, by decide,
    ⟨by decide, by decide, by decide, fun _ _ => ⟨⟨nofun, rfl⟩, rfl⟩, by decide⟩, ⟨by decide, by decide, by decide, fun _ _ => ⟨⟨nofun, rfl⟩, rfl⟩, by decide⟩,
    by decide, by decide, ⟨by decide, by decide, by decide, fun _ _ => ⟨⟨nofun, rfl⟩, rfl⟩, by decide⟩, by decide,
    ⟨by decide, nofun⟩, canIssue rfl (by decide), ⟨by decide, by decide, by decide, fun _ _ => ⟨⟨nofun, rfl⟩, rfl⟩, by decide⟩, by decide,
    ⟨by decide, by decide, by decide, fun _ _ => ⟨⟨nofun, rfl⟩, rfl⟩, by decide⟩, by decide⟩

/-- A thread with job 3 of its core, a haul job, in jobMap under its identifier, which x5 holds; x6 names a matrix job. -/
def tJob : Thread := { t0 with regs := [(5, { val := 3 }), (6, { val := 0x8003 }), (7, { val := 0x1001 })], jobMap := [⟨0, true, 0, 3⟩, ⟨0, false, 0, 3⟩] }

/-- Those jobs, in a state of R140. -/
def sJob (st : Nat) : State := { on tJob with cores := [(0, { haulStates := [⟨3, st, 0, 0, 0⟩], matStates := [⟨3, st, 0, 0, 0⟩] })] }

theorem wit_JobQueries : isOpt (coreOf (sJob 1).cur) = false ∧ CanIssue (sJob 1) tJob [rs 5, rdst 9] ∧ CanIssue (sJob 2) tJob [rs 5, rdst 9] ∧
    CanIssue (sJob 1) tJob [rs 6, rdst 8 2] ∧ CanIssue (sJob 2) tJob [rs 6, rdst 8 2] ∧ (tJob.jobNamed 0 (tJob.x 5)).matrix = false ∧
    (tJob.jobNamed 0 (tJob.x 6)).matrix = true ∧ ((sJob 1).jobState (tJob.jobNamed 0 (tJob.x 5))).state = 1 ∧
    ((sJob 2).jobState (tJob.jobNamed 0 (tJob.x 5))).state = 2 ∧ ((sJob 1).jobState (tJob.jobNamed 0 (tJob.x 6))).state = 1 ∧
    ((sJob 2).jobState (tJob.jobNamed 0 (tJob.x 6))).state = 2 ∧ CanIssue (sJob 1) tJob [rs 7, rdst 9] ∧ (tJob.x 7).toNat % 4 ≠ 0 ∧
    CanIssue (sJob 1) tJob [rs 0, rdst 9] ∧ (tJob.x 0).toNat % 4 = 0 :=
  ⟨rfl, canIssue rfl (by decide), canIssue rfl (by decide), canIssue rfl (by decide), canIssue rfl (by decide), by decide, by decide, by decide,
    by decide, by decide, by decide, canIssue rfl (by decide), by decide, canIssue rfl (by decide), by decide⟩

/-- A job of core 0 of octet 0 for tenant 0. -/
def jb (matrix : Bool) (op : Nat) (desc : List Word) : Job :=
  { ref := ⟨0, matrix, 0, 3⟩, slot := 0, tenant := 0, launch := 0, op, desc, state := 1 }

/-- Octet 0 with these jobs, on a machine whose page 0x10000 of HBM the engines of octet 0 may use. -/
def sQ (haul matrix : List Job) : State := { State.reset with
  octets := [(0, { haul, matrix, regions := [(0, { state := 1, panel := some ⟨0, 16, false, false, 1⟩ })] })]
  cores := [(0, { tlb := [⟨0, 0x10000, 0x10000, 0x10007⟩], haulStates := [⟨3, 1, 0, 0, 0⟩], matStates := [⟨3, 1, 0, 0, 0⟩] })]
  access := [(2050, 0xFFFFFFFF), (3074, 0xFFFFFFFF)]
  tenants := [(0, { clusters := 1 })] }

/-- A job alone in its octet's queues heads its queue. -/
theorem heads {s : State} {oct : Nat} {m : Bool} {j : Job} (h1 : (if m then (s.octet oct).matrix else (s.octet oct).haul) = [j])
    (h2 : (if m then (s.octet oct).haul else (s.octet oct).matrix) = []) (h3 : j.ref.octet = oct) (h4 : j.ref.matrix = m) :
    Heads s oct m j [] := ⟨h1, h3, h4, fun _ h => absurd h List.not_mem_nil, fun _ h => absurd (h2 ▸ h) List.not_mem_nil⟩

/-- No tenant of s has an open epoch where its one tenant has none. -/
theorem noEpochOf {s : State} {t : Tenant} (h : s.tenants = [(0, t)]) (he : t.epoch = none) : NoEpoch s := fun tn => by
  simp only [State.tenant, h, amGetD, amGet]
  split <;> simp_all

/-- Where an engine's access leads, and the state after it. -/
def leads (s : State) (j : Job) (va : Nat) (a : Access) : Option (State × Nat) :=
  match s.resolve j.core j.tenant j.master va a with
  | (s1, .ok t) => t.place.map fun x => (s1, x.1)
  | _ => none

/-- What leads finds is what the statement asks. -/
theorem of_leads {s s1 : State} {j : Job} {va ad : Nat} {a : Access} (h : leads s j va a = some (s1, ad)) :
    ∃ t1 x, s.resolve j.core j.tenant j.master va a = (s1, .ok t1) ∧ t1.place = some (ad, x) := by
  unfold leads at h
  split at h
  · rename_i s2 t he
    obtain ⟨x, hx, hy⟩ := Option.map_eq_some_iff.1 h
    cases hy
    exact ⟨t, x.2, he, hx⟩
  · cases h

theorem wit_EnginesRun_haul :
    (∀ haul matrix, (sQ haul matrix).tripped = false ∧ (sQ haul matrix).slow = false ∧ NoEpoch (sQ haul matrix) ∧ (sQ haul matrix).holds = []) ∧
    (let j := jb false 0x08 [0x10000, 0x10008, 0, 0, 8, 0, 0, 0]
     let s := sQ [j] []
     Heads s 0 false j [] ∧ haulAct j.desc j.op 0 0 = some (.copy 0x10008 0x10000) ∧ ctlRec j.desc = false ∧
     (leads (s.startJob j.ref) j 0x10000 .load).map (·.2) = some 0x10000 ∧
     ((leads (s.startJob j.ref) j 0x10000 .load).bind fun x => leads x.1 j 0x10008 .store).map (·.2) = some 0x10008 ∧
     s.mem.poisoned (0x10000 / 8) = false) ∧
    (let j := { jb false 0x08 [] with state := 2 }; Heads (sQ [j] []) 0 false j [] ∧ j.updates = []) :=
  ⟨fun _ _ => ⟨rfl, rfl, noEpochOf rfl rfl, rfl⟩, ⟨heads rfl rfl rfl rfl, by decide, by decide, by decide, by decide, rfl⟩, ⟨heads rfl rfl rfl rfl, rfl⟩⟩

theorem wit_EnginesRun_matrix :
    (let j := { jb true 0x12 [] with state := 2 }; Heads (sQ [] [j]) 0 true j [] ∧ j.updates = []) ∧
    (let j := jb true 0x10 [0x10000, 16, 0, 0]
     let s := sQ [] [j]
     Heads s 0 true j [] ∧ j.pos < gBytes j.desc / 8 ∧ (leads s j (panelWord j.desc 0) .load).map (·.2) = some 0x10000) ∧
    (let j := { jb true 0 [0, 0, 0, 0, 0x100000, 0, 0, 0] with panelLen := 1, pos := 256 }
     let s := sQ [] [j]
     Heads s 0 true j [] ∧ j.pos = j.aPlaces ∧ s.gating = 0 ∧ (s.octet 0).panelStands j = true ∧ j.poison = none ∧
     (regionOf (s.octet 0).regions 0).upset = false ∧ (tileOf (s.octet 0).tiles (tTile j.desc)).state = 0 ∧
     (regionOf (s.octet 0).regions j.panelAt).state = 1 ∧ (regionOf (s.octet 0).regions j.panelAt).panel = some ⟨0, 16, false, false, 1⟩) ∧
    (let j := jb true 0x11 [0x10000, 512, 0, 0, 0, 0x3F800000, 0, 0]
     let s := sQ [] [j]
     Heads s 0 true j [] ∧ sFmt j.desc = 0 ∧ sTwin j.desc = false ∧ sFull j.desc = false ∧ sRec j.desc = false ∧ sShape j.desc ≠ 3 ∧
     j.pos < shapeRows 0 * shapeCols 0 / 2 ∧ (leads (s.startJob j.ref) j 0x10000 .store).map (·.2) = some 0x10000) ∧
    (let j := { jb true 0x12 [] with writes := [0, 19] }; Heads (sQ [] [j]) 0 true j []) := by
  refine ⟨⟨heads rfl rfl rfl rfl, rfl⟩, ⟨heads rfl rfl rfl rfl, by decide, by decide⟩,
    ⟨heads rfl rfl rfl rfl, by decide, rfl, by decide, rfl, rfl, rfl, rfl, rfl⟩,
    ⟨heads rfl rfl rfl rfl, by decide, by decide, by decide, by decide, by decide, by decide, by decide⟩,
    heads rfl rfl rfl rfl⟩

theorem wit_EnginesRun_accept :
    (let p : Pend := { asm := .none, rd := 9, npc := 0x1004, keys := [], got := [(0, 7), (1, 0xFFFFF)], bad := [], mode := 8, phase := 0x12, ea := 0, pops := [] }
     let t : Thread := { t0 with pend := some p, run := .waiting (.acceptance true) }
     let s : State := { on t with octets := [(0, { candidates := [(0, true)] })] }
     s.thread? 0 = some t ∧ octetOf (coreOf 0) = 0 ∧ p.got = [(0, p.word 0), (1, p.word 1)] ∧ (s.octet 0).candidates = [(0, true)] ∧
     ViewOwned (s.octet 0) t.tenant) := ⟨rfl, rfl, by decide, rfl, nofun, nofun⟩

/-! Summit records: record 0 of tenant 0, homed in slice 0 at physical address 0x6000000000 -/

/-- Three FP32 elements (3.0, -10.0, 0.25) are in the store at x6; x5 is handle 0, x7 the history length 3, x8 a count of 3
with 2 saturations. -/
def tRec : Thread := { t0 with regs := [(5, { val := 0 }), (6, { val := BitVec.ofNat 64 Config.ownBase }), (7, { val := 0x30000 }),
  (8, { val := 0x200000003 }), (11, { val := 0x5800000000030000 })] }

/-- The machine with 16 records in tenant 0's pool, of which these bytes of record 0 are not 0. -/
def sRec (l : List (Nat × Nat)) : State := { on tRec with
  mem := { cells := cellsOf (l.map (fun x => (0x6000000000 + x.1, x.2)) ++
    [(storeBase 0 + 2, 0x40), (storeBase 0 + 3, 0x40), (storeBase 0 + 6, 0x20), (storeBase 0 + 7, 0xC1), (storeBase 0 + 10, 0x80), (storeBase 0 + 11, 0x3E)]) }
  tenants := [(0, { srpool := 0x10001 })], access := [(0, 0xFFFFFFFF)]
  cores := [(0, { tlb := [⟨0, 0x10000, 0x10000, 0x6000000067⟩] })] }

/-- Record 0 allocated with a history of 3 windows, its window at generation 1 and 600.0 in the slot of generation 0. -/
def sHist : State := sRec [(4, 1), (10, 3), (13, 0x80), (34, 0x16), (35, 0x44)]

theorem onRecord (level : Nat) (h : level = 1 ∨ level = 3) : OnRecord sHist tRec (tRec.x 5) level sHist 0xC00000000 ∧
    OnRecord (sRec []) tRec (tRec.x 5) level (sRec []) 0xC00000000 := by
  rcases h with rfl | rfl <;> exact ⟨⟨_, rfl⟩, _, rfl⟩

theorem wit_RecordAllocation : tRec.updates = [] ∧ NoEpoch sHist ∧ CanIssue sHist tRec [rs 7, rdst 9] ∧ (tRec.x 7).toNat / 2 ^ 16 % 32 = 3 ∧
    CanIssue sHist tRec [rs 5, rdst 9] ∧ (tRec.x 5).toNat / 2 ^ 16 % 32 = 0 ∧ (on tRec).tenant 0 = {} ∧ ({} : Tenant).poolCount = 0 ∧
    ({ srpool := 0x10001, handles := List.range 16 } : Tenant).poolCount ≤ lowestFree (List.range 16) 0 ∧
    lowestFree (sHist.tenant 0).handles 0 < (sHist.tenant 0).poolCount ∧ sHist.mem.poisoned 0xC00000001 = false ∧
    (sHist.mem.word 0xC00000001).getLsbD 47 = true ∧ ((sRec []).mem.word 0xC00000001).getLsbD 47 = false ∧ CanIssue sHist tRec [rs 5, rs 11, rdst 9] ∧
    (tRec.x 11).getLsbD 58 = false ∧ (tRec.x 11).getLsbD 59 = true ∧ amGet sHist.updatedAt 0xC00000000 ≠ some sHist.cycle :=
  ⟨rfl, fun tn => by simp only [State.tenant]; rcases tn with _ | tn <;> rfl, canIssue rfl (by decide), by decide, canIssue rfl (by decide), by decide, rfl,
    by decide, by decide, by decide, rfl, by decide, by decide, canIssue rfl (by decide), by decide, by decide, by decide⟩

theorem wit_RecordReads : CanIssue sHist tRec [rs 5, rs 7, rdst 12 4] ∧ (∀ i, i < 4 → sHist.mem.poisoned (0xC00000000 + (4 * 0 + i)) = false) ∧
    CanIssue sHist tRec [rs 5, rdst 9] ∧ CanIssue sHist tRec [rs 5, rs 7, rdst 9] ∧ (sHist.mem.word 0xC00000001).getLsbD 47 = true ∧
    sHist.mem.poisoned 0xC00000000 = false ∧ sHist.mem.poisoned 0xC00000004 = false :=
  ⟨canIssue rfl (by decide), fun _ _ => rfl, canIssue rfl (by decide), canIssue rfl (by decide), by decide, rfl, rfl⟩

theorem wit_RecordScales : CanIssue sHist tRec [rs 5, rs 0, rdst 9] ∧ targetBound ((tRec.x 0).toNat % 16) ≠ none ∧
    (let s := { sHist with cores := [(0, { recs := [⟨0, 0, 1, 0x44160000, 0, 0, 0, none⟩] })] }
     ∃ e, s.recHit 0 0 0 = some e ∧ e.max = 0x44160000) ∧ sHist.recHit 0 0 0 = none ∧ (sHist.mem.word 0xC00000001).toNat.testBit 47 = true ∧
    (∀ i ∈ [0, 1] ++ (List.range 8).map (4 + ·), sHist.mem.poisoned (0xC00000000 + i) = false) ∧ ringMax sHist.mem 0xC00000000 3 1 = 0x44160000 ∧
    16 - 3 < (1 + 2 ^ 32 - 2) % 2 ^ 32 ∧ (1 + 2 ^ 32 - 1) % 2 ^ 32 ≤ 16 - 3 :=
  ⟨canIssue rfl (by decide), by decide, ⟨_, rfl, rfl⟩, rfl, by decide, fun _ _ => rfl, by decide, by decide, by decide⟩

theorem wit_RecordUpdates_supd : CanIssue sHist tRec [rs 5, rs 6, rs 8] ∧ sHist.slow = false ∧ (tRec.x 8).toNat / 2 ^ 24 % 16 = 0 ∧
    (tRec.x 8).toNat % 2 ^ 24 = 3 ∧ (tRec.x 8).toNat / 2 ^ 32 % 2 ^ 16 = 2 ∧ OwnWords sHist (tRec.x 6) ((4 * 3 + 7) / 8) [0xC120000040400000, 0x3E800000] ∧
    sHist.recHit 0 0 0 = none ∧ (∀ i, i < 32 → sHist.mem.poisoned (0xC00000000 + i) = false) :=
  ⟨canIssue rfl (by decide), rfl, by decide, by decide, by decide, ⟨by decide, by decide, by decide, fun _ _ => ⟨⟨nofun, rfl⟩, rfl⟩, by decide⟩, rfl,
    fun _ _ => rfl⟩

/-- An update of record 0 at its home's door. -/
def pUpd : Packet := ⟨5, false, 0, 0, none, 0, 0, none, false,
  .update ⟨0, 0, 0xC00000000, 0, 0, 0x40400000, 0, [(21, 1)], 0, false, false, 1, [.inl 0], 5, []⟩, 0, 0⟩

theorem wit_RecordUpdates : (let s := { sHist with packets := [pUpd], cycle := 1 }
      s.tripped = false ∧ s.packets = [] ++ pUpd :: [] ∧ pUpd.node = none ∧ pUpd.depot = none ∧ pUpd.returned = false ∧
      s.accessOk (sliceOf (8 * 0xC00000000)) 0 0 3 = true ∧ s.homeGrants pUpd = true ∧ pUpd.came < s.cycle ∧ s.slow = false ∧ (s.mem.word 0xC00000001).getLsbD 47 = true) ∧
    CanIssue sHist tRec [rdst 9] ∧ tRec.updates = [] ∧ (∀ j ∈ tRec.jobs, sHist.jobFinal j = true) ∧ tRec.poisonedUpd = none :=
  ⟨⟨rfl, rfl, rfl, rfl, rfl, by decide, by decide, by decide, rfl, by decide⟩, canIssue rfl (by decide), rfl, nofun, rfl⟩

/-! Threads, messages, ropes, collectives -/

/-- A launch record of one thread with 32 registers on core 0: entry 0x4000. -/
def recWords : List Word := [0x4000, 0, 0x401, 0, 0, 0, 0, 0]

/-- tEng's core's store begins with that record. -/
def sSpawn : State := { sEng [(1, 0x40), (16, 1), (17, 4)] with tenants := [(0, { clusters := 1, sbivlen := 1, sbiv := 0x20000 })] }

theorem wit_SpawnExitYield : CanIssue sSpawn tEng [rs 5, rdst 9] ∧ CanIssue sSpawn tEng [rs 6, rdst 9] ∧ (tEng.x 6).toNat % 64 ≠ 0 ∧
    (tEng.x 5).toNat % 64 = 0 ∧ sSpawn.slow = false ∧ tEng.spawns.length < 16 ∧ Released sSpawn tEng ∧
    tEng.spawnRead = none ∧ LandsAll tEng .load Loadable sSpawn [tEng.x 5 + 16#64] sSpawn [storeBase 0 + 16] ∧
    (sSpawn.mem.word ((storeBase 0 + 16) / 8)).toNat / 2 ^ 32 % 64 = 0 ∧
    LandsAll tEng .load Loadable sSpawn (wordsFrom (tEng.x 5) (8 + min 0 32)) sSpawn ((List.range 8).map fun i => storeBase 0 + 8 * i) ∧
    ((List.range 8).map fun i => sSpawn.mem.word ((storeBase 0 + 8 * i) / 8)) = recWords ∧
    sSpawn.recordCode ⟨0, recWords, some 0, none, 3⟩ = none ∧ (sEng []).recordCode ⟨0, [0, 0, 0], some 0, none, 3⟩ = some 2 ∧
    (sSpawn.die (rectDie 0)).inbox = [] ∧ CanIssue sSpawn tEng [] ∧ sSpawn.cur % 64 ≠ 63 ∧ tEng.body = none ∧
    (let s : State := { State.reset with threads := [(63, t0)], cur := 63 }; CanIssue s t0 [] ∧ s.cur % 64 = 63) := by
  refine ⟨canIssue rfl (by decide), canIssue rfl (by decide), by decide, by decide, rfl, by decide, ⟨rfl, rfl, nofun, nofun, rfl⟩, rfl,
    ⟨_, _, _, ⟨_, _, rfl, rfl, rfl⟩, ⟨⟨nofun, rfl⟩, rfl⟩, ⟨rfl, rfl⟩, rfl⟩, by decide, ?_, by decide, by decide, by decide, rfl, canIssue rfl (by decide), by decide, rfl,
    canIssue rfl (by decide), rfl⟩
  repeat (first | exact ⟨rfl, rfl⟩ | refine ⟨_, _, _, ⟨_, _, rfl, rfl, rfl⟩, ⟨⟨nofun, rfl⟩, rfl⟩, ?_, rfl⟩)

theorem wit_Messages : CanIssue (on t0) t0 [rs 5, rs 6] ∧ CanIssue (on t0) t0 [rs 5, rs 6 2, rname 63] ∧ CanIssue (on t0) t0 [rs 5, rs 0] ∧ t0.body = none ∧
    (let t : Thread := { tEng with regs := [(5, { val := BitVec.ofNat 64 Config.ownBase }), (7, { val := 0xFF00000001 })] }
     let s : State := { sEng [(1, 0x40)] with threads := [(0, t)] }
     CanIssue s t [rs 7, rs 5, rdst 9] ∧ OwnWords s (t.x 5) 3 [0x4000, 0, 0] ∧ (t.x 7).toNat / 2 ^ 32 % 2 ^ 8 = 255 ∧ (t.x 7).toNat % 2 ^ 32 = 1 ∧
     ((s.core 0).counter 255).state = 0 ∧ Released s t ∧ CanIssue s t [rs 7, rdst 9]) ∧
    (let s := { on t0 with cores := [(0, { counters := [(7, ⟨1, 3, false, some ⟨0, 0, 0, 7, 0, 0, 0⟩⟩), (3, ⟨1, 3, false, some ⟨0, 0, 0, 3, 9, 0, 0⟩⟩)] })] }
     CanIssue s t0 [rs 5, rdst 9] ∧ (∃ x, ((s.core 0).counter 7).task = some x ∧ x.launch = t0.launch ∧ x.tenant = t0.tenant) ∧ ((s.core 0).counter 7).state ≠ 0 ∧
     ¬ ∃ x, ((s.core 0).counter 3).task = some x ∧ x.launch = t0.launch ∧ x.tenant = t0.tenant) :=
  ⟨canIssue rfl (by decide), canIssue rfl (by decide), canIssue rfl (by decide), rfl,
    ⟨canIssue rfl (by decide), ⟨by decide, by decide, by decide, fun _ _ => ⟨⟨nofun, rfl⟩, rfl⟩, by decide⟩, by decide, by decide, rfl, ⟨rfl, rfl, nofun, nofun, rfl⟩,
      canIssue rfl (by decide)⟩,
    ⟨canIssue rfl (by decide), ⟨_, rfl, rfl, rfl⟩, by decide, by rintro ⟨x, h, hx, -⟩; cases h; revert hx; decide⟩⟩

/-- A handler in core 0's service slot for a call of slot 64, reply to x9. -/
def tHand (reg : Nat) : Thread := { t0 with level := .handler 64 reg 3 0 }

/-- The owner that a traversing thread finds for an address, as a check that runs. -/
def ownedBy (s : State) (va : Nat) (o : Option Nat) : Bool :=
  match s.origin 0 0 va .load with | (_, .ok tgt) => decide (ownerOf tgt = o) | _ => false

theorem ownedBy_ok {s : State} {va : Nat} {o : Option Nat} (h : ownedBy s va o = true) :
    ∃ s1 tgt, s.origin 0 0 va .load = (s1, .ok tgt) ∧ ownerOf tgt = o := by
  simp only [ownedBy] at h
  split at h
  · exact ⟨_, _, ‹_›, of_decide_eq_true h⟩
  · exact absurd h nofun

theorem wit_HandlerAndTraverse :
    (∀ reg ∈ [0, 9], let s : State := { State.reset with threads := [(63, tHand reg)], cur := 63 }
      CanIssue s (tHand reg) [rs 5] ∧ (tHand reg).level = .handler 64 reg 3 0 ∧ (tHand reg).body = none ∧ (tHand reg).ports = [] ∧ s.packets = [] ∧ s.slow = false) ∧
    CanIssue (on t0) t0 [rs 5] ∧ t0.level = .user ∧ CanIssue (on t0) t0 [] ∧ t0.shadow = none ∧
    (let t : Thread := { t0 with shadow := some ⟨[{}, {}, {}, {}], 0x2000⟩ }; CanIssue (on t) t [] ∧ (on t).ropeOf 0 = none) ∧
    CanIssue (on t0) t0 [rs 5, rdst 9] ∧ t0.ctx = 0 ∧
    (let t : Thread := { tMem with ctx := 1, regs := [(5, { val := BitVec.ofNat 64 Config.ownBase }), (6, { val := BitVec.ofNat 64 (Config.packageBase + 0x40000) })] }
     let s : State := { on t with tenants := [(0, { clusters := 1 })] }
     CanIssue s t [rs 5, rdst 9] ∧ CanIssue s t [rs 6, rdst 9] ∧
     (∃ s1 tgt, s.origin 0 0 (t.x 5).toNat .load = (s1, .ok tgt) ∧ ownerOf tgt = none) ∧
     (∃ s1 tgt, s.origin 0 0 (t.x 6).toNat .load = (s1, .ok tgt) ∧ ownerOf tgt = some 1) ∧ s.assigned 1 0 = true ∧ t.body = none ∧ t.calls = [] ∧
     Released s t ∧ s.packets = [] ∧ s.slow = false) := by
  refine ⟨fun reg h => ?_, canIssue rfl (by decide), rfl, canIssue rfl (by decide), rfl, ⟨canIssue rfl (by decide), rfl⟩, canIssue rfl (by decide), rfl,
    canIssue rfl (by decide), canIssue rfl (by decide), ownedBy_ok (by decide), ownedBy_ok (by decide), by decide, rfl, rfl, ⟨rfl, rfl, nofun, nofun, rfl⟩, rfl, rfl⟩
  simp only [List.mem_cons, List.not_mem_nil, or_false] at h
  rcases h with rfl | rfl <;> exact ⟨canIssue rfl (by decide), rfl, rfl, rfl, rfl, rfl⟩

/-- Threads of a launch of cores 0 and 1 that form a rope of 2, which x5 holds: the one in slot 64 waits. -/
def tRope : Thread := { t0 with regs := [(5, { val := 2 })] }
def tMate : Thread := { tRope with run := .waiting .partners, pend := some ⟨.none, 9, 0x1004, [], [], [], 10, 2, 0, []⟩ }
def lRope : Launch := { ident := 0, record := ⟨0, recWords, none, none, 3⟩, state := 2, arrival := 0, deps := [some 0, some 0], cores := [0, 1], rectNow := 0x10000 }
def sForm : State := { State.reset with threads := [(0, tRope), (64, tMate)], launches := [(0, lRope)] }

/-- The rope of the two, with given solo members and leader state, slot cur issuing. -/
def sRope (cur : Nat) (solo : List Nat) : State := { State.reset with
  threads := [(0, tRope), (64, tRope)]
  cur := cur
  ropes := [(1, ⟨0, [0, 64], 0, [], none, solo, [], false, [], 0, []⟩)] }

theorem wit_RopeInstructions : CanIssue (sRope 0 []) tRope [rs 5, rdst 9] ∧ (∃ r, (sRope 0 []).ropeOf 0 = some r) ∧
    CanIssue (on tRope) tRope [rs 5, rdst 9] ∧ (on tRope).ropeOf 0 = none ∧ (on tRope).launches = [] ∧
    CanIssue sForm tRope [rs 5, rdst 9] ∧ ((amGet sForm.launches tRope.launch).bind fun l => l.run 0 2) = some [0, 1] ∧
    [0, 1].map (sForm.partner 0 0) = [(0, tRope), (64, tMate)].map some ∧ tMate.forming = some 2 ∧ tMate.ports = [] ∧ sForm.thread? 64 = some tMate ∧
    CanIssue (sRope 64 []) tRope [] ∧ CanIssue (sRope 64 [64]) tRope [rs 5, rdst 9] ∧ CanIssue (sRope 64 [64]) tRope [rs 0, rdst 9] ∧ (tRope.x 5).toNat % 4 ≠ 0 ∧
    CanIssue (sRope 64 []) tRope [rs 0, rdst 9] ∧ CanIssue (sRope 0 []) tRope [rdst 9] ∧ (sRope 64 []).cur = 64 ∧
    (sRope 64 [64]).ropeOf 64 = some (1, ⟨0, [0, 64], 0, [], none, [64], [], false, [], 0, []⟩) :=
  ⟨canIssue rfl (by decide), ⟨_, rfl⟩, canIssue rfl (by decide), rfl, rfl, canIssue rfl (by decide), by decide, by decide, rfl, rfl, rfl, canIssue rfl (by decide),
    canIssue rfl (by decide), canIssue rfl (by decide), by decide, canIssue rfl (by decide), canIssue rfl (by decide), rfl, rfl⟩

/-- A thread of a launch of one core, with the group 0x40 (an i64 sum) in x5 and a queue and epochs of its tenant. -/
def tColl : Thread := { t0 with regs := [(5, { val := 0x40 }), (6, { val := 7 }), (7, { val := 1 }), (8, { val := BitVec.ofNat 64 Config.ownBase })] }

/-- Its launch, a queue 7 of one-word entries bound to optimiser core 0, and bytes of its core's store. -/
def sColl (t : Thread) (tn : Tenant) (l : List (Nat × Nat)) : State := { on t with
  launches := [(0, { lRope with cores := [0] })], tenants := [(0, tn)], mem := { cells := cellsOf (l.map fun x => (storeBase 0 + x.1, x.2)) } }

/-- Queue 7: enabled, 16 entries at the start of the store of optimiser core 0. -/
def q7 : GqHome := { word := 0x8000004000000000 }

theorem wit_CollectivesAndQueues :
    (let s := sColl tColl {} []
     CanIssue s tColl [rs 5, rs 6, rname 9] ∧ amGet s.launches tColl.launch = some { lRope with cores := [0] } ∧ Released s tColl ∧ tColl.colls = [] ∧
     tColl.ordinal < ({ lRope with cores := [0] } : Launch).record.slots ∧ (tColl.x 5).toNat % 8 = 0 ∧ (tColl.x 5).toNat / 16 % 8 = 4 ∧ s.rounds = []) ∧
    (let s := { sColl tColl {} [] with rounds := [(3, ⟨0, 0x40, 0, [(1, 64, 9, 5)], none⟩)] }
     CanIssue s tColl [rs 5, rs 6, rname 9] ∧ ∀ c ∈ [(1, 64, 9, (5 : Word))], c.2.1 ≠ s.cur) ∧
    (let s := sColl tColl { queues := [(7, q7)] } []
     CanIssue s tColl [rs 6, rs 7, rdst 9] ∧ (amGetD (s.tenant 0).queues 7 {}).word.getLsbD 63 = true ∧ 7 < (s.tenant 0).gqCount ∧ tColl.windows = [] ∧ 0 < (tColl.x 7).toNat % 256) ∧
    (let t : Thread := { tColl with windows := [⟨7, 4, 1, 0⟩] }; CanIssue (sColl t { queues := [(7, q7)] } []) t [rs 6, rs 7]) ∧
    (let s : State := { sColl tColl { queues := [(7, { q7 with tail := 1, used := 1 })] } [] with threads := [(Config.computeCores * 64, tColl)], cur := Config.computeCores * 64 }
     CanIssue s tColl [rs 6, rdst 9] ∧ coreOf s.cur = Config.computeCores + q7.word.toNat % 2 ^ 9 ∧
     s.ownBefore (coreOf s.cur) s.cur (storeBase (coreOf s.cur) / 8) = [] ∧ ∀ k, sbTouching (s.core (coreOf s.cur)).sb k = []) ∧
    (let s := sColl tColl {} [(2, 1), (10, 1), (18, 2)]
     CanIssue s tColl [rs 8, rdst 9] ∧ OwnWords s (tColl.x 8) 3 [0x10000, 0x10000, 0x20000] ∧ (s.tenant 0).epoch = none ∧ Released s tColl) ∧
    (let e : Epoch := ⟨0x10000, 0x10000, 0x20000, [], 0, [], 3, false⟩
     let s := sColl tColl { epoch := some e } [(2, 1), (10, 1), (18, 2)]
     CanIssue s tColl [rs 8, rdst 9] ∧ OwnWords s (tColl.x 8) 3 [0x10000, 0x10000, 0x20000] ∧ CanIssue s tColl [rs 7, rdst 9] ∧ CanIssue s tColl [rs 0, rdst 9] ∧
     (tColl.x 7).getLsbD 0 = true ∧ (∀ g ∈ e.granules, g ∈ e.captured)) :=
  ⟨⟨canIssue rfl (by decide), rfl, ⟨rfl, rfl, nofun, nofun, rfl⟩, rfl, by decide, by decide, by decide, rfl⟩, ⟨canIssue rfl (by decide), by decide⟩,
    ⟨canIssue rfl (by decide), by decide, by decide, rfl, by decide⟩, canIssue rfl (by decide), ⟨canIssue rfl (by decide), by decide, by decide, fun _ => rfl⟩,
    ⟨canIssue rfl (by decide), ⟨by decide, by decide, by decide, fun _ _ => ⟨⟨nofun, rfl⟩, rfl⟩, by decide⟩, rfl, ⟨rfl, rfl, nofun, nofun, rfl⟩⟩,
    ⟨canIssue rfl (by decide), ⟨by decide, by decide, by decide, fun _ _ => ⟨⟨nofun, rfl⟩, rfl⟩, by decide⟩, canIssue rfl (by decide), canIssue rfl (by decide),
      by decide, nofun⟩⟩

/-! The base camp controller, the host and the package -/

/-- Tenants 0 and 1 exist; tenant 0 has cluster 0 and slice 0. -/
def sTen : State := { State.reset with tenants := [(0, { clusters := 1, slices := 1 }), (1, {})] }

theorem wit_TenantCommands : sTen.obeys ∧ amGet sTen.tenants 2 = none ∧ amGet sTen.tenants 15 = none ∧
    (let s := { sTen with firmware := false }; s.tripped = false ∧ s.firmware = false ∧ s.resetting = none) ∧
    amGet sTen.tenants 0 = some { clusters := 1, slices := 1 } ∧
    (∀ y ∈ sTen.tenants, y.1 ≠ 0 → y.2.clusters &&& (3 : BitVec 128) = 0 ∧ y.2.slices &&& (1 : BitVec 512) = 0) ∧
    (∀ m, sTen.idleOn m = true) ∧ (on t0).replyComing 0 = false ∧
    (sTen.octets = [] ∧ sTen.cores = [] ∧ sTen.flights = [] ∧ sTen.packets = []) ∧
    (let s := { sTen with resetting := some 0 }; s.tripped = false ∧ amGet s.tenants 0 = some { clusters := 1, slices := 1 } ∧ s.resetReady 0 = true) ∧
    (1 : BitVec 128) &&& ~~~(3 : BitVec 128) = 0 ∧ (3 : BitVec 128).getLsbD (128 / 128) = true ∧ (1 : BitVec 128).getLsbD (128 / 128) = false ∧
    amGet sTen.tenants ((9 : BitVec 7).toNat / 8) = some {} ∧ (9 : BitVec 7).toNat % 8 ≠ 7 ∧ (0x170000003F : Word).toNat % 64 ≠ 0 ∧
    (0x170000003F : Word).toNat / 2 ^ 32 % 32 = 23 ∧ (sTen.queue 4095).en = false ∧ (2 ^ 30 + 2 ^ 30 ≤ Config.hbmEnd) ∧ sTen.hdm = [] ∧
    sTen.launches = [] ∧ sTen.threads = [] ∧ sTen.dies = [] ∧
    (on t0).obeys ∧ (on t0).ropeOf 0 = none ∧ t0.inFlight = false ∧ (on t0).activationRuns 0 = false ∧
    (let a : Activation := { target := some 0, scause := 0x11, sepc := 0x1000, stval := 0 }
     let t : Thread := { t0 with halted := true, run := .parked .activation }
     let s := { on t with cores := [(0, { actQueue := [a] })] }
     s.obeys ∧ s.launchStopped t.launch = false ∧ t.pend = none ∧ (s.core 0).act = none ∧ (s.core 0).actQueue = [a]) ∧
    (let s := { sTen with mailboxWords := [(0, 77)] }; s.obeys ∧ amGet s.mailboxWords 0 = some 77 ∧ 11 < (77 : Word).toNat % 256) :=
  ⟨⟨rfl, rfl, rfl, rfl⟩, rfl, rfl, ⟨rfl, rfl, rfl⟩, rfl, fun y hy h => by
      rcases List.mem_cons.1 hy with rfl | hy
      · exact absurd rfl h
      · rcases List.mem_singleton.1 hy with rfl
        exact ⟨BitVec.zero_and, BitVec.zero_and⟩, fun _ => rfl, rfl, ⟨rfl, rfl, rfl, rfl⟩, ⟨rfl, rfl, by decide⟩, by decide, by decide, by decide, rfl, by decide, by decide, by decide, rfl, by decide, rfl, rfl, rfl, rfl,
    ⟨rfl, rfl, rfl, rfl⟩, rfl, rfl, rfl, ⟨⟨rfl, rfl, rfl, rfl⟩, rfl, rfl, rfl, rfl⟩, ⟨⟨rfl, rfl, rfl, rfl⟩, rfl, by decide⟩⟩

/-- Tenant 0's range 0 lets the host see the first 1 GiB of HBM at host address 2^30; slice 0 lets it read and write, ports of
tenant 0's other packages too. -/
def sHost (w : BitVec 32) : State := { sTen with hdm := [(0, ⟨2 ^ 30, 0, 2 ^ 30, 0, 0⟩)], access := [(4 * 1024, w), (5 * 1024, w), (5 * 1024 + 514, w)] }

theorem wit_HostAndPackage : (sHost 3).tripped = false ∧ (sHost 3).hdmOf (2 ^ 30) = some (⟨2 ^ 30, 0, 2 ^ 30, 0, 0⟩, 0) ∧
    usablePa 0 = true ∧ (∀ level, level = 1 ∨ level = 2 → (sHost 3).accessOk (sliceOf 0) (0 * 8 + 4) 0 level = true) ∧
    (∀ level, level = 1 ∨ level = 2 → (sHost 0).accessOk (sliceOf 0) (0 * 8 + 4) 0 level = false) ∧ (sHost 3).mem.poisoned 0 = false ∧ NoEpoch (sHost 3) ∧
    (sHost 3).queueHeld 4095 = false ∧ (∀ level, level = 1 ∨ level = 2 → (sHost 3).accessOk (514 + 0) (0 * 8 + 5) 0 level = true ∧
      (sHost 3).accessOk (sliceOf 0) (0 * 8 + 5) 0 level = true) ∧ 3 ∈ ({ upsets := [3] } : Memory).upsets ∧ 3 ∉ State.reset.mem.upsets := by
  refine ⟨rfl, by decide, by decide, ?_, ?_, rfl, fun tn => ?_, rfl, ?_, by decide, by decide⟩
  · rintro level (rfl | rfl) <;> decide
  · rintro level (rfl | rfl) <;> decide
  · simp only [State.tenant]
    rcases tn with _ | _ | tn <;> rfl
  · rintro level (rfl | rfl) <;> decide

/-! The launch unit; threads' events -/

/-- A table at 0x1000 whose one leaf maps the first 1 GiB of HBM at its own address for tenant 0's read and write. -/
def tables : List (Nat × Nat) := [(0x1000, 0x01), (0x1001, 0x20), (0x2000, 7)]

/-- Tenant 0 with those tables, cluster 0, and a bivouac at 0x20000; its units may use slices 0 to 7, and those of the tables. -/
def sPaged (l : List (Nat × Nat)) : State := { State.reset with
  mem := { cells := cellsOf (l ++ tables) }
  tenants := [(0, { clusters := 1, sroot := 0x1000, sbiv := 0x20000, sbivlen := 64 })]
  access := ((List.range 8) ++ [64, 128]).map fun i => (6 * 1024 + i, 3) }

/-- The device's access lands at an address, as a check that runs. -/
def landsAt (s : State) (tn va : Nat) (a : Access) (pa : Nat) : Bool :=
  match s.device tn va a with | .ok x => x == pa | .error _ => false

theorem landsAt_ok {s : State} {tn va : Nat} {a : Access} {pa : Nat} (h : landsAt s tn va a pa = true) : s.device tn va a = .ok pa := by
  simp only [landsAt] at h
  split at h
  · simp_all
  · exact absurd h nofun

/-- A launch of a record of core 0. -/
def lOf (ws : List Word) (st : Nat) : Launch := { ident := 0, record := ⟨0, ws, none, none, 3⟩, state := st, arrival := 0, deps := [some 0, some 0], cores := [0] }

theorem wit_LaunchUnit :
    (let h : HostQueue := { en := true, tenant := 0, word1 := 4, word0 := 4, tail := 1 }
     let s : State := { sPaged [] with queues := [(7, h)] }
     s.tripped = false ∧ s.firmware = true ∧ amGet s.tenants 0 ≠ none ∧ s.resetting = none ∧ h.head ≠ h.tail ∧
     (h.ctail + 2 ^ 32 - h.chead) % 2 ^ 32 + h.reserved + 2 ≤ 2 ^ (h.word1.toNat % 16) ∧ s.mem.upsets = []) ∧
    (let r : Record := ⟨0, recWords, none, none, 3⟩
     let s : State := { sPaged [] with dies := [(0, { inbox := [r] })] }
     (s.die 0).inbox = [r] ∧ rectDie r.rect = 0 ∧ s.recordCode r = none) ∧
    (let s : State := { sPaged [] with launches := [(0, lOf recWords 0)] }
     amGet s.launches 0 = some (lOf recWords 0) ∧ ropeCrosses (lOf recWords 0).record = false) ∧
    (let l := { lOf [0x4000, 0, 0x401, 64, 0, 0, 0, 0] 0 with deps := [some 5, some 0] }
     let s : State := { sPaged [(64, 5)] with launches := [(0, l)] }
     amGet s.launches 0 = some l ∧ l.state = 0 ∧ l.deps = [some 5, some 0] ∧ s.watches = [] ∧ s.watchFull (64 / 8) = false ∧
     s.device l.record.tenant (l.record.w 3).toNat .wait = .ok 64 ∧ s.mem.poisoned (64 / 8) = false) ∧
    (let l := lOf recWords 1
     let s : State := { sPaged [] with launches := [(0, l)], dies := [(0, { launches := [0] })] }
     (s.die 0).launches = [0] ∧ amGet s.launches 0 = some l ∧ (s.tenant l.record.tenant).frozen = false ∧
     s.fitLaunch l = some [(0, 0, 0, 0, 0)] ∧ (s.tenant l.record.tenant).freeRun ((64 + 8 * l.record.nargs + 511) / 512) = some 0 ∧
     (∀ i, i < 8 + l.record.nargs → s.device l.record.tenant ((s.tenant l.record.tenant).sbiv.toNat + 512 * 0 + 8 * i) (.device true) = .ok (0x20000 + 8 * i)) ∧ NoEpoch s) ∧
    (let l := { lOf recWords 2 with starting := [(0, 0, 0, 0)] }
     l.record.rope = 1 ∧ l.starting = [(0, 0, 0, 0)]) ∧
    (let l := lOf [0x4000, 0, 0x401, 0, 0, 64, 0, 0] 2
     let s : State := { sPaged [(64, 5)] with launches := [(0, l)] }
     amGet s.launches 0 = some l ∧ l.seqn = none ∧ s.launchOver l = true ∧ l.record.queue = none ∧ l.record.w 5 ≠ 0 ∧
     s.device l.record.tenant (l.record.w 5).toNat .atomic = .ok 64 ∧ s.mem.poisoned (64 / 8) = false ∧ NoEpoch s) ∧
    (let p : Pend := ⟨.scalar 8 0 false, 9, 0x1004, [0], [(0, 3)], [], 9, 0, 0, []⟩
     let t : Thread := { t0 with run := .waiting .reply, pend := some p }
     (on t).thread? 0 = some t ∧ t.pend = some p ∧ t.ports = [] ∧ p.mode = 9 ∧ p.asm = .scalar 8 0 false ∧ p.keys = [0] ∧ p.got = [(0, 3)] ∧
     p.bad = [] ∧ p.pops = []) ∧
    (let l := lOf [0x4000, 0, 0x401, 0, 0, 0, 0, 1] 2
     let s : State := { sPaged [] with launches := [(0, l)], cycle := 1025 }
     amGet s.launches 0 = some l ∧ l.seqn = none ∧ (s.tenant l.record.tenant).frozen = false ∧ l.record.queue = none ∧
     l.record.persist = false ∧ l.record.deadline ≠ 0 ∧ 1024 * l.record.deadline < l.heldFor + (s.cycle - l.placedAt)) := by
  have ne : ∀ (s : State) (t : Tenant), s.tenants = [(0, t)] → t.epoch = none → NoEpoch s := by
    intro s t h e tn
    rcases tn with _ | tn <;> simp [State.tenant, h, amGetD, amGet, e]
  exact ⟨⟨rfl, rfl, nofun, rfl, by decide, by decide, rfl⟩, ⟨rfl, rfl, by decide⟩, ⟨rfl, by decide⟩, ⟨rfl, rfl, rfl, rfl, by decide, landsAt_ok (by decide), by decide⟩,
    ⟨rfl, rfl, rfl, by decide, by decide, fun i h => landsAt_ok (by revert i; decide), ne _ _ rfl rfl⟩, ⟨by decide, rfl⟩,
    ⟨rfl, rfl, by decide, rfl, by decide, landsAt_ok (by decide), by decide, ne _ _ rfl rfl⟩, ⟨rfl, rfl, rfl, rfl, rfl, rfl, rfl, rfl, rfl⟩,
    ⟨rfl, rfl, rfl, rfl, by decide, by decide, by decide⟩⟩

/-- A packet for core 0 that has reached it, with this payload. -/
def pkt (x : Payload) : Packet := { ident := 9, isReply := false, src := 0, dst := 0, node := none, age := 0, arrived := 0, depot := none, returned := false, payload := x }

/-- Core 0 with a launch of it that runs. -/
def sRun (c : Core) : State := { State.reset with cores := [(0, c)], launches := [(0, lOf recWords 2)], tenants := [(0, { clusters := 1 })] }

theorem wit_ThreadEvents :
    (let p : Pend := ⟨.scalar 8 0 false, 9, 0x1004, [farKey 0], [], [], 1, 0, 0, []⟩
     let t : Thread := { t0 with run := .waiting .reply, pend := some p }
     (on t).packets = [] ∧ (on t).thread? 0 = some t ∧ t.run = .waiting .reply ∧ t.pend = some p ∧ t.ports = [] ∧ p.mode = 1 ∧ p.asm = .scalar 8 0 false ∧
     p.keys = [farKey 0] ∧ p.got = [] ∧ p.bad = [] ∧ p.pops = []) ∧
    (let h : Held := ⟨0, 8, 2, 5, none, 0, 0, 0⟩
     let s : State := { on t0 with returns := [(h, 0, 0)], cycle := 64 }
     s.returns = [(h, 0, 0)] ∧ 0 + 64 ≤ s.cycle ∧ s.slow = false ∧ s.thread? h.slot = some t0 ∧ s.holdFull h.key = false ∧ s.mem.full h.key = decide (h.kind = 2)) ∧
    (let t : Thread := { t0 with run := .waiting (.fullReg 5) }
     (on t).thread? 0 = some t ∧ t.run = .waiting (.fullReg 5) ∧ t.frozen = false ∧ (on t).clear 0 t (.fullReg 5) = true) ∧
    (let s : State := { sRun {} with threads := [(0, t0)], packets := [pkt (.message (.reg 0 9 7) 0 64 0x900000)] }
     (pkt (.message (.reg 0 9 7) 0 64 0x900000)).landed = true ∧ s.assigned (coreOf 0) 0 = true ∧ s.thread? 0 = some t0 ∧ t0.tenant = 0 ∧ 9 < t0.limit ∧
     (t0.reg 9).full = false ∧ (s.core (coreOf 0)).msgs = [] ∧ t0.frozen = false) ∧
    (let s : State := { sRun { msgs := [⟨64, 0, .reg 0 9 7, 0x900000⟩] } with threads := [(0, t0)] }
     (s.core 0).msgs = [⟨64, 0, .reg 0 9 7, 0x900000⟩] ∧ s.thread? 0 = some t0 ∧ (t0.reg 9).full = false) ∧
    (let k : Counter := { state := 1, count := 3, task := some ⟨0x4000, 1, 2, 7, 0, 0, 0⟩ }
     let s := sRun { msgs := [⟨64, 0, .dec 0 7 2, 0x700000⟩], counters := [(7, k)] }
     (s.core 0).counter 7 = k ∧ k.state = 1 ∧ k.task.map (·.tenant) = some 0 ∧ 2 < k.count) ∧
    (let p := { pkt (.message (.reg 0 9 7) 0 64 0x900000) with returned := true }
     let s : State := { State.reset with packets := [p], cycle := 64 }
     s.packets = [p] ∧ p.returned = true ∧ p.arrived + 64 ≤ s.cycle ∧ ({ pkt (.context t0 0) with returned := true } : Packet).returned = true) ∧
    (let s := sRun { readyQ := [⟨0x4000, 1, 2, 7, 0, 0, 0⟩] }
     s.taskRuns ⟨0x4000, 1, 2, 7, 0, 0, 0⟩ = true ∧ (s.core 0).arrivals = [] ∧ amGet s.launches 0 = some (lOf recWords 2) ∧ (lOf recWords 2).record.ctx = 0 ∧
     s.roomFor 0 (lOf recWords 2).record.window = some (0, 0)) ∧
    (let s := sRun { msgs := [⟨64, 0, .call 0 3 1 2 64 9 0x4000 false, 0x300000⟩] }
     s.thread? (0 * 64 + 63) = none ∧ (s.core 0).act = none ∧ (s.core 0).actQueue = [] ∧ (s.tenant 0).frozen = false) ∧
    (let p := pkt (.context t0 0)
     let q := pkt (.registers 9 4)
     let s : State := { sRun {} with packets := [p, q] }
     p.landed = true ∧ q.landed = true ∧ p.ident = 9 ∧ (s.core 0).arrivalSpill = [] ∧ s.candidateFits 0 = false ∧ s.roomFor 0 t0.limit = some (0, 0) ∧ s.launchStopped t0.launch = false) ∧
    (let s := sRun { arrivalSpill := [(4, t0)] }
     (s.core 0).arrivalSpill = [(4, t0)] ∧ (s.core 0).arrivals.length < 8 ∧ s.running t0.launch = true ∧ (s.core 0).taskSpill = [] ∧
     (s.die (dieOf 0)).spillEngine = [] ∧ (s.core 0).counters = []) ∧
    (let t : Thread := { t0 with uints := [⟨1, 2, 3⟩], ivec := 0x2000 }
     (on t).thread? 0 = some t ∧ t.uints = [⟨1, 2, 3⟩] ∧ t.shadow = none ∧ t.ivec ≠ 0 ∧ t.ivec.toNat % 4 = 0 ∧ t.run = .ready ∧ t.halted = false ∧
     t.frozen = false ∧ (on t).launchStopped t.launch = false ∧ t.pend = none ∧ t.body = none ∧ (on t).ropeOf 0 = none ∧ (on t).replyComing 0 = false) :=
  ⟨⟨rfl, rfl, rfl, rfl, rfl, rfl, rfl, rfl, rfl, rfl, rfl⟩, ⟨rfl, by decide, rfl, rfl, by decide, by decide⟩, ⟨rfl, rfl, rfl, rfl⟩,
    ⟨rfl, by decide, rfl, rfl, by decide, rfl, rfl, rfl⟩, ⟨rfl, rfl, rfl⟩, ⟨rfl, rfl, rfl, by decide⟩, ⟨rfl, rfl, by decide, rfl⟩,
    ⟨by decide, rfl, rfl, by decide, by decide⟩, ⟨rfl, rfl, rfl, rfl⟩, ⟨rfl, rfl, rfl, rfl, by decide, by decide, rfl⟩, ⟨rfl, by decide, by decide, rfl, rfl, rfl⟩,
    ⟨rfl, rfl, rfl, by decide, by decide, rfl, rfl, rfl, rfl, rfl, rfl, rfl, rfl⟩⟩

/-! The fabric and the belay unit -/

/-- A load from core 0 to core 2,048's die, waiting at a router. -/
def ld (node : Nat) : Packet := { ident := 9, isReply := false, src := 0, dst := 2048, node := some node, age := 3, arrived := 0, depot := none, returned := false, payload := .request 0 0 [0] (.load [8]) }

/-- Slot 0 waits for the belay unit's word at offset off; a store's value stands beside it. -/
def tBel (off : Nat) (v : Option Word) : Thread := { t0 with
  run := .waiting .reply
  pend := some ⟨if v.isSome then .none else .scalar 8 0 false, 9, 0x1004, [0], v.toList.map fun v => (1, v), [], 2, 0, BitVec.ofNat 64 (Config.belayBase + off), []⟩ }

/-- Cluster 0's belay unit: barrier 1 expects 2 and has count 0, barrier 2 has count 1; mutex 2 is slot 0's, mutex 3 slot 1's. -/
def sBel (off : Nat) (v : Option Word) : State := { State.reset with
  threads := [(0, tBel off v)]
  launches := [(0, lRope)]
  tenants := [(0, { clusters := 1 })]
  clusters := [(0, { barriers := [(1, { cfg := 2 }), (2, { cfg := 2, count := 1 }), (3, { cfg := 2, closing := true })]
                     mutexes := [(2, { owner := some 0 }), (3, { owner := some 1 })], events := [(1, { set := true, value := 8 })] })] }

/-- What the unit is asked, as a check that runs. -/
def asks (off : Nat) (v : Option Word) (x : BelayOp × Option Word) : Bool :=
  match (sBel off v).belayAsked 0 with
  | some y => decide (y = x)
  | none => false

theorem belay_asked {off : Nat} {v : Option Word} {x : BelayOp × Option Word} (h : asks off v x = true) : (sBel off v).belayAsked 0 = some x := by
  simp only [asks] at h
  split at h
  · simp_all
  · exact absurd h nofun

theorem wit_FabricAndBelay_asked :
    (sBel 0x48 none).belayAsked 0 = some (.barWait 1, none) ∧ (sBel 0x88 none).belayAsked 0 = some (.barWait 2, none) ∧
    (sBel 0x50 none).belayAsked 0 = some (.barArrive 1, none) ∧ (sBel 0x1040 none).belayAsked 0 = some (.mutAcquire 1, none) ∧
    (sBel 0x1048 none).belayAsked 0 = some (.mutTry 1, none) ∧ (sBel 0x10C8 none).belayAsked 0 = some (.mutTry 3, none) ∧
    (sBel 0x2040 none).belayAsked 0 = some (.evWait 1, none) :=
  ⟨belay_asked (by decide), belay_asked (by decide), belay_asked (by decide), belay_asked (by decide), belay_asked (by decide),
    belay_asked (by decide), belay_asked (by decide)⟩

theorem wit_FabricAndBelay_stored :
    (sBel 0x40 (some 5)).belayAsked 0 = some (.barCfg 1, some 5) ∧ (sBel 0x1090 (some 5)).belayAsked 0 = some (.mutRelease 2, some 5) ∧
    (sBel 0x2048 (some 5)).belayAsked 0 = some (.evSet 1, some 5) ∧ (sBel 0x2050 (some 5)).belayAsked 0 = some (.evClear 1, some 5) ∧
    (sBel 0x2058 (some 5)).belayAsked 0 = some (.evCfg 1, some 5) :=
  ⟨belay_asked (by decide), belay_asked (by decide), belay_asked (by decide), belay_asked (by decide), belay_asked (by decide)⟩

theorem wit_FabricAndBelay :
    (let p := ld 8
     ({ State.reset with packets := [p] } : State).combines = [] ∧ p.node = some 8 ∧ p.depot = none ∧ p.returned = false ∧ p.isReply = false ∧
     outputPort 8 (p.next 8) = 2 ∧ .dieLink 8 2 ∉ State.reset.linksDown ∧ ∀ x e d, p.payload ≠ .ack x e d) ∧
    (let e : Combine := { node := 8, isReply := false, packet := 9, merged := [], first := 0, isOpen := true, openedAt := 0 }
     e.openedAt + 8 < ({ State.reset with cycle := 64 } : State).cycle ∧
     (ld 8).arrived + 64 ≤ ({ State.reset with cycle := 64 } : State).cycle) ∧
    (let p := ld 31
     let s : State := { State.reset with packets := [p], cycle := 4097 }
     p.node = some 31 ∧ outputPort 31 (p.next 31) = 5 ∧ 31 < 384 ∧ p.flits ≤ depotRoom ∧ amGetD s.granted (31 * 8 + 5) 0 + 4096 < s.cycle) ∧
    ({ ld 31 with depot := some (31, 5) } : Packet).depot = some (31, 5) ∧
    (let t := tBel 0x48 none
     let c := (sBel 0x48 none).cluster (clusterOf (coreOf 0))
     (sBel 0x48 none).arrivalOk 0 1 = true ∧ (sBel 0x88 none).arrivalOk 0 2 = true ∧ (sBel 0x50 none).arrivalOk 0 1 = true ∧
     (c.barrier 2).early = 0 ∧ (sBel 0x48 none).thread? 0 = some t ∧ t.ports = [] ∧ t.pend.map (fun p => (p.asm, p.keys, p.pops)) = some (.scalar 8 0 false, [0], []) ∧
     (c.barrier 1).closing = false ∧ (c.barrier 1).count + 1 < (c.barrier 1).cfg.toNat % 2 ^ 16 ∧
     (c.barrier 2).closing = false ∧ (c.barrier 2).count + 1 = (c.barrier 2).cfg.toNat % 2 ^ 16 ∧ (c.barrier 2).cfg.getLsbD 41 = false ∧ (c.barrier 2).children = [] ∧
     (c.mutex 1).owner = none ∧ (c.mutex 3).owner = some 1 ∧ (c.eventLine 1).set = true) ∧
    (let t := tBel 0x40 (some 5)
     let c := (sBel 0x40 (some 5)).cluster (clusterOf (coreOf 0))
     (sBel 0x40 (some 5)).threads = [(0, t)] ∧ t.ports = [] ∧ t.pend.map (fun p => (p.asm, p.keys, p.pops)) = some (.none, [0], []) ∧ isOpt (coreOf 0) = false ∧
     (c.barrier 1).waiters = [] ∧ (c.mutex 2).owner = some 0 ∧ (c.mutex 2).waiters = [] ∧ (c.eventLine 1).cfg.getLsbD 0 = false ∧
     (c.eventLine 1).cfg.getLsbD 1 = false ∧ (c.eventLine 1).waiters = []) ∧
    (let c := (sBel 0 none).cluster 0
     (pkt (.childArrival 0 0 1 1 1)).landed = true ∧ (((sBel 0 none).tenant 0).clusters.getLsbD 0) = true ∧ (c.barrier 1).closing = false ∧
     (c.barrier 1).count + 1 < (c.barrier 1).cfg.toNat % 2 ^ 16 ∧ (c.barrier 3).closing = true ∧ (c.barrier 3).children = [] ∧
     (c.barrier 3).early < (c.barrier 3).cfg.toNat % 2 ^ 16) :=
  ⟨⟨rfl, rfl, rfl, rfl, rfl, by decide, nofun, fun _ _ _ => nofun⟩, ⟨by decide, by decide⟩, ⟨rfl, by decide, by decide, by decide, by decide⟩, rfl,
    ⟨by decide, by decide, by decide, rfl, rfl, rfl, rfl, rfl, by decide, rfl, by decide, by decide, rfl, rfl, rfl, rfl⟩, ⟨rfl, rfl, rfl, rfl, rfl, rfl, rfl, by decide, by decide, rfl⟩,
    ⟨rfl, by decide, rfl, by decide, rfl, rfl, by decide⟩⟩

/-! Ports, ropes, rounds, queues, epochs; the supervisor -/

/-- A thread of core 0 with an affine read port of its store's first words, bound to nothing. -/
def portRd : Port := { port9 [] with base := BitVec.ofNat 64 Config.ownBase }
def tRd : Thread := { tMem with ports := [(3, portRd)] }

/-- The same with an output port that holds one push of 7 to its store's second word. -/
def tOut : Thread := { tMem with ports := [(3, { portRd with ctl := 4, pushes := [⟨5, BitVec.ofNat 64 (Config.ownBase + 8), [7]⟩] })] }

/-- The same with a link-in port from the west, whose FIFO holds a word of an earlier cycle. -/
def tLink : Thread := { tMem with ports := [(3, { portRd with ctl := 2 })] }
def sLink : State := { on tLink with cores := [(0, { fifos := [(0, [(7, 3)])] })], cycle := 4 }

/-- The same with an indirect port under 4 whose index port is the first, which holds the word 16. -/
def portIx : Port := { portRd with ctl := 1, strides := [1], ixh := 3 }
def tIx : Thread := { tMem with ports := [(3, { portRd with held := [⟨[16], none, none⟩] }), (4, portIx)] }
def sIx : State := { on tIx with cores := [(0, { prefetchPtr := 3 })] }

/-- Nothing keeps the words of a port's next element from being read. -/
def portIdle (s : State) (t : Thread) (h : Nat) (p : Port) : Bool :=
  decide (s.thread? 0 = some t) && decide (amGet t.ports h = some p) && t.portsRun && p.held.all (fun e => e.fault.isNone) &&
  decide (p.readyWords + p.g ≤ 16) && p.asks.isEmpty && s.mem.upsets.isEmpty && (s.core 0).sb.isEmpty && s.flights.isEmpty &&
  t.ports.all (fun x => x.2.pushes.isEmpty) && !s.slow

/-- An element of the port at an address lies in core 0's window, unpoisoned. -/
def goodAt (s : State) (p : Port) (a : Word) : Bool :=
  decide (a.toNat % 8 = 0) && decide (Config.ownBase ≤ a.toNat) && decide (a.toNat + 8 * p.g ≤ Config.ownBase + storeSize 0) &&
  (List.range p.g).all fun i => !s.mem.poisoned ((storeBase 0 + (a.toNat - Config.ownBase)) / 8 + i)

theorem wit_PortsRopesAndRounds_ports :
    (portIdle (on tRd) tRd 3 portRd = true ∧ (on tRd).nextPort 0 = some 3 ∧ ((on tRd).core 0).prefetchAt ≠ some (on tRd).cycle ∧ portRd.kind = 0 ∧ portRd.sync = 0 ∧ portRd.pos + portRd.held.length < portRd.total ∧
      goodAt (on tRd) portRd (portRd.addr 0) = true) ∧
    (portIdle sLink tLink 3 { portRd with ctl := 2 } = true ∧ ({ portRd with ctl := 2 } : Port).kind = 2 ∧
      amGetD (sLink.core 0).fifos ({ portRd with ctl := 2 } : Port).dir [] = [(7, 3)] ∧ 3 ≠ sLink.cycle) ∧
    (portIdle sIx tIx 4 portIx = true ∧ sIx.nextPort 0 = some 4 ∧ (sIx.core 0).prefetchAt ≠ some sIx.cycle ∧ portIx.kind = 1 ∧ portIx.again = [] ∧ portIx.ixh = 3 ∧ portIx.sync = 0 ∧
      amGet tIx.ports 3 = some { portRd with held := [⟨[16], none, none⟩] } ∧ portRd.kind = 0 ∧ portIx.ctl.getLsbD 15 = false ∧
      goodAt sIx portIx (portIx.base + ((16 : Word) &&& 0xFFFFFFFF#64) * portIx.stride 0) = true) ∧
    ((on tOut).thread? 0 = some tOut ∧ tOut.ports.map (fun x => (x.1, x.2.sync, x.2.pushes.map (·.words))) = [(3, 0, [[7]])] ∧
      (∀ x ∈ tOut.ports, ∀ y ∈ x.2.pushes, 5 ≤ y.ident) ∧ ((on tOut).core 0).sb = [] ∧ (on tOut).flights = [] ∧ (on tOut).slow = false ∧
      NoEpoch (on tOut) ∧ (on tOut).holds = [] ∧ (BitVec.ofNat 64 (Config.ownBase + 8)).toNat % 8 = 0 ∧
      Config.ownBase ≤ (BitVec.ofNat 64 (Config.ownBase + 8)).toNat ∧
      (BitVec.ofNat 64 (Config.ownBase + 8)).toNat + 8 ≤ Config.ownBase + storeSize 0) :=
  ⟨⟨by decide, by decide, nofun, by decide, by decide, by decide, by decide⟩, ⟨by decide, by decide, by decide, by decide⟩,
    ⟨by decide, by decide, nofun, by decide, rfl, rfl, by decide, rfl, by decide, by decide, by decide⟩,
    ⟨rfl, by decide, by decide, rfl, rfl, rfl, noEpoch rfl, rfl, by decide, by decide, by decide⟩⟩

/-- addi x7, x5, 1 at the leader's pc. -/
def addiLine : Granule := { words := [0x00128393, 0, 0, 0, 0, 0, 0, 0], poison := [] }

/-- The rope of slots 0 and 64 before its first step. -/
def sStep : State := { sRope 0 [] with cores := [(0, { fetch := [(64, addiLine)] })] }

theorem wit_PortsRopesAndRounds_rope :
    sStep.ropes = [(1, ⟨0, [0, 64], 0, [], none, [], [], false, [], 0, []⟩)] ∧
    (∀ m ∈ [0, 64], (sStep.core (coreOf m)).issuedAt ≠ some sStep.cycle ∧ sStep.rowOne (coreOf m) = false) ∧ sStep.launchStopped 0 = false ∧
    sStep.thread? 0 = some tRope ∧ sStep.thread? 64 = some tRope ∧
    (tRope.run = .ready ∧ tRope.pend = none ∧ tRope.frozen = false ∧ tRope.halted = false ∧ tRope.stepped = false ∧
      tRope.landedAt ≠ some sStep.cycle) ∧
    tRope.ports = [] ∧ tRope.body = none ∧ tRope.hold = none ∧ tRope.pc.toNat % 4 = 0 ∧
    amGet (sStep.core (coreOf 0)).fetch (tRope.pc.toNat / 64) = some addiLine ∧ (∀ i, i ∉ addiLine.poison) ∧
    decodeWord ((addiLine.words.getD (tRope.pc.toNat % 64 / 8) 0).extractLsb' (if tRope.pc.getLsbD 2 then 32 else 0) 32) = .ok (.addi 7 5 1) ∧
    (tRope.reg 5).full = true ∧ (tRope.reg 5).perr = false ∧ 7 < tRope.limit ∧
    (let later : Rope := ⟨0, [0, 64], 1, [], none, [], [], false, [(0, 0x1000, [0x00128393], none)], 0, []⟩
     later.step = 0 + 1 ∧ later.stream = [(0, 0x1000, [0x00128393], none)] ∧ (0x1000 : Word).toNat % 4 = 0 ∧
     decodeWord 0x00128393#32 = .ok (.addi 7 5 1)) :=
  ⟨rfl, by decide, rfl, rfl, rfl, ⟨rfl, rfl, rfl, rfl, rfl, nofun⟩, rfl, rfl, rfl, by decide, rfl, nofun, rfl, rfl, rfl, by decide, rfl, rfl, by decide, rfl⟩

/-- A launch of cores 0 and 1, one thread each. -/
def lTwo : Launch := { lOf [0x4000, 0x10000, 0x401, 0, 0, 0, 0, 0] 2 with cores := [0, 1], rectNow := 0x10000 }

/-- The device's access fails, as a check that runs. -/
def failsAt (s : State) (tn va : Nat) (a : Access) : Bool :=
  match s.device tn va a with | .ok _ => false | .error _ => true

theorem failsAt_error {s : State} {tn va : Nat} {a : Access} (h : failsAt s tn va a = true) : ∃ c, s.device tn va a = .error c := by
  simp only [failsAt] at h
  split at h
  · exact absurd h nofun
  · exact ⟨_, by assumption⟩

/-- An epoch of one granule, copied to dst. -/
def epochTo (dst : Nat) : Epoch := ⟨0x10000, 64, dst, [(0x10000, 0x10000, 64, 0x400)], 0, [], 0, false⟩

theorem wit_PortsRopesAndRounds_rest :
    (let r : Round := ⟨0, 0x40, 0, [(0, 0, 9, 5), (1, 64, 9, 6)], none⟩
     let s : State := { State.reset with rounds := [(3, r)], launches := [(0, lTwo)] }
     r.failed = none ∧ amGet s.launches r.launch = some lTwo ∧ r.contributions = [(0, 0, 9, 5), (1, 64, 9, 6)] ∧ groupSize lTwo r.group ≤ r.contributions.length ∧
     r.group.toNat % 8 = 0 ∧ r.group.toNat / 16 % 8 = 4 ∧ r.group.toNat / 256 % 4 = 0 ∧ ∀ c ∈ r.contributions, c.2.1 < 2 ^ 40) ∧
    (let r : Round := ⟨0, 0x300000240, 0, [(0, 0, 9, 5), (1, 64, 9, 6)], none⟩
     let s : State := { State.reset with rounds := [(3, r)], launches := [(0, lTwo)], peerGroups := [(3, [2, 64])] }
     amGet s.launches r.launch = some lTwo ∧ groupSize lTwo r.group ≤ r.contributions.length ∧ r.group.toNat / 256 % 4 = 2 ∧
     amGet s.peerGroups (r.group.toNat / 2 ^ 32 % 2 ^ 10) = some [2, 64] ∧ [(7 : Word)].length + 1 = [2, 64].length) ∧
    (let r : Round := ⟨0, 0x40, 0, [(0, 0, 9, 5)], some 3⟩
     r.failed = some 3 ∧ (∀ c ∈ r.contributions, c.2.1 < 2 ^ 40) ∧ State.reset.slow = false) ∧
    (let s : State := { State.reset with tenants := [(0, { queues := [(7, { q7 with grants := [4] })] })] }
     let h := (s.tenant 0).gq 7
     h.grants = 4 :: [] ∧ h.used < 2 ^ (h.word.toNat / 2 ^ 36 % 16)) ∧
    (let p := pkt (.entry 0 7 [11] 4 q7.word)
     let s : State := { State.reset with tenants := [(0, { queues := [(7, q7)] })], packets := [p] }
     p.landed = true ∧ NoEpoch s ∧ s.holds = [] ∧ s.slow = false ∧
     q7.word.toNat / 2 ^ 16 % 2 ^ 18 + 8 * 1 * (0 % 2 ^ (q7.word.toNat / 2 ^ 36 % 16)) + 8 * 1 ≤ Config.optStoreBytes ∧ [(11 : Word)].length = 2 ^ (((s.tenant 0).gq 7).word.toNat / 2 ^ 40 % 4)) ∧
    (∀ dst, let e : Epoch := epochTo dst
     e.failed = false ∧ e.granules = [0x400] ∧ e.captured = [] ∧
     e.pagesAt 0x400 = [(0x10000, 0x10000, 64, 0x400)] ∧ e.pagesAt (0x20000 / 64) = [] ∧ e.pagesAt (0x400 / 8) = []) ∧ 0x20000 < Config.homedBase ∧
    ((sPaged []).device 0 0x20000 .store = .ok 0x20000 ∧ ∃ c, (sPaged []).device 0 (2 ^ 31) .store = .error c) ∧ (sPaged []).mem.upsets = [] ∧
    (sPaged []).holds = [] ∧ (sPaged []).packets = [] ∧ ∀ i, i < 8 → (sPaged []).mem.poisoned (8 * 0x400 + i) = false := by
  refine ⟨⟨rfl, rfl, rfl, by decide, by decide, by decide, by decide, by decide⟩, ⟨rfl, by decide, by decide, rfl, rfl⟩, ⟨rfl, by decide, rfl⟩, ⟨rfl, by decide⟩,
    ⟨rfl, fun tn => ?_, rfl, rfl, by decide, by decide⟩, fun dst => ⟨rfl, rfl, rfl, rfl, rfl, rfl⟩, by decide,
    ⟨landsAt_ok (by decide), failsAt_error (by decide)⟩, rfl, rfl, rfl, fun _ _ => rfl⟩
  rcases tn with _ | tn <;> rfl

/-- Slot 0's thread of launch 0, alone on die 0, with a request of act act for it. -/
def sSpre (act st : Nat) (t : Thread) : State := { sPaged [] with
  threads := [(0, t)]
  launches := [(0, { lOf recWords st with halted := decide (act = 5) })]
  dies := [(0, { launches := [0], spreInbox := [(BitVec.ofNat 64 (act * 2 ^ 32), 0, 0, 0)] })]
  tenants := [(0, { clusters := 1, sroot := 0x1000, sbiv := 0x20000, sbivlen := 0x100000 })] }

theorem spre_quiet (act st : Nat) (t : Thread) (c : Nat) : ((sSpre act st t).core c).sb = [] ∧ ((sSpre act st t).core c).arrivals = [] ∧
    ((sSpre act st t).core c).arrivalSpill = [] ∧ ((sSpre act st t).core c).act = none ∧ ((sSpre act st t).core c).actQueue = [] ∧
    ((sSpre act st t).core c).msgs = [] := ⟨rfl, rfl, rfl, rfl, rfl, rfl⟩

theorem wit_SupervisorSteps_spre (act st : Nat) :
    let s := sSpre act st t0
    s.tripped = false ∧ s.dies = [(0, s.die 0)] ∧ (s.die 0).spreInbox = [(BitVec.ofNat 64 (act * 2 ^ 32), 0, (s.core 0).spreNo, 0)] ∧ (s.die 0).launches = [0] ∧
    (s.die 0).spillEngine = [] ∧ amGet s.launches 0 = some { lOf recWords st with halted := decide (act = 5) } ∧ s.threads = [(0, t0)] ∧ t0.launch = 0 ∧
    t0.level = .user ∧ t0.pend = none ∧ t0.ports = [] ∧ t0.calls = [] ∧ t0.mark = false ∧ t0.kept = none ∧ s.packets = [] ∧ s.octets = [] ∧ s.flights = [] ∧
    s.ropes = [] ∧ t0.run = .ready ∧ (lOf recWords st).seqn = none ∧ (lOf recWords st).fired = false ∧ (lOf recWords st).starting = [] :=
  ⟨rfl, rfl, rfl, rfl, rfl, rfl, rfl, rfl, rfl, rfl, rfl, rfl, rfl, rfl, rfl, rfl, rfl, rfl, rfl, rfl, rfl, rfl⟩

/-- The walk ends in a leaf, as a check that runs. -/
def walksTo (s : State) (tn va : Nat) (x : Word × Nat × Nat × Nat) : Bool :=
  match s.walk tn va with | .ok y => decide (y = x) | .error _ => false

theorem walksTo_ok {s : State} {tn va : Nat} {x : Word × Nat × Nat × Nat} (h : walksTo s tn va x = true) : s.walk tn va = .ok x := by
  simp only [walksTo] at h
  split at h
  · simp_all
  · exact absurd h nofun

theorem wit_SupervisorSteps :
    (∀ act ∈ [0, 1, 2, 3, 4, 5], (BitVec.ofNat 64 (act * 2 ^ 32)).toNat % 2 ^ 32 = 0 ∧ (BitVec.ofNat 64 (act * 2 ^ 32)).toNat / 2 ^ 32 % 8 = act) ∧
    (∀ act ∈ [1, 2], ((sSpre act 2 t0).reserve (lOf recWords 2) act).isSome = true) ∧
    ({ t0 with run := .parked .resume } : Thread).run = .parked .resume ∧
    (let s := sPaged []
     amGet s.tenants 0 ≠ none ∧ tlbFind (s.cluster 0).tlb 0 (0 * 4096) = none ∧ (s.cluster 0).pending = [] ∧ (s.die (0 / 16)).walks = []) ∧
    (sPaged []).walk 0 (0 * 4096) = .ok (7, 0, 2 ^ 30, 0x2000 / 8) ∧ (1 : Word).getLsbD 0 = true ∧
    (let a : Activation := { target := some 0, scause := 0x11, sepc := 0x1000, stval := 0, sxsel := 0x2005 }
     let s : State := { on t0 with cores := [(0, { act := some a })] }
     (s.core 0).act = some a ∧ a.saved = none ∧ a.target = some 0 ∧ s.thread? 0 = some t0 ∧ a.sxsel.getLsbD 12 = false ∧ a.sxsel.toNat % 2 ^ 7 = 5 ∧ 5 < t0.limit ∧ (t0.reg 5).perr = false) :=
  ⟨by decide, by decide, rfl, ⟨nofun, rfl, rfl, rfl⟩, walksTo_ok (by decide), by decide, ⟨rfl, rfl, rfl, rfl, by decide, by decide, by decide, rfl⟩⟩

/-! Decoding, memory, the clock -/

theorem wit_DecodeEncode : (Instr.add 1 2 3).wf = true ∧ encode (.add 1 2 3) = some 0x003100B3#32 := ⟨by decide, rfl⟩

theorem wit_StepKeepsMemory : sFetch.mem.wf = true ∧ ∃ u, step sFetch = .next u := by
  refine ⟨by decide, ?_⟩
  have h : (match step sFetch with | .next _ => true | _ => false) = true := by decide
  split at h
  · exact ⟨_, by assumption⟩
  · exact absurd h nofun

theorem wit_ClockStopped : ({ State.reset with tripped := true } : State).tripped = true := rfl

/-! Single steps; each result is worked out by hand from the rule named, or is the spec's own worked example. -/

/-- A thread with these registers. -/
def tWith (l : List (Nat × Word)) : Thread := { t0 with regs := l.map fun x => (x.1, { val := x.2 }) }

/-- A field of thread 0 after the instruction on a machine as reset leaves it but for that thread. -/
def after (i : Instr) (s : State) (f : Thread → α) : Option α :=
  match exec i s with
  | .next u => (u.thread? s.cur).map f
  | _ => none

/-- Registers n after the instruction on registers l. -/
def gives (i : Instr) (l : List (Nat × Word)) (n : Nat) : Option Word := after i (on (tWith l)) (·.x n)

-- R64, R66: two's complement, wrap, and the corners of division
theorem test_add_wraps : gives (.add 7 5 6) [(5, 0xFFFFFFFFFFFFFFFF), (6, 2)] 7 = some 1 := by decide
theorem test_addi_extends : gives (.addi 5 5 0xFFF) [(5, 0)] 5 = some 0xFFFFFFFFFFFFFFFF := by decide
theorem test_sub : gives (.sub 7 5 6) [(5, 3), (6, 5)] 7 = some 0xFFFFFFFFFFFFFFFE := by decide
theorem test_slt_sltu : gives (.slt 7 5 6) [(5, 0xFFFFFFFFFFFFFFFF), (6, 0)] 7 = some 1 ∧
    gives (.sltu 7 5 6) [(5, 0xFFFFFFFFFFFFFFFF), (6, 0)] 7 = some 0 := by decide
theorem test_sra_srl : gives (.sra 7 5 6) [(5, 0x8000000000000000), (6, 63)] 7 = some 0xFFFFFFFFFFFFFFFF ∧
    gives (.srl 7 5 6) [(5, 0x8000000000000000), (6, 63)] 7 = some 1 := by decide
theorem test_addw : gives (.addw 7 5 6) [(5, 0x7FFFFFFF), (6, 1)] 7 = some 0xFFFFFFFF80000000 := by decide
theorem test_mulh : gives (.mulh 7 5 6) [(5, 0xFFFFFFFFFFFFFFFF), (6, 2)] 7 = some 0xFFFFFFFFFFFFFFFF ∧
    gives (.mulhu 7 5 6) [(5, 0xFFFFFFFFFFFFFFFF), (6, 2)] 7 = some 1 := by decide
theorem test_div_zero : gives (.div 7 5 6) [(5, 9), (6, 0)] 7 = some 0xFFFFFFFFFFFFFFFF ∧ gives (.rem 7 5 6) [(5, 9), (6, 0)] 7 = some 9 := by decide
theorem test_div_overflow : gives (.div 7 5 6) [(5, 0x8000000000000000), (6, 0xFFFFFFFFFFFFFFFF)] 7 = some 0x8000000000000000 := by decide
theorem test_lui_auipc : gives (.lui 5 0x80000) [] 5 = some 0xFFFFFFFF80000000 ∧ gives (.auipc 5 1) [] 5 = some 0x2000 := by decide

-- R65: the pc of a taken branch and the link of a jump
theorem test_beq : after (.beq 5 6 0xFFE) (on (tWith [(5, 4), (6, 4)])) (·.pc) = some 0xFFC ∧
    after (.beq 5 6 0xFFE) (on (tWith [(5, 4), (6, 5)])) (·.pc) = some 0x1004 := by decide
theorem test_jal : after (.jal 1 8) (on t0) (fun t => (t.pc, t.x 1)) = some (0x1010, 0x1004) := by decide

-- R66: bytes of a word in rising order of address, sign-extended
theorem test_lb_lw : after (.lb 9 5 8) { sMem with mem := { cells := [(storeBase 0 + 8, 0x80)] } } (·.x 9) = some 0xFFFFFFFFFFFFFF80 ∧
    after (.lw 9 5 4) sMem (·.x 9) = some 0x08070605 := by decide

-- R38: "With a window limit of 64, the same words trap at decode with cause 0x02 and xtval = 66"
theorem test_window_limit : after (.ld 8 2 24) { on { t0 with xtvec := 0x2000 } with latch := { n := 1, reach := some (1, 2, 0) } }
    (fun t => (t.xcause, t.xtval, t.pc)) = some (0x8000000000000002, 66, 0x2000) := by decide

-- R45, the worked encodings of chapter 2
theorem test_encoding_examples : decodeWord 0xC704000B#32 = .ok (.fmac 3 0 0 0 8 16) ∧ decodeWord 0x40E6150B#32 = .ok (.fadd 1 0 1 10 12 14) ∧
    decodeWord 0xC0B6355B#32 = .ok (.amadd 1 1 10 11 12) ∧ decodeWord 0x24C5957B#32 = .ok (.mmE4m3 1 10 11 12) ∧
    decodeWord 0x0D25A95B#32 = .ok (.waitA 18 11 18) ∧ decodeWord 0x0607D77B#32 = .ok (.clip 14 15) := ⟨rfl, rfl, rfl, rfl, rfl, rfl⟩

-- R3, R115: T(5, 6, 3, 9, 17) has slot address 0xACE51 and its core's store lies at 0x7F00ACE40000
theorem test_slot_address : coreOf 0xACE51 = coreAt 5 (6 / 4 * 8 + 3) (6 % 4 * 16 + 9) ∧
    windowOf (coreOf 0xACE51) 0x7F00ACE40000 = some (.store (coreOf 0xACE51) (storeBase (coreOf 0xACE51)) false) := by decide

-- R82: physical address 0x1234567890 is homed at slice 371
theorem test_slice : sliceOf 0x1234567890 = 371 := by decide

/-- The launch block smooth of chapter 15: rect 0x070F0052, cfg 0x201F00810, args 0x40000 and 4,096. -/
def smooth : Launch := { ident := 0, record := ⟨0, [0x4000, 0x070F0052, 0x201F00810, 0, 0, 0, 0, 0, 0x40000, 4096], none, none, 3⟩, state := 2, arrival := 0,
                         deps := [], cores := coresOf 0x070F0052 false }

-- R307: the thread in slot 4 of core (3, 9) of cluster 5 starts with t0 = 916, t1 = 2,048, a0 and a1
theorem test_smooth : coreAt 2 (8 + 57 / 16) (16 + 57 % 16) = coreAt 2 11 25 ∧ smooth.record.window = 64 ∧ smooth.record.slots = 16 ∧
    smooth.record.rope = 16 ∧ smooth.record.prio = 1 ∧ smooth.record.nargs = 2 := by decide
theorem test_smooth_start : (startRegs { smooth with cores := List.replicate 57 0 ++ [coreAt 2 11 25] } (coreAt 2 11 25) 4).filter
    (fun r => r.1 = 2 ∨ r.1 = 5 ∨ r.1 = 10 ∨ r.1 = 11) = [(2, 0), (5, 916), (10, 0x40000), (11, 4096)] := by decide

-- R206: fsum.f32.g2 x20, x16 of 2^24, 1.0, 1.0 and -2^24 by pairs gives 1.0 in every lane, with NX
theorem test_fsum : after (.fsum 1 0 1 20 16 0) (on (tWith [(16, 0x3F8000004B800000), (17, 0xCB8000003F800000)]))
    (fun t => (t.x 20, t.x 21, t.fcsr.toNat % 32)) = some (0x3F8000003F800000, 0x3F8000003F800000, 1) := by decide

/-- Chapter 10's operands of qfp8.f32.g4 a0, x16, a1 with a given a1. -/
def tQfp8 (a1 : Word) : Thread := { tWith [(11, a1), (16, 0xC02000003F800000), (17, 0x43E8800043E10000), (18, 0xC416000043FA0000), (19, 0x000000003A83126F)] with xtvec := 0x2000 }

-- R212: three lanes saturate, thr = 1: cause 0x0B with xtval 0x0103, a0 and the flags unchanged
theorem test_qfp8_traps : after (.qfp8 2 1 10 16 11) (on (tQfp8 0x13F800000)) (fun t => (t.xcause, t.xtval, t.x 10, t.fcsr)) =
    some (0x800000000000000B, 0x0103, 0, 0) := by decide
-- R212: with scale 0.5
theorem test_qfp8 : after (.qfp8 2 1 10 16 11) (on (tQfp8 0x13F000000)) (fun t => (t.x 10, t.fcsr.toNat % 32)) =
    some (0x0000F9787776BA30, 3) := by decide
-- R212: with thr = 3: NX, OF and UF
theorem test_qfp8_saturates : after (.qfp8 2 1 10 16 11) (on (tQfp8 0x33F800000)) (fun t => (t.x 10, t.fcsr.toNat % 32)) =
    some (0x0001FE7E7E7EC238, 7) := by decide

-- R250: 3.0 goes to bin 21, 0.25 to 18, 0 to 0, 96.0 to 26, 1.5 to 20, 600.0 to 29
theorem test_bins : ([0x40400000, 0x3E800000, 0, 0x42C00000, 0x3FC00000, 0x44160000].map fun b => binOf 0 (f32.decode b)) =
    [some 21, some 18, some 0, some 26, some 20, some 29] := by decide
-- R255: e4m3 with no margin and M = 600 gives scale 0.5 at gen 2 and thr 4; the decode scale 2.0 with target word 0x80
theorem test_scale : scaleWord 0 ((targetMax {} 0).getD (0, 0)) 0x44160000 2 4 = 0x000002043F000000 ∧
    scaleWord 0x80 ((targetMax {} 0).getD (0, 0)) 0x44160000 2 4 = 0x0000020440000000 := by decide

-- R279: amcas.d a0, a2, 0(a1) with a0 = 7 and a2 = 9 on a word that holds 7: a0 = 7, and the word becomes 9
theorem test_amcas : (let s := hbm (tWith [(10, 7), (11, 0x10000), (12, 9)])
    match exec (.amcas 1 0 10 12 11) { s with mem := { s.mem with cells := setCell s.mem.cells 0x10000 7 } } with
    | .next u => (u.thread? 0).map fun t => (t.x 10, u.mem.word (0x10000 / 8))
    | _ => none) = some (7, 9) := by decide

/-- Chapter 5's tag table at offset 0x8000 of core 0's store: set 56 with ways of ages 1, 0, 2 and 3, the last 0x1F0038C3. -/
def sTins : State := { on (tWith [(10, 0x1234567890), (12, 0x7E0000008000)]) with
  mem := { cells := cellsOf ([(0, 0x86), (1, 0x80), (5, 0x10), (0x740, 0x81), (0x741, 1), (0x748, 0x80), (0x749, 2), (0x750, 0x82), (0x751, 3),
    (0x758, 0xC3), (0x759, 0x38), (0x75B, 0x1F)].map fun x => (storeBase 0 + 0x8000 + x.1, x.2)) } }

-- R124: tins x16, a0, 0(x12) evicts way 3: x16 and x17, the touched ages and the new tag word
theorem test_tins : after (.tins 16 12 10) sTins (fun t => (t.x 16, t.x 17)) = some (0x00007E000001E301, 0x000000001F0038C3) := by decide
theorem test_tins_words : (match exec (.tins 16 12 10) sTins with
    | .next u => [0, 1, 2, 3].map fun i => u.mem.word ((storeBase 0 + 0x8740) / 8 + i)
    | _ => []) = [0x182, 0x281, 0x383, 0x0000001234567880] := by decide

/-! Ill-formed instructions, one for each check of Instr.wf -/

theorem test_wf_fence : ([.fenceS 3 0, .fenceS 0 7] : List Instr).all (fun i => !i.wf) = true ∧ (Instr.fenceS 2 6).wf = true := by decide
theorem test_wf_slot : ([.threadStart 0x108000, .memoryReply 0x108000 0, .holdRetry 0x108000, .threadWake 0x108000, .pitchReplay 0x108000,
    .userInterruptDelivery 0x108000, .spawnReply 0x108000] : List Instr).all (fun i => !i.wf) = true ∧ (Instr.threadStart 0x107FFF).wf = true := by decide
theorem test_wf_core : ([.registerDelivery 16896 0, .registerDelivery 0 2048, .counterDecrement 16896, .taskStart 16896, .handlerStart 16896,
    .bivouacRefill 16896, .sxvalRead 16896, .sxvalWrite 16896 0, .activationStart 16896] : List Instr).all (fun i => !i.wf) = true ∧
    (Instr.taskStart 16895).wf = true := by decide
theorem test_wf_die : ([.launchAccept 8, .launchPlace 8, .walkComplete 8 0, .sprePark 8, .spreSpill 8, .spreSpillStores 8, .spreResume 8, .spreHalt 8,
    .spreReleaseHalt 8] : List Instr).all (fun i => !i.wf) = true ∧ (Instr.launchPlace 7).wf = true := by decide
theorem test_wf_octet : ([.jobAccept 2048 false, .haulJobStart 2048 0, .haulJobFinal 2048, .mbloadJob 2048 0, .multiplyJob 2048 0, .mstJob 2048 0,
    .mclrJob 2048, .matrixJobFinal 2048] : List Instr).all (fun i => !i.wf) = true ∧ (Instr.mclrJob 2047).wf = true := by decide
theorem test_wf_tenant : ([.createTenant 16 0 0 0, .assign 16 0 0, .writeRouteEntry 16 0 0, .writeRouteEntry 0 16 0, .resetTenant 16, .destroyTenant 16,
    .setBivouac 16 0 0, .bindQueue 0 16, .gqCreditGrant 16 0, .gqCreditGrant 0 65536, .cairnBackgroundCapture 16 0, .stlbinv 16 0] : List Instr).all
    (fun i => !i.wf) = true ∧ (Instr.assign 15 0 0).wf = true := by decide
theorem test_wf_host : ([.queueDoorbell 4096 0, .queueEnable 4096 0, .bindQueue 4096 0, .setHdmRange 16 0 0 0 0 0, .setHdmRange 0 0 0 0 16 0,
    .setHdmRange 0 0 0 0 0 16, .hostRead 0 0, .hostWrite 0 [], .registerWrite (.queueChead 4096) 0, .registerWrite (.mailboxWord 16) 0, .registerWrite (.tenantCsr 16 0) 0,
    .registerWrite (.threadCsr 0x108000 0) 0, .peerAccess 24 0 0 .read 0] : List Instr).all (fun i => !i.wf) = true ∧
    (Instr.queueDoorbell 4095 0).wf = true := by decide
theorem test_wf_fabric : ([.routerForward 385 0 false, .routerForward 0 16 false, .combineWindowClose 385 false 0, .depotSpill 385 0, .depotReinject 0 16,
    .linkReplay (.dieLink 385 0), .linkFailure (.dieLink 0 16), .homeAccess (.buffered 16896 0 0), .homeAccess (.buffered 0 0 8)] : List Instr).all
    (fun i => !i.wf) = true ∧ (Instr.routerForward 384 15 false).wf = true := by decide
theorem test_wf_cluster : ([.barrierCfgWrite 128 0 0, .barrierCfgWrite 0 32 0, .barrierArriveWait 0 32, .barrierArrive 0 32, .mutexAcquire 0 32, .mutexTry 0 32,
    .mutexRelease 0 32, .eventWait 0 64, .eventSet 128 0 0, .eventSet 0 64 0, .eventClear 0 64, .eventCfgWrite 0 64 0, .pageWalk 128 0 0, .pageWalk 0 16 0]
    : List Instr).all (fun i => !i.wf) = true ∧ (Instr.eventWait 0 63).wf = true := by decide
theorem test_wf_port : ([.portPrefetch 0 16, .portPushPerform 0 16] : List Instr).all (fun i => !i.wf) = true ∧ (Instr.portPrefetch 0 15).wf = true := by decide

/-! Words of the spec's encoding tables and the instructions they stand for: every encoded constructor, each field at a value of
its own -/

/-- Each word decodes to the instruction beside it. -/
def decodesAll : List (Nat × Instr) → Prop
  | [] => True
  | p :: l => decodeTableWord 32 p.1 = some p.2 ∧ decodesAll l

theorem test_decode_loads : decodesAll [
    (0xA5C90283, .lb 5 18 0xa5c),
    (0xA5C91283, .lh 5 18 0xa5c),
    (0xA5C92283, .lw 5 18 0xa5c),
    (0xA5C93283, .ld 5 18 0xa5c),
    (0xA5C94283, .lbu 5 18 0xa5c),
    (0xA5C95283, .lhu 5 18 0xa5c),
    (0xA5C96283, .lwu 5 18 0xa5c)] := by repeat (first | exact True.intro | refine ⟨rfl, ?_⟩)

theorem test_decode_fences_base : decodesAll [
    (0x03C0000F, .fence 0 3 12),
    (0x0000100F, .fenceI)] := by repeat (first | exact True.intro | refine ⟨rfl, ?_⟩)

theorem test_decode_immediates : decodesAll [
    (0xA5C90293, .addi 5 18 0xa5c),
    (0xA5C92293, .slti 5 18 0xa5c),
    (0xA5C93293, .sltiu 5 18 0xa5c),
    (0xA5C94293, .xori 5 18 0xa5c),
    (0xA5C96293, .ori 5 18 0xa5c),
    (0xA5C97293, .andi 5 18 0xa5c),
    (0x01391293, .slli 5 18 19),
    (0x01395293, .srli 5 18 19),
    (0x41395293, .srai 5 18 19),
    (0xA5C3E297, .auipc 5 0xa5c3e),
    (0xA5C9029B, .addiw 5 18 0xa5c),
    (0x0139129B, .slliw 5 18 19),
    (0x0139529B, .srliw 5 18 19),
    (0x4139529B, .sraiw 5 18 19),
    (0xA5C3E2B7, .lui 5 0xa5c3e)] := by repeat (first | exact True.intro | refine ⟨rfl, ?_⟩)

theorem test_decode_stores : decodesAll [
    (0xA4B90E23, .sb 11 18 0xa5c),
    (0xA4B91E23, .sh 11 18 0xa5c),
    (0xA4B92E23, .sw 11 18 0xa5c),
    (0xA4B93E23, .sd 11 18 0xa5c)] := by repeat (first | exact True.intro | refine ⟨rfl, ?_⟩)

theorem test_decode_registers_1 : decodesAll [
    (0x00B902B3, .add 5 18 11),
    (0x40B902B3, .sub 5 18 11),
    (0x00B912B3, .sll 5 18 11),
    (0x00B922B3, .slt 5 18 11),
    (0x00B932B3, .sltu 5 18 11),
    (0x00B942B3, .xor 5 18 11),
    (0x00B952B3, .srl 5 18 11),
    (0x40B952B3, .sra 5 18 11),
    (0x00B962B3, .or 5 18 11),
    (0x00B972B3, .and 5 18 11),
    (0x02B902B3, .mul 5 18 11),
    (0x02B912B3, .mulh 5 18 11),
    (0x02B922B3, .mulhsu 5 18 11),
    (0x02B932B3, .mulhu 5 18 11),
    (0x02B942B3, .div 5 18 11),
    (0x02B952B3, .divu 5 18 11)] := by repeat (first | exact True.intro | refine ⟨rfl, ?_⟩)

theorem test_decode_registers_2 : decodesAll [
    (0x02B962B3, .rem 5 18 11),
    (0x02B972B3, .remu 5 18 11)] := by repeat (first | exact True.intro | refine ⟨rfl, ?_⟩)

theorem test_decode_word_registers : decodesAll [
    (0x00B902BB, .addw 5 18 11),
    (0x40B902BB, .subw 5 18 11),
    (0x00B912BB, .sllw 5 18 11),
    (0x00B952BB, .srlw 5 18 11),
    (0x40B952BB, .sraw 5 18 11),
    (0x02B902BB, .mulw 5 18 11),
    (0x02B942BB, .divw 5 18 11),
    (0x02B952BB, .divuw 5 18 11),
    (0x02B962BB, .remw 5 18 11),
    (0x02B972BB, .remuw 5 18 11)] := by repeat (first | exact True.intro | refine ⟨rfl, ?_⟩)

theorem test_decode_transfers : decodesAll [
    (0xCAB90C63, .beq 18 11 0xa5c),
    (0xCAB91C63, .bne 18 11 0xa5c),
    (0xCAB94C63, .blt 18 11 0xa5c),
    (0xCAB95C63, .bge 18 11 0xa5c),
    (0xCAB96C63, .bltu 18 11 0xa5c),
    (0xCAB97C63, .bgeu 18 11 0xa5c),
    (0xA5C902E7, .jalr 5 18 0xa5c),
    (0x87D4B2EF, .jal 5 0xa5c3e)] := by repeat (first | exact True.intro | refine ⟨rfl, ?_⟩)

theorem test_decode_system : decodesAll [
    (0x00000073, .ecall),
    (0x00100073, .ebreak),
    (0x802912F3, .csrrw 0x802 5 18),
    (0x802922F3, .csrrs 0x802 5 18),
    (0x802932F3, .csrrc 0x802 5 18),
    (0x8024D2F3, .csrrwi 0x802 5 9),
    (0x8024E2F3, .csrrsi 0x802 5 9),
    (0x8024F2F3, .csrrci 0x802 5 9)] := by repeat (first | exact True.intro | refine ⟨rfl, ?_⟩)

theorem test_decode_span_arithmetic_1 : decodesAll [
    (0x40C9230B, .fadd 1 0 2 6 18 12),
    (0x42C9230B, .fsub 1 0 2 6 18 12),
    (0x44C9230B, .fmul 1 0 2 6 18 12),
    (0x46C9230B, .fmac 1 0 2 6 18 12),
    (0x48C9230B, .fmsc 1 0 2 6 18 12),
    (0x4AC9230B, .fmin 1 0 2 6 18 12),
    (0x4CC9230B, .fmax 1 0 2 6 18 12),
    (0x4EC9230B, .fdiv 1 0 2 6 18 12),
    (0x50C9230B, .fsqrt 1 0 2 6 18 12),
    (0x52C9230B, .frcpe 1 0 2 6 18 12),
    (0x54C9230B, .frsqe 1 0 2 6 18 12),
    (0x56C9230B, .fsgnj 1 0 2 6 18 12),
    (0x58C9230B, .fsgnjn 1 0 2 6 18 12),
    (0x5AC9230B, .fsgnjx 1 0 2 6 18 12),
    (0x5CC9230B, .fsum 1 0 2 6 18 12),
    (0x5EC9230B, .fmaxa 1 0 2 6 18 12)] := by repeat (first | exact True.intro | refine ⟨rfl, ?_⟩)

theorem test_decode_span_arithmetic_2 : decodesAll [
    (0x40C9630B, .spanAdd 1 0 2 6 18 12),
    (0x42C9630B, .spanSub 1 0 2 6 18 12),
    (0x44C9630B, .spanMin 1 0 2 6 18 12),
    (0x46C9630B, .spanMax 1 0 2 6 18 12),
    (0x48C9630B, .spanMaxn 1 0 2 6 18 12),
    (0x4AC9630B, .spanMul 1 0 2 6 18 12),
    (0x4CC9630B, .spanMulh 1 0 2 6 18 12),
    (0x4EC9630B, .spanAnd 1 0 2 6 18 12),
    (0x50C9630B, .spanOr 1 0 2 6 18 12),
    (0x52C9630B, .spanXor 1 0 2 6 18 12),
    (0x54C9630B, .spanSll 1 0 2 6 18 12),
    (0x56C9630B, .spanSrl 1 0 2 6 18 12),
    (0x58C9630B, .spanSra 1 0 2 6 18 12),
    (0x5AC9630B, .fsl 1 0 2 6 18 12),
    (0x5CC9630B, .fsr 1 0 2 6 18 12),
    (0x5EC9630B, .gmax 1 0 2 6 18 12)] := by repeat (first | exact True.intro | refine ⟨rfl, ?_⟩)

theorem test_decode_span_miscellany_1 : decodesAll [
    (0x40C9232B, .cmpeq 1 2 6 18 12),
    (0x42C9232B, .cmplt 1 2 6 18 12),
    (0x44C9232B, .cmple 1 2 6 18 12),
    (0x46C9632B, .cmpltn 1 2 6 18 12),
    (0x4829232B, .cvt 1 2 6 18 2),
    (0x4A29232B, .cvtr 1 2 6 18 2),
    (0x4C09632B, .clz 1 2 6 18),
    (0x4E09632B, .popc 1 2 6 18),
    (0x5009232B, .abs 1 2 6 18),
    (0x5209232B, .neg 1 2 6 18),
    (0x54C9232B, .perm 1 2 6 18 12),
    (0x5609632B, .gsum 1 2 6 18),
    (0x5809232B, .fclass 1 2 6 18),
    (0x5A09232B, .lmsk 1 2 6 18),
    (0x5C09232B, .lexp 1 2 6 18),
    (0x60C9232B, .qenc 1 2 6 18 12)] := by repeat (first | exact True.intro | refine ⟨rfl, ?_⟩)

theorem test_decode_span_miscellany_2 : decodesAll [
    (0x62C9232B, .qdec 1 2 6 18 12),
    (0x64C9232B, .qfp8 1 2 6 18 12),
    (0x66C9232B, .qfp8x 1 2 6 18 12),
    (0x68C9232B, .dfp8 1 2 6 18 12),
    (0x6AC9232B, .dfp8x 1 2 6 18 12),
    (0x2C29002B, .tabld 2 18)] := by repeat (first | exact True.intro | refine ⟨rfl, ?_⟩)

theorem test_decode_group_ldg : decodesAll [
    (0x6B49035B, .ldg 1 6 18 0x2b4)] := by repeat (first | exact True.intro | refine ⟨rfl, ?_⟩)

theorem test_decode_group_stg : decodesAll [
    (0x6AC91A5B, .stg 1 12 18 0x2b4)] := by repeat (first | exact True.intro | refine ⟨rfl, ?_⟩)

theorem test_decode_synchronising : decodesAll [
    (0x000922DB, .lde 5 18),
    (0x020922DB, .ldt 5 18),
    (0x04B9205B, .stf 18 11),
    (0x06B9205B, .stp 18 11),
    (0x080922DB, .tagrd 5 18),
    (0x0AB922DB, .tagset 5 18 11),
    (0x0CB922DB, .waitA 5 18 11),
    (0x0EB922DB, .wake 5 18 11),
    (0x100922DB, .ldx 5 18),
    (0x12B922DB, .stx 11 18 5)] := by repeat (first | exact True.intro | refine ⟨rfl, ?_⟩)

theorem test_decode_atomics : decodesAll [
    (0x80B932DB, .amadd 1 0 5 11 18),
    (0x82B932DB, .amand 1 0 5 11 18),
    (0x84B932DB, .amor 1 0 5 11 18),
    (0x86B932DB, .amxor 1 0 5 11 18),
    (0x88B932DB, .ammin 1 0 5 11 18),
    (0x8AB932DB, .ammax 1 0 5 11 18),
    (0x8CB932DB, .amminn 1 0 5 11 18),
    (0x8EB932DB, .ammaxn 1 0 5 11 18),
    (0x90B932DB, .amswp 1 0 5 11 18),
    (0x92B932DB, .amcas 1 0 5 11 18),
    (0x94B932DB, .amfadd 1 0 5 11 18),
    (0x96B932DB, .amfaddC 1 0 5 11 18)] := by repeat (first | exact True.intro | refine ⟨rfl, ?_⟩)

theorem test_decode_fences : decodesAll [
    (0x0130405B, .fenceS 2 3),
    (0x0200405B, .fenceE)] := by repeat (first | exact True.intro | refine ⟨rfl, ?_⟩)

theorem test_decode_ports : decodesAll [
    (0x00B952DB, .pbind 5 18 11),
    (0x020952DB, .punb 5 18),
    (0x040952DB, .pstat 5 18),
    (0x06B9505B, .psave 18 11),
    (0x08B952DB, .prest 5 18 11),
    (0x0AB952DB, .pskip 5 18 11),
    (0x0C0952DB, .isect 5 18)] := by repeat (first | exact True.intro | refine ⟨rfl, ?_⟩)

theorem test_decode_tag_tables : decodesAll [
    (0x00B962DB, .tlook 5 18 11),
    (0x02B962DB, .tins 5 18 11),
    (0x04B962DB, .tinv 5 18 11)] := by repeat (first | exact True.intro | refine ⟨rfl, ?_⟩)

theorem test_decode_prefixes : decodesAll [
    (0x001101FB, .reach 1 2 3),
    (0x3012807B, .when 1 0x25),
    (0x48390B7B, .pitch 4 3 18 1 0 1 2)] := by repeat (first | exact True.intro | refine ⟨rfl, ?_⟩)

theorem test_decode_matrix_issue : decodesAll [
    (0x60B912FB, .mmBf16 3 5 18 11),
    (0x62B912FB, .mmF16 3 5 18 11),
    (0x64B912FB, .mmE4m3 3 5 18 11),
    (0x66B912FB, .mmE5m2 3 5 18 11),
    (0x68B912FB, .mmE4m3E5m2 3 5 18 11),
    (0x6AB912FB, .mmE5m2E4m3 3 5 18 11),
    (0x6CB912FB, .mmC8 3 5 18 11),
    (0x6EB912FB, .mmBf16C8 3 5 18 11),
    (0x70B912FB, .mmE2m1 3 5 18 11),
    (0x72B912FB, .mmI8 3 5 18 11),
    (0x74B912FB, .mmF32x 3 5 18 11)] := by repeat (first | exact True.intro | refine ⟨rfl, ?_⟩)

theorem test_decode_engine_control : decodesAll [
    (0x000922FB, .mbload 5 18),
    (0x020922FB, .mst 5 18),
    (0x040922FB, .mwait 5 18),
    (0x060922FB, .mpoll 5 18),
    (0x080922FB, .mrestart 5 18),
    (0x0A0922FB, .mclr 5 18),
    (0x100922FB, .hcopy 5 18),
    (0x120922FB, .hcopy2 5 18),
    (0x140922FB, .hcopyn 5 18),
    (0x160922FB, .hgath 5 18),
    (0x180922FB, .hscat 5 18),
    (0x1A0922FB, .hpair 5 18),
    (0x1C0922FB, .hwait 5 18),
    (0x1E0922FB, .hpoll 5 18),
    (0x200922FB, .jobint 5 18)] := by repeat (first | exact True.intro | refine ⟨rfl, ?_⟩)

theorem test_decode_records : decodesAll [
    (0x000932FB, .salloc 5 18),
    (0x020932FB, .sfree 5 18),
    (0x04B932FB, .sset 5 18 11),
    (0x06B936FB, .supd 18 11 13),
    (0x08B932FB, .sroll 5 18 11),
    (0x0AB932FB, .sscale 5 18 11),
    (0x0CB932FB, .sscaleH 5 18 11),
    (0x0EB932FB, .sread 5 18 11),
    (0x100932FB, .sgen 5 18),
    (0x120032FB, .sflush 5),
    (0x14B932FB, .sscaleG 5 18 11)] := by repeat (first | exact True.intro | refine ⟨rfl, ?_⟩)

theorem test_decode_threads_messages : decodesAll [
    (0x000942FB, .spawn 5 18),
    (0x0200407B, .exit),
    (0x0400407B, .yield),
    (0x060942FB, .trav 5 18),
    (0x08B9407B, .msgReg 18 11),
    (0x0AB9407B, .msgDec 18 11),
    (0x0CB942FB, .ctrSet 5 18 11),
    (0x0E0942FB, .ctrRd 5 18),
    (0x10B942FB, .hcall 5 18 11),
    (0x1209407B, .hret 18),
    (0x142042FB, .xempty 2 5),
    (0x1600407B, .ixret)] := by repeat (first | exact True.intro | refine ⟨rfl, ?_⟩)

theorem test_decode_ropes_queues : decodesAll [
    (0x000952FB, .ropeForm 5 18),
    (0x0200507B, .ropeEnd),
    (0x040052FB, .unclip 5),
    (0x060952FB, .clip 5 18),
    (0x10B952FB, .collRed 5 18 11),
    (0x14B9507B, .gqPush 18 11),
    (0x160952FB, .gqPop 5 18),
    (0x18B952FB, .gqWin 5 18 11)] := by repeat (first | exact True.intro | refine ⟨rfl, ?_⟩)

theorem test_decode_system_control : decodesAll [
    (0x0009607B, .tret 18),
    (0x0200607B, .xret),
    (0x0400607B, .beat),
    (0x060962FB, .cairnOpen 5 18),
    (0x080962FB, .cairnClose 5 18)] := by repeat (first | exact True.intro | refine ⟨rfl, ?_⟩)

theorem test_decode_hint_region : decodesAll [
    (0x0000707B, .hintRegion)] := by repeat (first | exact True.intro | refine ⟨rfl, ?_⟩)

/-! What single clauses of the statements assume -/

theorem wit_StepRunsDecoded_grant : (sFetch.core 0).issuedAt ≠ some 1 ∧ ({ sFetch with cycle := 1, agenda := [] } : State).ropeTurn 0 = none ∧
    (({ sFetch with cycle := 1, agenda := [] } : State).spanNext 0 && ({ sFetch with cycle := 1, agenda := [] } : State).spanWaits 0 { pc := 0, limit := 128 }) = false ∧
    ({ pc := 0, limit := 128 } : Thread).body = none ∧ ({ pc := 0, limit := 128 } : Thread).stepped = false ∧
    (fetchGranule 0 32 0x006283B3).poison.contains 0 = false ∧
    ((fetchGranule 0 32 0x006283B3).words.getD 0 0).extractLsb' 0 32 = 0x006283B3#32 :=
  ⟨by decide, by decide, by decide, rfl, rfl, by decide, by decide⟩

/-- The word that a thread of slot 0 fetches, as a check that runs. -/
def fetches (s : State) (w : BitVec 32) : Bool :=
  match s.thread? 0 with
  | some t => match s.fetch32 0 t (t.pc + BitVec.ofNat 64 (4 * s.latch.n)) with
    | (s1, .ok x) => decide (x = w) && !s1.tripped && (s1.thread? s1.cur).isSome && !s1.latch.more && s1.latch.reach.isNone && s1.latch.guard.isNone
    | _ => false
  | none => false

theorem wit_PrefixedStep_words : fetches (State.reset.withFetchWord 64 0x00C5250B001101FB) 0x001101FB = true ∧
    decodeWord 0x001101FB#32 = .ok (.reach 1 2 3) ∧ fetches (State.reset.withFetchWord 64 0x00C5250B3012807B) 0x3012807B = true ∧
    decodeWord 0x3012807B#32 = .ok (.when 1 0x25) := ⟨by decide, rfl, by decide, rfl⟩

theorem wit_LoadsReadMemory_travels : (let s := { sMem with slow := true }
    CanIssue s tMem [rs 6, rdst 9] ∧ s.slow = true ∧ Lands s tMem (tMem.x 6) .load s (storeBase 0 + 4) ∧ Settled s ((storeBase 0 + 4) / 8)) :=
  ⟨canIssue rfl (by decide), rfl, ⟨_, _, rfl, rfl, rfl⟩, nofun, by decide⟩

/-- A request of slot 0 for the word 0x10000, which waits at its home, with a machine that lets it or does not. -/
def sAsk (w : BitVec 32) (op : HomeOp) : State := { hbm tHbm with
  packets := [{ pkt (.request 0 0 [0] op) with dst := homeEp 0x10000 }], access := [(2, w)], cycle := 1, slow := true }

theorem wit_BufferedStoresReachMemory_request :
    (∀ op ∈ [HomeOp.load [0x2000], .atomic .add true false 0x10000 3 0, .store 5 [(0x2000, 0xFF, 7)], .sync 0 0x2000 0, .sync 1 0x2000 0, .sync 2 0x2000 7],
      let s := sAsk 0xFFFFFFFF op
      let p := { pkt (.request 0 0 [0] op) with dst := homeEp 0x10000 }
      s.tripped = false ∧ s.packet? 9 = some p ∧ p.atHome = true ∧ s.homeGrants p = true ∧ op.keys.headD 0 = 0x2000 ∧
      s.homeAllows 0 p.src 0 op.level 0x2000 = true ∧ s.mem.poisoned 0x2000 = false ∧ s.holds = [] ∧ s.holdFull 0x2000 = false) ∧
    NoEpoch (sAsk 0xFFFFFFFF (.load [0x2000])) ∧
    (let s := sAsk 0 (.load [0x2000])
     let p := { pkt (.request 0 0 [0] (.load [0x2000])) with dst := homeEp 0x10000 }
     s.homeGrants p = true ∧ s.homeAllows 0 p.src 0 1 0x2000 = false) ∧
    (sAsk 0xFFFFFFFF (.load [])).mem.full 0x2000 = true ∧ ({ empties := [0x2000] } : Memory).full 0x2000 = false :=
  ⟨by decide, noEpoch rfl, by decide, rfl, rfl⟩

/-- x6 is 4 above the store's first word, and x8 and x9 are masks that take both words or none. -/
def tStx : Thread := { tMem with regs := tMem.regs ++ [(8, { val := 0xFF }), (9, { val := 0xF00 })] }

theorem wit_GroupAccess_stx : (let s : State := { sMem with threads := [(0, tStx)] }
    CanIssue s tStx [rs 6, rs 7, rs 8] ∧ (tStx.x 8).setWidth 8 = 0xFF#8 ∧ (tStx.x 6).toNat % 8 = 4 ∧ (0xFF#8 <<< 4) ≠ 0 ∧ (0xFF#8 >>> 4) ≠ 0 ∧
    LandsAll tStx .store (fun _ _ => True) s [tStx.x 6 - 4, tStx.x 6 - 4 + 8] s [storeBase 0, storeBase 0 + 8] ∧
    (s.core (coreOf s.cur)).sb.length < 16 ∧ CanIssue s tStx [rs 6, rs 7, rs 9] ∧ (tStx.x 9).setWidth 8 = 0#8) := by
  refine ⟨canIssue rfl (by decide), rfl, by decide, by decide, by decide, ?_, by decide, canIssue rfl (by decide), rfl⟩
  exact ⟨_, _, _, ⟨_, _, rfl, rfl, rfl⟩, trivial, ⟨_, _, _, ⟨_, _, rfl, rfl, rfl⟩, trivial, ⟨rfl, rfl⟩, rfl⟩, rfl⟩

theorem wit_GuardedOff_forms : ([Instr.ld 8 2 0, .sd 8 2 0, .lui 8 1, .auipc 8 1, .jal 8 1, .jalr 8 2 0, .csrrw 0x803 8 2, .csrrwi 0x803 8 2, .fadd 1 0 2 8 16 24,
    .ldg 1 8 2 0, .stg 1 8 2 0, .ldx 8 2, .stx 8 2 3, .lde 8 2, .stf 2 8, .waitA 8 2 3, .amadd 1 0 8 3 2, .amcas 1 0 8 3 2, .pbind 8 2 3, .pskip 8 2 3, .isect 8 2,
    .tlook 8 2 3, .hcopy 8 2, .hwait 8 2, .mmBf16 1 8 2 3, .mbload 8 2, .salloc 8 2, .supd 2 3 8, .spawn 8 2, .exit, .msgReg 2 3, .hcall 8 2 4, .ropeForm 8 2,
    .collRed 8 2 3, .tret 2, .xret, .beat, .cairnOpen 8 2]).all (fun i =>
      match formUses { n := 1, guard := some (false, 63) } i with
      | some us => us.all fun u => u.n % u.span == 0 && u.regs.all (· < 64)
      | none => false) = true := by decide

theorem wit_Atomics_travels : (let s := { hbm tHbm with slow := true }
    CanIssue s tHbm [rs 5, rs 7, rmod 8] ∧ CanIssue s tHbm [rs 5, rs 7, rdst 9] ∧ s.slow = true ∧ tHbm.ctx = 0 ∧
    (∃ leaf, s.checked tHbm (tHbm.x 5) .atomic = (s, .ok (.mem 0x10000 leaf))) ∧ s.ownBefore (coreOf s.cur) s.cur (0x10000 / 8) = [] ∧ Released s tHbm) :=
  ⟨canIssue rfl (by decide), canIssue rfl (by decide), rfl, rfl, ⟨_, rfl⟩, rfl, rfl, rfl, nofun, nofun, rfl⟩

theorem wit_FullEmptyAccess_travels : (let s := { sMem with slow := true }
    s.slow = true ∧ s.ownBefore (coreOf s.cur) s.cur (storeBase 0 / 8) = [] ∧ Lands s tMem (tMem.x 5) .tag s (storeBase 0) ∧
    Lands s tMem (tMem.x 5) .readWrite s (storeBase 0) ∧ CanIssue s tMem [rs 5, rdst 9] ∧ CanIssue s tMem [rs 5, rs 7, rdst 9] ∧
    CanIssue s tMem [rs 5, rs 7] ∧ Released s tMem) :=
  ⟨rfl, rfl, ⟨_, _, rfl, rfl, rfl⟩, ⟨_, _, rfl, rfl, rfl⟩, canIssue rfl (by decide), canIssue rfl (by decide), canIssue rfl (by decide),
    rfl, rfl, nofun, nofun, rfl⟩

/-- Slot 64 waits with a request of a kind at the first word of core 0's store. -/
def hKind (kind : Nat) : Held := ⟨64, storeBase 0 / 8, kind, 5, none, 0, 0, 0⟩

theorem wit_FullEmptyAccess_release : (∀ s0 ∈ [sMem, sEmpty], ∀ kind ∈ [0, 1, 2], let s := { s0 with holds := [hKind kind] }
      let k := storeBase 0 / 8
      s.ownBefore (coreOf s.cur) s.cur k = [] ∧ s.mem.poisoned k = false ∧ s.watches = [] ∧ (∀ x ∈ s.holds, x.key = k → x.port = none ∧ x.slot ≠ s.cur) ∧
      (s.holds.map (·.slot)).Nodup ∧ s.holds.find? (fun x => x.key == k) = some (hKind kind) ∧ (∀ x ∈ s.holds, x.key = k → x.kind = kind) ∧ (hKind kind).kind = kind) ∧
    (let s := { sEmpty with holds := [hKind 1] }
     NoEpoch s ∧ Lands s tMem (tMem.x 5) .readWrite s (storeBase 0) ∧ CanIssue s tMem [rs 5, rs 7, rdst 9] ∧ (tMem.x 7).getLsbD 0 = true ∧
     s.mem.full (storeBase 0 / 8) = false) ∧
    (let s := { sMem with holds := [hKind 2] }
     NoEpoch s ∧ Lands s tMem (tMem.x 5) .readWrite s (storeBase 0) ∧ CanIssue s tMem [rs 5, rs 0, rdst 9] ∧ (tMem.x 0).getLsbD 0 = false ∧
     s.mem.full (storeBase 0 / 8) = true) :=
  ⟨by decide, ⟨noEpoch rfl, ⟨_, _, rfl, rfl, rfl⟩, canIssue rfl (by decide), by decide, by decide⟩,
    ⟨noEpoch rfl, ⟨_, _, rfl, rfl, rfl⟩, canIssue rfl (by decide), by decide, by decide⟩⟩

theorem wit_AddressWaits_travels : (let s := { hbm tHbm with slow := true }
    s.slow = true ∧ s.ownBefore (coreOf s.cur) s.cur (0x10000 / 8) = [] ∧ CanIssue s tHbm [rs 5, rs 7, rdst 9] ∧
    Lands s tHbm (tHbm.x 5) .wait s 0x10000 ∧ Lands s tHbm (tHbm.x 5) .wake s 0x10000 ∧ Released s tHbm) :=
  ⟨rfl, rfl, canIssue rfl (by decide), ⟨_, _, rfl, rfl, rfl⟩, ⟨_, _, rfl, rfl, rfl⟩, rfl, rfl, nofun, nofun, rfl⟩

theorem wit_FencesAndEmptying_acquire : (let t : Thread := { tPort with ports := [(3, port9 [⟨[4], none, none⟩])] }
    CanIssue (on t) t [] ∧ ∃ p, amGet t.ports 3 = some p ∧ p.kind ≤ 1 ∧ p.held ≠ []) :=
  ⟨canIssue rfl (by decide), _, rfl, by decide, by decide⟩

/-! Single clauses: traps, ports, engines, records -/

theorem wit_TrapRouting_stopped : (let s : State := { on tVec with launches := [(0, { lRope with state := 3 })] }
    s.thread? s.cur = some tVec ∧ s.launchStopped tVec.launch = true) ∧ (on tVec).launchStopped tVec.launch = false :=
  ⟨⟨rfl, by decide⟩, rfl⟩

theorem wit_TrapReturn_beat : (let s : State := { on t0 with launches := [(0, { lRope with record := ⟨0, [0x4000, 0, 0x4000401, 0, 0, 0, 0, 0], none, none, 3⟩ })] }
    CanIssue s t0 [] ∧ t0.level = .user ∧ ∃ l, amGet s.launches t0.launch = some l) ∧
    (let t : Thread := { t0 with xepc := 2 }; CanIssue (on t) t [] ∧ t.xepc.toNat % 4 ≠ 0 ∧ (on t).ropeOf 0 = none) :=
  ⟨⟨canIssue rfl (by decide), rfl, _, rfl⟩, canIssue rfl (by decide), by decide, rfl⟩

theorem wit_TrapReturn_tret : (∀ act ∈ [(0 : Word), 1, 2, 3], let s := sSup act
      let t := tSup act
      let u : Thread := { tVec with run := .parked .activation }
      let a : Activation := { target := some 0, scause := 7, sepc := 0x1000, stval := 9 }
      s.cur = 0 * 64 + 63 ∧ t.level = .supervisor ∧ t.hold = none ∧ (s.core 0).act = some a ∧ a.saved = none ∧ coreOf 0 = 0 ∧ s.thread? 0 = some u ∧
      u.body = none ∧ u.ports = [] ∧ u.pend = none ∧ s.ropeOf 0 = none ∧ (s.core 0).sb = [] ∧ s.flights = [] ∧ t.ports = [] ∧ t.hostWrites = false ∧
      (t.x 5).toNat = act.toNat) ∧
    (tVec.xtvec ≠ 0 ∧ tVec.xtvec.toNat % 4 = 0 ∧ tVec.xcause.toNat < 2 ^ 63) ∧ ¬ (t0.xtvec ≠ 0) ∧
    CanIssue (sSup 0) (tSup 0) [rs 5] ∧ CanIssue (sSup 2) (tSup 2) [rs 5] ∧ CanIssue (sSup 3) (tSup 3) [rs 5] :=
  ⟨fun _ _ => ⟨rfl, rfl, rfl, rfl, rfl, rfl, rfl, rfl, rfl, rfl, rfl, rfl, rfl, rfl, rfl, rfl⟩, by decide, by decide, canIssue rfl (by decide),
    canIssue rfl (by decide), canIssue rfl (by decide)⟩

theorem wit_ActivationStarts_held : (let a : Activation := { target := some 0, scause := 7, sepc := 8, stval := 9 }
    ({ on t0 with cores := [(0, { actQueue := [a] })] } : State).actHeld a = false) := by decide

theorem wit_CsrReadBack_legal : t0.xcause &&& ~~~ csrMask 0x803 = 0 ∧ t0.tabsel &&& ~~~ csrMask 0x807 = 0 := by decide

theorem wit_SupervisorCsrs_user : CanIssue (on t0) t0 [rs 5, rdst 7] ∧ t0.level ≠ .supervisor ∧ 0x140 ≤ (0x151 : BitVec 12).toNat :=
  ⟨canIssue rfl (by decide), by decide, by decide⟩

theorem wit_TableLoad_alone : sMem.tableLoads sMem.cur = false ∧ sMem.slow = false ∧
    ({ sMem with threads := [(0, tMem), (1, { tMem with pend := some ⟨.none, 0, 0, [], [], [], 7, 0, 0, []⟩ })] } : State).tableLoads 0 = true := by decide

theorem wit_PortLeases_status : amGet tPort.ports 3 = some (port9 []) ∧ 3 < 16 ∧ (port9 []).failed = none ∧ (port9 []).held = [] ∧
    (let p := portOfDesc descWords9; (p.kind = 0 ∨ p.kind = 1 ∨ p.kind = 3 → p.base.toNat % 8 = 0) ∧ 63 % p.g = 0) ∧
    (tPort.x 7).toNat % 32 = 16 ∧ CanIssue (sDesc tPort) tPort [rs 7, rdst 9] :=
  ⟨rfl, by decide, rfl, rfl, by decide, by decide, canIssue rfl (by decide)⟩

theorem wit_PortOperands_link : (let p : Port := { port9 [] with ctl := 2, bound := some 5 }
    let t : Thread := { t0 with ports := [(0, p)] }
    let s : State := { on t with cores := [(0, { fifos := [(0, [(7, 3)])] })], cycle := 4 }
    ReadsPort s t 0 p 5 6 7 ∧ p.kind = 2 ∧ p.held = [] ∧ p.asks = [] ∧ amGetD (s.core (coreOf s.cur)).fifos p.dir [] = [(7, 3)] ∧ 3 ≠ s.cycle) :=
  ⟨⟨rfl, rfl, rfl, rfl, rfl, rfl, rfl, .inr (.inr ⟨rfl, rfl⟩), by decide, by decide, rfl, fun _ => ⟨rfl, rfl⟩⟩, by decide⟩

/-- A body of tPort's that runs and holds port 3. -/
def bodyOf (stop : Option (Nat × Word)) : PitchBody := ⟨[], 0, 0, false, false, false, 2, 1, 0, [], [3], stop, false, none, false, 0⟩

theorem wit_SkipAndIntersect_body : (∀ stop ∈ [none, some (7, (9 : Word))], let t : Thread := { tPort with body := some (bodyOf stop) }
      canIssueB (on t) t [rs 7, rs 6, rdst 9] = true ∧ canIssueB (on t) t [rs 6, rs 7, rdst 9] = true ∧ (t.x 7).toNat % 32 = 16 ∧
      (t.x 6).toNat % 32 = 3 ∧ amGet t.ports 3 = some (port9 []) ∧ 3 ∈ (bodyOf stop).heldPorts) := by decide

theorem wit_SkipAndIntersect_kinds :
    (let p : Port := { port9 [] with ctl := 1, ixh := 4 }
     let q : Port := { port9 [] with counts := 9 }
     let t : Thread := { tPort with ports := [(3, p), (4, q)] }
     CanIssue (on t) t [rs 6, rs 7, rdst 9] ∧ amGet t.ports 3 = some p ∧ p.kind = 1 ∧ p.held = [] ∧ p.asks = [] ∧ p.again = [] ∧ amGet t.ports p.ixh = some q ∧
     q.kind = 0 ∧ q.asks = [] ∧ q.again = [] ∧ p.ixh ≠ 3 ∧ 0 < min (t.x 7).toNat (q.total - q.pos)) ∧
    (let p : Port := { port9 [⟨[4], none, none⟩] with ctl := 2 }
     let t : Thread := { tPort with ports := [(3, p)] }
     CanIssue (on t) t [rs 6, rs 7, rdst 9] ∧ CanIssue (on t) t [rs 6, rs 0, rdst 9] ∧ p.kind = 2 ∧ p.fwd = false ∧ p.skipping = none ∧ p.held.length ≤ 16 ∧
     amGetD ((on t).core 0).fifos p.dir [] = [] ∧ p.held.length < (t.x 7).toNat ∧ (t.x 0).toNat ≤ p.held.length) :=
  ⟨⟨canIssue rfl (by decide), by decide⟩, canIssue rfl (by decide), canIssue rfl (by decide), by decide⟩

theorem wit_TagTables_whole : (let s : State := { sTag 0 0x281 with threads := [(0, tTag)] }
    (∀ i, i < 2 → s.mem.poisoned (s.ownKey (tTag.x 5) + 8 + 0 * 2 + i) = false) ∧ Config.ownBase ≤ (tTag.x 5).toNat ∧
    (tTag.x 5).toNat < Config.ownBase + storeSize (coreOf s.cur) ∧ 0x1000 % 2 ^ 6 = 0 ∧ 64 + 2 ^ 1 * 2 * 8 ≤ storeSize (coreOf s.cur)) :=
  ⟨fun _ _ => rfl, by decide, by decide, by decide, by decide⟩

theorem wit_HaulIssue_shape : OwnWords (sEng []) (tEng.x 5) 8 [0, 0, 0, 0, 0, 0, 0, 0] ∧ haulBad [0, 0, 0, 0, 0, 0, 0, 0] 0x08 = some none ∧
    (tEng.x 5).toNat % 64 = 0 := ⟨⟨by decide, by decide, by decide, fun _ _ => ⟨⟨nofun, rfl⟩, rfl⟩, by decide⟩, by decide, by decide⟩

theorem wit_EnginesRun_quiet : (∀ m, let j := { jb m (if m then 0x12 else 0x08) [] with state := 2 }
      let s := if m then sQ [] [j] else sQ [j] []
      (∀ f ∈ s.flights, f.job ≠ some j.ref) ∧ (∀ p ∈ s.threads, p.2.armedAt = some s.cycle → j.ref ∉ p.2.armed) ∧ j.discarded = false ∧ (j.op ≤ 10 → aSync j.desc ≠ 2) ∧
      ∃ x ∈ (if m then (s.core j.ref.coreNo).matStates else (s.core j.ref.coreNo).haulStates), x.seq = j.ref.seq) ∧
    (let j := jb false 0x08 [0x10000, 0x10008, 0, 0, 8, 0, 0, 0]
     let s := sQ [j] []
     readsWord j.desc j.op (((s.startJob j.ref).engineRead j 0x10000).1.indexEntry j) 0x10008 = false) := by decide

theorem wit_EnginesRun_panel : (let j := { jb true 0 [0, 0, 0, 0, 0x100000, 0, 0, 0] with panelLen := 1, pos := 256 }
    let s := sQ [] [j]
    (j.op = 10 → 0 < j.panelLen ∧ j.panelAt + j.panelLen ≤ 8) ∧ (∀ i, i < j.panelLen → (regionOf (s.octet 0).regions (j.panelAt + i)).upset = false) ∧
    (tileOf (s.octet 0).tiles (tTile j.desc)).upset = false ∧ (tileOf (s.octet 0).tiles (tTile j.desc)).state ≠ 2) ∧
    (let j := { jb true 10 [0, 0, 0, 0, 0x100000, 0, 0, 0] with panelLen := 1, panelAt := 7 }; 0 < j.panelLen ∧ j.panelAt + j.panelLen ≤ 8) := by decide

theorem wit_EnginesRun_mclr : (let j := { jb true 0x12 [] with writes := [0, 19] }
    j.op = 0x12 ∧ j.state ≤ 1 ∧ 0 ∈ j.writes ∧ 16 + 3 ∈ j.writes ∧ 1 ∉ j.writes ∧ 16 + 0 ∉ j.writes) := by decide

theorem wit_EnginesRun_acceptAlone :
    (let p : Pend := { asm := .none, rd := 9, npc := 0x1004, keys := [], got := [(0, 7), (1, 0xFFFFF)], bad := [], mode := 8, phase := 0x12, ea := 0, pops := [] }
     let t : Thread := { t0 with pend := some p, run := .waiting (.acceptance true) }
     let s : State := { on t with octets := [(0, { candidates := [(0, true)] })] }
     p.keys = [] ∧ t.ports = [] ∧ (s.octet 0).matrix.length < 16 ∧ (s.octet 0).matAt ≠ some s.cycle ∧
     ∀ c, c < 8 → 0 * 8 + c ≠ coreOf 0 → ∀ n, coreOf n = 0 * 8 + c → s.thread? n = none) := by
  refine ⟨rfl, rfl, by decide, nofun, fun c _ h n hn => ?_⟩
  have h0 : n ≠ 0 := fun e => h (by subst e; simpa [coreOf] using hn.symm)
  exact if_neg (by simpa using Ne.symm h0)

/-- Where requests do not travel, a request to a record has its turn. -/
theorem turn_at_once {s : State} {t : Thread} {v : Word} {k : Nat} (h : s.slow = false) : RecordTurn s t v k := fun e => by simp [h] at e

/-- Where they travel, it has its turn when none waits at a home and the core's TLB holds the record's page. -/
theorem turn_alone {s : State} {t : Thread} {v : Word} {k : Nat} (h : s.packets = [])
    (hm : s.misses (coreOf s.cur) t.tenant (s.recVa t.tenant (v.toNat % 2 ^ 32)).toNat = false) : RecordTurn s t v k :=
  fun _ => ⟨hm, fun p hp => by simp [h] at hp⟩

/-- sHist where requests travel, with the record in core 0's record cache. -/
def sCache : State := { sHist with slow := true, cores := [(0, { tlb := [⟨0, 0x10000, 0x10000, 0x6000000067⟩], recs := [⟨0, 0, 1, 0x44160000, 0, 0, 0, none⟩] })] }

theorem wit_RecordTurn : (∀ v k, RecordTurn sHist tRec v k) ∧ RecordTurn sCache tRec (tRec.x 5) 0xC00000000 :=
  ⟨fun _ _ => turn_at_once rfl, turn_alone rfl (by decide)⟩

theorem wit_RecordAllocation_colDie : (∀ cls, ({ sHist with access := [(512, 0xFFFFFFFF)] } : State).accessOk colDie (masterOf 0 0) cls 3 = true ∨ 16 ≤ cls) ∧
    (∀ cls, sHist.accessOk colDie (masterOf 0 0) cls 3 = false) ∧ OnRecord sHist tRec (BitVec.ofNat 64 0) 3 sHist 0xC00000000 :=
  ⟨fun cls => by
      rcases Nat.lt_or_ge cls 16 with h | h
      · left; revert cls; decide
      · exact .inr h,
    fun cls => by simp [State.accessOk, show (sHist.accessWord colDie (masterOf 0 0)) = 0#32 by decide], ⟨_, rfl⟩⟩

theorem wit_RecordReads_unallocated : CanIssue (sRec []) tRec [rs 5, rs 7, rdst 9] ∧ ((sRec []).mem.word 0xC00000001).getLsbD 47 = false ∧
    (sRec []).mem.poisoned 0xC00000000 = false ∧ (sRec []).mem.poisoned 0xC00000001 = false ∧ amGet (sRec []).updatedAt 0xC00000000 ≠ some (sRec []).cycle :=
  ⟨canIssue rfl (by decide), by decide, rfl, rfl, nofun⟩

theorem wit_RecordScales_targets : (tRec.x 0).toNat % 16 < 6 ∧ (let t : Thread := { tRec with regs := [(5, { val := 0 }), (7, { val := 6 }), (8, { val := 2 })] }
    let s := { sHist with threads := [(0, t)] }
    CanIssue s t [rs 5, rs 7, rdst 9] ∧ 6 ≤ (t.x 7).toNat % 16 ∧ CanIssue s t [rs 5, rs 8, rdst 9] ∧ (t.x 8).toNat % 16 = 2) :=
  ⟨by decide, canIssue rfl (by decide), by decide, canIssue rfl (by decide), by decide⟩

theorem wit_RecordUpdates_travels : CanIssue sCache tRec [rs 5, rs 6, rs 8] ∧ (∃ e, sCache.recHit (coreOf sCache.cur) 0 0 = some e) ∧ sCache.slow = true ∧
    tRec.updates.length < 16 ∧ OnRecord sCache tRec (tRec.x 5) 3 sCache 0xC00000000 :=
  ⟨canIssue rfl (by decide), ⟨_, rfl⟩, rfl, by decide, ⟨_, rfl⟩⟩

/-- A merged update of record 0: two parts, of reference exponent ref. -/
def uTwo (ref : Nat) : Update := ⟨0, 0, 0xC00000000, 0, 0, 0x40400000, ref, [(21, 1), (20, 2)], 0, false, false, 2, [.inl 0, .inl 64], 5,
  [⟨5, 0, 0x40400000, [(21, 1)], 0, false, false, 1⟩, ⟨6, 0, 0x3FC00000, [(20, 2)], 3, true, false, 1⟩]⟩

theorem wit_RecordUpdates_merged : (∀ ref ∈ [0, 9], let u := uTwo ref
      let s := { sHist with packets := [{ pUpd with payload := .update u }], cycle := 1 }
      let ps := u.allParts.filter fun x => s.accessOk (sliceOf (8 * u.key)) x.master u.cls 3
      s.homeGrants { pUpd with payload := .update u } = true ∧ ps.length = 2 ∧ (∀ x ∈ ps, ∀ b ∈ x.incr, b.1 < 40) ∧ s.watches = [] ∧
      (∀ i, i < 32 → s.mem.poisoned (u.key + i) = false)) ∧
    (uTwo 0).ref = (sHist.mem.word 0xC00000001).toNat / 256 % 256 ∧ (uTwo 9).ref ≠ (sHist.mem.word 0xC00000001).toNat / 256 % 256 := by decide

/-! Single clauses: threads, messages, tenants, the host, the fabric -/

/-- The record of sSpawn, and one that R303 refuses first for its slots. -/
theorem wit_SpawnExitYield_codes : (∀ c ∈ sSpawn.refusals ⟨0, recWords, some 0, none, 3⟩, ¬ c.2) ∧
    FirstCode ((sEng []).refusals ⟨0, [0, 0, 0], some 0, none, 3⟩) 2 := by
  refine ⟨?_, 1, _, rfl, ?_, fun j q hj hq => ?_⟩
  · simp only [State.refusals, List.forall_mem_cons, List.not_mem_nil, false_implies, implies_true, and_true]
    decide
  · decide
  · obtain rfl : j = 0 := by omega
    cases hq
    decide

theorem wit_SpawnExitYield_travels : (let t : Thread := { tEng with pend := some ⟨.none, 9, 0, [], recWords.zipIdx.map fun x => (x.2, x.1), [], 12, 0, 0, []⟩ }
    let s : State := { sSpawn with threads := [(0, t)], slow := true }
    CanIssue s t [rs 5, rdst 9] ∧ s.slow = true ∧ t.spawnRead = some (true, recWords) ∧ Released s t ∧ t.spawns.length < 16) :=
  ⟨canIssue rfl (by decide), rfl, rfl, ⟨rfl, rfl, nofun, nofun, rfl⟩, by decide⟩

theorem wit_Messages_firesAtOnce : (let t : Thread := { tEng with regs := [(5, { val := BitVec.ofNat 64 Config.ownBase }), (7, { val := 0x700000000 })] }
    let s : State := { sEng [(1, 0x40)] with threads := [(0, t)] }
    CanIssue s t [rs 7, rs 5, rdst 9] ∧ (t.x 7).toNat % 2 ^ 32 = 0 ∧ (t.x 7).toNat / 2 ^ 32 % 2 ^ 8 = 7 ∧ ((s.core 0).counter 7).state = 0 ∧
    (s.core 0).readyQ.length < 16 ∧ (s.core 0).taskSpill = [] ∧ OwnWords s (t.x 5) 3 [0x4000, 0, 0] ∧ (t.x 5).toNat % 32 = 0 ∧
    (t.x 5).toNat + 32 ≤ Config.ownBase + storeSize 0 ∧ Released s t) :=
  ⟨canIssue rfl (by decide), by decide, by decide, rfl, by decide, rfl, ⟨by decide, by decide, by decide, fun _ _ => ⟨⟨nofun, rfl⟩, rfl⟩, by decide⟩,
    by decide, by decide, rfl, rfl, nofun, nofun, rfl⟩

theorem wit_HandlerAndTraverse_seen : t0.seen = [] ∧ (on t0).packets = [] ∧ (on t0).watches = [] := by decide

theorem wit_CollectivesAndQueues_ring :
    q7.word.toNat / 2 ^ 16 % 2 ^ 18 + 8 * 1 * (0 % 2 ^ (q7.word.toNat / 2 ^ 36 % 16) + 1) ≤ Config.optStoreBytes ∧ q7.grants = [] ∧
    (0 : Nat) < ({ q7 with tail := 1, used := 1 } : GqHome).tail ∧ q7.waiters = [] := by decide

theorem wit_CollectivesAndQueues_destination :
    (let s := { sPaged [] with tenants := [(0, { clusters := 1, sroot := 0x1000 })] }
     destOk s 0 (0x10000 / 4096) 0x20000 0x30000 = true) ∧ destOk State.reset 0 (0x10000 / 4096) 0x20000 0x30000 = false := by decide

theorem wit_TenantCommands_words : (let s := { sTen with mailboxWords := [(0, 5), (1, 4095), (2, 1)] }
    s.commandOf = some (.bindQueue 4095 1) ∧ s.firmware = true ∧ s.tripped = false) ∧
    (let s := { sTen with commands := [.bindQueue 1 1] }; s.resetting.isSome ∨ s.commands ≠ []) ∧
    (let s := { sTen with resetting := some 0 }; s.resetting.isSome ∨ s.commands ≠ []) ∧ ((4 : Nat) < 5 ∨ 8 ≤ 4 ∧ 4 < 16) ∧ ((15 : Nat) < 5 ∨ 8 ≤ 15 ∧ 15 < 16) :=
  ⟨⟨rfl, rfl, rfl⟩, .inr nofun, .inl rfl, by decide, by decide⟩

theorem wit_TenantCommands_bivouac : ({ clusters := 1, slices := 1 } : Tenant).blocks = [] ∧ (0x20000000 : Nat) % 2 ^ 21 = 0 := by decide

theorem wit_HostAndPackage_waits : (sHost 3).between.unitAt epCol (0 / 8) = some (sHost 3).between ∧
    ({ sTen with resetting := some 0 } : State).resetting = some (({ sTen with resetting := some 0 } : State).queue 4095).tenant ∧
    (let s := { sHost 3 with slow := true }; s.between.unitAt epCol (0 / 8) = some s.between ∨ (s.between.unitAt epCol (0 / 8)).isSome = true) ∧
    (sHost 3).firmware = true := ⟨rfl, rfl, .inl rfl, rfl⟩

theorem wit_HostAndPackage_denied : (sHost 0).accessOk (sliceOf 0) (0 * 8 + 4) 0 1 = false ∧ (sHost 0).accessOk (sliceOf 0) (0 * 8 + 4) 0 2 = false ∧
    (2 ^ 30 : Nat) % 8 = 0 ∧ ([0, 1, 2, 3, 4, 5, 6, 7] : List Byte).length = 8 := by decide

/-- A machine whose queue 7 has its ring in tenant 0's HDM range. -/
def sRing : State := { sPaged [] with
  hdm := [(0, ⟨2 ^ 30, 0, 2 ^ 30, 0, 0⟩)], queues := [(7, { en := true, tenant := 0, word1 := 4, word0 := 4, tail := 1 })]
  access := [(6 * 1024, 3)] }

theorem wit_LaunchUnit_ring : (∀ i, i < 8 → sRing.ringWord (sRing.queue 7) (8 * i) 1 = true ∧ sRing.mem.poisoned i = false) ∧
    (sRing.mem.word 2).toNat / 2 ^ 32 % 64 = 0 ∧ sRing.mem.upsets = [] := by decide

theorem wit_LaunchUnit_accepts : (let r : Record := ⟨0, recWords, none, none, 3⟩
    let s : State := { sPaged [] with dies := [(0, { inbox := [r] })] }
    ∀ c ∈ s.refusals r, ¬ c.2) := by
  simp only [State.refusals, List.forall_mem_cons, List.not_mem_nil, false_implies, implies_true, and_true]
  decide

theorem wit_LaunchUnit_fits : (let l := lOf recWords 1
    let s : State := { sPaged [] with launches := [(0, l)], dies := [(0, { launches := [0] })] }
    s.fitLaunch l = some [(0, 0, 0, 0, 0)] ∧ FirstFit s l [(0, 0, 0, 0, 0)]) := by
  refine ⟨by decide, by decide, by decide, ?_⟩
  intro f hf
  obtain rfl := List.mem_singleton.1 hf
  exact ⟨rfl, by decide, by decide, fun a ha => absurd ha (Nat.not_lt_zero a)⟩

theorem wit_LaunchUnit_reply : (let p : Pend := ⟨.scalar 8 0 false, 9, 0x1004, [0], [(0, 3)], [], 9, 0, 0, []⟩
    (on { t0 with run := .waiting .reply, pend := some p }).replyLate 0 = false) := by decide

theorem wit_ThreadEvents_late : (let p : Pend := ⟨.scalar 8 0 false, 9, 0x1004, [farKey 0], [], [], 1, 0, 0, []⟩
    let t : Thread := { t0 with run := .waiting .reply, pend := some p }
    (on t).replyLate 0 = false ∧ (on { t with landedAt := some 0, landed := [9] }).replyLate 0 = true) := by decide

theorem wit_ThreadEvents_reply : (let p : Pend := ⟨.scalar 8 0 false, 9, 0x1004, [8], [], [], 1, 0, 0, []⟩
    let q := { pkt (.reply 0 [(8, 7)] none) with isReply := true }
    let t : Thread := { t0 with run := .waiting .reply, pend := some p }
    let s : State := { on t with packets := [q], slow := true }
    s.packets = [q] ∧ q.landed = true ∧ q.payload = .reply 0 [(8, 7)] none ∧ 8 < farKey 0 ∧ s.thread? 0 = some t ∧ t.ports = [] ∧ p.keys = [8] ∧
    s.replyLate 0 = false) :=
  ⟨rfl, rfl, rfl, by decide, rfl, rfl, rfl, rfl⟩

theorem wit_ThreadEvents_counter : (let s := sRun { msgs := [⟨64, 0, .dec 0 7 2, 0x700000⟩] }
    (s.core 0).decAt ≠ some s.cycle ∧ s.between.armsNext 0 = false ∧ (s.core 0).readyQ.length < 16 ∧ (s.core 0).taskSpill = []) ∧
    (let k : Counter := { state := 1, count := 2, task := some ⟨0x4000, 1, 2, 7, 0, 0, 0⟩ }; k.count ≤ 2 ∧ k.count ≤ 3) ∧
    (let s := sRun { decAt := some 0 }; (s.core 0).decAt = some s.cycle) := by decide

theorem wit_ThreadEvents_retry : (let h : Held := ⟨0, 0x2000, 2, 5, none, 0, 0, 0⟩
    let s : State := { hbm tHbm with returns := [(h, 0, 0)], cycle := 64 }
    s.homeAllows 0 (coreOf 0) 0 (HomeOp.level (.sync 2 0x2000 5)) 0x2000 = true) := by decide

theorem wit_ThreadEvents_delivery : t0.took 0 9 = false ∧ t0.waitingDeliveries = [] ∧ (∀ x ∈ ((sRun {}).die (dieOf 0)).spillEngine, x.1 ≠ 0) ∧
    ({ t0 with uints := [⟨1, 2, 3⟩], ivec := 0x2000 } : Thread).stepped = false ∧ t0.pc.toNat % 4 = 0 := ⟨by decide, by decide, by decide, rfl, by decide⟩

/-- sBel with these waiters: slot 64 at the barriers, mutex 2 and event 1. -/
def sWait (off : Nat) (v : Option Word) (cfg : Word) (set : Bool) : State := { sBel off v with
  threads := [(0, tBel off v), (64, { t0 with run := .waiting .reply, pend := some ⟨.scalar 8 0 false, 9, 0x1004, [0], [], [], 2, 0, 0, []⟩ })]
  clusters := [(0, { barriers := [(1, { cfg := 2, count := 1, waiters := [⟨64, 0⟩], children := [(1, 3, 0)] }),
                                  (2, { cfg := 0x20300000002, count := 1, waiters := [⟨64, 0⟩] })]
                     mutexes := [(2, { owner := some 0, waiters := [64] })], events := [(1, { cfg, set, waiters := if set then [] else [64] })] })] }

/-- What the unit is asked there, as a check that runs. -/
def asksIn (s : State) (x : BelayOp × Option Word) : Bool :=
  match s.belayAsked 0 with
  | some y => decide (y = x)
  | none => false

theorem wit_FabricAndBelay_fires :
    (let s := sWait 0x48 none 0 false
     asksIn s (.barWait 1, none) = true ∧ asksIn (sWait 0x50 none 0 false) (.barArrive 1, none) = true ∧ asksIn (sWait 0x88 none 0 false) (.barWait 2, none) = true ∧
     s.arrivalOk 0 1 = true ∧ s.arrivalOk 0 2 = true ∧
     (let b := (s.cluster 0).barrier 1
      b.closing = false ∧ b.count + 1 = b.cfg.toNat % 2 ^ 16 ∧ b.early = 0 ∧ (b.waiters.map (·.slot)).Nodup ∧ b.cfg.getLsbD 41 = false ∧
      b.waiters.filter (·.phase == b.phase) ≠ [] ∧ b.children.filter (·.2.2 == b.phase) ≠ []) ∧
     (let b := (s.cluster 0).barrier 2
      b.closing = false ∧ b.count + 1 = b.cfg.toNat % 2 ^ 16 ∧ b.early = 0 ∧ (b.waiters.map (·.slot)).Nodup ∧ b.cfg.getLsbD 41 = true) ∧
     (s.thread? 64).isSome = true ∧ s.replyLate 0 = false) := by decide

theorem wit_FabricAndBelay_stores : asksIn (sWait 0x40 (some 5) 0 false) (.barCfg 1, some 5) = true ∧
    asksIn (sWait 0x1090 (some 5) 0 false) (.mutRelease 2, some 5) = true ∧ ((sWait 0x1090 (some 5) 0 false).cluster 0).mutex 2 = { owner := some 0, waiters := [64] } ∧
    (∀ cfg, ((sWait 0x2048 (some 5) cfg false).cluster 0).eventLine 1 = { cfg, waiters := [64] }) ∧
    (∀ cfg, ((sWait 0x2048 (some 5) cfg true).cluster 0).eventLine 1 = { cfg, set := true }) ∧
    (1 : Word).getLsbD 0 = true ∧ (1 : Word).getLsbD 1 = false ∧ (2 : Word).getLsbD 0 = false ∧ (2 : Word).getLsbD 1 = true :=
  ⟨by decide, by decide, rfl, fun _ => rfl, fun _ => rfl, by decide, by decide, by decide, by decide⟩

theorem wit_FabricAndBelay_sets : asksIn (sWait 0x2048 (some 5) 0 false) (.evSet 1, some 5) = true ∧ asksIn (sWait 0x2048 (some 5) 1 false) (.evSet 1, some 5) = true ∧
    asksIn (sWait 0x2048 (some 5) 2 false) (.evSet 1, some 5) = true ∧ (∀ x ∈ (sWait 0x2048 (some 5) 0 false).threads, x.1 ≠ 0 → (sWait 0x2048 (some 5) 0 false).belayAsked x.1 = none) :=
  ⟨by decide, by decide, by decide, by decide⟩

theorem wit_FabricAndBelay_waits : asksIn (sBel 0x2080 none) (.evWait 2, none) = true ∧ (((sBel 0x2080 none).cluster 0).eventLine 2).set = false ∧
    asksIn (sBel 0x1080 none) (.mutAcquire 2, none) = true ∧ (((sBel 0x1080 none).cluster 0).mutex 2).owner = some 0 ∧
    asksIn (sBel 0x10C0 none) (.mutAcquire 3, none) = true ∧ (((sBel 0x10C0 none).cluster 0).mutex 3).owner = some 1 ∧
    asksIn (sBel 0x10C8 none) (.mutTry 3, none) = true := by decide

theorem wit_FabricAndBelay_release : (let s := { sWait 0 none 0 false with packets := [pkt (.parentRelease 0 3)], clusters := [(0, { barriers := [(3, { cfg := 2, closing := true, early := 1, waiters := [⟨64, 0⟩], children := [(1, 3, 0)] })] })] }
    let b := (s.cluster 0).barrier 3
    (pkt (.parentRelease 0 3)).landed = true ∧ b.closing = true ∧ b.early < b.cfg.toNat % 2 ^ 16 ∧ (b.waiters.map (·.slot)).Nodup ∧ (s.thread? 64).isSome = true) ∧
    (let e : EventLine := {}; (pkt (.forwardedSet 0 1 5)).landed = true ∧ e.cfg.getLsbD 0 = false ∧ e.cfg.getLsbD 1 = false ∧ e.waiters = []) := by decide

/-- A read port of sync 1 whose first word is empty. -/
def portSync : Port := { portRd with ctl := 0x400 }

/-- Its thread, on a core whose store begins with an empty word. -/
def tSync : Thread := { tMem with ports := [(3, portSync)] }
def sSync : State := { sEmpty with threads := [(0, tSync)] }

theorem wit_PortsRopesAndRounds_held : portIdle sSync tSync 3 portSync = true ∧ sSync.nextPort 0 = some 3 ∧ portSync.kind = 0 ∧ portSync.sync = 1 ∧
    portSync.g = 1 ∧ portSync.pos + portSync.held.length < portSync.total ∧ (portSync.addr 0).toNat % 8 = 0 ∧
    (storeBase 0 + ((portSync.addr 0).toNat - Config.ownBase)) / 8 = storeBase 0 / 8 ∧ sSync.mem.full (storeBase 0 / 8) = false ∧
    sSync.holdFull (storeBase 0 / 8) = false :=
  ⟨by decide, by decide, by decide, by decide, by decide, by decide, by decide, by decide, rfl, by decide⟩


end Sys2Proof.Tests
end

section
/-! Laws of the user CSRs (R77, R78, R376): what Thread.setCsr changes, field by field, and what State.userCsr reads after it. -/

namespace Sys2Proof.Machine

section
variable (t : Thread) (a : BitVec 12) (v : Word)

/-! The fields that no CSR write changes -/

@[simp] theorem Thread.setCsr_regs : (t.setCsr a v).regs = t.regs := by unfold Thread.setCsr; split <;> rfl
@[simp] theorem Thread.setCsr_base : (t.setCsr a v).base = t.base := by unfold Thread.setCsr; split <;> rfl
@[simp] theorem Thread.setCsr_limit : (t.setCsr a v).limit = t.limit := by unfold Thread.setCsr; split <;> rfl
@[simp] theorem Thread.setCsr_tenant : (t.setCsr a v).tenant = t.tenant := by unfold Thread.setCsr; split <;> rfl
@[simp] theorem Thread.setCsr_instret : (t.setCsr a v).instret = t.instret := by unfold Thread.setCsr; split <;> rfl

@[simp] theorem Thread.setCsr_windowCsr : (t.setCsr a v).windowCsr = t.windowCsr := by simp [Thread.windowCsr]

/-! The field behind a writable CSR, by the number of the CSR written -/

theorem Thread.setCsr_fcsr : (t.setCsr a v).fcsr =
    if a.toNat = 1 then t.fcsr.extractLsb' 5 3 ++ v.extractLsb' 0 5
    else if a.toNat = 2 then v.extractLsb' 0 3 ++ t.fcsr.extractLsb' 0 5
    else if a.toNat = 3 then v.extractLsb' 0 8 else t.fcsr := by
  unfold Thread.setCsr; split <;> simp_all
theorem Thread.setCsr_pw : (t.setCsr a v).pw = if a.toNat = 0x800 then v else t.pw := by
  unfold Thread.setCsr; split <;> simp_all
theorem Thread.setCsr_sbound : (t.setCsr a v).sbound = if a.toNat = 0x801 then v else t.sbound := by
  unfold Thread.setCsr; split <;> simp_all
theorem Thread.setCsr_xtvec : (t.setCsr a v).xtvec = if a.toNat = 0x802 then v else t.xtvec := by
  unfold Thread.setCsr; split <;> simp_all
theorem Thread.setCsr_xcause :
    (t.setCsr a v).xcause = if a.toNat = 0x803 then v &&& csrMask 0x803 else t.xcause := by
  unfold Thread.setCsr csrMask; split <;> simp_all
theorem Thread.setCsr_xepc : (t.setCsr a v).xepc = if a.toNat = 0x804 then v else t.xepc := by
  unfold Thread.setCsr; split <;> simp_all
theorem Thread.setCsr_xtval : (t.setCsr a v).xtval = if a.toNat = 0x805 then v else t.xtval := by
  unfold Thread.setCsr; split <;> simp_all
theorem Thread.setCsr_ivec : (t.setCsr a v).ivec = if a.toNat = 0x806 then v else t.ivec := by
  unfold Thread.setCsr; split <;> simp_all
theorem Thread.setCsr_tabsel :
    (t.setCsr a v).tabsel = if a.toNat = 0x807 then v &&& csrMask 0x807 else t.tabsel := by
  unfold Thread.setCsr csrMask; split <;> simp_all
theorem Thread.setCsr_mlabel : (t.setCsr a v).mlabel = if a.toNat = 0x808 then v else t.mlabel := by
  unfold Thread.setCsr; split <;> simp_all


/-- fflags after a CSR write (R77). -/
theorem Thread.setCsr_fflags : (t.setCsr a v).fcsr.extractLsb' 0 5 =
    if a.toNat = 1 ∨ a.toNat = 3 then v.extractLsb' 0 5 else t.fcsr.extractLsb' 0 5 := by
  rw [Thread.setCsr_fcsr]
  split
  · next h => rw [BitVec.extractLsb'_append_eq_right, if_pos (.inl h)]
  · split
    · next h1 h2 => rw [BitVec.extractLsb'_append_eq_right, if_neg (by omega)]
    · split
      · next h3 => rw [if_pos (.inr h3)]; ext i hi; simp
      · next h1 _ h3 => rw [if_neg (by omega)]

/-- frm after a CSR write (R77). -/
theorem Thread.setCsr_frm : (t.setCsr a v).fcsr.extractLsb' 5 3 =
    if a.toNat = 2 then v.extractLsb' 0 3 else if a.toNat = 3 then v.extractLsb' 5 3 else t.fcsr.extractLsb' 5 3 := by
  rw [Thread.setCsr_fcsr]
  split
  · next h => rw [BitVec.extractLsb'_append_eq_left, if_neg (by omega), if_neg (by omega)]
  · split
    · exact BitVec.extractLsb'_append_eq_left
    · split
      · ext i hi; simp
      · rfl

end

/-- csrAliases on the numbers of the two CSRs. -/
theorem csrAliases_eq_false_iff (a b : BitVec 12) :
    csrAliases a b = false ↔ a.toNat ≠ b.toNat ∧ ¬(a.toNat = 3 ∧ (b.toNat = 1 ∨ b.toNat = 2)) ∧
      ¬(b.toNat = 3 ∧ (a.toNat = 1 ∨ a.toNat = 2)) := by
  simp [csrAliases, ← BitVec.toNat_inj, and_assoc]

/-- The reserved bits of xcause and tabsel read as zero (R376). -/
def Thread.reservedClear (t : Thread) : Prop :=
  t.xcause &&& ~~~ csrMask 0x803 = 0 ∧ t.tabsel &&& ~~~ csrMask 0x807 = 0

/-- A word under a mask has no bit outside it. -/
theorem and_mask_and_not_mask (v m : Word) : v &&& m &&& ~~~ m = 0 := by
  rw [BitVec.and_assoc, BitVec.and_not_self]; exact BitVec.and_zero

theorem Thread.reservedClear_setCsr {t : Thread} (a : BitVec 12) (v : Word) (h : t.reservedClear) :
    (t.setCsr a v).reservedClear := by
  obtain ⟨hc, ht⟩ := h
  refine ⟨?_, ?_⟩
  · rw [Thread.setCsr_xcause]; split
    · exact and_mask_and_not_mask v _
    · exact hc
  · rw [Thread.setCsr_tabsel]; split
    · exact and_mask_and_not_mask v _
    · exact ht

/-- A word with no bit outside a mask is all replaced by a write under it. -/
theorem and_mask_eq_merge {w m : Word} (v : Word) (h : w &&& ~~~ m = 0) : v &&& m = (w &&& ~~~ m) ||| (v &&& m) := by
  rw [h]; exact BitVec.zero_or.symm

/-- A CSR that shares no bit with the one written reads as before. -/
theorem State.userCsr_setCsr_of_disjoint (s : State) (slot : Nat) (t : Thread) {a b : BitVec 12} (v : Word)
    (h : csrAliases a b = false) : s.userCsr slot (t.setCsr a v) b = s.userCsr slot t b := by
  obtain ⟨hab, h3b, h3a⟩ := (csrAliases_eq_false_iff a b).1 h
  unfold State.userCsr
  split
  case h_1 e => rw [Thread.setCsr_fflags, if_neg (by omega)]
  case h_2 e => rw [Thread.setCsr_frm, if_neg (by omega), if_neg (by omega)]
  case h_3 e => rw [Thread.setCsr_fcsr, if_neg (by omega), if_neg (by omega), if_neg (by omega)]
  case h_4 e => rw [Thread.setCsr_pw, if_neg (by omega)]
  case h_5 e => rw [Thread.setCsr_sbound, if_neg (by omega)]
  case h_6 e => rw [Thread.setCsr_xtvec, if_neg (by omega)]
  case h_7 e => rw [Thread.setCsr_xcause, if_neg (by omega)]
  case h_8 e => rw [Thread.setCsr_xepc, if_neg (by omega)]
  case h_9 e => rw [Thread.setCsr_xtval, if_neg (by omega)]
  case h_10 e => rw [Thread.setCsr_ivec, if_neg (by omega)]
  case h_11 e => rw [Thread.setCsr_tabsel, if_neg (by omega)]
  case h_12 e => rw [Thread.setCsr_mlabel, if_neg (by omega)]
  all_goals simp

/-- fflags and frm are the low five and the high three bits of fcsr (R77). -/
theorem State.userCsr_fcsr {s : State} {slot : Nat} {t : Thread} {old : Word} (h : s.userCsr slot t 3 = some old) :
    s.userCsr slot t 1 = some (BitVec.ofNat 64 (old.toNat % 32)) ∧
    s.userCsr slot t 2 = some (BitVec.ofNat 64 (old.toNat / 32)) := by
  have h3 : s.userCsr slot t 3 = some (t.fcsr.setWidth 64) := rfl
  rw [h3, Option.some.injEq] at h
  have h1 : s.userCsr slot t 1 = some ((t.fcsr.extractLsb' 0 5).setWidth 64) := rfl
  have h2 : s.userCsr slot t 2 = some ((t.fcsr.extractLsb' 5 3).setWidth 64) := rfl
  subst h
  rw [h1, h2]
  constructor
  · refine congrArg some (BitVec.eq_of_toNat_eq ?_)
    simp
  · refine congrArg some (BitVec.eq_of_toNat_eq ?_)
    simp [Nat.shiftRight_eq_div_pow]; omega

/-- A value of the low w bits written into a field of w bits. -/
theorem merge_low_bits {w : Nat} (x : BitVec w) (v : Word) :
    (x.setWidth 64 &&& ~~~ ((BitVec.allOnes w).setWidth 64)) ||| (v &&& (BitVec.allOnes w).setWidth 64) =
      (v.extractLsb' 0 w).setWidth 64 := by
  ext i hi
  by_cases h : i < w
  · simp [h, hi]
  · simp [h, hi, BitVec.getLsbD_of_ge x i (by omega)]

/-- A write under the full mask replaces the word. -/
theorem merge_full (w v : Word) : (w &&& ~~~ 0xFFFFFFFFFFFFFFFF#64) ||| (v &&& 0xFFFFFFFFFFFFFFFF#64) = v := by
  rw [show 0xFFFFFFFFFFFFFFFF#64 = BitVec.allOnes 64 from rfl, BitVec.not_allOnes, BitVec.and_zero, BitVec.zero_or,
    BitVec.and_allOnes]

/-- A write under the empty mask leaves the word. -/
theorem merge_none (w v : Word) : (w &&& ~~~ 0#64) ||| (v &&& 0#64) = w := by
  rw [BitVec.and_zero, BitVec.or_zero, BitVec.not_zero, BitVec.and_allOnes]

/-- A writable CSR reads back the written bits and its old others; a read-only one reads as before (R14). -/
theorem State.userCsr_setCsr_self (s : State) (slot : Nat) {t : Thread} {a : BitVec 12} (v : Word) {old : Word}
    (hl : t.reservedClear) (h : s.userCsr slot t a = some old) :
    s.userCsr slot (t.setCsr a v) a = some ((old &&& ~~~ csrMask a) ||| (v &&& csrMask a)) := by
  obtain ⟨hc, ht⟩ := hl
  unfold State.userCsr at h ⊢
  split at h
  case h_21 => cases h
  all_goals
    obtain rfl := Option.some.inj h
    refine congrArg some ?_
    unfold csrMask
    simp only [*]
  case h_1 e => rw [Thread.setCsr_fflags, if_pos (.inl e)]; exact (merge_low_bits _ v).symm
  case h_2 e => rw [Thread.setCsr_frm, if_pos e]; exact (merge_low_bits _ v).symm
  case h_3 e => rw [Thread.setCsr_fcsr, if_neg (by omega), if_neg (by omega), if_pos e]; exact (merge_low_bits _ v).symm
  case h_4 e => rw [Thread.setCsr_pw, if_pos e, merge_full]
  case h_5 e => rw [Thread.setCsr_sbound, if_pos e, merge_full]
  case h_6 e => rw [Thread.setCsr_xtvec, if_pos e, merge_full]
  case h_7 e => rw [Thread.setCsr_xcause, if_pos e]; exact and_mask_eq_merge v hc
  case h_8 e => rw [Thread.setCsr_xepc, if_pos e, merge_full]
  case h_9 e => rw [Thread.setCsr_xtval, if_pos e, merge_full]
  case h_10 e => rw [Thread.setCsr_ivec, if_pos e, merge_full]
  case h_11 e => rw [Thread.setCsr_tabsel, if_pos e]; exact and_mask_eq_merge v ht
  case h_12 e => rw [Thread.setCsr_mlabel, if_pos e, merge_full]
  all_goals simp only [merge_none, Thread.setCsr_instret, Thread.setCsr_windowCsr, Thread.setCsr_tenant]

/-- Settles O21: the field behind each CSR, read back after Thread.setCsr. -/
theorem csrReadBack : Obligations.CsrReadBack := by
  unfold Obligations.CsrReadBack
  intro s slot t a b v old
  exact ⟨Thread.reservedClear_setCsr a v, State.userCsr_setCsr_self s slot v, State.userCsr_setCsr_of_disjoint s slot t v,
    State.userCsr_fcsr, fun n => by simp [Thread.reg]⟩
end Sys2Proof.Machine
end

section
/-! PROOFS. O59 (StepKeepsMemory): what keeping the memory's form means for the shapes in which the model's functions
answer a state (a choice, a pair, a fold, an outcome). The proof of O59 goes through the model in the order of its
files, with one lemma for each function over the state: F_mem where F leaves memory as it is, F_wf where F keeps its
form. -/

namespace Sys2Proof.Machine

/-- An answer whose next state, where it has one, has memory of canonical form. -/
def nextWf : Host.Outcome State Fault Refusal → Prop
  | .next u => u.mem.wf = true
  | .fault _ => True
  | .refused _ => True

@[simp] theorem nextWf_next (u : State) : nextWf (.next u) ↔ u.mem.wf = true := Iff.rfl
@[simp] theorem nextWf_fault (r : Fault) : nextWf (.fault r) := trivial
@[simp] theorem nextWf_refused (r : Refusal) : nextWf (.refused r) := trivial
@[simp] theorem State.mem_ite (c : Prop) [Decidable c] (s u : State) :
    (if c then s else u).mem = if c then s.mem else u.mem := apply_ite State.mem c s u
@[simp] theorem Memory.wf_ite (c : Prop) [Decidable c] (m m' : Memory) :
    (if c then m else m').wf = true ↔ (c → m.wf = true) ∧ (¬c → m'.wf = true) := by split <;> simp [*]

/-- Either branch of a choice. -/
theorem wf_if {c : Prop} [Decidable c] {s u : State} (h : s.mem.wf = true) (h' : u.mem.wf = true) :
    (if c then s else u).mem.wf = true := by split <;> assumption

/-- The state of a pair that a function answers. -/
theorem wf_of_eq {α : Type} {p : State × α} {s : State} {x : α} (e : p = (s, x)) (h : p.1.mem.wf = true) :
    s.mem.wf = true := by subst e; exact h

@[simp] theorem foldl_mem {α : Type} {f : State → α → State} (l : List α) (s : State)
    (hf : ∀ u a, (f u a).mem = u.mem) : (l.foldl f s).mem = s.mem := by
  induction l generalizing s with
  | nil => rfl
  | cons a l ih => rw [List.foldl_cons, ih, hf]

@[simp] theorem foldl_wf {α : Type} {f : State → α → State} (l : List α) {s : State} (h : s.mem.wf = true)
    (hf : ∀ u a, u.mem.wf = true → (f u a).mem.wf = true) : (l.foldl f s).mem.wf = true := by
  induction l generalizing s with
  | nil => exact h
  | cons a l ih => exact ih (hf s a h)

/-- As foldl_wf, where the fold carries something beside the state. -/
theorem foldl_fst_wf {α β : Type} {f : State × β → α → State × β} (l : List α) {p : State × β} (h : p.1.mem.wf = true)
    (hf : ∀ q a, q.1.mem.wf = true → (f q a).1.mem.wf = true) : (l.foldl f p).1.mem.wf = true := by
  induction l generalizing p with
  | nil => exact h
  | cons a l ih => exact ih (hf p a h)

end Sys2Proof.Machine
end

section
/-! PROOFS. O59: the functions of Sys2Proof/Machine/State.lean. -/

namespace Sys2Proof.Machine

@[simp] theorem State.reset_wf : State.reset.mem.wf = true := Memory.wf_reset

end Sys2Proof.Machine
end

section
/-! PROOFS. O59: the functions of Sys2Proof/Machine/Translate.lean. -/

namespace Sys2Proof.Machine

@[simp] theorem State.modCore_mem (s : State) (c f) : (s.modCore c f).mem = s.mem := rfl
@[simp] theorem State.modOctet_mem (s : State) (o f) : (s.modOctet o f).mem = s.mem := rfl
@[simp] theorem State.modCluster_mem (s : State) (c f) : (s.modCluster c f).mem = s.mem := rfl
@[simp] theorem State.modDie_mem (s : State) (d f) : (s.modDie d f).mem = s.mem := rfl
@[simp] theorem State.modTenant_mem (s : State) (t f) : (s.modTenant t f).mem = s.mem := rfl
@[simp] theorem State.modLaunch_mem (s : State) (l f) : (s.modLaunch l f).mem = s.mem := by
  unfold State.modLaunch; split <;> rfl
@[simp] theorem State.mapThreads_mem (s : State) (f) : (s.mapThreads f).mem = s.mem := rfl
@[simp] theorem State.check_mem (s : State) (kind about) : (s.check kind about).mem = s.mem := rfl
@[simp] theorem State.settle_wf {s : State} (k) (h : s.mem.wf = true) : (s.settle k).mem.wf = true := by
  simp [State.settle, h, Memory.wf_poison]

@[simp] theorem State.translate_wf {s : State} (core tenant va) (h : s.mem.wf = true) :
    (s.translate core tenant va).1.mem.wf = true := by
  unfold State.translate
  split
  · exact h
  dsimp only
  split
  · rw [State.modCore_mem]; exact h
  split
  · exact wf_if (State.settle_wf _ h) h
  · refine wf_if ?_ ?_
    · rw [State.modCore_mem]; exact h
    · rw [State.modCluster_mem, State.modCore_mem]; exact h

@[simp] theorem State.askWalk_mem (s : State) (cluster die tenant page) :
    (s.askWalk cluster die tenant page).mem = s.mem := by
  simp [State.askWalk]

@[simp] theorem State.resolve_wf {s : State} (core tenant master va a) (h : s.mem.wf = true) :
    (s.resolve core tenant master va a).1.mem.wf = true := by
  unfold State.resolve
  grind [State.translate_wf]

@[simp] theorem State.origin_wf {s : State} (core tenant va a) (h : s.mem.wf = true) :
    (s.origin core tenant va a).1.mem.wf = true := by
  unfold State.origin
  split
  · exact State.resolve_wf _ _ _ _ _ h
  · repeat' split
    all_goals exact wf_of_eq ‹_› (State.translate_wf _ _ _ h)

end Sys2Proof.Machine
end

section
/-! PROOFS. O59: the functions of Sys2Proof/Machine/Packets.lean. -/

namespace Sys2Proof.Machine

@[simp] theorem State.inject_mem (s : State) (p node port) : (s.inject p node port).mem = s.mem := by
  simp [State.inject]
@[simp] theorem State.enter_mem (s : State) (p) : (s.enter p).mem = s.mem := by simp [State.enter]
@[simp] theorem State.send_mem (s : State) (isReply src dst p) : (s.send isReply src dst p).mem = s.mem := by
  simp [State.send]
@[simp] theorem State.dropPacket_mem (s : State) (i) : (s.dropPacket i).mem = s.mem := rfl
@[simp] theorem State.sendHome_mem (s : State) (core slot tenant classes op) :
    (s.sendHome core slot tenant classes op).mem = s.mem := by
  simp [State.sendHome]
@[simp] theorem State.closeEntries_mem (s : State) (nodes keys) : (s.closeEntries nodes keys).mem = s.mem := rfl

theorem State.unitAt_mem {s : State} (src k) {u} (e : s.unitAt src k = some u) : u.mem = s.mem := by
  unfold State.unitAt at e
  dsimp only at e
  split at e
  · cases e; rfl
  · split at e
    · cases e
    · cases e; simp

@[simp] theorem State.unitAt_getD_mem (s : State) (src k) : ((s.unitAt src k).getD s).mem = s.mem := by
  cases e : s.unitAt src k with
  | none => rfl
  | some u => exact State.unitAt_mem src k e

end Sys2Proof.Machine
end

section
/-! PROOFS. O59: the functions of Sys2Proof/Machine/Home.lean. -/

namespace Sys2Proof.Machine

@[simp] theorem State.answer_mem (s : State) (slot k r) : (s.answer slot k r).mem = s.mem := by simp [State.answer]
@[simp] theorem State.leave_mem (s : State) (t what) : (s.leave t what).mem = s.mem := by
  unfold State.leave; split <;> rfl
@[simp] theorem State.leaveWrite_mem (s : State) (slot t what data job port) :
    (s.leaveWrite slot t what data job port).mem = s.mem := by
  unfold State.leaveWrite; split <;> simp
@[simp] theorem State.askOutside_mem (s : State) (t what) : (s.askOutside t what).1.mem = s.mem := by
  unfold State.askOutside; split <;> simp

@[simp] theorem State.writeOutside_mem (s : State) (slot t what data job port) :
    (s.writeOutside slot t what data job port).1.mem = s.mem := by
  unfold State.writeOutside
  repeat' split
  all_goals simp

@[simp] theorem State.homeAnswer_mem (s : State) (slot k r) : (s.homeAnswer slot k r).mem = s.mem := by
  simp [State.homeAnswer]
@[simp] theorem State.gotWord_mem (s : State) (slot port no i va r) : (s.gotWord slot port no i va r).mem = s.mem := by
  simp [State.gotWord]
@[simp] theorem State.answerHeld_mem (s : State) (x r) : (s.answerHeld x r).mem = s.mem := by
  unfold State.answerHeld; split <;> simp
@[simp] theorem State.releaseWatch_wf {s : State} (w) (h : s.mem.wf = true) : (s.releaseWatch w).mem.wf = true := by
  unfold State.releaseWatch; split <;> simp [h]
@[simp] theorem State.wakeGranule_wf {s : State} (k) (h : s.mem.wf = true) : (s.wakeGranule k).mem.wf = true := by
  simp +contextual [State.wakeGranule, h]
@[simp] theorem State.performHeld_wf {s : State} (x) (h : s.mem.wf = true) : (s.performHeld x).mem.wf = true := by
  simp [State.performHeld, h, Memory.wf_write, Memory.wf_setTag]

@[simp] theorem State.releaseHeld_wf {s : State} (k fuel) (h : s.mem.wf = true) :
    (s.releaseHeld k fuel).mem.wf = true := by
  induction fuel generalizing s with
  | zero => exact h
  | succ fuel ih =>
    unfold State.releaseHeld
    split
    · exact ih (by simp [h])
    · exact h

theorem Memory.wf_tagged {m : Memory} (k : Nat) (tag : Option Bool) (h : m.wf = true) :
    (match tag with | some b => m.setTag k b | none => m).wf = true := by
  split
  · exact Memory.wf_setTag _ _ h
  · exact h

/-- What follows a write or a change of tag at a home: the held requests, then the waiters of the granule (R271,
    R276). -/
theorem State.afterWrite_wf {s : State} (c : Prop) [Decidable c] (k fuel) (h : s.mem.wf = true) :
    ((if c then s else s.releaseHeld k fuel).wakeGranule k).mem.wf = true :=
  State.wakeGranule_wf k (by split <;> simp [h])

@[simp] theorem State.writeHome_wf {s : State} (k mask v tag) (h : s.mem.wf = true) :
    (s.writeHome k mask v tag).mem.wf = true := by
  have h0 : (if mask = 0xFF#8 then s else s.settle k).mem.wf = true := by split <;> simp [h]
  exact State.afterWrite_wf _ _ _ (Memory.wf_tagged _ _ (Memory.wf_write _ _ _ h0))

@[simp] theorem State.writePoison_wf {s : State} (k v tag) (h : s.mem.wf = true) :
    (s.writePoison k v tag).mem.wf = true :=
  State.afterWrite_wf _ _ _ (Memory.wf_tagged _ _ (Memory.wf_poison _ (Memory.wf_write _ _ _ h)))
@[simp] theorem State.writeTag_wf {s : State} (k b) (h : s.mem.wf = true) : (s.writeTag k b).mem.wf = true :=
  State.afterWrite_wf _ _ _ (Memory.wf_setTag _ _ h)

@[simp] theorem State.settleWalk_wf {s : State} (tenant va) (h : s.mem.wf = true) :
    (s.settleWalk tenant va).mem.wf = true := by
  unfold State.settleWalk
  repeat' split
  all_goals simp [h]

@[simp] theorem State.deviceStep_wf {s : State} (tenant va a) (h : s.mem.wf = true) :
    (s.deviceStep tenant va a).1.mem.wf = true := by
  simp [State.deviceStep, h]

@[simp] theorem State.postWith_wf {s : State} (pre tenant slot code cause kind addr value) (h : s.mem.wf = true)
    (hpre : ∀ u k, u.mem.wf = true → (pre u k).mem.wf = true) :
    (s.postWith pre tenant slot code cause kind addr value).mem.wf = true := by
  have hput : ∀ (u : State) k v, u.mem.wf = true → ((pre u k).writeHome k 0xFF#8 v none).mem.wf = true :=
    fun u k v hu => State.writeHome_wf _ _ _ _ (hpre u k hu)
  have hw : ∀ u : State, ∀ va va', u.mem.wf = true → ((u.settleWalk tenant va).settleWalk tenant va').mem.wf = true :=
    fun u va va' hu => by simp [hu]
  have hs : ∀ u : State, ∀ k k', u.mem.wf = true → ((u.settle k).settle k').mem.wf = true :=
      fun u k k' hu => by simp [hu]
  unfold State.postWith
  dsimp only
  split
  · exact h
  · split
    · split
      · exact hs _ _ _ (hw _ _ _ h)
      · split
        · exact hput _ _ _ (hs _ _ _ (hw _ _ _ h))
        · split
          · exact hput _ _ _ (hput _ _ _ (hput _ _ _ (hput _ _ _ (hput _ _ _
              (State.settleWalk_wf _ _ (hs _ _ _ (hw _ _ _ h)))))))
          · exact hput _ _ _ (hs _ _ _ (hw _ _ _ h))
    · exact hw _ _ _ h

@[simp] theorem State.copyWord_wf {s : State} (pre src dst) (h : s.mem.wf = true)
    (hpre : ∀ u k, u.mem.wf = true → (pre u k).mem.wf = true) : (s.copyWord pre src dst).mem.wf = true := by
  have h1 : ((pre s dst).settle src).mem.wf = true := by simp [h, hpre]
  simp [State.copyWord, h1]

@[simp] theorem State.flipGen_wf {s : State} (pre tn p) (h : s.mem.wf = true)
    (hpre : ∀ u k, u.mem.wf = true → (pre u k).mem.wf = true) : (s.flipGen pre tn p).mem.wf = true := by
  have h1 : ((pre s p.2.2.2).settle p.2.2.2).mem.wf = true := by simp [h, hpre]
  unfold State.flipGen
  split <;> simp [h, h1]

@[simp] theorem State.capture_wf {s : State} (pre tn g byWrite) (h : s.mem.wf = true)
    (hpre : ∀ u k, u.mem.wf = true → (pre u k).mem.wf = true) : (s.capture pre tn g byWrite).mem.wf = true := by
  unfold State.capture
  split
  · exact h
  · next ep _ =>
    have hw : ((ep.pagesAt g).foldl (fun s p => s.settleWalk tn (ep.destOf g p)) s).mem.wf = true :=
      foldl_wf _ h fun u p hu => State.settleWalk_wf _ _ hu
    dsimp only
    split
    · exact h
    · split
      · exact h
      · split
        · exact State.postWith_wf _ _ _ _ _ _ _ _ hw hpre
        · refine foldl_wf _ (foldl_wf _ hw fun u p hu => ?_) fun u p hu => State.flipGen_wf _ _ _ hu hpre
          split
          · exact foldl_wf _ hu fun v i hv => State.copyWord_wf _ _ _ hv hpre
          · exact hu

@[simp] theorem State.preWrite_wf {s : State} (n k) (h : s.mem.wf = true) : (s.preWrite n k).mem.wf = true := by
  induction n generalizing s k with
  | zero => exact h
  | succ n ih => exact foldl_wf _ h fun u t hu => State.capture_wf _ _ _ _ hu fun v j hv => ih j hv

@[simp] theorem State.beforeWrite_wf {s : State} (k) (h : s.mem.wf = true) : (s.beforeWrite k).mem.wf = true := by
  simp [State.beforeWrite, h]
@[simp] theorem State.post_wf {s : State} (tenant slot code cause kind addr value) (h : s.mem.wf = true) :
    (s.post tenant slot code cause kind addr value).mem.wf = true := by
  simp +contextual [State.post, h]
@[simp] theorem State.writeWord_wf {s : State} (k mask v tag) (h : s.mem.wf = true) :
    (s.writeWord k mask v tag).mem.wf = true := by
  simp [State.writeWord, h]
@[simp] theorem State.changeTag_wf {s : State} (k b) (h : s.mem.wf = true) : (s.changeTag k b).mem.wf = true := by
  simp [State.changeTag, h]

@[simp] theorem State.arriveHeld_wf {s : State} (x age) (h : s.mem.wf = true) :
    (s.arriveHeld x age).mem.wf = true :=
  have h1 := State.performHeld_wf x (wf_if (c := x.kind = 0) h (State.beforeWrite_wf x.key h))
  wf_if (wf_if h1 (State.afterWrite_wf _ _ _ h1)) (wf_if h h)

@[simp] theorem State.readWord_wf {s : State} (k) (h : s.mem.wf = true) : (s.readWord k).1.mem.wf = true := by
  simp [State.readWord, h]

@[simp] theorem State.loadWord_wf {s : State} (core k need) (h : s.mem.wf = true) :
    (s.loadWord core k need).1.mem.wf = true := by
  unfold State.loadWord
  grind [State.readWord_wf]

end Sys2Proof.Machine
end

section
/-! PROOFS. O59: the functions of Sys2Proof/Machine/Ops.lean. -/

namespace Sys2Proof.Machine

@[simp] theorem State.park_mem (s : State) (slot c) : (s.park slot c).mem = s.mem := by simp [State.park]
@[simp] theorem State.landNow_mem (s : State) (slot) : (s.landNow slot).mem = s.mem := by simp [State.landNow]
@[simp] theorem State.holdBack_mem (s : State) (slot c) : (s.holdBack slot c).mem = s.mem := by simp [State.holdBack]
@[simp] theorem State.modPort_mem (s : State) (slot n f) : (s.modPort slot n f).mem = s.mem := by simp [State.modPort]
@[simp] theorem State.dropAsk_mem (s : State) (slot n) : (s.dropAsk slot n).mem = s.mem := by simp [State.dropAsk]
@[simp] theorem State.dropAsks_mem (s : State) (slot) : (s.dropAsks slot).mem = s.mem := by simp [State.dropAsks]
@[simp] theorem State.withdrawOwn_mem (s : State) (slot) : (s.withdrawOwn slot).mem = s.mem := by
  simp [State.withdrawOwn]
@[simp] theorem State.withdraw_mem (s : State) (slot) : (s.withdraw slot).mem = s.mem := by simp [State.withdraw]
@[simp] theorem State.leaveBarriers_mem (s : State) (slot) : (s.leaveBarriers slot).mem = s.mem := by
  simp [State.leaveBarriers]
@[simp] theorem State.abandon_mem (s : State) (slot) : (s.abandon slot).mem = s.mem := by simp [State.abandon]
@[simp] theorem State.stopFrozen_mem (s : State) (slot) : (s.stopFrozen slot).mem = s.mem := by
  simp [State.stopFrozen]
@[simp] theorem State.freeze_mem (s : State) (tn) : (s.freeze tn).mem = s.mem := by simp [State.freeze]

@[simp] theorem State.supervisorTrap_wf {s : State} (slot cause v pc) (h : s.mem.wf = true) :
    (s.supervisorTrap slot cause v pc).mem.wf = true := by
  unfold State.supervisorTrap
  repeat' split
  all_goals simp [h]

@[simp] theorem State.modRope_mem (s : State) (rope f) : (s.modRope rope f).mem = s.mem := by
  unfold State.modRope; split <;> rfl
@[simp] theorem State.detach_mem (s : State) (slot) : (s.detach slot).mem = s.mem := by
  unfold State.detach; split <;> simp

@[simp] theorem State.deliver_wf {s : State} (slot cause v pc) (h : s.mem.wf = true) :
    (s.deliver slot cause v pc).mem.wf = true := by
  unfold State.deliver
  repeat' split
  all_goals simp [h]

@[simp] theorem State.trapAt_wf {s : State} (slot cause v pc) (h : s.mem.wf = true) :
    (s.trapAt slot cause v pc).mem.wf = true := by
  unfold State.trapAt; split <;> simp [h]
@[simp] theorem State.trap_wf {s : State} (slot cause v) (h : s.mem.wf = true) :
    (s.trap slot cause v).mem.wf = true := by
  unfold State.trap; split <;> simp [h]
@[simp] theorem State.pushLink_mem (s : State) (core dir ws) : (s.pushLink core dir ws).mem = s.mem := by
  unfold State.pushLink; split <;> rfl
@[simp] theorem State.sees_mem (s : State) (core slot k) : (s.sees core slot k).mem = s.mem := by simp [State.sees]

@[simp] theorem State.findWord_wf {s : State} (core slot k need) (h : s.mem.wf = true) :
    (s.findWord core slot k need).1.mem.wf = true := by
  unfold State.findWord
  grind [State.sees_mem, State.loadWord_wf]

@[simp] theorem State.portTarget_wf {s : State} (slot t va a) (h : s.mem.wf = true) :
    (s.portTarget slot t va a).1.mem.wf = true := by
  unfold State.portTarget
  grind [State.resolve_wf]

theorem State.portAt_mem {s : State} (core k) {u} (e : s.portAt core k = some u) : u.mem = s.mem := by
  unfold State.portAt at e
  grind [State.unitAt_mem]

@[simp] theorem State.portWord_wf {s : State} (slot t va) (h : s.mem.wf = true) :
    (s.portWord slot t va).1.mem.wf = true := by
  unfold State.portWord
  grind [State.portTarget_wf, State.portAt_mem, State.findWord_wf, State.askOutside_mem]

theorem State.portAt_getD_mem (s : State) (core k) : ((s.portAt core k).getD s).mem = s.mem := by
  cases e : s.portAt core k with
  | none => rfl
  | some u => exact State.portAt_mem core k e

@[simp] theorem State.portRead_wf {s : State} (slot t a n ws) (h : s.mem.wf = true) :
    (s.portRead slot t a n ws).1.mem.wf = true := by
  induction n generalizing s ws with
  | zero => exact h
  | succ n ih =>
    unfold State.portRead
    grind [State.portWord_wf]

@[simp] theorem State.askWord_wf {s : State} (slot port no i va r) (h : s.mem.wf = true) :
    (s.askWord slot port no i va r).mem.wf = true := by
  cases r with
  | error c => simp [State.askWord, h]
  | ok x =>
    unfold State.askWord
    dsimp only
    split
    · simp [h]
    · exact State.arriveHeld_wf _ _ (by rw [State.portAt_getD_mem]; exact h)

@[simp] theorem State.askElement_wf {s : State} (slot port t p a ix) (h : s.mem.wf = true) :
    (s.askElement slot port t p a ix).mem.wf = true := by
  unfold State.askElement
  dsimp only
  refine wf_if h (foldl_wf _ ?_ fun u x hu => State.askWord_wf _ _ _ _ _ _ hu)
  rw [State.modPort_mem]
  exact foldl_fst_wf _ h fun q va hq => State.portTarget_wf _ _ _ _ hq

@[simp] theorem State.wantElement_wf {s : State} (slot n t p a ix) (h : s.mem.wf = true) :
    (s.wantElement slot n t p a ix).mem.wf = true := by
  unfold State.wantElement
  grind [State.askElement_wf, State.portRead_wf, State.modPort_mem]

@[simp] theorem State.drawLink_mem (s : State) (slot n) : (s.drawLink slot n).mem = s.mem := by
  unfold State.drawLink
  grind [State.modPort_mem, State.modCore_mem]

@[simp] theorem State.drawLinks_mem (s : State) (slot port n) : (s.drawLinks slot port n).mem = s.mem := by
  induction n generalizing s with
  | zero => rfl
  | succ n ih => rw [State.drawLinks, ih, State.drawLink_mem]

@[simp] theorem State.popHeld_mem (s : State) (slot n n') : (s.popHeld slot n n').mem = s.mem := by
  unfold State.popHeld; split <;> simp

@[simp] theorem State.takeIndex_mem (s : State) (slot n p) : (s.takeIndex slot n p).mem = s.mem := by
  unfold State.takeIndex
  repeat' split
  all_goals simp

@[simp] theorem State.fetchPort_wf {s : State} (slot n) (h : s.mem.wf = true) :
    (s.fetchPort slot n).mem.wf = true := by
  unfold State.fetchPort
  grind [State.wantElement_wf, State.takeIndex_mem, State.drawLink_mem]

@[simp] theorem State.drawPorts_mem (s : State) (slot hs) : (s.drawPorts slot hs).mem = s.mem := by
  simp [State.drawPorts]
@[simp] theorem State.restartPort_mem (s : State) (slot n) : (s.restartPort slot n).mem = s.mem := by
  simp [State.restartPort]
@[simp] theorem State.dropFault_mem (s : State) (slot n) : (s.dropFault slot n).mem = s.mem := by
  unfold State.dropFault; split <;> simp

@[simp] theorem State.takeStop_wf {s : State} (slot) (h : s.mem.wf = true) : (s.takeStop slot).mem.wf = true := by
  unfold State.takeStop
  repeat' split
  all_goals simp [h]

theorem exists_of_firstPort {α : Type} {t : Thread} {hs : List Nat} {f : Nat → Port → Option α} {x : α}
    (e : firstPort t hs f = some x) : ∃ n p, f n p = some x := by
  obtain ⟨n, -, hn⟩ := List.exists_of_findSome?_eq_some e
  obtain ⟨p, -, hp⟩ := Option.bind_eq_some_iff.1 hn
  exact ⟨n, p, hp⟩

theorem State.portGate_wf {s : State} (slot t us) (h : s.mem.wf = true) {u} (e : s.portGate slot t us = some u) :
    u.mem.wf = true := by
  unfold State.portGate at e
  dsimp only at e
  split at e
  · next r er =>
    obtain rfl := Option.some.inj e
    obtain ⟨n, p, hr⟩ := exists_of_firstPort er
    grind [State.trap_wf, State.dropFault_mem]
  · split at e
    · next r er =>
      obtain rfl := Option.some.inj e
      obtain ⟨n, p, hr⟩ := exists_of_firstPort er
      grind [State.trap_wf]
    · split at e
      · next r er =>
        obtain rfl := Option.some.inj e
        obtain ⟨n, p, hr⟩ := exists_of_firstPort er
        grind [State.park_mem]
      · obtain ⟨n, p, hr⟩ := exists_of_firstPort e
        grind [State.park_mem]

@[simp] theorem State.retire_mem (s : State) (slot pc) : (s.retire slot pc).mem = s.mem := by simp [State.retire]

@[simp] theorem issueT_wf {s : State} (t illegal uses body) (h : s.mem.wf = true)
    (hbody : ∀ u c, u.mem.wf = true → (body u c).mem.wf = true) : (issueT s t illegal uses body).mem.wf = true := by
  unfold issueT
  refine wf_if (by simp [h]) ?_
  split
  · simp [h]
  · refine wf_if (by simp [h]) (wf_if (by simp [h]) (wf_if (by simp [h]) ?_))
    split
    · simp [h]
    · split
      · simp [h]
      · refine wf_if (hbody _ _ h) ?_
        dsimp only
        split
        · simp [h]
        · split
          · refine State.portGate_wf _ _ _ ?_ ‹_›; simp [h]
          · exact hbody _ _ (by simp [h])

@[simp] theorem issue_wf {s : State} (illegal uses body) (h : s.mem.wf = true)
    (hbody : ∀ u c, u.mem.wf = true → (body u c).mem.wf = true) : nextWf (issue s illegal uses body) := by
  unfold issue
  split
  · trivial
  · split
    · trivial
    · exact issueT_wf _ _ _ _ h hbody

@[simp] theorem event_wf {s : State} (f) (h : s.mem.wf = true)
    (hf : ∀ u, u.mem.wf = true → (f u).mem.wf = true) : nextWf (event s f) := by
  unfold event
  split
  · trivial
  · exact hf _ h

@[simp] theorem State.popHandles_mem (s : State) (slot hs) : (s.popHandles slot hs).mem = s.mem := by
  unfold State.popHandles
  grind [State.popHeld_mem, foldl_wf, foldl_mem]
@[simp] theorem State.popPorts_mem (s : State) (c) : (s.popPorts c).mem = s.mem := by simp [State.popPorts]

@[simp] theorem State.writeRegs_mem (s : State) (slot n ws) : (s.writeRegs slot n ws).mem = s.mem := by
  unfold State.writeRegs
  repeat' split
  all_goals simp

@[simp] theorem State.finish_mem (s : State) (c n ws) : (s.finish c n ws).mem = s.mem := by simp [State.finish]
@[simp] theorem State.done_mem (s : State) (c) : (s.done c).mem = s.mem := by simp [State.done]
@[simp] theorem State.jumpTo_mem (s : State) (c pc n ws) : (s.jumpTo c pc n ws).mem = s.mem := by simp [State.jumpTo]
@[simp] theorem State.request_mem (s : State) (c p) : (s.request c p).mem = s.mem := by simp [State.request]
@[simp] theorem State.trapAccess_wf {s : State} (slot cause v) (h : s.mem.wf = true) :
    (s.trapAccess slot cause v).mem.wf = true := by
  simp [State.trapAccess, h]
@[simp] theorem State.trapc_wf {s : State} (c cause v) (h : s.mem.wf = true) : (s.trapc c cause v).mem.wf = true := by
  simp [State.trapc, h]
theorem State.miss_mem {s : State} (c va) {u} (e : s.miss c va = some u) : u.mem = s.mem := by
  unfold State.miss at e
  grind [State.askWalk_mem]

@[simp] theorem issueOnCompute_wf {s : State} (uses body) (h : s.mem.wf = true)
    (hbody : ∀ u a1, u.mem.wf = true → (body u a1).mem.wf = true) :
    nextWf (issueOnCompute s uses body) := by
  unfold issueOnCompute
  grind [issue_wf, State.trapc_wf]

@[simp] theorem State.reach_wf {s : State} (c va a) (h : s.mem.wf = true) : (s.reach c va a).1.mem.wf = true := by
  unfold State.reach
  grind [State.miss_mem, State.resolve_wf]

@[simp] theorem State.after_wf {s : State} (c all go) (h : s.mem.wf = true)
    (hgo : ∀ u, u.mem.wf = true → (go u).mem.wf = true) :
    (s.after c all go).mem.wf = true := by
  unfold State.after
  grind [State.modThread_mem]

@[simp] theorem State.flushHost_wf {s : State} (c go) (h : s.mem.wf = true)
    (hgo : ∀ u, u.mem.wf = true → (go u).mem.wf = true) :
    (s.flushHost c go).mem.wf = true := by
  unfold State.flushHost
  grind [State.leave_mem, State.modThread_mem]

@[simp] theorem State.release_wf {s : State} (c go) (h : s.mem.wf = true)
    (hgo : ∀ u, u.mem.wf = true → (go u).mem.wf = true) : (s.release c go).mem.wf = true :=
  State.after_wf _ _ _ h fun _ hu => State.flushHost_wf _ _ hu hgo

end Sys2Proof.Machine
end

section
/-! PROOFS. O59: the functions of Sys2Proof/Machine/Base.lean. -/

namespace Sys2Proof.Machine

@[simp] theorem State.hint_wf {s : State} (h : s.mem.wf = true) : nextWf (s.hint) := by simp [State.hint, h]
@[simp] theorem aluU_wf {s : State} (rd f) (h : s.mem.wf = true) : nextWf (aluU s rd f) := by
  unfold aluU; split <;> simp [h]
@[simp] theorem aluI_wf {s : State} (rd rs1 f) (h : s.mem.wf = true) : nextWf (aluI s rd rs1 f) := by
  unfold aluI; split <;> simp [h]
@[simp] theorem aluR_wf {s : State} (rd rs1 rs2 f) (h : s.mem.wf = true) : nextWf (aluR s rd rs1 rs2 f) := by
  unfold aluR; split <;> simp [h]
@[simp] theorem execAddi_wf {s : State} (rd rs1 imm) (h : s.mem.wf = true) : nextWf (execAddi rd rs1 imm s) := by
  simp [execAddi, h]
@[simp] theorem execSlti_wf {s : State} (rd rs1 imm) (h : s.mem.wf = true) : nextWf (execSlti rd rs1 imm s) := by
  simp [execSlti, h]
@[simp] theorem execSltiu_wf {s : State} (rd rs1 imm) (h : s.mem.wf = true) : nextWf (execSltiu rd rs1 imm s) := by
  simp [execSltiu, h]
@[simp] theorem execXori_wf {s : State} (rd rs1 imm) (h : s.mem.wf = true) : nextWf (execXori rd rs1 imm s) := by
  simp [execXori, h]
@[simp] theorem execOri_wf {s : State} (rd rs1 imm) (h : s.mem.wf = true) : nextWf (execOri rd rs1 imm s) := by
  simp [execOri, h]
@[simp] theorem execAndi_wf {s : State} (rd rs1 imm) (h : s.mem.wf = true) : nextWf (execAndi rd rs1 imm s) := by
  simp [execAndi, h]
@[simp] theorem execAddiw_wf {s : State} (rd rs1 imm) (h : s.mem.wf = true) : nextWf (execAddiw rd rs1 imm s) := by
  simp [execAddiw, h]
@[simp] theorem execSlli_wf {s : State} (rd rs1 sh) (h : s.mem.wf = true) : nextWf (execSlli rd rs1 sh s) := by
  simp [execSlli, h]
@[simp] theorem execSrli_wf {s : State} (rd rs1 sh) (h : s.mem.wf = true) : nextWf (execSrli rd rs1 sh s) := by
  simp [execSrli, h]
@[simp] theorem execSrai_wf {s : State} (rd rs1 sh) (h : s.mem.wf = true) : nextWf (execSrai rd rs1 sh s) := by
  simp [execSrai, h]
@[simp] theorem execSlliw_wf {s : State} (rd rs1 sh) (h : s.mem.wf = true) : nextWf (execSlliw rd rs1 sh s) := by
  simp [execSlliw, h]
@[simp] theorem execSrliw_wf {s : State} (rd rs1 sh) (h : s.mem.wf = true) : nextWf (execSrliw rd rs1 sh s) := by
  simp [execSrliw, h]
@[simp] theorem execSraiw_wf {s : State} (rd rs1 sh) (h : s.mem.wf = true) : nextWf (execSraiw rd rs1 sh s) := by
  simp [execSraiw, h]
@[simp] theorem execAuipc_wf {s : State} (rd imm) (h : s.mem.wf = true) : nextWf (execAuipc rd imm s) := by
  simp [execAuipc, h]
@[simp] theorem execLui_wf {s : State} (rd imm) (h : s.mem.wf = true) : nextWf (execLui rd imm s) := by
  simp [execLui, h]
@[simp] theorem execAdd_wf {s : State} (rd rs1 rs2) (h : s.mem.wf = true) : nextWf (execAdd rd rs1 rs2 s) := by
  simp [execAdd, h]
@[simp] theorem execSub_wf {s : State} (rd rs1 rs2) (h : s.mem.wf = true) : nextWf (execSub rd rs1 rs2 s) := by
  simp [execSub, h]
@[simp] theorem execSll_wf {s : State} (rd rs1 rs2) (h : s.mem.wf = true) : nextWf (execSll rd rs1 rs2 s) := by
  simp [execSll, h]
@[simp] theorem execSlt_wf {s : State} (rd rs1 rs2) (h : s.mem.wf = true) : nextWf (execSlt rd rs1 rs2 s) := by
  simp [execSlt, h]
@[simp] theorem execSltu_wf {s : State} (rd rs1 rs2) (h : s.mem.wf = true) : nextWf (execSltu rd rs1 rs2 s) := by
  simp [execSltu, h]
@[simp] theorem execXor_wf {s : State} (rd rs1 rs2) (h : s.mem.wf = true) : nextWf (execXor rd rs1 rs2 s) := by
  simp [execXor, h]
@[simp] theorem execSrl_wf {s : State} (rd rs1 rs2) (h : s.mem.wf = true) : nextWf (execSrl rd rs1 rs2 s) := by
  simp [execSrl, h]
@[simp] theorem execSra_wf {s : State} (rd rs1 rs2) (h : s.mem.wf = true) : nextWf (execSra rd rs1 rs2 s) := by
  simp [execSra, h]
@[simp] theorem execOr_wf {s : State} (rd rs1 rs2) (h : s.mem.wf = true) : nextWf (execOr rd rs1 rs2 s) := by
  simp [execOr, h]
@[simp] theorem execAnd_wf {s : State} (rd rs1 rs2) (h : s.mem.wf = true) : nextWf (execAnd rd rs1 rs2 s) := by
  simp [execAnd, h]
@[simp] theorem execMul_wf {s : State} (rd rs1 rs2) (h : s.mem.wf = true) : nextWf (execMul rd rs1 rs2 s) := by
  simp [execMul, h]
@[simp] theorem execMulh_wf {s : State} (rd rs1 rs2) (h : s.mem.wf = true) : nextWf (execMulh rd rs1 rs2 s) := by
  simp [execMulh, h]
@[simp] theorem execMulhsu_wf {s : State} (rd rs1 rs2) (h : s.mem.wf = true) : nextWf (execMulhsu rd rs1 rs2 s) := by
  simp [execMulhsu, h]
@[simp] theorem execMulhu_wf {s : State} (rd rs1 rs2) (h : s.mem.wf = true) : nextWf (execMulhu rd rs1 rs2 s) := by
  simp [execMulhu, h]
@[simp] theorem execDiv_wf {s : State} (rd rs1 rs2) (h : s.mem.wf = true) : nextWf (execDiv rd rs1 rs2 s) := by
  simp [execDiv, h]
@[simp] theorem execDivu_wf {s : State} (rd rs1 rs2) (h : s.mem.wf = true) : nextWf (execDivu rd rs1 rs2 s) := by
  simp [execDivu, h]
@[simp] theorem execRem_wf {s : State} (rd rs1 rs2) (h : s.mem.wf = true) : nextWf (execRem rd rs1 rs2 s) := by
  simp [execRem, h]
@[simp] theorem execRemu_wf {s : State} (rd rs1 rs2) (h : s.mem.wf = true) : nextWf (execRemu rd rs1 rs2 s) := by
  simp [execRemu, h]
@[simp] theorem execAddw_wf {s : State} (rd rs1 rs2) (h : s.mem.wf = true) : nextWf (execAddw rd rs1 rs2 s) := by
  simp [execAddw, h]
@[simp] theorem execSubw_wf {s : State} (rd rs1 rs2) (h : s.mem.wf = true) : nextWf (execSubw rd rs1 rs2 s) := by
  simp [execSubw, h]
@[simp] theorem execSllw_wf {s : State} (rd rs1 rs2) (h : s.mem.wf = true) : nextWf (execSllw rd rs1 rs2 s) := by
  simp [execSllw, h]
@[simp] theorem execSrlw_wf {s : State} (rd rs1 rs2) (h : s.mem.wf = true) : nextWf (execSrlw rd rs1 rs2 s) := by
  simp [execSrlw, h]
@[simp] theorem execSraw_wf {s : State} (rd rs1 rs2) (h : s.mem.wf = true) : nextWf (execSraw rd rs1 rs2 s) := by
  simp [execSraw, h]
@[simp] theorem execMulw_wf {s : State} (rd rs1 rs2) (h : s.mem.wf = true) : nextWf (execMulw rd rs1 rs2 s) := by
  simp [execMulw, h]
@[simp] theorem execDivw_wf {s : State} (rd rs1 rs2) (h : s.mem.wf = true) : nextWf (execDivw rd rs1 rs2 s) := by
  simp [execDivw, h]
@[simp] theorem execDivuw_wf {s : State} (rd rs1 rs2) (h : s.mem.wf = true) : nextWf (execDivuw rd rs1 rs2 s) := by
  simp [execDivuw, h]
@[simp] theorem execRemw_wf {s : State} (rd rs1 rs2) (h : s.mem.wf = true) : nextWf (execRemw rd rs1 rs2 s) := by
  simp [execRemw, h]
@[simp] theorem execRemuw_wf {s : State} (rd rs1 rs2) (h : s.mem.wf = true) : nextWf (execRemuw rd rs1 rs2 s) := by
  simp [execRemuw, h]
@[simp] theorem branch_wf {s : State} (rs1 rs2 imm f) (h : s.mem.wf = true) : nextWf (branch s rs1 rs2 imm f) := by
  simp +contextual [branch, h]
@[simp] theorem execBeq_wf {s : State} (rs1 rs2 imm) (h : s.mem.wf = true) : nextWf (execBeq rs1 rs2 imm s) := by
  simp [execBeq, h]
@[simp] theorem execBne_wf {s : State} (rs1 rs2 imm) (h : s.mem.wf = true) : nextWf (execBne rs1 rs2 imm s) := by
  simp [execBne, h]
@[simp] theorem execBlt_wf {s : State} (rs1 rs2 imm) (h : s.mem.wf = true) : nextWf (execBlt rs1 rs2 imm s) := by
  simp [execBlt, h]
@[simp] theorem execBge_wf {s : State} (rs1 rs2 imm) (h : s.mem.wf = true) : nextWf (execBge rs1 rs2 imm s) := by
  simp [execBge, h]
@[simp] theorem execBltu_wf {s : State} (rs1 rs2 imm) (h : s.mem.wf = true) : nextWf (execBltu rs1 rs2 imm s) := by
  simp [execBltu, h]
@[simp] theorem execBgeu_wf {s : State} (rs1 rs2 imm) (h : s.mem.wf = true) : nextWf (execBgeu rs1 rs2 imm s) := by
  simp [execBgeu, h]
@[simp] theorem execJal_wf {s : State} (rd imm) (h : s.mem.wf = true) : nextWf (execJal rd imm s) := by
  simp +contextual [execJal, h]
@[simp] theorem execJalr_wf {s : State} (rd rs1 imm) (h : s.mem.wf = true) : nextWf (execJalr rd rs1 imm s) := by
  simp +contextual [execJalr, h]
@[simp] theorem execEcall_wf {s : State} (h : s.mem.wf = true) : nextWf (execEcall s) := by
  simp +contextual [execEcall, h]
@[simp] theorem execEbreak_wf {s : State} (h : s.mem.wf = true) : nextWf (execEbreak s) := by
  simp +contextual [execEbreak, h]

@[simp] theorem prefixWord_wf {s : State} (second l) (h : s.mem.wf = true) : nextWf (prefixWord s second l) := by
  unfold prefixWord
  repeat' split
  all_goals simp [h]

@[simp] theorem execReach_wf {s : State} (rs2hi rs1hi rdhi) (h : s.mem.wf = true) :
    nextWf (execReach rs2hi rs1hi rdhi s) := by
  simp [execReach, h]
@[simp] theorem execWhen_wf {s : State} (neg pbit) (h : s.mem.wf = true) : nextWf (execWhen neg pbit s) := by
  simp [execWhen, h]
@[simp] theorem execHintRegion_wf {s : State} (h : s.mem.wf = true) : nextWf (execHintRegion s) := by
  unfold execHintRegion; split <;> simp [h]

end Sys2Proof.Machine
end

section
/-! PROOFS. O59: the functions of Sys2Proof/Machine/Send.lean. -/

namespace Sys2Proof.Machine

@[simp] theorem State.refuseMessage_wf {s : State} (w code) (h : s.mem.wf = true) :
    (s.refuseMessage w code).mem.wf = true := by
  simp [State.refuseMessage, h]

@[simp] theorem State.refuseWaiting_wf {s : State} (slot) (h : s.mem.wf = true) :
    (s.refuseWaiting slot).mem.wf = true := by
  unfold State.refuseWaiting
  grind [State.refuseMessage_wf, State.modThread_mem, State.modCore_mem, foldl_wf, foldl_mem]

@[simp] theorem State.freeSlot_mem (s : State) (slot) : (s.freeSlot slot).mem = s.mem := rfl
@[simp] theorem State.sendContext_mem (s : State) (src dst t) : (s.sendContext src dst t).mem = s.mem := by
  simp [State.sendContext]
@[simp] theorem State.ship_wf {s : State} (c core va moved) (h : s.mem.wf = true) :
    (s.ship c core va moved).mem.wf = true := by
  simp +contextual [State.ship, h]

@[simp] theorem State.orMove_wf {s : State} (c va t go) (h : s.mem.wf = true)
    (hgo : ∀ u, u.mem.wf = true → (go u).mem.wf = true) :
    (s.orMove c va t go).mem.wf = true := by
  unfold State.orMove
  grind [State.trapc_wf, State.ship_wf]

end Sys2Proof.Machine
end

section
/-! PROOFS. O59: the functions of Sys2Proof/Machine/Belay.lean. -/

namespace Sys2Proof.Machine

@[simp] theorem State.setBarrier_mem (s : State) (cl i b) : (s.setBarrier cl i b).mem = s.mem := rfl
@[simp] theorem State.setMutex_mem (s : State) (cl i m) : (s.setMutex cl i m).mem = s.mem := rfl
@[simp] theorem State.setEvent_mem (s : State) (cl i e) : (s.setEvent cl i e).mem = s.mem := rfl
@[simp] theorem State.answerAll_mem (s : State) (slots v) : (s.answerAll slots v).mem = s.mem := by
  simp [State.answerAll]
@[simp] theorem State.fireBarrier_mem (s : State) (cl i) : (s.fireBarrier cl i).mem = s.mem := by
  simp [State.fireBarrier]
@[simp] theorem State.settleBarrier_mem (s : State) (cl i) : (s.settleBarrier cl i).mem = s.mem := by
  simp [State.settleBarrier]
@[simp] theorem State.barrierArrive_mem (s : State) (slot i wait) : (s.barrierArrive slot i wait).1.mem = s.mem := by
  simp [State.barrierArrive]
@[simp] theorem State.barrierCfg_mem (s : State) (cl i v) : (s.barrierCfg cl i v).mem = s.mem := by
  simp [State.barrierCfg]
@[simp] theorem State.mutexAcquire_mem (s : State) (slot i) : (s.mutexAcquire slot i).1.mem = s.mem := by
  unfold State.mutexAcquire
  grind [State.setMutex_mem]
@[simp] theorem State.mutexTry_mem (s : State) (slot i) : (s.mutexTry slot i).1.mem = s.mem := by
  unfold State.mutexTry
  grind [State.setMutex_mem]
@[simp] theorem State.mutexPass_mem (s : State) (cl i abandoned) : (s.mutexPass cl i abandoned).mem = s.mem := by
  unfold State.mutexPass
  grind [State.answer_mem, State.setMutex_mem]
@[simp] theorem State.eventWait_mem (s : State) (slot i) : (s.eventWait slot i).1.mem = s.mem := by
  unfold State.eventWait
  grind [State.setEvent_mem]
@[simp] theorem State.eventSet_mem (s : State) (cl i v) : (s.eventSet cl i v).mem = s.mem := by
  unfold State.eventSet
  grind [State.answer_mem, State.setEvent_mem, State.answerAll_mem, State.send_mem]
@[simp] theorem State.mutexRelease_mem (s : State) (slot i) : (s.mutexRelease slot i).1.mem = s.mem := by
  unfold State.mutexRelease
  grind [State.mutexPass_mem]
@[simp] theorem State.belayLoad_mem (s : State) (slot a) : (s.belayLoad slot a).1.mem = s.mem := by
  unfold State.belayLoad; split <;> simp
@[simp] theorem State.belayStore_mem (s : State) (slot v a) : (s.belayStore slot v a).1.mem = s.mem := by
  unfold State.belayStore; split <;> simp

@[simp] theorem belayLd_wf {s : State} (c va off rd)
    (h : s.mem.wf = true) : (belayLd s c va off rd).mem.wf = true := by
  have hgo : ∀ (p : Pend) (op : BelayOp) (u : State), u.mem.wf = true →
      (if u.slow && op.acts then u.request c p else
        match (u.request c p).belayLoad c.slot op with
        | (s2, some v) => s2.finish c rd [v]
        | (s2, none) => s2).mem.wf = true := by
    intro p op u hu
    grind [State.request_mem, State.belayLoad_mem, State.finish_mem]
  unfold belayLd
  split
  · simp [h]
  · refine wf_if (by simp [h]) (wf_if (by simp [h]) ?_)
    dsimp only
    exact wf_if (by simp [h]) (wf_if (State.release_wf _ _ h (hgo _ _)) (hgo _ _ _ h))

@[simp] theorem belaySd_wf {s : State} (c va off v) (h : s.mem.wf = true) : (belaySd s c va off v).mem.wf = true := by
  unfold belaySd
  grind [State.trapc_wf, State.request_mem, State.done_mem, State.belayStore_mem, State.release_wf]

end Sys2Proof.Machine
end

section
/-! PROOFS. O59: the functions of Sys2Proof/Machine/LoadStore.lean. -/

namespace Sys2Proof.Machine

@[simp] theorem State.reply_wf {s : State} (slot) (h : s.mem.wf = true) : (s.reply slot).mem.wf = true := by
  unfold State.reply
  repeat' split
  all_goals simp [h]

@[simp] theorem findAll_wf {s : State} (c a rs l) (h : s.mem.wf = true) : (findAll c a rs l s).1.mem.wf = true := by
  induction rs generalizing s l with
  | nil => exact h
  | cons r rest ih =>
    unfold findAll
    grind [State.reach_wf, State.findWord_wf]

@[simp] theorem loadAll_wf {s : State} (c a far rs k) (h : s.mem.wf = true)
    (hfar : ∀ u a1 a2, u.mem.wf = true → (far u a1 a2).mem.wf = true)
    (hk : ∀ u a1, u.mem.wf = true → (k u a1).mem.wf = true) :
    (loadAll c a far rs s k).mem.wf = true := by
  unfold loadAll
  grind [findAll_wf, State.park_mem, State.trapc_wf]

@[simp] theorem State.askFar_mem (s : State) (c p l fail) : (s.askFar c p l fail).mem = s.mem := by
  simp [State.askFar]

@[simp] theorem addrAll_wf {s : State} (c a rs) (h : s.mem.wf = true) : (addrAll c a rs s).1.mem.wf = true := by
  induction rs generalizing s with
  | nil => exact h
  | cons r rest ih =>
    unfold addrAll
    grind [State.reach_wf]

@[simp] theorem loadSlow_wf {s : State} (c p rs) (h : s.mem.wf = true) : (loadSlow s c p rs).mem.wf = true := by
  unfold loadSlow
  grind [addrAll_wf, State.trapc_wf, State.park_mem, State.request_mem, State.sees_mem, State.leave_mem,
    State.sendHome_mem, foldl_wf, foldl_mem]

@[simp] theorem loadWords_wf {s : State} (c rd asm ea rs) (h : s.mem.wf = true) :
    (loadWords s c rd asm ea rs).mem.wf = true := by
  unfold loadWords; split <;> simp [h]

@[simp] theorem moveOr_wf {s : State} (c ea a go) (h : s.mem.wf = true)
    (hgo : ∀ u, u.mem.wf = true → (go u).mem.wf = true) :
    (moveOr s c ea a go).mem.wf = true := by
  unfold moveOr
  grind [State.miss_mem, State.trapc_wf, State.origin_wf, State.orMove_wf]

@[simp] theorem load_wf {s : State} (rd rs1 imm size signed) (h : s.mem.wf = true) :
    nextWf (load s rd rs1 imm size signed) := by
  unfold load
  grind [issue_wf, State.trapc_wf, moveOr_wf, belayLd_wf, loadWords_wf]

@[simp] theorem execLb_wf {s : State} (rd rs1 imm) (h : s.mem.wf = true) : nextWf (execLb rd rs1 imm s) := by
  simp [execLb, h]
@[simp] theorem execLh_wf {s : State} (rd rs1 imm) (h : s.mem.wf = true) : nextWf (execLh rd rs1 imm s) := by
  simp [execLh, h]
@[simp] theorem execLw_wf {s : State} (rd rs1 imm) (h : s.mem.wf = true) : nextWf (execLw rd rs1 imm s) := by
  simp [execLw, h]
@[simp] theorem execLd_wf {s : State} (rd rs1 imm) (h : s.mem.wf = true) : nextWf (execLd rd rs1 imm s) := by
  simp [execLd, h]
@[simp] theorem execLbu_wf {s : State} (rd rs1 imm) (h : s.mem.wf = true) : nextWf (execLbu rd rs1 imm s) := by
  simp [execLbu, h]
@[simp] theorem execLhu_wf {s : State} (rd rs1 imm) (h : s.mem.wf = true) : nextWf (execLhu rd rs1 imm s) := by
  simp [execLhu, h]
@[simp] theorem execLwu_wf {s : State} (rd rs1 imm) (h : s.mem.wf = true) : nextWf (execLwu rd rs1 imm s) := by
  simp [execLwu, h]

theorem checkAllStores_wf {s : State} (c rs1 ws k) (h : s.mem.wf = true)
    (hk : ∀ u l, u.mem.wf = true → (k u l).mem.wf = true) : (storeWords.checkAll c rs1 ws s k).mem.wf = true := by
  induction ws generalizing s k with
  | nil => exact hk _ _ h
  | cons w rest ih =>
    unfold storeWords.checkAll
    refine wf_if (by simp [h]) ?_
    have hr := State.reach_wf c w.va .store h
    split
    · next e => simp [wf_of_eq e hr]
    · next e => simp [wf_of_eq e hr]
    · next e => exact ih _ (wf_of_eq e hr) fun u l hu => hk u _ hu

@[simp] theorem storeWords_wf {s : State} (c rs1 ws group) (h : s.mem.wf = true) :
    (storeWords s c rs1 ws group).mem.wf = true :=
  checkAllStores_wf _ _ _ _ h fun u l hu => wf_if (by simp [hu]) (by simp [hu])

@[simp] theorem store_wf {s : State} (rs2 rs1 imm size)
    (h : s.mem.wf = true) : nextWf (store s rs2 rs1 imm size) := by
  unfold store
  grind [issue_wf, State.trapc_wf, moveOr_wf, belaySd_wf, storeWords_wf]

@[simp] theorem execSb_wf {s : State} (rs2 rs1 imm) (h : s.mem.wf = true) : nextWf (execSb rs2 rs1 imm s) := by
  simp [execSb, h]
@[simp] theorem execSh_wf {s : State} (rs2 rs1 imm) (h : s.mem.wf = true) : nextWf (execSh rs2 rs1 imm s) := by
  simp [execSh, h]
@[simp] theorem execSw_wf {s : State} (rs2 rs1 imm) (h : s.mem.wf = true) : nextWf (execSw rs2 rs1 imm s) := by
  simp [execSw, h]
@[simp] theorem execSd_wf {s : State} (rs2 rs1 imm) (h : s.mem.wf = true) : nextWf (execSd rs2 rs1 imm s) := by
  simp [execSd, h]

@[simp] theorem execLdg_wf {s : State} (span rd rs1 imm) (h : s.mem.wf = true) :
    nextWf (execLdg span rd rs1 imm s) := by
  unfold execLdg
  grind [issue_wf, State.trapc_wf, moveOr_wf, loadWords_wf]

@[simp] theorem execStg_wf {s : State} (span rs2 rs1 imm) (h : s.mem.wf = true) :
    nextWf (execStg span rs2 rs1 imm s) := by
  unfold execStg
  grind [issue_wf, State.trapc_wf, moveOr_wf, storeWords_wf]

@[simp] theorem execLdx_wf {s : State} (rd rs1) (h : s.mem.wf = true) : nextWf (execLdx rd rs1 s) := by
  unfold execLdx
  grind [issue_wf, moveOr_wf, loadWords_wf]
@[simp] theorem execStx_wf {s : State} (rs2 rs1 rm) (h : s.mem.wf = true) : nextWf (execStx rs2 rs1 rm s) := by
  unfold execStx
  grind [issue_wf, State.done_mem, State.trapc_wf, moveOr_wf, storeWords_wf]

end Sys2Proof.Machine
end

section
/-! PROOFS. O59: the functions of Sys2Proof/Machine/Sync.lean. -/

namespace Sys2Proof.Machine

@[simp] theorem State.atomicHome_wf {s : State} (op wide ad b c) (h : s.mem.wf = true) :
    (s.atomicHome op wide ad b c).1.mem.wf = true := by
  unfold State.atomicHome
  grind [State.readWord_wf, State.writeWord_wf]

@[simp] theorem State.homeAct_wf {s : State} (slot a) (h : s.mem.wf = true) : (s.homeAct slot a).1.mem.wf = true := by
  unfold State.homeAct
  grind [State.atomicHome_wf, State.changeTag_wf, State.readWord_wf, State.releaseWatch_wf, State.writeWord_wf,
    State.arriveHeld_wf, foldl_wf, foldl_mem]

@[simp] theorem atHome_wf {s : State} (c ea a far here) (h : s.mem.wf = true)
    (hfar : ∀ u a1, u.mem.wf = true → (far u a1).mem.wf = true)
    (hhere : ∀ u a1 a2, u.mem.wf = true → (here u a1 a2).mem.wf = true) :
    (atHome s c ea a far here).mem.wf = true := by
  unfold atHome
  grind [State.trapc_wf, moveOr_wf, State.reach_wf, State.park_mem]

@[simp] theorem askAway_mem (s : State) (c asm rd mode ea what t) :
    (askAway c asm rd mode ea what s t).mem = s.mem := by
  simp [askAway]
@[simp] theorem viaHome_wf {s : State} (c p cls op) (h : s.mem.wf = true) : (viaHome s c p cls op).mem.wf = true := by
  unfold viaHome
  grind [State.sendHome_mem, State.request_mem, State.homeAct_wf, State.finish_mem, State.trapc_wf]
@[simp] theorem viaHold_wf {s : State} (c p cls kind k v) (h : s.mem.wf = true) :
    (viaHold s c p cls kind k v).mem.wf = true := by
  simp [viaHold, h]
@[simp] theorem syncLoad_wf {s : State} (rd rs1 kind) (h : s.mem.wf = true) : nextWf (syncLoad s rd rs1 kind) := by
  unfold syncLoad
  grind [issue_wf, atHome_wf, askAway_mem, viaHold_wf]
@[simp] theorem execLde_wf {s : State} (rd rs1) (h : s.mem.wf = true) : nextWf (execLde rd rs1 s) := by
  simp [execLde, h]
@[simp] theorem execLdt_wf {s : State} (rd rs1) (h : s.mem.wf = true) : nextWf (execLdt rd rs1 s) := by
  simp [execLdt, h]
@[simp] theorem execStf_wf {s : State} (rs1 rs2) (h : s.mem.wf = true) : nextWf (execStf rs1 rs2 s) := by
  unfold execStf
  grind [issue_wf, State.trapc_wf, atHome_wf, State.release_wf, askAway_mem, viaHold_wf]

@[simp] theorem execStp_wf {s : State} (rs1 rs2) (h : s.mem.wf = true) : nextWf (execStp rs1 rs2 s) := by
  unfold execStp
  grind [issue_wf, State.trapc_wf, atHome_wf, State.release_wf, State.done_mem, State.leaveWrite_mem,
    State.sendHome_mem, State.writeWord_wf]

@[simp] theorem execTagrd_wf {s : State} (rd rs1) (h : s.mem.wf = true) : nextWf (execTagrd rd rs1 s) := by
  unfold execTagrd
  grind [issue_wf, atHome_wf, askAway_mem, viaHome_wf]
@[simp] theorem execTagset_wf {s : State} (rd rs1 rs2) (h : s.mem.wf = true) : nextWf (execTagset rd rs1 rs2 s) := by
  unfold execTagset
  grind [issue_wf, atHome_wf, askAway_mem, viaHome_wf]
@[simp] theorem execWaitA_wf {s : State} (rd rs1 rs2) (h : s.mem.wf = true) : nextWf (execWaitA rd rs1 rs2 s) := by
  unfold execWaitA
  grind [issue_wf, atHome_wf, askAway_mem, viaHome_wf]
@[simp] theorem execWake_wf {s : State} (rd rs1 rs2) (h : s.mem.wf = true) : nextWf (execWake rd rs1 rs2 s) := by
  unfold execWake
  grind [issue_wf, atHome_wf, State.release_wf, askAway_mem, viaHome_wf]

end Sys2Proof.Machine
end

section
/-! PROOFS. O59: the functions of Sys2Proof/Machine/Atomic.lean. -/

namespace Sys2Proof.Machine

@[simp] theorem amo_wf {s : State} (op size ar rd rs2 rs1) (h : s.mem.wf = true) :
    nextWf (amo s op size ar rd rs2 rs1) := by
  have hrel : ∀ (c : Ctx) (go : State → State) (u : State), u.mem.wf = true →
      (∀ v, v.mem.wf = true → (go v).mem.wf = true) → (if ar = 1#1 then u.release c go else go u).mem.wf = true :=
    fun c go u hu hgo => wf_if (State.release_wf _ _ hu hgo) (hgo u hu)
  refine issue_wf _ _ _ h fun u c hu => wf_if (by simp [hu]) ?_
  split
  · simp [hu]
  · refine moveOr_wf _ _ _ _ hu fun u hu => ?_
    have hr := State.reach_wf c (c.x (s.latch.rs1 rs1)) .atomic hu
    split
    · next e => simp [wf_of_eq e hr]
    · next e =>
      have h1 := wf_of_eq e hr
      split
      · simp [h1]
      · split
        · exact hrel _ _ _ h1 fun v hv => viaHome_wf _ _ _ _ hv
        · exact hrel _ _ _ h1 fun v hv => by simp [hv]

@[simp] theorem execAmadd_wf {s : State} (size ar rd rs2 rs1) (h : s.mem.wf = true) :
    nextWf (execAmadd size ar rd rs2 rs1 s) := by
  simp [execAmadd, h]
@[simp] theorem execAmand_wf {s : State} (size ar rd rs2 rs1) (h : s.mem.wf = true) :
    nextWf (execAmand size ar rd rs2 rs1 s) := by
  simp [execAmand, h]
@[simp] theorem execAmor_wf {s : State} (size ar rd rs2 rs1) (h : s.mem.wf = true) :
    nextWf (execAmor size ar rd rs2 rs1 s) := by
  simp [execAmor, h]
@[simp] theorem execAmxor_wf {s : State} (size ar rd rs2 rs1) (h : s.mem.wf = true) :
    nextWf (execAmxor size ar rd rs2 rs1 s) := by
  simp [execAmxor, h]
@[simp] theorem execAmmin_wf {s : State} (size ar rd rs2 rs1) (h : s.mem.wf = true) :
    nextWf (execAmmin size ar rd rs2 rs1 s) := by
  simp [execAmmin, h]
@[simp] theorem execAmmax_wf {s : State} (size ar rd rs2 rs1) (h : s.mem.wf = true) :
    nextWf (execAmmax size ar rd rs2 rs1 s) := by
  simp [execAmmax, h]
@[simp] theorem execAmminn_wf {s : State} (size ar rd rs2 rs1) (h : s.mem.wf = true) :
    nextWf (execAmminn size ar rd rs2 rs1 s) := by
  simp [execAmminn, h]
@[simp] theorem execAmmaxn_wf {s : State} (size ar rd rs2 rs1) (h : s.mem.wf = true) :
    nextWf (execAmmaxn size ar rd rs2 rs1 s) := by
  simp [execAmmaxn, h]
@[simp] theorem execAmswp_wf {s : State} (size ar rd rs2 rs1) (h : s.mem.wf = true) :
    nextWf (execAmswp size ar rd rs2 rs1 s) := by
  simp [execAmswp, h]
@[simp] theorem execAmcas_wf {s : State} (size ar rd rs2 rs1) (h : s.mem.wf = true) :
    nextWf (execAmcas size ar rd rs2 rs1 s) := by
  simp [execAmcas, h]
@[simp] theorem execAmfadd_wf {s : State} (size ar rd rs2 rs1) (h : s.mem.wf = true) :
    nextWf (execAmfadd size ar rd rs2 rs1 s) := by
  simp [execAmfadd, h]
@[simp] theorem execAmfaddC_wf {s : State} (size ar rd rs2 rs1) (h : s.mem.wf = true) :
    nextWf (execAmfaddC size ar rd rs2 rs1 s) := by
  simp [execAmfaddC, h]

end Sys2Proof.Machine
end

section
/-! PROOFS. O59: the functions of Sys2Proof/Machine/BelaySteps.lean. -/

namespace Sys2Proof.Machine

@[simp] theorem State.belayReply_wf {s : State} (slot r) (h : s.mem.wf = true) :
    (s.belayReply slot r).mem.wf = true := by
  simp [State.belayReply, h]

@[simp] theorem State.belayAct_wf {s : State} (slot op) (h : s.mem.wf = true) :
    (s.belayAct slot op).mem.wf = true := by
  unfold State.belayAct
  grind [State.belayReply_wf, State.belayLoad_mem]

@[simp] theorem State.belayPut_wf {s : State} (cl op v) (h : s.mem.wf = true) :
    (s.belayPut cl op v).mem.wf = true := by
  unfold State.belayPut; split <;> simp [h]
@[simp] theorem execBarrierCfgWrite_wf {s : State} (cluster idx v) (h : s.mem.wf = true) :
    nextWf (execBarrierCfgWrite cluster idx v s) := by
  simp +contextual [execBarrierCfgWrite, h]
@[simp] theorem execBarrierArriveWait_wf {s : State} (slot idx) (h : s.mem.wf = true) :
    nextWf (execBarrierArriveWait slot idx s) := by
  simp +contextual [execBarrierArriveWait, h]
@[simp] theorem execBarrierArrive_wf {s : State} (slot idx) (h : s.mem.wf = true) :
    nextWf (execBarrierArrive slot idx s) := by
  simp +contextual [execBarrierArrive, h]

@[simp] theorem execBarrierChildArrival_wf {s : State} (pkt) (h : s.mem.wf = true) :
    nextWf (execBarrierChildArrival pkt s) := by
  unfold execBarrierChildArrival
  grind [event_wf, State.dropPacket_mem, State.post_wf, State.settleBarrier_mem, State.setBarrier_mem]

@[simp] theorem execBarrierParentRelease_wf {s : State} (pkt) (h : s.mem.wf = true) :
    nextWf (execBarrierParentRelease pkt s) := by
  unfold execBarrierParentRelease
  grind [event_wf, State.dropPacket_mem, State.settleBarrier_mem, State.fireBarrier_mem]

@[simp] theorem execMutexAcquire_wf {s : State} (slot idx) (h : s.mem.wf = true) :
    nextWf (execMutexAcquire slot idx s) := by
  simp +contextual [execMutexAcquire, h]
@[simp] theorem execMutexTry_wf {s : State} (slot idx) (h : s.mem.wf = true) : nextWf (execMutexTry slot idx s) := by
  simp +contextual [execMutexTry, h]

@[simp] theorem execMutexRelease_wf {s : State} (slot idx) (h : s.mem.wf = true) :
    nextWf (execMutexRelease slot idx s) := by
  unfold execMutexRelease
  grind [event_wf, State.mutexRelease_mem, State.belayReply_wf]

@[simp] theorem execEventWait_wf {s : State} (slot idx)
    (h : s.mem.wf = true) : nextWf (execEventWait slot idx s) := by
  simp +contextual [execEventWait, h]
@[simp] theorem execEventSet_wf {s : State} (cluster idx v) (h : s.mem.wf = true) :
    nextWf (execEventSet cluster idx v s) := by
  simp +contextual [execEventSet, h]

@[simp] theorem execEventClear_wf {s : State} (cluster idx) (h : s.mem.wf = true) :
    nextWf (execEventClear cluster idx s) := by
  unfold execEventClear
  grind [event_wf, State.belayReply_wf, State.belayStore_mem]

@[simp] theorem execEventCfgWrite_wf {s : State} (cluster idx v) (h : s.mem.wf = true) :
    nextWf (execEventCfgWrite cluster idx v s) := by
  simp +contextual [execEventCfgWrite, h]

@[simp] theorem execEventForwardedSet_wf {s : State} (pkt) (h : s.mem.wf = true) :
    nextWf (execEventForwardedSet pkt s) := by
  unfold execEventForwardedSet
  grind [event_wf, State.eventSet_mem, State.dropPacket_mem]

end Sys2Proof.Machine
end

section
/-! PROOFS. O59: the functions of Sys2Proof/Machine/Issue.lean. -/

namespace Sys2Proof.Machine

@[simp] theorem State.afterGrant_mem (s : State) (core) : (s.afterGrant core).mem = s.mem := by
  unfold State.afterGrant
  repeat' split
  all_goals simp

@[simp] theorem State.turn_mem (s : State) (core n span) : (s.turn core n span).mem = s.mem := by simp [State.turn]

@[simp] theorem State.granule_wf {s : State} (slot t a)
    (h : s.mem.wf = true) : (s.granule slot t a).1.mem.wf = true := by
  have hr := State.resolve_wf (coreOf slot) t.tenant (masterOf t.tenant (coreOf slot)) a.toNat .fetch h
  unfold State.granule
  dsimp only
  split
  · exact h
  · split
    · simp [h]
    · split
      · next e => exact wf_of_eq e hr
      · next e =>
        split
        · exact wf_of_eq e hr
        · rw [State.modCore_mem]
          refine foldl_wf _ ?_ fun u i hu => State.settle_wf _ hu
          rw [State.unitAt_getD_mem]
          exact wf_of_eq e hr
      · next e =>
        have h1 := wf_of_eq e hr
        grind [State.askOutside_mem, State.modCore_mem]

@[simp] theorem State.fetch32_wf {s : State} (slot t a) (h : s.mem.wf = true) :
    (s.fetch32 slot t a).1.mem.wf = true := by
  unfold State.fetch32
  grind [State.granule_wf]

theorem runWords_wf {s : State} {ex : Instr → State → Host.Outcome State Fault Refusal}
    {badPair : BitVec 3 → BitVec 5 → BitVec 5 → BitVec 5 → State → Host.Outcome State Fault Refusal}
    (hex : ∀ i u, u.mem.wf = true → nextWf (ex i u))
    (hbad : ∀ s3 rd rs1 rs2 u, u.mem.wf = true → nextWf (badPair s3 rd rs1 rs2 u)) (fuel : Nat)
        (h : s.mem.wf = true) :
    nextWf (runWords ex badPair fuel s) := by
  induction fuel generalizing s with
  | zero => exact h
  | succ fuel ih =>
    unfold runWords
    split
    · trivial
    · next t _ =>
      have hf := State.fetch32_wf s.cur t (t.pc + BitVec.ofNat 64 (4 * s.latch.n)) h
      split
      · next e => simp [wf_of_eq e hf]
      · next s1 w e =>
        have h1 := wf_of_eq e hf
        dsimp only
        split
        · exact hbad _ _ _ _ _ h1
        · simp [h1]
        · next i _ =>
          have h2 := hex i { s1 with latch := { s1.latch with word := w } } h1
          cases e : ex i { s1 with latch := { s1.latch with word := w } } with
          | next s3 =>
            rw [e] at h2
            dsimp only
            split
            · exact ih h2
            · exact h2
          | fault r => trivial
          | refused r => trivial

@[simp] theorem State.streamWords_wf {s : State} (slot t fuel n kinds) (h : s.mem.wf = true) :
    (s.streamWords slot t fuel n kinds).1.mem.wf = true := by
  induction fuel generalizing s n kinds with
  | zero => exact h
  | succ fuel ih =>
    have hf := State.fetch32_wf slot t (t.pc + BitVec.ofNat 64 (4 * n)) h
    unfold State.streamWords
    dsimp only
    split
    · next e => exact wf_of_eq e hf
    · next e =>
      have h1 := wf_of_eq e hf
      split
      · next k _ =>
        have h2 := ih (n + 1) (k :: kinds) h1
        split
        · exact h1
        · split
          · next e2 => exact wf_of_eq e2 h2
          · exact h2
      · exact h1

@[simp] theorem State.haltStep_wf {s : State} (slot) (h : s.mem.wf = true) : (s.haltStep slot).mem.wf = true := by
  unfold State.haltStep; split <;> simp [h]

theorem runSlot_wf {s : State} {ex : Instr → State → Host.Outcome State Fault Refusal}
    {badPair : BitVec 3 → BitVec 5 → BitVec 5 → BitVec 5 → State → Host.Outcome State Fault Refusal}
    (hex : ∀ i u, u.mem.wf = true → nextWf (ex i u))
    (hbad : ∀ s3 rd rs1 rs2 u, u.mem.wf = true → nextWf (badPair s3 rd rs1 rs2 u)) (slot : Nat)
        (h : s.mem.wf = true) :
    nextWf (runSlot ex badPair slot s) := by
  unfold runSlot
  dsimp only
  split
  · trivial
  · split
    · exact State.takeStop_wf _ h
    · split
      · exact State.trapAt_wf _ _ _ _ h
      · split
        · exact State.haltStep_wf _ h
        · exact runWords_wf hex hbad _ h

end Sys2Proof.Machine
end

section
/-! PROOFS. O59: the functions of Sys2Proof/Machine/Ports.lean. -/

namespace Sys2Proof.Machine

@[simp] theorem bindPort_wf {s : State} (c d p xb) (h : s.mem.wf = true) : (bindPort s c d p xb).mem.wf = true := by
  unfold bindPort
  repeat' split
  all_goals simp [h]

@[simp] theorem descWords_wf {s : State} (c at' go) (h : s.mem.wf = true)
    (hgo : ∀ u ws, u.mem.wf = true → (go u ws).mem.wf = true) : (descWords s c at' go).mem.wf = true :=
  wf_if (by simp [h]) (wf_if (by simp [h]) (loadAll_wf _ _ _ _ _ h (fun _ _ _ hu => hu) hgo))
@[simp] theorem execPbind_wf {s : State} (rd rs1 rs2) (h : s.mem.wf = true) : nextWf (execPbind rd rs1 rs2 s) := by
  unfold execPbind
  grind [issue_wf, descWords_wf, bindPort_wf]

@[simp] theorem freeOfBody_wf {s : State} (c n go) (h : s.mem.wf = true)
    (hgo : ∀ u, u.mem.wf = true → (go u).mem.wf = true) :
    (freeOfBody s c n go).mem.wf = true := by
  unfold freeOfBody
  grind [State.park_mem]

@[simp] theorem execPunb_wf {s : State} (rd rs1) (h : s.mem.wf = true) : nextWf (execPunb rd rs1 s) := by
  unfold execPunb
  grind [issue_wf, State.finish_mem, freeOfBody_wf, State.park_mem, State.modThread_mem, State.dropAsk_mem]
@[simp] theorem execPstat_wf {s : State} (rd rs1) (h : s.mem.wf = true) : nextWf (execPstat rd rs1 s) := by
  simp +contextual [execPstat, h]

@[simp] theorem execPsave_wf {s : State} (rs1 rs2) (h : s.mem.wf = true) : nextWf (execPsave rs1 rs2 s) := by
  unfold execPsave
  grind [issue_wf, State.trapc_wf, freeOfBody_wf, State.park_mem, State.done_mem, State.writeWord_wf, foldl_wf,
    foldl_mem]

@[simp] theorem execPrest_wf {s : State} (rd rs1 rs2) (h : s.mem.wf = true) : nextWf (execPrest rd rs1 rs2 s) := by
  unfold execPrest
  grind [issue_wf, descWords_wf, bindPort_wf]
@[simp] theorem State.skipElements_mem (s : State) (slot n k p) : (s.skipElements slot n k p).mem = s.mem := by
  simp [State.skipElements]
@[simp] theorem State.skipOne_mem (s : State) (slot n) : (s.skipOne slot n).mem = s.mem := by
  unfold State.skipOne; split <;> simp

@[simp] theorem State.skipLink_mem (s : State) (slot port n) : (s.skipLink slot port n).1.mem = s.mem := by
  induction n generalizing s with
  | zero => rfl
  | succ n ih =>
    unfold State.skipLink
    split
    · exact (ih _).trans (State.skipOne_mem _ _ _)
    · rfl

@[simp] theorem execPskip_wf {s : State} (rd rs1 rs2) (h : s.mem.wf = true) : nextWf (execPskip rd rs1 rs2 s) := by
  unfold execPskip
  grind [issue_wf, State.finish_mem, State.modThread_mem, State.trapc_wf, freeOfBody_wf, State.skipElements_mem,
    State.skipLink_mem, State.modPort_mem, State.park_mem]

@[simp] theorem execIsect_wf {s : State} (rd rs1) (h : s.mem.wf = true) : nextWf (execIsect rd rs1 s) := by
  refine issue_wf _ _ _ h fun u c hu => wf_if (by simp [hu]) (wf_if (by simp [hu]) ?_)
  dsimp only
  split
  · simp [hu]
  · split
    · split
      · simp [hu]
      · simp [hu]
      · refine wf_if (by simp [hu]) ?_
        split
        · simp [hu]
        · refine wf_if (by simp [hu]) ?_
          rw [State.finish_mem]
          refine wf_if (by simp [hu]) (by simp [hu])
    · simp [hu]

@[simp] theorem State.discardHeld_mem (s : State) (slot) : (s.discardHeld slot).mem = s.mem := by
  simp [State.discardHeld]

end Sys2Proof.Machine
end

section
/-! PROOFS. O59: the functions of Sys2Proof/Machine/Launch.lean. -/

namespace Sys2Proof.Machine

@[simp] theorem State.hostEntry_wf {s : State} (q status code idx ident used) (h : s.mem.wf = true) :
    (s.hostEntry q status code idx ident used).mem.wf = true := by
  simp [State.hostEntry, h]
@[simp] theorem State.replySpawn_mem (s : State) (slot v) : (s.replySpawn slot v).mem = s.mem := by
  simp [State.replySpawn]

@[simp] theorem State.acceptRecord_wf {s : State} (r) (h : s.mem.wf = true) : (s.acceptRecord r).mem.wf = true := by
  unfold State.acceptRecord
  repeat' split
  all_goals simp [h]

@[simp] theorem State.spawnEnds_mem (s : State) (ident) : (s.spawnEnds ident).mem = s.mem := rfl
@[simp] theorem State.dropLaunch_mem (s : State) (l) : (s.dropLaunch l).mem = s.mem := rfl

@[simp] theorem State.refuseLaunch_wf {s : State} (l code cause addr) (h : s.mem.wf = true) :
    (s.refuseLaunch l code cause addr).mem.wf = true := by
  unfold State.refuseLaunch
  repeat' split
  all_goals simp [h]

@[simp] theorem State.readDep_wf {s : State} (lid i) (h : s.mem.wf = true) : (s.readDep lid i).mem.wf = true := by
  unfold State.readDep
  grind [State.settleWalk_wf, State.refuseLaunch_wf, State.readWord_wf, State.modLaunch_mem, State.askOutside_mem]

@[simp] theorem execLaunchEligible_wf {s : State} (lid)
    (h : s.mem.wf = true) : nextWf (execLaunchEligible lid s) := by
  unfold execLaunchEligible
  grind [event_wf, State.readDep_wf, State.refuseLaunch_wf, State.modLaunch_mem]

@[simp] theorem execDependenceReread_wf {s : State} (lid) (h : s.mem.wf = true) :
    nextWf (execDependenceReread lid s) := by
  unfold execDependenceReread
  grind [event_wf, State.readDep_wf]

@[simp] theorem execLaunchAccept_wf {s : State} (die) (h : s.mem.wf = true) : nextWf (execLaunchAccept die s) := by
  unfold execLaunchAccept
  grind [event_wf, State.acceptRecord_wf, State.modDie_mem]
theorem State.takeBlocks_mem {s : State} (tn bytes) {p} (e : s.takeBlocks tn bytes = some p) : p.2.mem = s.mem := by
  obtain ⟨b, -, rfl⟩ := Option.map_eq_some_iff.1 e
  rfl
@[simp] theorem State.freeBlock_mem (s : State) (tn b) : (s.freeBlock tn b).mem = s.mem := rfl

@[simp] theorem State.imageWords_wf {s : State} (tn b bytes) (h : s.mem.wf = true) :
    (s.imageWords tn b bytes).mem.wf = true := by
  unfold State.imageWords
  grind [State.deviceStep_wf, State.writeWord_wf, foldl_wf, foldl_mem]

@[simp] theorem State.renameSlot_mem (s : State) (a b) : (s.renameSlot a b).mem = s.mem := rfl
@[simp] theorem State.resumePend_wf {s : State} (slot) (h : s.mem.wf = true) : (s.resumePend slot).mem.wf = true := by
  unfold State.resumePend; split <;> simp [h]

@[simp] theorem State.resumeThread_wf {s : State} (slot) (h : s.mem.wf = true) :
    (s.resumeThread slot).mem.wf = true := by
  unfold State.resumeThread
  grind [State.modThread_mem, State.leaveBarriers_mem, State.deliver_wf, State.resumePend_wf]

@[simp] theorem State.readmit_wf {s : State} (tn x slot base) (h : s.mem.wf = true) :
    (s.readmit tn x slot base).mem.wf = true := by
  unfold State.readmit
  grind [State.renameSlot_mem, State.freeBlock_mem, State.setThread_mem, State.modThread_mem, State.answer_mem,
    State.resumeThread_wf]

@[simp] theorem State.queueTask_wf {s : State} (core t)
    (h : s.mem.wf = true) : (s.queueTask core t).mem.wf = true := by
  unfold State.queueTask
  refine wf_if h ?_
  split
  · exact h
  · next b s2 e =>
    have h2 : s2.mem.wf = true := by rw [State.takeBlocks_mem _ _ e]; exact h
    simp [h2]

theorem rising_foldl_nsIns (f : Nat → Nat) (ks l : List Nat) (h : rising l = true) :
    rising (ks.foldl (fun l k => nsIns l (f k)) l) = true :=
  List.foldlRecOn (motive := fun l => rising l = true) ks _ h fun _ hl _ _ => rising_nsIns _ hl
theorem cellsWf_foldl_setCell (f : Nat → Nat) (bs c : List Host.Cell) (h : cellsWf c) :
    cellsWf (bs.foldl (fun c b => setCell c (f b.1) b.2) c) :=
  List.foldlRecOn (motive := cellsWf) bs _ h fun _ hc _ _ => cellsWf_setCell _ _ hc

/-- Bytes and marks of a saved store put back one by one (R391). -/
theorem Memory.wf_putBack {m : Memory} (f g : Nat → Nat) (bs : List Host.Cell) (es ps us : List Nat)
    (h : m.wf = true) :
    ({ m with
        cells := bs.foldl (fun c b => setCell c (f b.1) b.2) m.cells
        empties := es.foldl (fun l k => nsIns l (g k)) m.empties
        poisons := ps.foldl (fun l k => nsIns l (g k)) m.poisons
        upsets := us.foldl (fun l k => nsIns l (g k)) m.upsets } : Memory).wf = true := by
  obtain ⟨hc, he, hp, hu⟩ := (Memory.wf_iff m).1 h
  exact (Memory.wf_iff _).2 ⟨cellsWf_foldl_setCell f bs _ hc, rising_foldl_nsIns g es _ he,
      rising_foldl_nsIns g ps _ hp,
    rising_foldl_nsIns g us _ hu⟩

@[simp] theorem State.restoreCore_wf {s : State} (tn core x) (h : s.mem.wf = true) :
    (s.restoreCore tn core x).mem.wf = true := by
  have hq : ∀ u : State, u.mem.wf = true → (x.readyQ.foldl (fun s t => s.queueTask core t) u).mem.wf = true :=
    fun u hu => foldl_wf _ hu fun v t hv => State.queueTask_wf _ _ hv
  unfold State.restoreCore
  dsimp only
  split
  · exact Memory.wf_putBack _ _ _ _ _ _ (Memory.wf_clear _ _ (hq _ h))
  · exact hq _ h

@[simp] theorem State.holdEnd_mem (s : State) (rope core out dir) : (s.holdEnd rope core out dir).mem = s.mem := rfl
@[simp] theorem State.holdAgain_mem (s : State) (rope r) : (s.holdAgain rope r).mem = s.mem := by
  unfold State.holdAgain
  grind [State.holdEnd_mem, foldl_wf, foldl_mem]
@[simp] theorem State.claimEnd_mem (s : State) (rope slot out dir) : (s.claimEnd rope slot out dir).mem = s.mem := by
  simp [State.claimEnd]
@[simp] theorem State.claimEnds_mem (s : State) (rope members) : (s.claimEnds rope members).mem = s.mem := by
  simp [State.claimEnds]
@[simp] theorem State.spreDone_mem (s : State) (core no code) : (s.spreDone core no code).mem = s.mem := rfl

@[simp] theorem State.placeLaunch_wf {s : State} (l fit) (h : s.mem.wf = true) :
    (s.placeLaunch l fit).mem.wf = true := by
  unfold State.placeLaunch
  grind [State.modCore_mem, State.restoreCore_wf, State.modLaunch_mem, State.spreDone_mem, State.readmit_wf,
    State.holdAgain_mem, foldl_wf, foldl_mem]

theorem State.deviceWrite_wf {s : State} (tn va ws) (h : s.mem.wf = true) {u} (e : s.deviceWrite tn va ws = .ok u) :
    u.mem.wf = true := by
  unfold State.deviceWrite at e
  grind [State.settleWalk_wf, State.writeWord_wf, foldl_wf, foldl_mem]

theorem State.copyRecord_wf {s : State} (l) (h : s.mem.wf = true) {u} (e : s.copyRecord l = some (.ok u)) :
    u.mem.wf = true := by
  unfold State.copyRecord at e
  dsimp only at e
  split at e
  · cases e
  · next eb =>
    split at e
    · cases e
    · next ew =>
      cases e
      rw [State.modLaunch_mem]
      exact State.deviceWrite_wf _ _ _ (by rw [State.takeBlocks_mem _ _ eb]; exact h) ew

@[simp] theorem State.placeFirst_wf {s : State} (claimed ls) (h : s.mem.wf = true) :
    (s.placeFirst claimed ls).mem.wf = true := by
  induction ls generalizing s claimed with
  | nil => exact h
  | cons l rest ih =>
    unfold State.placeFirst
    refine wf_if (ih _ h) ?_
    split
    · exact ih _ h
    · refine wf_if (State.placeLaunch_wf _ _ h) ?_
      split
      · exact ih _ h
      · exact ih _ (State.refuseLaunch_wf _ _ _ _ h)
      · next e => exact State.placeLaunch_wf _ _ (State.copyRecord_wf _ h e)

@[simp] theorem execLaunchPlace_wf {s : State} (die) (h : s.mem.wf = true) : nextWf (execLaunchPlace die s) := by
  unfold execLaunchPlace
  grind [event_wf, State.placeFirst_wf, State.spawnEnds_mem, foldl_wf, foldl_mem]
@[simp] theorem State.formRope_mem (s : State) (launch members) : (s.formRope launch members).mem = s.mem := by
  simp [State.formRope]
@[simp] theorem State.startOne_mem (s : State) (l x) : (s.startOne l x).mem = s.mem := by simp [State.startOne]

@[simp] theorem State.startSlot_mem (s : State) (slot) : (s.startSlot slot).mem = s.mem := by
  unfold State.startSlot
  repeat' split
  all_goals simp

@[simp] theorem execThreadStart_wf {s : State} (slot) (h : s.mem.wf = true) : nextWf (execThreadStart slot s) := by
  simp [execThreadStart, h]
@[simp] theorem State.clipEnds_mem (s : State) (slot v) : (s.clipEnds slot v).mem = s.mem := by
  unfold State.clipEnds; split <;> simp
@[simp] theorem State.endRope_mem (s : State) (rope) : (s.endRope rope).mem = s.mem := by
  unfold State.endRope
  grind [State.landNow_mem, State.clipEnds_mem, foldl_wf, foldl_mem]
@[simp] theorem State.endGroups_mem (s : State) (lid) : (s.endGroups lid).mem = s.mem := by simp [State.endGroups]
@[simp] theorem State.freeCounters_mem (s : State) (lid) : (s.freeCounters lid).mem = s.mem := rfl
@[simp] theorem State.signal_wf {s : State} (l) (h : s.mem.wf = true) : (s.signal l).mem.wf = true := by
  unfold State.signal
  grind [State.post_wf, State.settleWalk_wf, State.readWord_wf, State.writeWord_wf, State.askOutside_mem]

@[simp] theorem execLaunchComplete_wf {s : State} (lid)
    (h : s.mem.wf = true) : nextWf (execLaunchComplete lid s) := by
  unfold execLaunchComplete
  grind [event_wf, State.signal_wf, State.endGroups_mem, State.freeCounters_mem, State.hostEntry_wf,
    State.dropLaunch_mem, State.freeBlock_mem]

end Sys2Proof.Machine
end

section
/-! PROOFS. O59: the functions of Sys2Proof/Machine/Cairn.lean. -/

namespace Sys2Proof.Machine

@[simp] theorem execCairnOpen_wf {s : State} (rd rs1) (h : s.mem.wf = true) : nextWf (execCairnOpen rd rs1 s) := by
  refine issue_wf _ _ _ h fun u c hu => wf_if (by simp [hu]) (wf_if (by simp [hu]) ?_)
  refine loadAll_wf _ _ _ _ _ hu (fun _ _ _ hv => hv) fun v ws hv => ?_
  exact wf_if (by simp [hv]) (wf_if (by simp [hv]) (State.release_wf _ _ hv fun w hw => by simp [hw]))

@[simp] theorem execCairnClose_wf {s : State} (rd rs1) (h : s.mem.wf = true) : nextWf (execCairnClose rd rs1 s) := by
  unfold execCairnClose
  grind [issue_wf, State.finish_mem, State.modTenant_mem, State.park_mem]

@[simp] theorem execCairnBackgroundCapture_wf {s : State} (t granule) (h : s.mem.wf = true) :
    nextWf (execCairnBackgroundCapture t granule s) := by
  unfold execCairnBackgroundCapture
  grind [event_wf, State.capture_wf, State.beforeWrite_wf]

end Sys2Proof.Machine
end

section
/-! PROOFS. O59: the functions of Sys2Proof/Machine/Csr.lean. -/

namespace Sys2Proof.Machine

@[simp] theorem State.sxWrite_mem (s : State) (core v) : (s.sxWrite core v).mem = s.mem := by
  unfold State.sxWrite
  split
  · rfl
  · next a _ =>
    have hput : ∀ f : Thread → Thread, (match a.saved with
        | some t => s.modCore core fun c => { c with act := some { a with saved := some (f t), sxsel :=
            a.sxsel &&& 0x7FFF#64 } }
        | none => (match a.target with | some x => s.modThread x f | none => s).modCore core fun c =>
            { c with act := some { a with sxsel := a.sxsel &&& 0x7FFF#64 } }).mem = s.mem := by
      intro f
      split
      · rfl
      · rw [State.modCore_mem]; split <;> simp
    dsimp only
    split
    · rfl
    · split
      · split
        · exact hput _
        · rfl
      · split
        · exact hput _
        · rfl

theorem State.supCsr_mem {s : State} (core tn a) {p} (e : s.supCsr core tn a = some p) : p.1.mem = s.mem := by
  unfold State.supCsr at e
  grind [State.modCore_mem]
@[simp] theorem State.stlbDrop_mem (s : State) (tn v) : (s.stlbDrop tn v).mem = s.mem := rfl
@[simp] theorem State.setGqWord_mem (s : State) (tn q v) : (s.setGqWord tn q v).mem = s.mem := rfl
@[simp] theorem State.setSupCsr_mem (s : State) (core tn a v) : (s.setSupCsr core tn a v).mem = s.mem := by
  unfold State.setSupCsr; split <;> simp
theorem State.csrRead_mem {s : State} (c a) {p} (e : s.csrRead c a = some p) : p.1.mem = s.mem := by
  unfold State.csrRead at e
  grind [State.supCsr_mem]
@[simp] theorem State.csrWrite_mem (s : State) (c a v) : (s.csrWrite c a v).mem = s.mem := by
  unfold State.csrWrite; split <;> simp

@[simp] theorem csrOp_wf {s : State} (a rd src reads f)
    (h : s.mem.wf = true) : nextWf (csrOp s a rd src reads f) := by
  refine issue_wf _ _ _ h fun u c hu => ?_
  split
  · simp [hu]
  · split
    · simp [hu]
    · next sr old e =>
      have hsr : sr.mem.wf = true := by have := State.csrRead_mem _ _ e; simp_all
      have h1 : (if (reads && s.latch.rd rd == 0) = true then u else sr).mem.wf = true := wf_if hu hsr
      dsimp only
      split
      · rw [State.finish_mem]; exact h1
      · refine wf_if (State.release_wf _ _ h1 fun v hv => ?_) ?_
        · refine wf_if ?_ ?_ <;> simp [hv]
        · rw [State.finish_mem, State.csrWrite_mem]; exact h1

@[simp] theorem execCsrrw_wf {s : State} (csr rd rs1) (h : s.mem.wf = true) : nextWf (execCsrrw csr rd rs1 s) := by
  simp [execCsrrw, h]
@[simp] theorem execCsrrs_wf {s : State} (csr rd rs1) (h : s.mem.wf = true) : nextWf (execCsrrs csr rd rs1 s) := by
  simp [execCsrrs, h]
@[simp] theorem execCsrrc_wf {s : State} (csr rd rs1) (h : s.mem.wf = true) : nextWf (execCsrrc csr rd rs1 s) := by
  simp [execCsrrc, h]
@[simp] theorem execCsrrwi_wf {s : State} (csr rd uimm)
    (h : s.mem.wf = true) : nextWf (execCsrrwi csr rd uimm s) := by
  simp [execCsrrwi, h]
@[simp] theorem execCsrrsi_wf {s : State} (csr rd uimm)
    (h : s.mem.wf = true) : nextWf (execCsrrsi csr rd uimm s) := by
  simp [execCsrrsi, h]
@[simp] theorem execCsrrci_wf {s : State} (csr rd uimm)
    (h : s.mem.wf = true) : nextWf (execCsrrci csr rd uimm s) := by
  simp [execCsrrci, h]

end Sys2Proof.Machine
end

section
/-! PROOFS. O59: the functions of Sys2Proof/Machine/Threads.lean. -/

namespace Sys2Proof.Machine

@[simp] theorem execSpawn_wf {s : State} (rd rs1) (h : s.mem.wf = true) : nextWf (execSpawn rd rs1 s) := by
  unfold execSpawn
  grind [issue_wf, State.trapc_wf, loadSlow_wf, loadAll_wf, State.askFar_mem, State.modThread_mem, State.park_mem,
    State.release_wf, State.request_mem, State.reply_wf, State.acceptRecord_wf, State.modDie_mem]

@[simp] theorem execSpawnReply_wf {s : State} (slot) (h : s.mem.wf = true) : nextWf (execSpawnReply slot s) := by
  simp +contextual [execSpawnReply, h]
@[simp] theorem State.settleRope_mem (s : State) (rope) : (s.settleRope rope).mem = s.mem := by
  unfold State.settleRope; split <;> simp
@[simp] theorem State.leaveRope_mem (s : State) (slot) : (s.leaveRope slot).mem = s.mem := by
  unfold State.leaveRope; split <;> simp
@[simp] theorem State.returnCredits_mem (s : State) (t) : (s.returnCredits t).mem = s.mem := by
  unfold State.returnCredits
  grind [State.modTenant_mem, foldl_wf, foldl_mem]
@[simp] theorem State.abandonMutexes_mem (s : State) (slot) : (s.abandonMutexes slot).mem = s.mem := by
  simp [State.abandonMutexes]
@[simp] theorem State.endThread_wf {s : State} (slot) (h : s.mem.wf = true) : (s.endThread slot).mem.wf = true := by
  unfold State.endThread; split <;> simp [h]
@[simp] theorem execExit_wf {s : State} (h : s.mem.wf = true) : nextWf (execExit s) := by
  unfold execExit
  grind [issue_wf, State.trapc_wf, State.park_mem, State.release_wf, State.endThread_wf]
@[simp] theorem execYield_wf {s : State} (h : s.mem.wf = true) : nextWf (execYield s) := by simp [execYield, h]
@[simp] theorem State.absorb_mem (s : State) (slot) : (s.absorb slot).mem = s.mem := by
  unfold State.absorb
  grind [State.answer_mem, foldl_wf, foldl_mem]

@[simp] theorem State.replyArrives_wf {s0 : State} (slot answer) (h : s0.mem.wf = true) :
    (s0.replyArrives slot answer).mem.wf = true := by
  unfold State.replyArrives
  grind [State.absorb_mem, State.reply_wf, State.answer_mem, State.landNow_mem]

@[simp] theorem execMemoryReply_wf {s : State} (slot v)
    (h : s.mem.wf = true) : nextWf (execMemoryReply slot v s) := by
  simp +contextual [execMemoryReply, h]

end Sys2Proof.Machine
end

section
/-! PROOFS. O59: the functions of Sys2Proof/Machine/Ropes.lean. -/

namespace Sys2Proof.Machine

@[simp] theorem State.formed_mem (s : State) (slot v) : (s.formed slot v).mem = s.mem := by
  unfold State.formed; split <;> simp

@[simp] theorem State.tryForm_mem (s : State) (slot) : (s.tryForm slot).mem = s.mem := by
  unfold State.tryForm
  repeat' split
  all_goals simp

@[simp] theorem execRopeForm_wf {s : State} (rd rs1) (h : s.mem.wf = true) : nextWf (execRopeForm rd rs1 s) := by
  unfold execRopeForm
  grind [issue_wf, State.finish_mem, State.modThread_mem, State.request_mem, State.tryForm_mem]
@[simp] theorem execRopeEnd_wf {s : State} (h : s.mem.wf = true) : nextWf (execRopeEnd s) := by simp [execRopeEnd, h]
@[simp] theorem execUnclip_wf {s : State} (rd) (h : s.mem.wf = true) : nextWf (execUnclip rd s) := by
  simp [execUnclip, h]
@[simp] theorem execClip_wf {s : State} (rd rs1) (h : s.mem.wf = true) : nextWf (execClip rd rs1 s) := by
  unfold execClip
  grind [issue_wf, State.trapc_wf, State.finish_mem, State.modThread_mem, State.request_mem]
@[simp] theorem execThreadWake_wf {s : State} (slot) (h : s.mem.wf = true) : nextWf (execThreadWake slot s) := by
  unfold execThreadWake
  grind [event_wf, State.tryForm_mem, State.landNow_mem, State.modThread_mem]

end Sys2Proof.Machine
end

section
/-! PROOFS. O59: the functions of Sys2Proof/Machine/Operands.lean. -/

namespace Sys2Proof.Machine

@[simp] theorem spanForm_wf {s : State} (sh rounds single fill w d f) (h : s.mem.wf = true) :
    nextWf (spanForm s sh rounds single fill w d f) := by
  unfold spanForm
  grind [issue_wf, State.trapc_wf, State.finish_mem, State.modThread_mem]

end Sys2Proof.Machine
end

section
/-! PROOFS. O59: the functions of Sys2Proof/Machine/Span.lean. -/

namespace Sys2Proof.Machine

@[simp] theorem fpForm_wf {s : State} (span bc ty rd rs1 rs2 rounds readRd readRs2 f) (h : s.mem.wf = true) :
    nextWf (fpForm s span bc ty rd rs1 rs2 rounds readRd readRs2 f) := by
  simp [fpForm, h]
@[simp] theorem fpReduce_wf {s : State} (span bc ty rd rs1 rs2 rounds f) (h : s.mem.wf = true) :
    nextWf (fpReduce s span bc ty rd rs1 rs2 rounds f) := by
  simp [fpReduce, h]
@[simp] theorem intForm_wf {s : State} (span bc ty rd rs1 rs2 readRd f) (h : s.mem.wf = true) :
    nextWf (intForm s span bc ty rd rs1 rs2 readRd f) := by
  simp [intForm, h]
@[simp] theorem execFadd_wf {s : State} (span bc ty rd rs1 rs2) (h : s.mem.wf = true) :
    nextWf (execFadd span bc ty rd rs1 rs2 s) := by
  simp [execFadd, h]
@[simp] theorem execFsub_wf {s : State} (span bc ty rd rs1 rs2) (h : s.mem.wf = true) :
    nextWf (execFsub span bc ty rd rs1 rs2 s) := by
  simp [execFsub, h]
@[simp] theorem execFmul_wf {s : State} (span bc ty rd rs1 rs2) (h : s.mem.wf = true) :
    nextWf (execFmul span bc ty rd rs1 rs2 s) := by
  simp [execFmul, h]
@[simp] theorem execFmac_wf {s : State} (span bc ty rd rs1 rs2) (h : s.mem.wf = true) :
    nextWf (execFmac span bc ty rd rs1 rs2 s) := by
  simp [execFmac, h]
@[simp] theorem execFmsc_wf {s : State} (span bc ty rd rs1 rs2) (h : s.mem.wf = true) :
    nextWf (execFmsc span bc ty rd rs1 rs2 s) := by
  simp [execFmsc, h]
@[simp] theorem execFmin_wf {s : State} (span bc ty rd rs1 rs2) (h : s.mem.wf = true) :
    nextWf (execFmin span bc ty rd rs1 rs2 s) := by
  simp [execFmin, h]
@[simp] theorem execFmax_wf {s : State} (span bc ty rd rs1 rs2) (h : s.mem.wf = true) :
    nextWf (execFmax span bc ty rd rs1 rs2 s) := by
  simp [execFmax, h]
@[simp] theorem execFdiv_wf {s : State} (span bc ty rd rs1 rs2) (h : s.mem.wf = true) :
    nextWf (execFdiv span bc ty rd rs1 rs2 s) := by
  simp [execFdiv, h]
@[simp] theorem execFsqrt_wf {s : State} (span bc ty rd rs1 rs2) (h : s.mem.wf = true) :
    nextWf (execFsqrt span bc ty rd rs1 rs2 s) := by
  simp [execFsqrt, h]
@[simp] theorem execFrcpe_wf {s : State} (span bc ty rd rs1 rs2) (h : s.mem.wf = true) :
    nextWf (execFrcpe span bc ty rd rs1 rs2 s) := by
  simp [execFrcpe, h]
@[simp] theorem execFrsqe_wf {s : State} (span bc ty rd rs1 rs2) (h : s.mem.wf = true) :
    nextWf (execFrsqe span bc ty rd rs1 rs2 s) := by
  simp [execFrsqe, h]
@[simp] theorem execFsgnj_wf {s : State} (span bc ty rd rs1 rs2) (h : s.mem.wf = true) :
    nextWf (execFsgnj span bc ty rd rs1 rs2 s) := by
  simp [execFsgnj, h]
@[simp] theorem execFsgnjn_wf {s : State} (span bc ty rd rs1 rs2) (h : s.mem.wf = true) :
    nextWf (execFsgnjn span bc ty rd rs1 rs2 s) := by
  simp [execFsgnjn, h]
@[simp] theorem execFsgnjx_wf {s : State} (span bc ty rd rs1 rs2) (h : s.mem.wf = true) :
    nextWf (execFsgnjx span bc ty rd rs1 rs2 s) := by
  simp [execFsgnjx, h]
@[simp] theorem execFsum_wf {s : State} (span bc ty rd rs1 rs2) (h : s.mem.wf = true) :
    nextWf (execFsum span bc ty rd rs1 rs2 s) := by
  simp [execFsum, h]
@[simp] theorem execFmaxa_wf {s : State} (span bc ty rd rs1 rs2) (h : s.mem.wf = true) :
    nextWf (execFmaxa span bc ty rd rs1 rs2 s) := by
  simp [execFmaxa, h]
@[simp] theorem execSpanAdd_wf {s : State} (span bc ty rd rs1 rs2) (h : s.mem.wf = true) :
    nextWf (execSpanAdd span bc ty rd rs1 rs2 s) := by
  simp [execSpanAdd, h]
@[simp] theorem execSpanSub_wf {s : State} (span bc ty rd rs1 rs2) (h : s.mem.wf = true) :
    nextWf (execSpanSub span bc ty rd rs1 rs2 s) := by
  simp [execSpanSub, h]
@[simp] theorem execSpanMin_wf {s : State} (span bc ty rd rs1 rs2) (h : s.mem.wf = true) :
    nextWf (execSpanMin span bc ty rd rs1 rs2 s) := by
  simp [execSpanMin, h]
@[simp] theorem execSpanMax_wf {s : State} (span bc ty rd rs1 rs2) (h : s.mem.wf = true) :
    nextWf (execSpanMax span bc ty rd rs1 rs2 s) := by
  simp [execSpanMax, h]
@[simp] theorem execSpanMaxn_wf {s : State} (span bc ty rd rs1 rs2) (h : s.mem.wf = true) :
    nextWf (execSpanMaxn span bc ty rd rs1 rs2 s) := by
  simp [execSpanMaxn, h]
@[simp] theorem execSpanMul_wf {s : State} (span bc ty rd rs1 rs2) (h : s.mem.wf = true) :
    nextWf (execSpanMul span bc ty rd rs1 rs2 s) := by
  simp [execSpanMul, h]
@[simp] theorem execSpanMulh_wf {s : State} (span bc ty rd rs1 rs2) (h : s.mem.wf = true) :
    nextWf (execSpanMulh span bc ty rd rs1 rs2 s) := by
  simp [execSpanMulh, h]
@[simp] theorem execSpanAnd_wf {s : State} (span bc ty rd rs1 rs2) (h : s.mem.wf = true) :
    nextWf (execSpanAnd span bc ty rd rs1 rs2 s) := by
  simp [execSpanAnd, h]
@[simp] theorem execSpanOr_wf {s : State} (span bc ty rd rs1 rs2) (h : s.mem.wf = true) :
    nextWf (execSpanOr span bc ty rd rs1 rs2 s) := by
  simp [execSpanOr, h]
@[simp] theorem execSpanXor_wf {s : State} (span bc ty rd rs1 rs2) (h : s.mem.wf = true) :
    nextWf (execSpanXor span bc ty rd rs1 rs2 s) := by
  simp [execSpanXor, h]
@[simp] theorem execSpanSll_wf {s : State} (span bc ty rd rs1 rs2) (h : s.mem.wf = true) :
    nextWf (execSpanSll span bc ty rd rs1 rs2 s) := by
  simp [execSpanSll, h]
@[simp] theorem execSpanSrl_wf {s : State} (span bc ty rd rs1 rs2) (h : s.mem.wf = true) :
    nextWf (execSpanSrl span bc ty rd rs1 rs2 s) := by
  simp [execSpanSrl, h]
@[simp] theorem execSpanSra_wf {s : State} (span bc ty rd rs1 rs2) (h : s.mem.wf = true) :
    nextWf (execSpanSra span bc ty rd rs1 rs2 s) := by
  simp [execSpanSra, h]
@[simp] theorem execFsl_wf {s : State} (span bc ty rd rs1 rs2) (h : s.mem.wf = true) :
    nextWf (execFsl span bc ty rd rs1 rs2 s) := by
  simp [execFsl, h]
@[simp] theorem execFsr_wf {s : State} (span bc ty rd rs1 rs2) (h : s.mem.wf = true) :
    nextWf (execFsr span bc ty rd rs1 rs2 s) := by
  simp [execFsr, h]
@[simp] theorem execGmax_wf {s : State} (span bc ty rd rs1 rs2) (h : s.mem.wf = true) :
    nextWf (execGmax span bc ty rd rs1 rs2 s) := by
  simp [execGmax, h]

end Sys2Proof.Machine
end

section
/-! PROOFS. O59: the functions of Sys2Proof/Machine/Coll.lean. -/

namespace Sys2Proof.Machine

@[simp] theorem State.contribute_mem (s : State) (l slot i k g reg v) :
    (s.contribute l slot i k g reg v).mem = s.mem := by
  unfold State.contribute
  grind

@[simp] theorem execCollRed_wf {s : State} (rd rs1 rs2)
    (h : s.mem.wf = true) : nextWf (execCollRed rd rs1 rs2 s) := by
  unfold execCollRed
  grind [issue_wf, State.trapc_wf, State.park_mem, State.release_wf, State.modThread_mem, State.done_mem,
    State.contribute_mem]

@[simp] theorem State.deliverRound_mem (s : State) (l r v) : (s.deliverRound l r v).mem = s.mem := by
  simp [State.deliverRound]

@[simp] theorem execCollRoundComplete_wf {s : State} (round partners) (h : s.mem.wf = true) :
    nextWf (execCollRoundComplete round partners s) := by
  unfold execCollRoundComplete
  grind [event_wf, State.deliverRound_mem]

@[simp] theorem execCollRoundFail_wf {s : State} (round) (h : s.mem.wf = true) :
    nextWf (execCollRoundFail round s) := by
  unfold execCollRoundFail
  grind [event_wf, State.post_wf, State.deliverRound_mem]

@[simp] theorem State.failGroup_mem (s : State) (group) : (s.failGroup group).mem = s.mem := rfl
@[simp] theorem execPeerGroupLeave_wf {s : State} (group package) (h : s.mem.wf = true) :
    nextWf (execPeerGroupLeave group package s) :=
  event_wf _ h fun u hu => by rw [State.failGroup_mem]; exact hu

end Sys2Proof.Machine
end

section
/-! PROOFS. O59: the functions of Sys2Proof/Machine/Summit.lean. -/

namespace Sys2Proof.Machine

@[simp] theorem State.recHome_wf {s : State} (core tn master n level at') (h : s.mem.wf = true) :
    (s.recHome core tn master n level at').1.mem.wf = true := by
  unfold State.recHome
  grind [State.resolve_wf, State.origin_wf]

@[simp] theorem State.recPoison_wf {s : State} (key ix) (h : s.mem.wf = true) :
    (s.recPoison key ix).1.mem.wf = true := by
  simp +contextual [State.recPoison, h]
@[simp] theorem State.putHalf_wf {s : State} (key w i v) (h : s.mem.wf = true) :
    (s.putHalf key w i v).mem.wf = true := by
  simp [State.putHalf, h]
@[simp] theorem State.zeroWords_wf {s : State} (key ix) (h : s.mem.wf = true) :
    (s.zeroWords key ix).mem.wf = true := by
  simp +contextual [State.zeroWords, h]
@[simp] theorem State.recInvalidate_mem (s : State) (core tn n) : (s.recInvalidate core tn n).mem = s.mem := rfl
@[simp] theorem State.recFill_mem (s : State) (core e) : (s.recFill core e).mem = s.mem := rfl
@[simp] theorem State.applyUpdate_wf {s : State} (x) (h : s.mem.wf = true) : (s.applyUpdate x).1.mem.wf = true := by
  unfold State.applyUpdate
  grind [State.recPoison_wf, State.writeWord_wf, State.putHalf_wf, foldl_wf, foldl_mem]
@[simp] theorem State.modJob_mem (s : State) (r f) : (s.modJob r f).mem = s.mem := rfl
@[simp] theorem State.ackUpdate_mem (s : State) (x e) : (s.ackUpdate x e).mem = s.mem := by simp [State.ackUpdate]
@[simp] theorem State.sendAway_mem (s : State) (slot job t x) : (s.sendAway slot job t x).mem = s.mem := by
  simp [State.sendAway]
@[simp] theorem State.refAway_mem (s : State) (t) : (s.refAway t).1.mem = s.mem := by
  unfold State.refAway
  grind [State.askOutside_mem]
@[simp] theorem State.askRecord_mem (s : State) (c t form rd n args known) :
    (s.askRecord c t form rd n args known).mem = s.mem := by
  simp [State.askRecord]

@[simp] theorem afterUpdates_wf {s : State} (c go) (h : s.mem.wf = true)
    (hgo : ∀ u, u.mem.wf = true → (go u).mem.wf = true) :
    (afterUpdates s c go).mem.wf = true := by
  unfold afterUpdates
  grind [State.park_mem]

@[simp] theorem onRecord_wf {s : State} (c v level away go at') (h : s.mem.wf = true)
    (haway : ∀ u a1, u.mem.wf = true → (away u a1).mem.wf = true)
    (hgo : ∀ u a1 a2, u.mem.wf = true → (go u a1 a2).mem.wf = true) :
    (onRecord s c v level away go at').mem.wf = true := by
  unfold onRecord
  grind [State.miss_mem, State.trapc_wf, State.recHome_wf, afterUpdates_wf]

@[simp] theorem homeTurn_wf {s : State} (c key writes go) (h : s.mem.wf = true)
    (hgo : ∀ u, u.mem.wf = true → (go u).mem.wf = true) :
    (homeTurn s c key writes go).mem.wf = true := by
  unfold homeTurn
  grind [State.park_mem, State.closeEntries_mem]

@[simp] theorem homeForm_wf {s : State} (c v level reads needAlloc writes away go) (h : s.mem.wf = true)
    (haway : ∀ u a1, u.mem.wf = true → (away u a1).mem.wf = true)
    (hgo : ∀ u a1 a2, u.mem.wf = true → (go u a1 a2).mem.wf = true) :
    (homeForm s c v level reads needAlloc writes away go).mem.wf = true := by
  unfold homeForm
  grind [onRecord_wf, afterUpdates_wf, homeTurn_wf, State.recPoison_wf, State.trapc_wf]

@[simp] theorem execSalloc_wf {s : State} (rd rs1) (h : s.mem.wf = true) : nextWf (execSalloc rd rs1 s) := by
  unfold execSalloc
  grind [issue_wf, State.trapc_wf, State.finish_mem, State.askRecord_mem, State.recInvalidate_mem,
    State.modTenant_mem, onRecord_wf, afterUpdates_wf, homeTurn_wf, State.writeWord_wf, State.zeroWords_wf]

@[simp] theorem execSfree_wf {s : State} (rd rs1) (h : s.mem.wf = true) : nextWf (execSfree rd rs1 s) := by
  unfold execSfree
  grind [issue_wf, State.askRecord_mem, State.recInvalidate_mem, State.modTenant_mem, homeForm_wf, State.finish_mem,
    State.writeWord_wf]

@[simp] theorem execSset_wf {s : State} (rd rs1 rs2) (h : s.mem.wf = true) : nextWf (execSset rd rs1 rs2 s) := by
  unfold execSset
  grind [issue_wf, State.trapc_wf, State.askRecord_mem, State.recInvalidate_mem, onRecord_wf, homeForm_wf,
    State.writeWord_wf, State.zeroWords_wf, State.putHalf_wf, State.finish_mem]

@[simp] theorem execSupd_wf {s : State} (rs1 rs2 rt) (h : s.mem.wf = true) : nextWf (execSupd rs1 rs2 rt s) := by
  unfold execSupd
  refine issue_wf _ _ _ h fun u c hu => ?_
  extract_lets va cw ty cnt sat f n data away
  have hdata : ∀ v k, v.mem.wf = true → (∀ w ws, w.mem.wf = true → (k w ws).mem.wf = true)
      → (data v k).mem.wf = true :=
    fun v k hv hk => by
      unfold data; exact loadAll_wf _ _ _ _ _ hv (fun _ _ _ hw => hw) fun w ws hw => hk w _ hw
  clear_value data
  have haway : ∀ v t, v.mem.wf = true → (away v t).mem.wf = true := fun v t hv => by
    unfold away
    refine hdata v _ hv fun w vs hw => ?_
    have hr : (w.refAway t).1.mem.wf = true := by rw [State.refAway_mem]; exact hw
    split
    · next e => exact State.trapc_wf _ _ _ (wf_of_eq e hr)
    · next e => rw [State.done_mem, State.sendAway_mem]; exact wf_of_eq e hr
  split
  · exact State.trapc_wf _ _ _ hu
  split
  · exact State.trapc_wf _ _ _ hu
  split
  · exact State.trapc_wf _ _ _ hu
  refine onRecord_wf _ _ _ _ _ _ hu haway fun v hn k hv => wf_if (by rw [State.park_mem]; exact hv) ?_
  refine hdata v _ hv fun w vs hw => ?_
  extract_lets send
  have hsend : ∀ x r, x.mem.wf = true → (send x r).mem.wf = true := fun x r hx => by
    unfold send
    split
    · rw [State.modThread_mem, State.send_mem]; exact hx
    · rw [State.ackUpdate_mem]; exact State.applyUpdate_wf _ (by rw [State.modThread_mem]; exact hx)
  split
  · rw [State.done_mem]; exact hsend _ _ hw
  · refine homeTurn_wf _ _ _ _ hw fun x hx => ?_
    have hp := State.recPoison_wf k.1 ([0, 1] ++ (List.range 8).map (4 + ·)) hx
    split
    · next e => exact State.trapc_wf _ _ _ (wf_of_eq e hp)
    · next e =>
      rw [State.done_mem]
      exact hsend _ _ (by rw [State.recFill_mem]; exact wf_of_eq e hp)

@[simp] theorem execSroll_wf {s : State} (rd rs1 rs2) (h : s.mem.wf = true) : nextWf (execSroll rd rs1 rs2 s) := by
  unfold execSroll
  grind [issue_wf, State.askRecord_mem, State.recInvalidate_mem, homeForm_wf, State.recPoison_wf, State.trapc_wf,
    State.putHalf_wf, State.writeWord_wf, State.zeroWords_wf, State.finish_mem]

@[simp] theorem scaleAway_wf {s : State} (c form d tw mx t) (h : s.mem.wf = true) :
    (scaleAway c form d tw mx s t).mem.wf = true := by
  unfold scaleAway; split <;> simp [h]

@[simp] theorem scaleForm_wf {s : State} (rd rs1 rs2 cached form act) (h : s.mem.wf = true)
    (hact : ∀ u a1 a2 a3 a4 a5 a6, u.mem.wf = true → (act u a1 a2 a3 a4 a5 a6).mem.wf = true) :
    nextWf (scaleForm s rd rs1 rs2 cached form act) := by
  unfold scaleForm
  grind [issue_wf, onRecord_wf, scaleAway_wf, State.trapc_wf]

@[simp] theorem execSscale_wf {s : State} (rd rs1 rs2) (h : s.mem.wf = true) : nextWf (execSscale rd rs1 rs2 s) := by
  unfold execSscale
  grind [scaleForm_wf, State.finish_mem, homeForm_wf, scaleAway_wf, State.recFill_mem]

@[simp] theorem execSscaleH_wf {s : State} (rd rs1 rs2)
    (h : s.mem.wf = true) : nextWf (execSscaleH rd rs1 rs2 s) := by
  unfold execSscaleH
  grind [scaleForm_wf, homeForm_wf, scaleAway_wf, State.finish_mem, State.recFill_mem]

theorem State.trapc_or_finish_wf {s : State} (p : Prop) [Decidable p] (c cause v d w) (h : s.mem.wf = true) :
    (if p then s.trapc c cause v else s.finish c d w).mem.wf = true :=
  wf_if (State.trapc_wf _ _ _ h) (by rw [State.finish_mem]; exact h)

/-- Memory of canonical form as a definition of its own: two such claims are compared by their states, and the kernel
then evaluates no branch of them. -/
def State.MemWf (s : State) : Prop := s.mem.wf = true

theorem homeForm_memWf {s : State} (c v level reads needAlloc writes away go) (h : s.mem.wf = true)
    (haway : ∀ u t, u.mem.wf = true → (away u t).mem.wf = true) (hgo : ∀ u x k, u.mem.wf = true → (go u x k).MemWf) :
    (homeForm s c v level reads needAlloc writes away go).mem.wf = true :=
  homeForm_wf _ _ _ _ _ _ _ _ h haway hgo

theorem State.trapc_or_finish_memWf {s : State} (p : Prop) [Decidable p] (c cause v d w) (h : s.mem.wf = true) :
    (if p then s.trapc c cause v else s.finish c d w).MemWf :=
  State.trapc_or_finish_wf p c cause v d w h

@[simp] theorem execSscaleG_wf {s : State} (rd rs1 rs2)
    (h : s.mem.wf = true) : nextWf (execSscaleG rd rs1 rs2 s) := by
  unfold execSscaleG
  refine scaleForm_wf _ _ _ _ _ _ h fun u c _ _ tw mx d hu => ?_
  refine homeForm_memWf _ _ _ _ _ _ _ _ hu (fun v t hv => scaleAway_wf _ _ _ _ _ _ hv) fun v _ k hv => ?_
  exact State.trapc_or_finish_memWf _ _ _ _ _ _ hv

@[simp] theorem execSread_wf {s : State} (rd rs1 rs2) (h : s.mem.wf = true) : nextWf (execSread rd rs1 rs2 s) := by
  simp +contextual [execSread, h]
@[simp] theorem execSgen_wf {s : State} (rd rs1) (h : s.mem.wf = true) : nextWf (execSgen rd rs1 s) := by
  simp +contextual [execSgen, h]
@[simp] theorem execSflush_wf {s : State} (rd) (h : s.mem.wf = true) : nextWf (execSflush rd s) := by
  unfold execSflush
  grind [issue_wf, State.park_mem, State.trapc_wf, State.modThread_mem, State.finish_mem]

end Sys2Proof.Machine
end

section
/-! PROOFS. O59: the functions of Sys2Proof/Machine/HomeSteps.lean. -/

namespace Sys2Proof.Machine

@[simp] theorem State.dropStored_mem (s : State) (core ident ks) : (s.dropStored core ident ks).mem = s.mem := rfl
@[simp] theorem State.storeAway_mem (s : State) (core ident slot w) : (s.storeAway core ident slot w).mem = s.mem := by
  simp [State.storeAway]
@[simp] theorem State.endUpdate_mem (s : State) (f refused) : (s.endUpdate f refused).mem = s.mem := by
  unfold State.endUpdate; split <;> simp
@[simp] theorem State.endAway_mem (s : State) (f) : (s.endAway f).mem = s.mem := by
  unfold State.endAway
  grind [State.endUpdate_mem, State.modPort_mem, State.dropStored_mem]
@[simp] theorem State.ackAway_mem (s : State) (ident) : (s.ackAway ident).mem = s.mem := by
  unfold State.ackAway; split <;> simp

@[simp] theorem State.refuseAway_mem (s : State) (ident) : (s.refuseAway ident).mem = s.mem := by
  unfold State.refuseAway
  repeat' split
  all_goals simp

@[simp] theorem State.performWords_wf {s : State} (tenant core ident words classes) (h : s.mem.wf = true) :
    (s.performWords tenant core ident words classes).mem.wf = true := by
  simp +contextual [State.performWords, h]

@[simp] theorem State.performEntry_wf {s : State} (core place idx) (h : s.mem.wf = true) :
    (s.performEntry core place idx).mem.wf = true := by
  unfold State.performEntry
  grind [State.storeAway_mem, State.sendHome_mem, State.modCore_mem, State.performWords_wf, foldl_wf, foldl_mem]

@[simp] theorem State.replyTo_mem (s : State) (p r) : (s.replyTo p r).mem = s.mem := by simp [State.replyTo]

@[simp] theorem State.readAll_wf {s : State} (a) (h : s.mem.wf = true) : (s.readAll a).1.mem.wf = true := by
  induction a generalizing s with
  | nil => exact h
  | cons k ks ih =>
    have hr := State.readWord_wf k h
    unfold State.readAll
    split
    · next e => exact wf_of_eq e hr
    · next e =>
      have h1 := ih (wf_of_eq e hr)
      split
      next e1 => exact wf_of_eq e1 h1

@[simp] theorem State.performPacket_wf {s : State} (p) (h : s.mem.wf = true) : (s.performPacket p).mem.wf = true := by
  unfold State.performPacket
  grind [State.performWords_wf, State.dropPacket_mem, State.homeAct_wf, State.replyTo_mem, State.readAll_wf,
    State.arriveHeld_wf]

@[simp] theorem execHomeAccess_wf {s : State} (r) (h : s.mem.wf = true) : nextWf (execHomeAccess r s) := by
  unfold execHomeAccess
  grind [event_wf, State.performEntry_wf, State.performPacket_wf]
@[simp] theorem execHoldRetry_wf {s : State} (slot) (h : s.mem.wf = true) : nextWf (execHoldRetry slot s) := by
  unfold execHoldRetry
  grind [event_wf, State.enter_mem, State.arriveHeld_wf, State.answerHeld_mem]
@[simp] theorem execPatrolScrub_wf {s : State} (word) (h : s.mem.wf = true) : nextWf (execPatrolScrub word s) := by
  simp +contextual [execPatrolScrub, h]

@[simp] theorem execSummitUpdateApply_wf {s : State} (idx) (h : s.mem.wf = true) :
    nextWf (execSummitUpdateApply idx s) := by
  unfold execSummitUpdateApply
  grind [event_wf, State.applyUpdate_wf, State.replyTo_mem, State.ackUpdate_mem, State.dropPacket_mem]

@[simp] theorem execPageWalk_wf {s : State} (cluster t page) (h : s.mem.wf = true) :
    nextWf (execPageWalk cluster t page s) := by
  simp [execPageWalk, h]

@[simp] theorem State.answerWalk_wf {s : State} (w r) (h : s.mem.wf = true) : (s.answerWalk w r).mem.wf = true := by
  unfold State.answerWalk
  grind [State.modCluster_mem, State.modCore_mem, State.landNow_mem, State.trap_wf, State.settle_wf, foldl_wf,
    foldl_mem]

@[simp] theorem execWalkComplete_wf {s : State} (die idx) (h : s.mem.wf = true) :
    nextWf (execWalkComplete die idx s) := by
  unfold execWalkComplete
  refine event_wf _ h fun u hu => ?_
  dsimp only
  split
  · exact hu
  · refine wf_if (wf_if (by rw [State.modDie_mem]; exact hu) hu) (wf_if hu (State.answerWalk_wf _ _ ?_))
    rw [foldl_mem _ _ fun v k => State.unitAt_getD_mem v _ k, State.modDie_mem]
    exact hu

end Sys2Proof.Machine
end

section
/-! PROOFS. O59: the functions of Sys2Proof/Machine/Fabric.lean. -/

namespace Sys2Proof.Machine

@[simp] theorem State.joinRequest_mem (s : State) (p node fuel a) : (s.joinRequest p node fuel a).mem = s.mem := by
  induction fuel generalizing s node a with
  | zero => rfl
  | succ fuel ih =>
    unfold State.joinRequest
    dsimp only
    split
    · exact ih _ _ _
    · rfl

@[simp] theorem State.merge_mem (s : State) (e p) : (s.merge e p).mem = s.mem := by simp [State.merge]
@[simp] theorem State.openEntry_mem (s : State) (node p) : (s.openEntry node p).mem = s.mem := by
  simp [State.openEntry]
@[simp] theorem State.passReply_mem (s : State) (node p) : (s.passReply node p).mem = s.mem := by
  unfold State.passReply; split <;> simp
@[simp] theorem State.comeTo_mem (s : State) (p node a) : (s.comeTo p node a).mem = s.mem := by
  unfold State.comeTo; split <;> simp

@[simp] theorem execRouterForward_wf {s : State} (node port reply) (h : s.mem.wf = true) :
    nextWf (execRouterForward node port reply s) := by
  unfold execRouterForward
  grind [event_wf, State.merge_mem, State.passReply_mem, State.openEntry_mem, State.dropPacket_mem,
    State.ackUpdate_mem, State.comeTo_mem]

@[simp] theorem execCombineWindowClose_wf {s : State} (node reply idx) (h : s.mem.wf = true) :
    nextWf (execCombineWindowClose node reply idx s) := by
  unfold execCombineWindowClose
  grind [event_wf]

@[simp] theorem execAgeIncrement_wf {s : State} (pkt) (h : s.mem.wf = true) : nextWf (execAgeIncrement pkt s) := by
  simp [execAgeIncrement, h]

@[simp] theorem State.spillAll_mem (s : State) (node port a) : (s.spillAll node port a).mem = s.mem := by
  induction a generalizing s with
  | nil => rfl
  | cons p rest ih =>
    unfold State.spillAll
    split
    · exact State.check_mem _ _ _
    · exact ih _

@[simp] theorem execDepotSpill_wf {s : State} (node port) (h : s.mem.wf = true) :
    nextWf (execDepotSpill node port s) := by
  simp [execDepotSpill, h]

@[simp] theorem execDepotReinject_wf {s : State} (node port) (h : s.mem.wf = true) :
    nextWf (execDepotReinject node port s) := by
  unfold execDepotReinject
  grind [event_wf]

end Sys2Proof.Machine
end

section
/-! PROOFS. O59: the functions of Sys2Proof/Machine/Fence.lean. -/

namespace Sys2Proof.Machine

@[simp] theorem fenceBody_wf {s : State} (kind scope c) (h : s.mem.wf = true) :
    (fenceBody kind scope s c).mem.wf = true := by
  simp +contextual [fenceBody, h]
@[simp] theorem execFence_wf {s : State} (x pred succ) (h : s.mem.wf = true) : nextWf (execFence x pred succ s) := by
  simp +contextual [execFence, h]
@[simp] theorem execFenceI_wf {s : State} (h : s.mem.wf = true) : nextWf (execFenceI s) := by
  simp +contextual [execFenceI, h]
@[simp] theorem execFenceS_wf {s : State} (kind scope) (h : s.mem.wf = true) : nextWf (execFenceS kind scope s) :=
  issue_wf _ _ _ h fun _ _ hu => fenceBody_wf _ _ _ hu
@[simp] theorem execFenceS.fenceS_wf {s : State} (kind scope c) (h : s.mem.wf = true) :
    (execFenceS.fenceS kind scope s c).mem.wf = true := by
  simp [execFenceS.fenceS, h]
@[simp] theorem execFenceE_wf {s : State} (h : s.mem.wf = true) : nextWf (execFenceE s) := by simp [execFenceE, h]

end Sys2Proof.Machine
end

section
/-! PROOFS. O59: the functions of Sys2Proof/Machine/Gq.lean. -/

namespace Sys2Proof.Machine

@[simp] theorem State.modGq_mem (s : State) (tn q f) : (s.modGq tn q f).mem = s.mem := rfl

@[simp] theorem onQueue_wf {s : State} (c a go) (h : s.mem.wf = true)
    (hgo : ∀ u a1 a2, u.mem.wf = true → (go u a1 a2).mem.wf = true) :
    (onQueue s c a go).mem.wf = true := by
  unfold onQueue
  grind [State.trapc_wf]

@[simp] theorem execGqWin_wf {s : State} (rd rs1 rs2) (h : s.mem.wf = true) : nextWf (execGqWin rd rs1 rs2 s) := by
  simp +contextual [execGqWin, h]

@[simp] theorem execGqPush_wf {s : State} (rs1 rs2) (h : s.mem.wf = true) : nextWf (execGqPush rs1 rs2 s) := by
  unfold execGqPush
  grind [issue_wf, onQueue_wf, State.trapc_wf, issueT_wf, State.park_mem, State.modThread_mem, State.modGq_mem,
    State.done_mem, State.send_mem]

@[simp] theorem execGqPop_wf {s : State} (rd rs1) (h : s.mem.wf = true) : nextWf (execGqPop rd rs1 s) := by
  unfold execGqPop
  refine issue_wf _ _ _ h fun u c hu => onQueue_wf _ _ _ hu fun v q g hv => ?_
  dsimp only
  split
  · exact State.trapc_wf _ _ _ hv
  refine issueT_wf _ _ _ _ hv fun w c hw => wf_if ?_ (by rw [State.park_mem, State.modGq_mem]; exact hw)
  split
  · rw [State.finish_mem, State.modGq_mem]; exact hw
  split
  · rw [State.park_mem]; exact hw
  split
  · exact State.trapc_wf _ _ _ (foldl_wf _ hw fun _ _ hx => State.settle_wf _ hx)
  · rw [State.finish_mem, State.modGq_mem]
    exact foldl_wf _ hw fun _ _ hx => State.settle_wf _ hx

@[simp] theorem execGqCreditGrant_wf {s : State} (t q) (h : s.mem.wf = true) : nextWf (execGqCreditGrant t q s) := by
  unfold execGqCreditGrant
  grind [event_wf, State.modGq_mem, State.mapThreads_mem]

@[simp] theorem execGqEntryArrival_wf {s : State} (pkt)
    (h : s.mem.wf = true) : nextWf (execGqEntryArrival pkt s) := by
  unfold execGqEntryArrival
  refine event_wf _ h fun u hu => ?_
  split
  · exact hu
  split
  · refine wf_if hu ?_
    extract_lets g dropped s0 joins
    have h0 : s0.mem.wf = true := by simp [s0, dropped, hu]
    clear_value s0 joins
    split
    · exact h0
    · rw [State.modGq_mem]
      exact foldl_wf _ h0 fun x i hx => State.writeWord_wf _ _ _ _ hx
  · exact hu

end Sys2Proof.Machine
end

section
/-! PROOFS. O59: the functions of Sys2Proof/Machine/Jobs.lean. -/

namespace Sys2Proof.Machine

@[simp] theorem State.setJobState_mem (s : State) (r f) : (s.setJobState r f).mem = s.mem := State.modCore_mem _ _ _

@[simp] theorem State.descriptor_wf {s : State} (slot tenant d a) (h : s.mem.wf = true) :
    (s.descriptor slot tenant d a).1.mem.wf = true := by
  induction a with
  | zero => exact h
  | succ n ih =>
    unfold State.descriptor
    split
    · next e =>
      have h1 := wf_of_eq e ih
      have hr := State.resolve_wf (coreOf slot) tenant (masterOf tenant (coreOf slot)) (d.toNat + 8 * n) .load h1
      dsimp only
      split
      · next ad _ e2 =>
        have hf := State.findWord_wf (coreOf slot) slot (ad / 8) 0xFF#8 (wf_of_eq e2 hr)
        split
        · next e3 => exact wf_of_eq e3 hf
        · next e3 => exact wf_of_eq e3 hf
        · next e3 => exact wf_of_eq e3 hf
        · next e3 => exact wf_of_eq e3 hf
      · next e2 => exact wf_of_eq e2 hr
    · exact ih

@[simp] theorem State.enqueue_mem (s : State) (slot p matrix mk) : (s.enqueue slot p matrix mk).mem = s.mem := by
  simp [State.enqueue]
@[simp] theorem State.dropCandidate_mem (s : State) (slot matrix) : (s.dropCandidate slot matrix).mem = s.mem := rfl

@[simp] theorem State.acceptOne_wf {s : State} (oct matrix accept) (h : s.mem.wf = true)
    (haccept : ∀ u slot t p w, accept u slot t p = some w → u.mem.wf = true → w.mem.wf = true) :
    (s.acceptOne oct matrix accept).mem.wf = true := by
  unfold State.acceptOne
  split
  · exact h
  · next slot _ =>
    split
    · rw [State.dropCandidate_mem]; exact h
    · next t _ =>
      split
      · rw [State.dropCandidate_mem]; exact h
      · next p _ =>
        cases e : accept ((s.dropCandidate slot matrix).modThread slot fun t => { t with pend := none }) slot t p with
        | none => exact h
        | some w => exact haccept _ _ _ _ _ e (by rw [State.modThread_mem, State.dropCandidate_mem]; exact h)

@[simp] theorem State.present_wf {s : State} (c matrix rd op d got accept) (h : s.mem.wf = true)
    (haccept : ∀ u slot t p w, accept u slot t p = some w → u.mem.wf = true → w.mem.wf = true) :
    (s.present c matrix rd op d got accept).mem.wf = true := by
  unfold State.present
  extract_lets oct alone s1 s2
  have h2 : s2.mem.wf = true := by simp only [s2, s1, State.modOctet_mem, State.modThread_mem]; exact h
  exact wf_if (State.acceptOne_wf _ _ _ h2 haccept) h2

@[simp] theorem State.engineRead_wf {s : State} (j va) (h : s.mem.wf = true) :
    (s.engineRead j va).1.mem.wf = true := by
  have hr := State.resolve_wf j.core j.tenant j.master va .load h
  have hu : ∀ {u : State} k, u.mem.wf = true → (((u.unitAt j.core k).getD u).settle k).mem.wf = true := fun k hu =>
    State.settle_wf _ (by rw [State.unitAt_getD_mem]; exact hu)
  unfold State.engineRead
  split
  · next e => exact wf_of_eq e hr
  · next e => exact hu _ (wf_of_eq e hr)
  · next e => exact hu _ (wf_of_eq e hr)
  · next e => exact wf_of_eq e hr
  · next e =>
    have ho : ∀ t, (State.askOutside _ t).1.mem.wf = true := fun t =>
      (congrArg Memory.wf (State.askOutside_mem _ t _)).trans (wf_of_eq e hr)
    split
    · next e2 => exact wf_of_eq e2 (ho _)
    · next e2 =>
      have h2 := wf_of_eq e2 (ho _)
      split
      · exact h2
      · exact h2

@[simp] theorem State.captureAll_wf {s : State} (k) (h : s.mem.wf = true) : (s.captureAll k).mem.wf = true := by
  simp [State.captureAll, h]

@[simp] theorem State.engineWrite_wf {s : State} (j va v poison tag) (h : s.mem.wf = true) :
    (s.engineWrite j va v poison tag).1.mem.wf = true := by
  have hr := State.resolve_wf j.core j.tenant j.master va .store h
  have hu : ∀ {u : State} k, u.mem.wf = true →
      (if poison then (((u.unitAt j.core k).getD u).captureAll k).writePoison k v tag
        else ((u.unitAt j.core k).getD u).writeWord k 0xFF#8 v tag).mem.wf = true := fun {u} k hu => by
    have h0 : ((u.unitAt j.core k).getD u).mem.wf = true := by rw [State.unitAt_getD_mem]; exact hu
    exact wf_if (State.writePoison_wf _ _ _ (State.captureAll_wf _ h0)) (State.writeWord_wf _ _ _ _ h0)
  unfold State.engineWrite
  split
  · next e => exact wf_of_eq e hr
  · next e => exact hu _ (wf_of_eq e hr)
  · next e => exact hu _ (wf_of_eq e hr)
  · next e => exact wf_of_eq e hr
  · next e =>
    split
    · exact wf_of_eq e hr
    · rw [State.writeOutside_mem]; exact wf_of_eq e hr
  · next e => rw [State.writeOutside_mem]; exact wf_of_eq e hr

@[simp] theorem State.engineEmpty_wf {s : State} (j va) (h : s.mem.wf = true) :
    (s.engineEmpty j va).1.mem.wf = true := by
  have hr := State.resolve_wf j.core j.tenant j.master va .store h
  have hu : ∀ {u : State} k, u.mem.wf = true → (((u.unitAt j.core k).getD u).changeTag k false).mem.wf = true :=
    fun k hu => State.changeTag_wf _ _ (by rw [State.unitAt_getD_mem]; exact hu)
  unfold State.engineEmpty
  split
  · next e => exact wf_of_eq e hr
  · next e => exact hu _ (wf_of_eq e hr)
  · next e => exact hu _ (wf_of_eq e hr)
  · next e => exact wf_of_eq e hr
  · next e => exact wf_of_eq e hr
  · next e => rw [State.writeOutside_mem]; exact wf_of_eq e hr

@[simp] theorem State.startJob_mem (s : State) (r) : (s.startJob r).mem = s.mem := rfl
@[simp] theorem State.stopJob_mem (s : State) (r cause va) : (s.stopJob r cause va).mem = s.mem := rfl

@[simp] theorem State.sendUpdate_wf {s : State} (r handle sat vs) (h : s.mem.wf = true) :
    (s.sendUpdate r handle sat vs).mem.wf = true := by
  unfold State.sendUpdate
  split
  · exact h
  · next j _ =>
    have hh := State.recHome_wf j.core j.tenant j.master handle 3 (s := s)
    grind [State.recHome_wf, State.refAway_mem, State.modJob_mem, State.sendAway_mem, State.recPoison_wf,
        State.send_mem,
      State.applyUpdate_wf, State.ackUpdate_mem]

@[simp] theorem State.finalState_wf {s : State} (j st cause addr) (h : s.mem.wf = true) :
    (s.finalState j st cause addr).mem.wf = true := by
  simp [State.finalState, h]
@[simp] theorem pollForm_wf {s : State} (rd rs1 matrix waits) (h : s.mem.wf = true) :
    nextWf (pollForm s rd rs1 matrix waits) := by
  simp [pollForm, h]

end Sys2Proof.Machine
end

section
/-! PROOFS. O59: the functions of Sys2Proof/Machine/Haul.lean. -/

namespace Sys2Proof.Machine

theorem acceptHaul_wf {s : State} (slot t p) (h : s.mem.wf = true) {u} (e : acceptHaul s slot t p = some u) :
    u.mem.wf = true := by
  unfold acceptHaul at e
  grind [State.descriptor_wf, State.trap_wf, State.enqueue_mem]

@[simp] theorem haulForm_wf {s : State} (op rd rs1) (h : s.mem.wf = true) : nextWf (haulForm s op rd rs1) := by
  unfold haulForm
  grind [issueOnCompute_wf, State.trapc_wf, State.present_wf, acceptHaul_wf]
@[simp] theorem execHcopy_wf {s : State} (rd rs1) (h : s.mem.wf = true) : nextWf (execHcopy rd rs1 s) := by
  simp [execHcopy, h]
@[simp] theorem execHcopy2_wf {s : State} (rd rs1) (h : s.mem.wf = true) : nextWf (execHcopy2 rd rs1 s) := by
  simp [execHcopy2, h]
@[simp] theorem execHcopyn_wf {s : State} (rd rs1) (h : s.mem.wf = true) : nextWf (execHcopyn rd rs1 s) := by
  simp [execHcopyn, h]
@[simp] theorem execHgath_wf {s : State} (rd rs1) (h : s.mem.wf = true) : nextWf (execHgath rd rs1 s) := by
  simp [execHgath, h]
@[simp] theorem execHscat_wf {s : State} (rd rs1) (h : s.mem.wf = true) : nextWf (execHscat rd rs1 s) := by
  simp [execHscat, h]
@[simp] theorem execHpair_wf {s : State} (rd rs1) (h : s.mem.wf = true) : nextWf (execHpair rd rs1 s) := by
  simp [execHpair, h]
@[simp] theorem execHwait_wf {s : State} (rd rs1) (h : s.mem.wf = true) : nextWf (execHwait rd rs1 s) := by
  simp [execHwait, h]
@[simp] theorem execHpoll_wf {s : State} (rd rs1) (h : s.mem.wf = true) : nextWf (execHpoll rd rs1 s) := by
  simp [execHpoll, h]
@[simp] theorem execJobint_wf {s : State} (rd rs1) (h : s.mem.wf = true) : nextWf (execJobint rd rs1 s) := by
  simp [execJobint, h]
@[simp] theorem State.gather_wf {s : State} (r v last) (h : s.mem.wf = true) : (s.gather r v last).mem.wf = true := by
  unfold State.gather; split <;> simp [h]

@[simp] theorem State.readParts_wf {s : State} (j a) (h : s.mem.wf = true) : (s.readParts j a).1.mem.wf = true := by
  induction a generalizing s with
  | nil => exact h
  | cons va rest ih =>
    have hr := State.engineRead_wf j (va / 8 * 8) h
    unfold State.readParts
    split
    · next e => exact wf_of_eq e hr
    · next e =>
      have h1 := ih (wf_of_eq e hr)
      split
      · next e1 => exact wf_of_eq e1 h1
      · exact h1

@[simp] theorem State.landWord_wf {s : State} (j dst v poison) (h : s.mem.wf = true) :
    (s.landWord j dst v poison).1.mem.wf = true := by
  unfold State.landWord
  grind [State.engineWrite_wf, State.stopJob_mem, State.modJob_mem]

@[simp] theorem State.destWord_wf {s : State} (j dst v) (h : s.mem.wf = true) :
    (s.destWord j dst v).1.mem.wf = true := by
  unfold State.destWord; split <;> simp [h]

@[simp] theorem State.haulOne_wf {s : State} (r) (h : s.mem.wf = true) : (s.haulOne r).mem.wf = true := by
  unfold State.haulOne
  split
  · exact h
  next j _ =>
  split
  · exact h
  extract_lets next act
  have hn : ∀ {u}, u.mem.wf = true → (next u).mem.wf = true := fun hu => by
    unfold next; rw [State.modJob_mem]; exact hu
  clear_value next act
  split
  · exact h
  split
  · exact h
  split
  · next va _ =>
    have hr := State.engineRead_wf j (va / 8 * 8) h
    split
    · next e => rw [State.stopJob_mem]; exact wf_of_eq e hr
    · next e =>
      split
      · rw [State.stopJob_mem]; exact wf_of_eq e hr
      · exact hn (by rw [State.modJob_mem]; exact wf_of_eq e hr)
  · next va _ =>
    have hr := State.engineEmpty_wf j va h
    split
    · next e => rw [State.stopJob_mem]; exact wf_of_eq e hr
    · next e => exact hn (wf_of_eq e hr)
  · next dst src _ =>
    have hr := State.engineRead_wf j src h
    split
    · next e => rw [State.stopJob_mem]; exact wf_of_eq e hr
    · next e =>
      grind [State.landWord_wf, State.destWord_wf, State.gather_wf]
  · next dst es parts _ =>
    have hr := State.readParts_wf j parts h
    split
    · next e => rw [State.stopJob_mem]; exact wf_of_eq e hr
    · next e =>
      grind [State.landWord_wf, State.destWord_wf]

@[simp] theorem State.haulWords_wf {s : State} (r a) (h : s.mem.wf = true) : (s.haulWords r a).mem.wf = true := by
  induction a generalizing s with
  | zero => exact h
  | succ n ih => exact ih (State.haulOne_wf r h)

@[simp] theorem State.haulEnd_mem (s : State) (r) : (s.haulEnd r).mem = s.mem := by simp [State.haulEnd]

@[simp] theorem execHaulJobStart_wf {s : State} (oct words) (h : s.mem.wf = true) :
    nextWf (execHaulJobStart oct words s) := by
  unfold execHaulJobStart
  grind [event_wf, State.haulEnd_mem, State.haulWords_wf, State.startJob_mem]

@[simp] theorem execHaulJobFinal_wf {s : State} (oct) (h : s.mem.wf = true) : nextWf (execHaulJobFinal oct s) := by
  unfold execHaulJobFinal
  grind [event_wf, State.finalState_wf]

end Sys2Proof.Machine
end

section
/-! PROOFS. O59: the functions of Sys2Proof/Machine/Matrix.lean. -/

namespace Sys2Proof.Machine

@[simp] theorem State.enqueueMatrix_mem (s : State) (slot p mk) : (s.enqueueMatrix slot p mk).mem = s.mem := by
  simp [State.enqueueMatrix]

theorem acceptMatrix_wf {s : State} (slot t p) (h : s.mem.wf = true) {u} (e : acceptMatrix s slot t p = some u) :
    u.mem.wf = true := by
  unfold acceptMatrix at e
  grind [State.trap_wf, State.enqueueMatrix_mem]

@[simp] theorem ownDescriptor_wf {s : State} (c p z go) (h : s.mem.wf = true)
    (hgo : ∀ u a1, u.mem.wf = true → (go u a1).mem.wf = true) : (ownDescriptor s c p z go).mem.wf = true := by
  unfold ownDescriptor
  split
  · exact State.trapc_wf _ _ _ h
  split
  · exact State.trapc_wf _ _ _ h
  exact loadAll_wf _ _ _ _ _ h (fun _ _ _ hu => hu) hgo

@[simp] theorem mmForm_wf {s : State} (pair s3 rd rs1 rs2) (h : s.mem.wf = true) :
    nextWf (mmForm s pair s3 rd rs1 rs2) := by
  unfold mmForm
  grind [issueOnCompute_wf, State.trapc_wf, ownDescriptor_wf, State.present_wf, acceptMatrix_wf]

@[simp] theorem execMmBf16_wf {s : State} (s3 rd rs1 rs2) (h : s.mem.wf = true) :
    nextWf (execMmBf16 s3 rd rs1 rs2 s) := by
  simp [execMmBf16, h]
@[simp] theorem execMmF16_wf {s : State} (s3 rd rs1 rs2) (h : s.mem.wf = true) :
    nextWf (execMmF16 s3 rd rs1 rs2 s) := by
  simp [execMmF16, h]
@[simp] theorem execMmE4m3_wf {s : State} (s3 rd rs1 rs2) (h : s.mem.wf = true) :
    nextWf (execMmE4m3 s3 rd rs1 rs2 s) := by
  simp [execMmE4m3, h]
@[simp] theorem execMmE5m2_wf {s : State} (s3 rd rs1 rs2) (h : s.mem.wf = true) :
    nextWf (execMmE5m2 s3 rd rs1 rs2 s) := by
  simp [execMmE5m2, h]
@[simp] theorem execMmE4m3E5m2_wf {s : State} (s3 rd rs1 rs2) (h : s.mem.wf = true) :
    nextWf (execMmE4m3E5m2 s3 rd rs1 rs2 s) := by
  simp [execMmE4m3E5m2, h]
@[simp] theorem execMmE5m2E4m3_wf {s : State} (s3 rd rs1 rs2) (h : s.mem.wf = true) :
    nextWf (execMmE5m2E4m3 s3 rd rs1 rs2 s) := by
  simp [execMmE5m2E4m3, h]
@[simp] theorem execMmC8_wf {s : State} (s3 rd rs1 rs2)
    (h : s.mem.wf = true) : nextWf (execMmC8 s3 rd rs1 rs2 s) := by
  simp [execMmC8, h]
@[simp] theorem execMmBf16C8_wf {s : State} (s3 rd rs1 rs2) (h : s.mem.wf = true) :
    nextWf (execMmBf16C8 s3 rd rs1 rs2 s) := by
  simp [execMmBf16C8, h]
@[simp] theorem execMmE2m1_wf {s : State} (s3 rd rs1 rs2) (h : s.mem.wf = true) :
    nextWf (execMmE2m1 s3 rd rs1 rs2 s) := by
  simp [execMmE2m1, h]
@[simp] theorem execMmI8_wf {s : State} (s3 rd rs1 rs2)
    (h : s.mem.wf = true) : nextWf (execMmI8 s3 rd rs1 rs2 s) := by
  simp [execMmI8, h]
@[simp] theorem execMmF32x_wf {s : State} (s3 rd rs1 rs2) (h : s.mem.wf = true) :
    nextWf (execMmF32x s3 rd rs1 rs2 s) := by
  simp [execMmF32x, h]
@[simp] theorem badPair_wf {s : State} (s3 rd rs1 rs2) (h : s.mem.wf = true) : nextWf (badPair s3 rd rs1 rs2 s) := by
  simp [badPair, h]
@[simp] theorem execMbload_wf {s : State} (rd rs1) (h : s.mem.wf = true) : nextWf (execMbload rd rs1 s) := by
  unfold execMbload
  grind [issueOnCompute_wf, ownDescriptor_wf, State.trapc_wf, State.present_wf, acceptMatrix_wf]
@[simp] theorem execMst_wf {s : State} (rd rs1) (h : s.mem.wf = true) : nextWf (execMst rd rs1 s) := by
  unfold execMst
  grind [issueOnCompute_wf, ownDescriptor_wf, State.trapc_wf, State.present_wf, acceptMatrix_wf]
@[simp] theorem execMclr_wf {s : State} (rd rs1) (h : s.mem.wf = true) : nextWf (execMclr rd rs1 s) := by
  unfold execMclr
  grind [issueOnCompute_wf, State.present_wf, acceptMatrix_wf]
@[simp] theorem execMwait_wf {s : State} (rd rs1) (h : s.mem.wf = true) : nextWf (execMwait rd rs1 s) := by
  simp [execMwait, h]
@[simp] theorem execMpoll_wf {s : State} (rd rs1) (h : s.mem.wf = true) : nextWf (execMpoll rd rs1 s) := by
  simp [execMpoll, h]
@[simp] theorem execMrestart_wf {s : State} (rd rs1) (h : s.mem.wf = true) : nextWf (execMrestart rd rs1 s) := by
  simp +contextual [execMrestart, h]

@[simp] theorem execJobAccept_wf {s : State} (oct matrix) (h : s.mem.wf = true) :
    nextWf (execJobAccept oct matrix s) := by
  unfold execJobAccept
  grind [event_wf, State.acceptOne_wf, acceptMatrix_wf, acceptHaul_wf]

end Sys2Proof.Machine
end

section
/-! PROOFS. O59: the functions of Sys2Proof/Machine/MatrixJobs.lean. -/

namespace Sys2Proof.Machine

@[simp] theorem State.jobDone_mem (s : State) (r) : (s.jobDone r).mem = s.mem := rfl
@[simp] theorem State.panelOne_wf {s : State} (r) (h : s.mem.wf = true) : (s.panelOne r).mem.wf = true := by
  unfold State.panelOne
  grind [State.engineRead_wf, State.modOctet_mem, State.stopJob_mem, State.modJob_mem, foldl_wf, foldl_mem]

@[simp] theorem State.panelWords_wf {s : State} (r a) (h : s.mem.wf = true) : (s.panelWords r a).mem.wf = true := by
  induction a generalizing s with
  | zero => exact h
  | succ n ih => exact ih (State.panelOne_wf r h)

@[simp] theorem execMbloadJob_wf {s : State} (oct words) (h : s.mem.wf = true) :
    nextWf (execMbloadJob oct words s) := by
  unfold execMbloadJob
  grind [event_wf, State.modOctet_mem, State.startJob_mem, State.panelWords_wf, State.jobDone_mem]

@[simp] theorem State.aOne_wf {s : State} (r) (h : s.mem.wf = true) : (s.aOne r).mem.wf = true := by
  unfold State.aOne; split <;> simp [h]

@[simp] theorem State.aReads_wf {s : State} (r a) (h : s.mem.wf = true) : (s.aReads r a).mem.wf = true := by
  induction a generalizing s with
  | zero => exact h
  | succ n ih => exact ih (State.aOne_wf r h)

@[simp] theorem State.findUpsets_mem (s : State) (j) : (s.findUpsets j).mem = s.mem := by simp [State.findUpsets]
@[simp] theorem State.runMultiply_mem (s : State) (j) : (s.runMultiply j).mem = s.mem := by
  unfold State.runMultiply
  grind [State.stopJob_mem, State.findUpsets_mem, State.modOctet_mem, State.jobDone_mem, State.modJob_mem]

@[simp] theorem execMultiplyJob_wf {s : State} (oct words) (h : s.mem.wf = true) :
    nextWf (execMultiplyJob oct words s) := by
  unfold execMultiplyJob
  grind [event_wf, State.startJob_mem, State.stopJob_mem, State.aReads_wf, State.modOctet_mem, State.runMultiply_mem]

@[simp] theorem State.storeOne_wf {s : State} (r) (h : s.mem.wf = true) : (s.storeOne r).mem.wf = true := by
  unfold State.storeOne
  grind [State.modJob_mem, State.engineEmpty_wf, State.stopJob_mem, State.engineWrite_wf, State.sendUpdate_wf,
    foldl_wf, foldl_mem]

@[simp] theorem State.storeWordsOf_wf {s : State} (r a)
    (h : s.mem.wf = true) : (s.storeWordsOf r a).mem.wf = true := by
  induction a generalizing s with
  | zero => exact h
  | succ n ih => exact ih (State.storeOne_wf r h)

@[simp] theorem execMstJob_wf {s : State} (oct words) (h : s.mem.wf = true) : nextWf (execMstJob oct words s) := by
  unfold execMstJob
  grind [event_wf, State.check_mem, State.modOctet_mem, State.storeWordsOf_wf, State.startJob_mem, State.jobDone_mem]
@[simp] theorem execMclrJob_wf {s : State} (oct) (h : s.mem.wf = true) : nextWf (execMclrJob oct s) := by
  unfold execMclrJob
  grind [event_wf, State.jobDone_mem, State.modOctet_mem, State.startJob_mem, foldl_wf, foldl_mem]

@[simp] theorem execMatrixJobFinal_wf {s : State} (oct)
    (h : s.mem.wf = true) : nextWf (execMatrixJobFinal oct s) := by
  unfold execMatrixJobFinal
  grind [event_wf, State.modOctet_mem, State.finalState_wf, State.changeTag_wf, foldl_wf, foldl_mem]

@[simp] theorem State.discardIn_wf {s : State} (oct launch) (h : s.mem.wf = true) :
    (s.discardIn oct launch).mem.wf = true := by
  simp +contextual [State.discardIn, h]
@[simp] theorem State.discardMatrix_wf {s : State} (launch) (h : s.mem.wf = true) :
    (s.discardMatrix launch).mem.wf = true := by
  simp +contextual [State.discardMatrix, h]
@[simp] theorem State.passMatrix_mem (s : State) (core) : (s.passMatrix core).mem = s.mem := rfl

end Sys2Proof.Machine
end

section
/-! PROOFS. O59: the functions of Sys2Proof/Machine/Msg.lean. -/

namespace Sys2Proof.Machine

@[simp] theorem State.rejoinLeader_mem (s : State) (slot) : (s.rejoinLeader slot).mem = s.mem := by
  unfold State.rejoinLeader; split <;> simp
@[simp] theorem execTrav_wf {s : State} (rd rs1) (h : s.mem.wf = true) : nextWf (execTrav rd rs1 s) := by
  unfold execTrav
  grind [issue_wf, State.trapc_wf, State.origin_wf, State.finish_mem, State.ship_wf]
@[simp] theorem State.sendMessage_mem (s : State) (c w m) : (s.sendMessage c w m).mem = s.mem := by
  simp [State.sendMessage]
@[simp] theorem execMsgReg_wf {s : State} (rs1 rs2) (h : s.mem.wf = true) : nextWf (execMsgReg rs1 rs2 s) := by
  simp [execMsgReg, h]
@[simp] theorem execMsgDec_wf {s : State} (rs1 rs2) (h : s.mem.wf = true) : nextWf (execMsgDec rs1 rs2 s) := by
  simp [execMsgDec, h]

@[simp] theorem State.fireCounter_wf {s : State} (core i) (h : s.mem.wf = true) :
    (s.fireCounter core i).mem.wf = true := by
  unfold State.fireCounter
  grind [State.modCore_mem, State.queueTask_wf]

@[simp] theorem execCtrSet_wf {s : State} (rd rs1 rs2) (h : s.mem.wf = true) : nextWf (execCtrSet rd rs1 rs2 s) := by
  unfold execCtrSet
  refine issue_wf _ _ _ h fun u c hu => ?_
  dsimp only
  split
  · exact State.trapc_wf _ _ _ hu
  split
  · exact State.trapc_wf _ _ _ hu
  refine loadAll_wf _ _ _ _ _ hu (fun _ _ _ hw => hw) fun v ws hv => ?_
  split
  · exact State.trapc_wf _ _ _ hv
  split
  · rw [State.finish_mem]; exact hv
  refine State.release_wf _ _ hv fun w hw => ?_
  rw [State.finish_mem]
  exact wf_if (State.fireCounter_wf _ _ (by rw [State.modCore_mem]; exact hw)) (by rw [State.modCore_mem]; exact hw)

@[simp] theorem execCtrRd_wf {s : State} (rd rs1) (h : s.mem.wf = true) : nextWf (execCtrRd rd rs1 s) := by
  simp [execCtrRd, h]
@[simp] theorem execHcall_wf {s : State} (rd rs1 rs2) (h : s.mem.wf = true) : nextWf (execHcall rd rs1 rs2 s) := by
  simp [execHcall, h]
@[simp] theorem State.endService_wf {s : State} (slot) (h : s.mem.wf = true) : (s.endService slot).mem.wf = true := by
  unfold State.endService; split <;> simp [h]
@[simp] theorem State.answerCall_mem (s : State) (core lv v) : (s.answerCall core lv v).mem = s.mem := by
  unfold State.answerCall; split <;> simp
@[simp] theorem execHret_wf {s : State} (rs1) (h : s.mem.wf = true) : nextWf (execHret rs1 s) := by
  unfold execHret
  grind [issue_wf, State.park_mem, State.answerCall_mem, State.endService_wf, State.trapc_wf]
@[simp] theorem execIxret_wf {s : State} (h : s.mem.wf = true) : nextWf (execIxret s) := by
  unfold execIxret
  grind [issue_wf, State.trapc_wf, State.modThread_mem, State.rejoinLeader_mem, State.retire_mem, foldl_wf, foldl_mem]
@[simp] theorem State.land_mem (s : State) (m) : (s.land m).mem = s.mem := by unfold State.land; split <;> simp
@[simp] theorem State.buffer_mem (s : State) (pkt core w) : (s.buffer pkt core w).mem = s.mem := by
  simp [State.buffer]
@[simp] theorem State.fillBuffer_mem (s : State) (core) : (s.fillBuffer core).mem = s.mem := by
  simp [State.fillBuffer]
@[simp] theorem State.arriveRegister_mem (s : State) (pkt w t slot reg) :
    (s.arriveRegister pkt w t slot reg).mem = s.mem := by
  simp [State.arriveRegister]

@[simp] theorem State.handlerEntry_wf {s : State} (tenant n) (h : s.mem.wf = true) :
    (s.handlerEntry tenant n).1.mem.wf = true := by
  unfold State.handlerEntry
  grind [State.readWord_wf]

@[simp] theorem State.refuseCall_wf {s : State} (core w code caller reg n) (h : s.mem.wf = true) :
    (s.refuseCall core w code caller reg n).mem.wf = true := by
  simp [State.refuseCall, h]

@[simp] theorem State.arriveCall_wf {s : State} (pkt core w n a0 a1 caller reg handler) (h : s.mem.wf = true) :
    (s.arriveCall pkt core w n a0 a1 caller reg handler).mem.wf = true := by
  unfold State.arriveCall
  grind [State.refuseCall_wf, State.dropPacket_mem, State.handlerEntry_wf, State.buffer_mem]

@[simp] theorem State.keepSaved_mem (s : State) (slot w) : (s.keepSaved slot w).mem = s.mem := rfl

@[simp] theorem execMessageArrival_wf {s : State} (pkt)
    (h : s.mem.wf = true) : nextWf (execMessageArrival pkt s) := by
  unfold execMessageArrival
  refine event_wf _ h fun u hu => ?_
  split
  · exact hu
  split
  · have hd : (u.dropPacket pkt).mem.wf = true := by rw [State.dropPacket_mem]; exact hu
    split
    · exact hu
    extract_lets w no
    have hno : ∀ code, (no code).mem.wf = true := fun code => State.refuseMessage_wf w code hd
    clear_value no
    split <;>
      grind [State.refuseMessage_wf, State.arriveRegister_mem, State.keepSaved_mem, State.buffer_mem,
        State.refuseCall_wf, State.arriveCall_wf]
  · exact hu

@[simp] theorem State.sendAgain_mem (s : State) (pkt) : (s.sendAgain pkt).mem = s.mem := rfl
@[simp] theorem execMessageRetry_wf {s : State} (pkt) (h : s.mem.wf = true) : nextWf (execMessageRetry pkt s) := by
  unfold execMessageRetry
  grind [event_wf, State.sendAgain_mem]

@[simp] theorem execRegisterDelivery_wf {s : State} (core idx) (h : s.mem.wf = true) :
    nextWf (execRegisterDelivery core idx s) := by
  unfold execRegisterDelivery
  grind [event_wf, State.fillBuffer_mem, State.land_mem, State.modCore_mem]

@[simp] theorem execCounterDecrement_wf {s : State} (core) (h : s.mem.wf = true) :
    nextWf (execCounterDecrement core s) := by
  unfold execCounterDecrement
  grind [event_wf, State.modCore_mem, State.refuseMessage_wf, State.fireCounter_wf]

@[simp] theorem State.startTask_mem (s : State) (core t) : (s.startTask core t).mem = s.mem := by
  unfold State.startTask; split <;> rfl
@[simp] theorem State.landContext_mem (s : State) (core n b t) : (s.landContext core n b t).mem = s.mem := rfl
@[simp] theorem execTaskStart_wf {s : State} (core) (h : s.mem.wf = true) : nextWf (execTaskStart core s) := by
  unfold execTaskStart
  grind [event_wf, State.landContext_mem, State.modCore_mem, State.startTask_mem]
@[simp] theorem execHandlerStart_wf {s : State} (core) (h : s.mem.wf = true) : nextWf (execHandlerStart core s) := by
  unfold execHandlerStart
  grind [event_wf, State.setThread_mem, State.modCore_mem, foldl_wf, foldl_mem]
@[simp] theorem State.dropContext_mem (s : State) (pkt) : (s.dropContext pkt).mem = s.mem := rfl

@[simp] theorem State.queueContext_wf {s : State} (pkt core t) (h : s.mem.wf = true) :
    (s.queueContext pkt core t).mem.wf = true := by
  unfold State.queueContext
  extract_lets c t1 dropped s1 engine
  have h1 : s1.mem.wf = true := h
  clear_value s1
  split
  · rw [State.modCore_mem]; exact h1
  split
  · next b s2 e =>
    have h2 : s2.mem.wf = true := by
      split at e
      · exact absurd e nofun
      · rw [State.takeBlocks_mem _ _ e]; exact h1
    rw [State.modCore_mem]; exact State.imageWords_wf _ _ _ h2
  · split
    · rw [State.modDie_mem]; exact h1
    · exact h

@[simp] theorem execTraverseLanding_wf {s : State} (pkt) (h : s.mem.wf = true) :
    nextWf (execTraverseLanding pkt s) := by
  unfold execTraverseLanding
  grind [event_wf, State.landContext_mem, State.dropContext_mem, State.queueContext_wf]

@[simp] theorem State.drainEngine_wf {s : State} (core)
    (h : s.mem.wf = true) : (s.drainEngine core).mem.wf = true := by
  unfold State.drainEngine
  split
  · exact h
  split
  · exact h
  next e =>
    rw [State.modCore_mem, State.modDie_mem]
    exact State.imageWords_wf _ _ _ (by rw [State.takeBlocks_mem _ _ e]; exact h)

@[simp] theorem State.drainCounters_wf {s : State} (core) (h : s.mem.wf = true) :
    (s.drainCounters core).mem.wf = true := by
  unfold State.drainCounters
  dsimp only
  split
  · split
    · exact State.queueTask_wf _ _ h
    · exact h
  · exact h

@[simp] theorem execBivouacRefill_wf {s : State} (core)
    (h : s.mem.wf = true) : nextWf (execBivouacRefill core s) := by
  unfold execBivouacRefill
  grind [event_wf, State.modCore_mem, State.freeBlock_mem, State.drainCounters_wf, State.drainEngine_wf]

@[simp] theorem execArrivalResend_wf {s : State} (pkt) (h : s.mem.wf = true) : nextWf (execArrivalResend pkt s) := by
  unfold execArrivalResend
  grind [event_wf, State.sendAgain_mem, foldl_wf, foldl_mem]

end Sys2Proof.Machine
end

section
/-! PROOFS. O59: the functions of Sys2Proof/Machine/System.lean. -/

namespace Sys2Proof.Machine

@[simp] theorem execXret_wf {s : State} (h : s.mem.wf = true) : nextWf (execXret s) := by
  simp +contextual [execXret, h]
@[simp] theorem execBeat_wf {s : State} (h : s.mem.wf = true) : nextWf (execBeat s) := by
  unfold execBeat
  grind [issue_wf, State.done_mem, State.modLaunch_mem]
@[simp] theorem State.resumeWait_wf {s : State} (slot there) (h : s.mem.wf = true) :
    (s.resumeWait slot there).mem.wf = true := by
  unfold State.resumeWait; split <;> simp [h]
@[simp] theorem State.resumeTarget_wf {s : State} (slot cause pc one) (h : s.mem.wf = true) :
    (s.resumeTarget slot cause pc one).mem.wf = true := by
  unfold State.resumeTarget; split <;> simp [h]
@[simp] theorem State.releaseHalt_wf {s : State} (slot) (h : s.mem.wf = true) :
    (s.releaseHalt slot).mem.wf = true := by
  unfold State.releaseHalt; split <;> simp [h]
@[simp] theorem State.stepRope_wf {s : State} (slot) (h : s.mem.wf = true) : (s.stepRope slot).mem.wf = true := by
  unfold State.stepRope
  grind [State.modThread_mem, State.releaseHalt_wf, foldl_wf, foldl_mem]
@[simp] theorem State.endActivation_wf {s : State} (core) (h : s.mem.wf = true) :
    (s.endActivation core).mem.wf = true := by
  simp [State.endActivation, h]

@[simp] theorem State.tretAct_wf {s : State} (core a act) (h : s.mem.wf = true) :
    (s.tretAct core a act).mem.wf = true := by
  unfold State.tretAct
  grind [State.endActivation_wf, State.setThread_mem, State.answerCall_mem, State.returnCredits_mem,
    State.abandonMutexes_mem, State.refuseMessage_wf, State.resumeTarget_wf, State.stepRope_wf, State.modThread_mem,
    State.detach_mem, State.endThread_wf, foldl_wf, foldl_mem]

@[simp] theorem execTret_wf {s : State} (rs1) (h : s.mem.wf = true) : nextWf (execTret rs1 s) := by
  unfold execTret
  grind [issue_wf, State.release_wf, State.park_mem, State.tretAct_wf, State.trapc_wf]

@[simp] theorem execActivationStart_wf {s : State} (core) (h : s.mem.wf = true) :
    nextWf (execActivationStart core s) := by
  unfold execActivationStart
  grind [event_wf, State.dropAsks_mem, State.setThread_mem, State.modCore_mem, State.modThread_mem, foldl_wf,
    foldl_mem]

@[simp] theorem execSxvalRead_wf {s : State} (core) (h : s.mem.wf = true) : nextWf (execSxvalRead core s) := by
  unfold execSxvalRead
  grind [event_wf, State.trap_wf, State.check_mem, State.modCore_mem]
@[simp] theorem execSxvalWrite_wf {s : State} (core v) (h : s.mem.wf = true) : nextWf (execSxvalWrite core v s) := by
  simp [execSxvalWrite, h]
@[simp] theorem execStlbinv_wf {s : State} (t v) (h : s.mem.wf = true) : nextWf (execStlbinv t v s) := by
  simp +contextual [execStlbinv, h]

@[simp] theorem execUserInterruptDelivery_wf {s : State} (slot) (h : s.mem.wf = true) :
    nextWf (execUserInterruptDelivery slot s) := by
  unfold execUserInterruptDelivery
  grind [event_wf, State.modThread_mem, State.abandon_mem, State.detach_mem]

@[simp] theorem State.stopThread_mem (s : State) (slot) : (s.stopThread slot).mem = s.mem := by
  unfold State.stopThread
  grind [State.modCore_mem, State.withdraw_mem, State.modRope_mem, State.modThread_mem]
@[simp] theorem State.spreTake_mem (s : State) (die) : (s.spreTake die).mem = s.mem := rfl

theorem State.takeMany_mem {s : State} (tn bytes a) {p} (e : s.takeMany tn bytes a = some p) : p.2.mem = s.mem := by
  induction a generalizing s p with
  | zero => cases e; rfl
  | succ n ih =>
    unfold State.takeMany at e
    split at e
    · exact absurd e nofun
    · next b s1 e1 =>
      obtain ⟨r, hr, rfl⟩ := Option.map_eq_some_iff.1 e
      exact (ih hr).trans (State.takeBlocks_mem _ _ e1)

theorem State.reserve_mem {s : State} (l act) {u} (e : s.reserve l act = some u) : u.mem = s.mem := by
  unfold State.reserve at e
  split at e
  · cases e; rfl
  dsimp only at e
  split at e
  · exact absurd e nofun
  split at e
  · exact absurd e nofun
  split at e
  · exact absurd e nofun
  next e1 _ _ _ e2 _ _ _ e3 =>
  cases e
  rw [State.modLaunch_mem]
  exact ((State.takeMany_mem _ _ _ e3).trans (State.takeMany_mem _ _ _ e2)).trans (State.takeMany_mem _ _ _ e1)

@[simp] theorem State.startSequence_wf {s : State} (l act core no) (h : s.mem.wf = true) :
    (s.startSequence l act core no).mem.wf = true := by
  simp [State.startSequence, h]
@[simp] theorem State.startAll_mem (s : State) (l) : (s.startAll l).mem = s.mem := by simp [State.startAll]

@[simp] theorem State.spreBegin_wf {s : State} (die act) (h : s.mem.wf = true) :
    (s.spreBegin die act).mem.wf = true := by
  unfold State.spreBegin
  grind [State.spreTake_mem, State.spreDone_mem, State.startAll_mem, State.reserve_mem, State.startSequence_wf]

@[simp] theorem State.parkAll_mem (s : State) (lid) : (s.parkAll lid).mem = s.mem := by simp [State.parkAll]
@[simp] theorem State.popRoom_mem (s : State) (lid) : (s.popRoom lid).2.mem = s.mem := by
  unfold State.popRoom; split <;> simp
@[simp] theorem State.spillThread_wf {s : State} (l slot) (h : s.mem.wf = true) :
    (s.spillThread l slot).mem.wf = true := by
  unfold State.spillThread; split <;> simp [h]
@[simp] theorem State.spillArrivals_wf {s : State} (l core) (h : s.mem.wf = true) :
    (s.spillArrivals l core).mem.wf = true := by
  simp +contextual [State.spillArrivals, h]
@[simp] theorem State.spillCore_wf {s : State} (l core store dirs) (h : s.mem.wf = true) :
    (s.spillCore l core store dirs).mem.wf = true := by
  unfold State.spillCore; split <;> simp [h]

@[simp] theorem State.spillLaunch_wf {s : State} (l act) (h : s.mem.wf = true) :
    (s.spillLaunch l act).mem.wf = true := by
  unfold State.spillLaunch
  grind [State.spillThread_wf, State.spillArrivals_wf, State.spillCore_wf, State.freeBlock_mem, State.modLaunch_mem,
    foldl_wf, foldl_mem]

@[simp] theorem State.fireWatchdog_wf {s : State} (lid) (h : s.mem.wf = true) :
    (s.fireWatchdog lid).mem.wf = true := by
  unfold State.fireWatchdog
  repeat' split
  all_goals simp [h]

@[simp] theorem State.spreFinish_wf {s : State} (die act) (h : s.mem.wf = true) :
    (s.spreFinish die act).mem.wf = true := by
  unfold State.spreFinish
  grind [State.parkAll_mem, State.modLaunch_mem, State.spillLaunch_wf, State.spreDone_mem, State.fireWatchdog_wf,
    foldl_wf, foldl_mem]

@[simp] theorem execSprePark_wf {s : State} (die) (h : s.mem.wf = true) : nextWf (execSprePark die s) := by
  unfold execSprePark
  grind [event_wf, State.spreDone_mem, State.spreTake_mem, State.spreFinish_wf, State.spreBegin_wf]
@[simp] theorem execSpreSpill_wf {s : State} (die) (h : s.mem.wf = true) : nextWf (execSpreSpill die s) := by
  unfold execSpreSpill
  grind [event_wf, State.spreFinish_wf, State.spreBegin_wf]

@[simp] theorem execSpreSpillStores_wf {s : State} (die) (h : s.mem.wf = true) :
    nextWf (execSpreSpillStores die s) := by
  unfold execSpreSpillStores
  grind [event_wf, State.spreFinish_wf, State.spreBegin_wf]

@[simp] theorem State.relabelArrivals_mem (s : State) (lid) : (s.relabelArrivals lid).mem = s.mem := rfl

@[simp] theorem execSpreResume_wf {s : State} (die) (h : s.mem.wf = true) : nextWf (execSpreResume die s) := by
  unfold execSpreResume
  grind [event_wf, State.spreTake_mem, State.spreDone_mem, State.modCore_mem, State.relabelArrivals_mem,
    State.modLaunch_mem, State.resumeThread_wf, foldl_wf, foldl_mem]

@[simp] theorem State.haltThread_mem (s : State) (slot) : (s.haltThread slot).mem = s.mem := by
  simp [State.haltThread]
@[simp] theorem State.routeHalts_wf {s : State} (die) (h : s.mem.wf = true) : (s.routeHalts die).mem.wf = true := by
  unfold State.routeHalts
  grind [State.supervisorTrap_wf, foldl_wf, foldl_mem]
@[simp] theorem State.haltLaunch_mem (s : State) (lid) : (s.haltLaunch lid).mem = s.mem := by simp [State.haltLaunch]
@[simp] theorem execSpreHalt_wf {s : State} (die) (h : s.mem.wf = true) : nextWf (execSpreHalt die s) := by
  unfold execSpreHalt
  grind [event_wf, State.routeHalts_wf, State.spreTake_mem, State.spreDone_mem, State.haltLaunch_mem]
@[simp] theorem State.releaseLaunch_wf {s : State} (lid) (h : s.mem.wf = true) :
    (s.releaseLaunch lid).mem.wf = true := by
  simp +contextual [State.releaseLaunch, h]

@[simp] theorem execSpreReleaseHalt_wf {s : State} (die) (h : s.mem.wf = true) :
    nextWf (execSpreReleaseHalt die s) := by
  unfold execSpreReleaseHalt
  grind [event_wf, State.spreTake_mem, State.spreDone_mem, State.releaseLaunch_wf]

@[simp] theorem execWatchdogFire_wf {s : State} (lid) (h : s.mem.wf = true) : nextWf (execWatchdogFire lid s) := by
  unfold execWatchdogFire
  grind [event_wf, State.modLaunch_mem, State.fireWatchdog_wf]

end Sys2Proof.Machine
end

section
/-! PROOFS. O59: the functions of Sys2Proof/Machine/Tenants.lean. -/

namespace Sys2Proof.Machine

@[simp] theorem mailbox_wf {s : State} (i code go ready) (h : s.mem.wf = true)
    (hgo : ∀ u, u.mem.wf = true → (go u).mem.wf = true) :
    nextWf (mailbox s i code go ready) := by
  unfold mailbox
  grind [event_wf]

@[simp] theorem execCreateTenant_wf {s : State} (t sroot sentry swdog) (h : s.mem.wf = true) :
    nextWf (execCreateTenant t sroot sentry swdog s) := by
  simp +contextual [execCreateTenant, h]

@[simp] theorem State.clearCores_wf {s : State} (p passes) (h : s.mem.wf = true) :
    (s.clearCores p passes).mem.wf = true := by
  obtain ⟨hc, he, hp, hu⟩ := (Memory.wf_iff _).1 h
  unfold State.clearCores
  extract_lets gone m clear s1
  have h1 : s1.mem.wf = true :=
    (Memory.wf_iff _).2 ⟨cellsWf_filter _ hc, rising_filter _ he, rising_filter _ hp, rising_filter _ hu⟩
  exact foldl_wf _ h1 fun u o hv => foldl_wf _ hv fun v k hw => wf_if (by rw [State.passMatrix_mem]; exact hw) hw

@[simp] theorem State.clearBelay_mem (s : State) (cl) : (s.clearBelay cl).mem = s.mem := rfl
@[simp] theorem execAssign_wf {s : State} (t clusters slices) (h : s.mem.wf = true) :
    nextWf (execAssign t clusters slices s) := by
  simp +contextual [execAssign, h]
@[simp] theorem execWriteAccessTableWord_wf {s : State} (set master v) (h : s.mem.wf = true) :
    nextWf (execWriteAccessTableWord set master v s) := by
  simp [execWriteAccessTableWord, h]
@[simp] theorem execWriteRouteEntry_wf {s : State} (t cls v) (h : s.mem.wf = true) :
    nextWf (execWriteRouteEntry t cls v s) := by
  simp +contextual [execWriteRouteEntry, h]
@[simp] theorem execBindQueue_wf {s : State} (q t) (h : s.mem.wf = true) : nextWf (execBindQueue q t s) := by
  simp +contextual [execBindQueue, h]
@[simp] theorem execSetHdmRange_wf {s : State} (range hostBase base len t cls) (h : s.mem.wf = true) :
    nextWf (execSetHdmRange range hostBase base len t cls s) := by
  simp [execSetHdmRange, h]
@[simp] theorem execSetPowerLimit_wf {s : State} (watts) (h : s.mem.wf = true) :
    nextWf (execSetPowerLimit watts s) := by
  simp [execSetPowerLimit, h]
@[simp] theorem execSetBivouac_wf {s : State} (t base units) (h : s.mem.wf = true) :
    nextWf (execSetBivouac t base units s) := by
  simp +contextual [execSetBivouac, h]

@[simp] theorem execHaltOrRelease_wf {s : State} (isLaunch ident release) (h : s.mem.wf = true) :
    nextWf (execHaltOrRelease isLaunch ident release s) := by
  unfold execHaltOrRelease
  grind [mailbox_wf, State.routeHalts_wf, State.releaseLaunch_wf, State.haltLaunch_mem, State.releaseHalt_wf,
    State.haltThread_mem, foldl_wf, foldl_mem]

@[simp] theorem State.ringBell_mem (s : State) (q tail) : (s.ringBell q tail).mem = s.mem := rfl
@[simp] theorem State.resetBegin_wf {s : State} (t) (h : s.mem.wf = true) : (s.resetBegin t).mem.wf = true := by
  unfold State.resetBegin
  grind [State.freeze_mem, State.discardMatrix_wf, State.stopThread_mem, foldl_wf, foldl_mem]
@[simp] theorem State.resetEntries_wf {s : State} (t) (h : s.mem.wf = true) : (s.resetEntries t).mem.wf = true := by
  unfold State.resetEntries
  grind [State.hostEntry_wf, foldl_wf, foldl_mem]
@[simp] theorem State.resetThreads_mem (s : State) (t) : (s.resetThreads t).mem = s.mem := by
  simp [State.resetThreads]
@[simp] theorem State.resetUnits_mem (s : State) (t) : (s.resetUnits t).mem = s.mem := rfl
@[simp] theorem State.resetEnd_wf {s : State} (t) (h : s.mem.wf = true) : (s.resetEnd t).mem.wf = true := by
  simp [State.resetEnd, h]

@[simp] theorem State.resetOver_wf {s : State} (t) (h : s.mem.wf = true) : (s.resetOver t).mem.wf = true := by
  unfold State.resetOver
  dsimp only
  exact foldl_wf _ (State.resetEnd_wf t h) fun u b hu => by rw [State.ringBell_mem]; exact hu

@[simp] theorem execResetTenant_wf {s : State} (t) (h : s.mem.wf = true) : nextWf (execResetTenant t s) := by
  unfold execResetTenant
  grind [event_wf, State.resetOver_wf, State.resetBegin_wf]
@[simp] theorem execDestroyTenant_wf {s : State} (t) (h : s.mem.wf = true) : nextWf (execDestroyTenant t s) := by
  simp +contextual [execDestroyTenant, h]
@[simp] theorem runCommand_wf {s : State} (a) (h : s.mem.wf = true) : nextWf (runCommand a s) := by
  unfold runCommand; split <;> simp [h]

@[simp] theorem execNextCommand_wf {s : State} (h : s.mem.wf = true) : nextWf (execNextCommand s) := by
  unfold execNextCommand
  split
  · exact execResetTenant_wf _ h
  · exact event_wf _ h fun _ hu => hu
  · next c rest _ _ =>
    have hc := runCommand_wf c (s := { s with commands := [] }) h
    split
    · next e => rw [e] at hc; exact hc
    · exact hc

@[simp] theorem State.mailboxWrite_mem (s : State) (i v) : (s.mailboxWrite i v).mem = s.mem := by
  unfold State.mailboxWrite
  repeat' split
  all_goals simp

end Sys2Proof.Machine
end

section
/-! PROOFS. O59: the functions of Sys2Proof/Machine/HostPort.lean. -/

namespace Sys2Proof.Machine

@[simp] theorem execPackageReset_wf (s : State) : nextWf (execPackageReset s) := by
  simp [execPackageReset]
@[simp] theorem execCxlLinkReset_wf {s : State} (h : s.mem.wf = true) : nextWf (execCxlLinkReset s) := by
  simp [execCxlLinkReset, h]
@[simp] theorem execPowerMeasure_wf {s : State} (watts)
    (h : s.mem.wf = true) : nextWf (execPowerMeasure watts s) := by
  simp [execPowerMeasure, h]
@[simp] theorem execThermalThrottle_wf {s : State} (h : s.mem.wf = true) : nextWf (execThermalThrottle s) := by
  simp [execThermalThrottle, h]
@[simp] theorem execThermalTrip_wf {s : State} (h : s.mem.wf = true) : nextWf (execThermalTrip s) := by
  simp [execThermalTrip, h]
@[simp] theorem execQueueDoorbell_wf {s : State} (q tail) (h : s.mem.wf = true) :
    nextWf (execQueueDoorbell q tail s) := by
  simp [execQueueDoorbell, h]
@[simp] theorem execQueueEnable_wf {s : State} (q v) (h : s.mem.wf = true) : nextWf (execQueueEnable q v s) := by
  simp [execQueueEnable, h]
@[simp] theorem execRegisterWrite_wf {s : State} (r v) (h : s.mem.wf = true) : nextWf (execRegisterWrite r v s) := by
  unfold execRegisterWrite; split <;> simp [h]
@[simp] theorem State.settleRecords_wf {s : State} (h : s.mem.wf = true) : (s.settleRecords).mem.wf = true := by
  unfold State.settleRecords
  grind [State.settle_wf, foldl_wf, foldl_mem]
@[simp] theorem execDispatchRecord_wf {s : State} (h : s.mem.wf = true) : nextWf (execDispatchRecord s) := by
  unfold execDispatchRecord
  grind [event_wf, State.settleRecords_wf, State.setQueue_mem, State.modDie_mem]

@[simp] theorem execBarWrite_wf {s : State} (off v) (h : s.mem.wf = true) : nextWf (execBarWrite off v s) := by
  unfold execBarWrite
  repeat' split
  all_goals simp [h]

@[simp] theorem execBarRead_wf {s : State} (off) (h : s.mem.wf = true) : nextWf (execBarRead off s) := by
  simp [execBarRead, h]
@[simp] theorem State.hostReadWord_wf {s : State} (a) (h : s.mem.wf = true) : (s.hostReadWord a).mem.wf = true := by
  unfold State.hostReadWord
  grind [State.check_mem, State.readWord_wf]

theorem State.hostArrives_mem {s : State} (level as) {u} (e : s.hostArrives level as = some u) : u.mem = s.mem := by
  have key : ∀ (l : List Nat) (r : Option State), (∀ v, r = some v → v.mem = s.mem) →
      ∀ v, l.foldl (fun r a => r.bind fun s => match s.hostWord a level with
        | some k => s.unitAt epCol k
        | none => some s) r = some v → v.mem = s.mem := by
    intro l
    induction l with
    | nil => exact fun r hr => hr
    | cons a l ih =>
      refine fun r hr => ih _ fun v hv => ?_
      obtain ⟨w, hw, hv⟩ := Option.bind_eq_some_iff.1 hv
      have hm := hr w hw
      split at hv
      · rw [State.unitAt_mem _ _ hv, hm]
      · cases hv; exact hm
  exact key as (some s) (fun v hv => by cases hv; rfl) u e

@[simp] theorem execHostRead_wf {s : State} (addr len) (h : s.mem.wf = true) : nextWf (execHostRead addr len s) := by
  unfold execHostRead
  grind [event_wf, State.hostArrives_mem, State.hostReadWord_wf, foldl_wf, foldl_mem]

@[simp] theorem State.hostWriteWord_wf {s : State} (addr bytes a) (h : s.mem.wf = true) :
    (s.hostWriteWord addr bytes a).mem.wf = true := by
  unfold State.hostWriteWord
  repeat' split
  all_goals simp [h]

@[simp] theorem execHostWrite_wf {s : State} (addr bytes) (h : s.mem.wf = true) :
    nextWf (execHostWrite addr bytes s) := by
  unfold execHostWrite
  grind [event_wf, State.hostArrives_mem, State.hostWriteWord_wf, foldl_wf, foldl_mem]

@[simp] theorem State.spdm_mem (s : State) (ws) : (s.spdm ws).mem = s.mem := rfl
@[simp] theorem execSpdmCertificate_wf {s : State} (h : s.mem.wf = true) : nextWf (execSpdmCertificate s) :=
  event_wf _ h fun u hu => by rw [State.spdm_mem]; exact hu
@[simp] theorem execSpdmMeasurements_wf {s : State} (h : s.mem.wf = true) : nextWf (execSpdmMeasurements s) :=
  event_wf _ h fun u hu => by rw [State.spdm_mem]; exact hu

@[simp] theorem execPeerAccess_wf {s : State} (port tenant cls op pa) (h : s.mem.wf = true) :
    nextWf (execPeerAccess port tenant cls op pa s) := by
  unfold execPeerAccess
  grind [event_wf, State.unitAt_mem, State.readWord_wf, State.writeWord_wf, State.atomicHome_wf]

@[simp] theorem execLinkReplay_wf {s : State} (link) (h : s.mem.wf = true) : nextWf (execLinkReplay link s) := by
  unfold execLinkReplay; split <;> simp [h]

@[simp] theorem State.endPacket_mem (s : State) (fuel a) : (s.endPacket fuel a).mem = s.mem := by
  induction fuel generalizing s a with
  | zero => rfl
  | succ fuel ih =>
    unfold State.endPacket
    extract_lets merged dropped s1 ended
    have h1 : s1.mem = s.mem := rfl
    have he : ∀ u, ended = some u → u.mem = s.mem := by
      intro u hu
      unfold ended at hu
      clear_value s1
      split at hu
      · cases hu
        split
        · exact h1
        · exact h1
        · rw [foldl_mem _ _ fun v k => State.answer_mem v _ k _]; exact h1
      · cases hu
        rw [foldl_mem _ _ fun v k => State.answer_mem v _ k _]; exact h1
      · cases hu; rw [State.ackUpdate_mem]; exact h1
      · cases hu; rw [State.ackUpdate_mem]; exact h1
      · exact absurd hu nofun
    clear_value ended
    split
    · rw [foldl_mem _ _ fun v m => ih v m]; exact he _ rfl
    · rfl

@[simp] theorem execLinkFailure_wf {s : State} (link) (h : s.mem.wf = true) : nextWf (execLinkFailure link s) := by
  unfold execLinkFailure
  grind [event_wf, State.answer_mem, State.refuseAway_mem, State.endPacket_mem, State.failGroup_mem, State.check_mem,
    foldl_wf, foldl_mem]

end Sys2Proof.Machine
end

section
/-! PROOFS. O59: the functions of Sys2Proof/Machine/Pitch.lean. -/

namespace Sys2Proof.Machine

@[simp] theorem readBody_wf {a : State} (slot t fuel len n l acc) (h : a.mem.wf = true) :
    (readBody slot t fuel a len n l acc).1.mem.wf = true := by
  induction fuel generalizing a n l acc with
  | zero => exact h
  | succ fuel ih =>
    have hf := State.fetch32_wf slot t (t.pc + BitVec.ofNat 64 (4 * n)) h
    unfold readBody
    split
    · exact h
    dsimp only
    split
    · next e => exact wf_of_eq e hf
    · next e =>
      have h1 := wf_of_eq e hf
      split
      · split
        · exact h1
        · exact ih _ _ _ h1
      · split
        · exact h1
        · exact ih _ _ _ h1
      · split
        · exact h1
        · exact ih _ _ _ h1
      · exact h1

@[simp] theorem execPitch_wf {s : State} (len stag rs1 sd sa sb rot) (h : s.mem.wf = true) :
    nextWf (execPitch len stag rs1 sd sa sb rot s) := by
  unfold execPitch
  grind [issue_wf, State.park_mem, readBody_wf, State.trapc_wf, State.jumpTo_mem, State.modThread_mem]

end Sys2Proof.Machine
end

section
/-! PROOFS. O59: the functions of Sys2Proof/Machine/PortSteps.lean. -/

namespace Sys2Proof.Machine

@[simp] theorem execPortPrefetch_wf {s : State} (slot port) (h : s.mem.wf = true) :
    nextWf (execPortPrefetch slot port s) := by
  unfold execPortPrefetch
  grind [event_wf, State.drawLink_mem, State.fetchPort_wf, State.modCore_mem]

@[simp] theorem State.pushTargets_wf {s : State} (slot t sync a n) (h : s.mem.wf = true) :
    (s.pushTargets slot t sync a n).1.mem.wf = true := by
  induction n with
  | zero => exact h
  | succ n ih =>
    unfold State.pushTargets
    split
    · next e =>
      have ht := State.portTarget_wf slot t (a + BitVec.ofNat 64 (8 * n)) .store (wf_of_eq e ih)
      dsimp only
      split
      · next e1 => exact wf_of_eq e1 ht
      · next e1 => exact wf_of_eq e1 ht
      · next e1 => exact wf_of_eq e1 ht
    · exact ih

@[simp] theorem State.pushWord_wf {s : State} (slot port sync va x v) (h : s.mem.wf = true) :
    (s.pushWord slot port sync va x v).1.mem.wf = true := by
  unfold State.pushWord; split <;> simp [h]
@[simp] theorem State.failPush_mem (s : State) (slot port f) : (s.failPush slot port f).mem = s.mem := by
  simp [State.failPush]

@[simp] theorem execPortPushPerform_wf {s : State} (slot port) (h : s.mem.wf = true) :
    nextWf (execPortPushPerform slot port s) := by
  unfold execPortPushPerform
  refine event_wf _ h fun u hu => ?_
  split
  · next t p _ _ =>
    split
    · exact hu
    · next q _ _ =>
      have ht := State.pushTargets_wf slot t p.sync q.addr q.words.length hu
      split
      · exact hu
      split
      · next e => rw [State.failPush_mem]; exact wf_of_eq e ht
      · next s1 l e =>
        have h1 := wf_of_eq e ht
        split
        · exact h1
        dsimp only
        split
        · rw [State.failPush_mem]
          exact foldl_fst_wf _ h1 fun r x hr => State.pushWord_wf _ _ _ _ _ _ hr
        · split
          · exact foldl_fst_wf _ h1 fun r x hr => State.pushWord_wf _ _ _ _ _ _ hr
          · rw [State.modPort_mem]
            exact foldl_fst_wf _ h1 fun r x hr => State.pushWord_wf _ _ _ _ _ _ hr
  · exact hu

end Sys2Proof.Machine
end

section
/-! PROOFS. O59: the functions of Sys2Proof/Machine/Quant.lean. -/

namespace Sys2Proof.Machine

@[simp] theorem cmpForm_wf {s : State} (span ty rd rs1 rs2 signals ord int) (h : s.mem.wf = true) :
    nextWf (cmpForm s span ty rd rs1 rs2 signals ord int) := by
  simp [cmpForm, h]
@[simp] theorem execCmpeq_wf {s : State} (span ty rd rs1 rs2) (h : s.mem.wf = true) :
    nextWf (execCmpeq span ty rd rs1 rs2 s) := by
  simp [execCmpeq, h]
@[simp] theorem execCmplt_wf {s : State} (span ty rd rs1 rs2) (h : s.mem.wf = true) :
    nextWf (execCmplt span ty rd rs1 rs2 s) := by
  simp [execCmplt, h]
@[simp] theorem execCmple_wf {s : State} (span ty rd rs1 rs2) (h : s.mem.wf = true) :
    nextWf (execCmple span ty rd rs1 rs2 s) := by
  simp [execCmple, h]
@[simp] theorem execCmpltn_wf {s : State} (span ty rd rs1 rs2) (h : s.mem.wf = true) :
    nextWf (execCmpltn span ty rd rs1 rs2 s) := by
  simp [execCmpltn, h]
@[simp] theorem convertForm_wf {s : State} (span ty dt rd rs1 signed rounds mode) (h : s.mem.wf = true) :
    nextWf (convertForm s span ty dt rd rs1 signed rounds mode) := by
  simp [convertForm, h]
@[simp] theorem execCvt_wf {s : State} (span ty rd rs1 sel) (h : s.mem.wf = true) :
    nextWf (execCvt span ty rd rs1 sel s) := by
  simp [execCvt, h]
@[simp] theorem execCvtr_wf {s : State} (span ty rd rs1 sel) (h : s.mem.wf = true) :
    nextWf (execCvtr span ty rd rs1 sel s) := by
  simp [execCvtr, h]
@[simp] theorem bitForm_wf {s : State} (span ty rd rs1 f) (h : s.mem.wf = true) :
    nextWf (bitForm s span ty rd rs1 f) := by
  simp [bitForm, h]
@[simp] theorem execClz_wf {s : State} (span ty rd rs1)
    (h : s.mem.wf = true) : nextWf (execClz span ty rd rs1 s) := by
  simp [execClz, h]
@[simp] theorem execPopc_wf {s : State} (span ty rd rs1) (h : s.mem.wf = true) :
    nextWf (execPopc span ty rd rs1 s) := by
  simp [execPopc, h]
@[simp] theorem execAbs_wf {s : State} (span ty rd rs1)
    (h : s.mem.wf = true) : nextWf (execAbs span ty rd rs1 s) := by
  simp [execAbs, h]
@[simp] theorem execNeg_wf {s : State} (span ty rd rs1)
    (h : s.mem.wf = true) : nextWf (execNeg span ty rd rs1 s) := by
  simp [execNeg, h]
@[simp] theorem execPerm_wf {s : State} (span ty rd rs1 rs2) (h : s.mem.wf = true) :
    nextWf (execPerm span ty rd rs1 rs2 s) := by
  simp [execPerm, h]
@[simp] theorem execGsum_wf {s : State} (span ty rd rs1) (h : s.mem.wf = true) :
    nextWf (execGsum span ty rd rs1 s) := by
  simp [execGsum, h]
@[simp] theorem execFclass_wf {s : State} (span ty rd rs1) (h : s.mem.wf = true) :
    nextWf (execFclass span ty rd rs1 s) := by
  simp [execFclass, h]
@[simp] theorem execLmsk_wf {s : State} (span ty rd rs1) (h : s.mem.wf = true) :
    nextWf (execLmsk span ty rd rs1 s) := by
  simp [execLmsk, h]
@[simp] theorem execLexp_wf {s : State} (span ty rd rs1) (h : s.mem.wf = true) :
    nextWf (execLexp span ty rd rs1 s) := by
  simp [execLexp, h]
@[simp] theorem quantForm_wf {s : State} (span ty rd rs1 rs2 counts q) (h : s.mem.wf = true) :
    nextWf (quantForm s span ty rd rs1 rs2 counts q) := by
  simp [quantForm, h]
@[simp] theorem execQenc_wf {s : State} (span ty rd rs1 rs2) (h : s.mem.wf = true) :
    nextWf (execQenc span ty rd rs1 rs2 s) := by
  simp [execQenc, h]
@[simp] theorem execQfp8_wf {s : State} (span ty rd rs1 rs2) (h : s.mem.wf = true) :
    nextWf (execQfp8 span ty rd rs1 rs2 s) := by
  simp [execQfp8, h]
@[simp] theorem execQfp8x_wf {s : State} (span ty rd rs1 rs2) (h : s.mem.wf = true) :
    nextWf (execQfp8x span ty rd rs1 rs2 s) := by
  simp [execQfp8x, h]
@[simp] theorem dequantForm_wf {s : State} (span ty rd rs1 rs2 v) (h : s.mem.wf = true) :
    nextWf (dequantForm s span ty rd rs1 rs2 v) := by
  simp [dequantForm, h]
@[simp] theorem execQdec_wf {s : State} (span ty rd rs1 rs2) (h : s.mem.wf = true) :
    nextWf (execQdec span ty rd rs1 rs2 s) := by
  simp [execQdec, h]
@[simp] theorem execDfp8_wf {s : State} (span ty rd rs1 rs2) (h : s.mem.wf = true) :
    nextWf (execDfp8 span ty rd rs1 rs2 s) := by
  simp [execDfp8, h]
@[simp] theorem execDfp8x_wf {s : State} (span ty rd rs1 rs2) (h : s.mem.wf = true) :
    nextWf (execDfp8x span ty rd rs1 rs2 s) := by
  simp [execDfp8x, h]
@[simp] theorem execTabld_wf {s : State} (t rs1) (h : s.mem.wf = true) : nextWf (execTabld t rs1 s) := by
  simp +contextual [execTabld, h]

end Sys2Proof.Machine
end

section
/-! PROOFS. O59: the functions of Sys2Proof/Machine/TagTable.lean. -/

namespace Sys2Proof.Machine

@[simp] theorem readRow_wf {s : State} (k a) (h : s.mem.wf = true) : (readRow s k a).1.mem.wf = true := by
  induction a with
  | zero => exact h
  | succ n ih =>
    unfold readRow
    split
    · next e =>
      have hr := State.readWord_wf (k + n) (wf_of_eq e ih)
      split
      · next e1 => exact wf_of_eq e1 hr
      · next e1 => exact wf_of_eq e1 hr
    · exact ih

@[simp] theorem tagOp_wf {s : State} (rd rs1 rs2 span act) (h : s.mem.wf = true) :
    nextWf (tagOp s rd rs1 rs2 span act) := by
  unfold tagOp
  refine issue_wf _ _ _ h fun u c hu => ?_
  extract_lets t va size off k0 wait
  clear_value wait
  split
  · exact State.trapc_wf _ _ _ hu
  split
  · rw [State.park_mem]; exact hu
  have hr := State.readWord_wf k0 hu
  split
  · next e => exact State.trapc_wf _ _ _ (wf_of_eq e hr)
  next e =>
  have h1 := wf_of_eq e hr
  dsimp only
  split
  · exact State.trapc_wf _ _ _ h1
  split
  · rw [State.park_mem]; exact h1
  split
  · next e2 => exact State.trapc_wf _ _ _ (wf_of_eq e2 (readRow_wf _ _ h1))
  · next e2 =>
    rw [State.finish_mem]
    exact foldl_wf _ (wf_of_eq e2 (readRow_wf _ _ h1)) fun v w hv => wf_if hv (State.writeWord_wf _ _ _ _ hv)

@[simp] theorem execTlook_wf {s : State} (rd rs1 rs2) (h : s.mem.wf = true) : nextWf (execTlook rd rs1 rs2 s) := by
  simp [execTlook, h]
@[simp] theorem execTins_wf {s : State} (rd rs1 rs2) (h : s.mem.wf = true) : nextWf (execTins rd rs1 rs2 s) := by
  simp [execTins, h]
@[simp] theorem execTinv_wf {s : State} (rd rs1 rs2) (h : s.mem.wf = true) : nextWf (execTinv rd rs1 rs2 s) := by
  simp [execTinv, h]

end Sys2Proof.Machine
end

section
/-! PROOFS. O59: the functions of Sys2Proof/Machine/Xempty.lean. -/

namespace Sys2Proof.Machine

@[simp] theorem execXempty_wf {s : State} (nlog rd) (h : s.mem.wf = true) : nextWf (execXempty nlog rd s) := by
  simp +contextual [execXempty, h]

end Sys2Proof.Machine
end

section
/-! PROOFS. O59: the functions of Sys2Proof/Machine/Meanings.lean. -/

namespace Sys2Proof.Machine

@[simp] theorem encodedMeaning_wf {s : State} (i) (h : s.mem.wf = true) : nextWf (encodedMeaning i s) := by
  unfold encodedMeaning; split <;> simp [h]

end Sys2Proof.Machine
end

section
/-! PROOFS. O59: the functions of Sys2Proof/Machine/RopeStep.lean. -/

namespace Sys2Proof.Machine

@[simp] theorem State.stopReached_mem (s : State) (slot) : (s.stopReached slot).mem = s.mem := by
  unfold State.stopReached
  repeat' split
  all_goals simp

theorem State.tryReplay_wf {s : State} (slot) (h : s.mem.wf = true) {p} (e : s.tryReplay slot = some p) :
    p.1.mem.wf = true := by
  unfold State.tryReplay at e
  split at e
  · exact absurd e nofun
  split at e
  · exact absurd e nofun
  split at e
  · exact absurd e nofun
  split at e
  · exact absurd e nofun
  next i l _ =>
  have hi := encodedMeaning_wf i (s := { s with cur := slot, latch := l }) h
  split at e
  · next e1 =>
    rw [e1] at hi
    cases e
    exact hi
  · exact absurd e nofun

@[simp] theorem State.refused_mem (s : State) (slot c span) : (s.refused slot c span).mem = s.mem := by
  simp [State.refused]

@[simp] theorem runGiven_wf {s : State} (a) (h : s.mem.wf = true) : (runGiven a s).mem.wf = true := by
  induction a generalizing s with
  | nil => exact h
  | cons w ws ih =>
    unfold runGiven
    extract_lets latch s1 out
    have h1 : s1.mem.wf = true := h
    clear_value s1
    have ho : nextWf out := by
      unfold out
      split
      · exact badPair_wf _ _ _ _ h1
      · exact State.trap_wf _ _ _ h1
      · exact encodedMeaning_wf _ h1
    clear_value out
    split
    · exact wf_if (ih ho) ho
    · exact h

theorem State.memberStep_wf {s : State} (rope lead c e) (h : s.mem.wf = true) {p}
    (hp : s.memberStep rope lead c e = some p) : p.1.mem.wf = true := by
  unfold State.memberStep at hp
  split at hp
  · exact absurd hp nofun
  next slot _ =>
  split at hp
  · exact absurd hp nofun
  extract_lets t span pitch own sA sB sC stop s1 s2 retired apart s3 at hp
  have hA : sA.mem.wf = true := h
  have hC : sC.mem.wf = true := by
    have hB : sB.mem.wf = true := wf_if (by rw [State.modCore_mem]; exact hA) hA
    exact hB
  have h1 : s1.mem.wf = true := wf_if (State.takeStop_wf _ hC) (wf_if (State.trapAt_wf _ _ _ _ hC) (runGiven_wf _ hC))
  clear_value s1
  have h2 : s2.mem.wf = true := wf_if (by rw [State.modCore_mem]; exact h1) h1
  clear_value s2
  have h3 : s3.mem.wf = true := wf_if h2 (by rw [State.modThread_mem, State.modCore_mem]; exact h2)
  clear_value s3
  split at hp
  · exact absurd hp nofun
  split at hp
  · exact absurd hp nofun
  · cases hp
    exact wf_if (by rw [State.detach_mem]; exact h3) h3

@[simp] theorem State.advanceRope_mem (s : State) (rope taken) : (s.advanceRope rope taken).mem = s.mem := by
  unfold State.advanceRope; split <;> simp
@[simp] theorem State.advanceRopes_mem (s : State) : (s.advanceRopes).mem = s.mem := by simp [State.advanceRopes]
@[simp] theorem State.afterMember_mem (s : State) (rope slot how) : (s.afterMember rope slot how).mem = s.mem := by
  simp [State.afterMember]

theorem State.leaderStep_wf {s : State} (rope r lead t) (h : s.mem.wf = true) {p}
    (e : s.leaderStep rope r lead t = some p) : p.1.mem.wf = true := by
  unfold State.leaderStep at e
  extract_lets s0 keep at e
  have h0 : s0.mem.wf = true := h
  have hk : ∀ u ws o, (keep u ws o).mem = u.mem := fun u ws o => State.modRope_mem _ _ _
  clear_value keep s0
  split at e
  · cases e; exact State.trapAt_wf _ _ _ _ h0
  have hs := State.streamWords_wf lead t 3 0 [] h0
  split at e
  · next e1 => cases e; exact State.trapAccess_wf _ _ _ (wf_of_eq e1 hs)
  next s1 ws e1 =>
  split at e
  · exact absurd e nofun
  next e2 =>
  have h2 := State.memberStep_wf _ _ _ _ (by rw [hk]; exact wf_of_eq e1 hs) e2
  extract_lets gone at e
  clear_value gone
  split at e
  · cases e; exact h2
  · cases e; rw [State.afterMember_mem, hk]; exact h2

theorem State.eastSteps_wf {s : State} (rope lead a) (h : s.mem.wf = true) {u}
    (e : s.eastSteps rope lead a = some u) : u.mem.wf = true := by
  induction a generalizing s with
  | nil => cases e; exact h
  | cons c rest ih =>
    unfold State.eastSteps at e
    split at e
    · cases e; exact h
    split at e
    · split at e
      · exact absurd e nofun
      · next e1 => exact ih (by rw [State.afterMember_mem]; exact State.memberStep_wf _ _ _ _ h e1) e
    · exact absurd e nofun

theorem State.tryStep_wf {s : State} (rope r) (h : s.mem.wf = true) {u} (e : s.tryStep rope r = some u) :
    u.mem.wf = true := by
  unfold State.tryStep at e
  split at e
  · exact absurd e nofun
  next lead _ =>
  extract_lets turn joins ends s1 s2 s3 at e
  have h1 : s1.mem.wf = true := foldl_wf _ h fun v c hv => by
    split
    · rw [State.modRope_mem, State.clipEnds_mem]; exact hv
    · exact hv
  clear_value s1
  have h2 : s2.mem.wf = true := foldl_wf _ h1 fun v c hv => by
    split
    · rw [State.landNow_mem, State.clipEnds_mem]; exact hv
    · exact hv
  clear_value s2
  have h3 : ∀ p, s3 = some p → p.1.mem.wf = true := fun p hp => by
    unfold s3 at hp
    split at hp
    · cases hp; exact h2
    · split at hp
      · exact State.leaderStep_wf _ _ _ _ h2 hp
      · exact absurd hp nofun
  clear_value s3
  split at e
  · exact absurd e nofun
  · next s4 taken =>
    have h4 := h3 _ rfl
    split at e
    · obtain ⟨t, -, ht⟩ := Option.bind_eq_some_iff.1 e
      obtain ⟨p, hp, rfl⟩ := Option.map_eq_some_iff.1 ht
      exact State.leaderStep_wf _ _ _ _ h hp
    split at e
    · cases e; exact h4
    · exact State.eastSteps_wf _ _ _ h4 e

@[simp] theorem State.refuseSpans_wf {s : State} (rope r) (h : s.mem.wf = true) :
    (s.refuseSpans rope r).mem.wf = true := by
  unfold State.refuseSpans
  grind [State.modThread_mem, State.refused_mem, foldl_wf, foldl_mem]

@[simp] theorem execRopeStep_wf {s : State} (rope) (h : s.mem.wf = true) : nextWf (execRopeStep rope s) := by
  unfold execRopeStep
  grind [event_wf, State.advanceRopes_mem, State.haltStep_wf, State.refuseSpans_wf, State.tryStep_wf,
    State.advanceRope_mem, foldl_wf, foldl_mem]

@[simp] theorem execPitchReplay_wf {s : State} (slot) (h : s.mem.wf = true) : nextWf (execPitchReplay slot s) := by
  unfold execPitchReplay
  refine event_wf _ h fun u hu => ?_
  split
  · next e =>
    refine wf_if hu ?_
    dsimp only
    rw [State.modCore_mem, State.modThread_mem]
    exact State.tryReplay_wf _ hu e
  · next e => rw [State.stopReached_mem]; exact State.tryReplay_wf _ hu e
  · next e => exact State.tryReplay_wf _ hu e
  · exact hu

end Sys2Proof.Machine
end

section
/-! PROOFS. O59: the functions of Sys2Proof/Machine/Dispatch.lean. -/

namespace Sys2Proof.Machine

@[simp] theorem exec_wf {s : State} (i) (h : s.mem.wf = true) : nextWf (exec i s) := by
  unfold exec; split <;> simp [h]

end Sys2Proof.Machine
end

section
/-! PROOFS. O59: the functions of Sys2Proof/Machine/Schedule.lean. -/

namespace Sys2Proof.Machine

@[simp] theorem issueTurn_wf {s : State} {ex : Instr → State → Host.Outcome State Fault Refusal}
    {badPair : BitVec 3 → BitVec 5 → BitVec 5 → BitVec 5 → State → Host.Outcome State Fault Refusal}
    (hex : ∀ i u, u.mem.wf = true → nextWf (ex i u))
    (hbad : ∀ s3 rd rs1 rs2 u, u.mem.wf = true → nextWf (badPair s3 rd rs1 rs2 u)) (core fuel) (h : s.mem.wf = true) :
    nextWf (issueTurn ex badPair core fuel s) := by
  induction fuel generalizing s with
  | zero => show (s.afterGrant core).mem.wf = true; rw [State.afterGrant_mem]; exact h
  | succ fuel ih =>
    unfold issueTurn
    split
    · show (s.afterGrant core).mem.wf = true; rw [State.afterGrant_mem]; exact h
    · next n t _ =>
      dsimp only
      split
      · exact ih (by rw [State.refused_mem]; exact h)
      · have hr := runSlot_wf hex hbad (core * 64 + n) (s := s.turn core n (s.spanNext (core * 64 + n)))
          (by rw [State.turn_mem]; exact h)
        split
        · next e =>
          split
          · exact ih (by rw [State.refused_mem]; exact h)
          · rw [e] at hr; exact hr
        · exact hr

@[simp] theorem issueCore_wf {s : State} {ex : Instr → State → Host.Outcome State Fault Refusal}
    {badPair : BitVec 3 → BitVec 5 → BitVec 5 → BitVec 5 → State → Host.Outcome State Fault Refusal}
    (hex : ∀ i u, u.mem.wf = true → nextWf (ex i u))
    (hbad : ∀ s3 rd rs1 rs2 u, u.mem.wf = true → nextWf (badPair s3 rd rs1 rs2 u)) (core) (h : s.mem.wf = true) :
    nextWf (issueCore ex badPair core s) := by
  unfold issueCore
  split
  · exact h
  split
  · exact execRopeStep_wf _ h
  · exact issueTurn_wf hex hbad _ _ h

@[simp] theorem State.publish_wf {s : State} (tn va queues) (h : s.mem.wf = true) :
    (s.publish tn va queues).mem.wf = true := by
  unfold State.publish
  grind [State.modTenant_mem, State.deviceStep_wf, State.writeWord_wf, foldl_wf, foldl_mem]

@[simp] theorem runItem_wf {s : State} {ex : Instr → State → Host.Outcome State Fault Refusal}
    {badPair : BitVec 3 → BitVec 5 → BitVec 5 → BitVec 5 → State → Host.Outcome State Fault Refusal}
    (hex : ∀ i u, u.mem.wf = true → nextWf (ex i u))
    (hbad : ∀ s3 rd rs1 rs2 u, u.mem.wf = true → nextWf (badPair s3 rd rs1 rs2 u)) (i) (h : s.mem.wf = true) :
    nextWf (runItem ex badPair s i) := by
  have halted : ∀ u : State, u.mem.wf = true →
      nextWf (if s.tripped then .fault .clockStopped else .next u : Host.Outcome State Fault Refusal) :=
          fun u hu => by
    split
    · exact trivial
    · exact hu
  cases i with
  | event i =>
    rw [runItem]
    split
    · exact h
    · exact hex i s h
  | issue core =>
    rw [runItem]
    split
    · exact trivial
    · exact issueCore_wf hex hbad core h
  | dropMicro core i => exact halted _ (by rw [State.modCore_mem]; exact h)
  | dropCluster cl i => exact halted _ (by rw [State.modCluster_mem]; exact h)
  | dropGranule core i => exact halted _ (by rw [State.modCore_mem]; exact h)
  | dropRecord core i => exact halted _ (by rw [State.modCore_mem]; exact h)
  | upset k =>
    rw [runItem]
    refine event_wf _ h fun u hu => ?_
    exact Memory.wf_upset k hu
  | upsetReg slot n =>
    rw [runItem]
    refine event_wf _ h fun u hu => ?_
    rw [State.modThread_mem]; exact hu
  | upsetRegion oct r =>
    rw [runItem]
    refine event_wf _ h fun u hu => ?_
    split
    · exact hu
    · rw [State.modOctet_mem]; exact hu
  | upsetTile oct t =>
    rw [runItem]
    refine event_wf _ h fun u hu => ?_
    split
    · exact hu
    · rw [State.modOctet_mem]; exact hu
  | peerGroup g l =>
    rw [runItem]
    refine event_wf _ h fun u hu => ?_
    exact hu
  | acknowledged f =>
    rw [runItem]
    refine event_wf _ h fun u hu => ?_
    rw [State.ackAway_mem]; exact hu
  | refusedAway f =>
    rw [runItem]
    refine event_wf _ h fun u hu => ?_
    rw [State.refuseAway_mem]; exact hu
  | outsideFails slot c =>
    rw [runItem]
    refine event_wf _ h fun u hu => ?_
    exact State.replyArrives_wf _ _ hu
  | command => exact execNextCommand_wf h
  | barWrite off v => exact execBarWrite_wf _ _ h
  | barRead off => exact execBarRead_wf _ h
  | flash f =>
    rw [runItem]
    refine event_wf _ h fun u hu => ?_
    exact hu
  | resources t va n =>
    rw [runItem]
    refine event_wf _ h fun u hu => ?_
    exact State.publish_wf _ _ _ hu

/-- Steps of other agents that keep the memory's form. -/
def TurnsWf (l : List Turn) : Prop := ∀ f ∈ l, ∀ u : State, u.mem.wf = true → nextWf (f u)
@[simp] theorem turnsWf_nil : TurnsWf [] := nofun
@[simp] theorem turnsWf_cons (f : Turn) (l : List Turn) :
    TurnsWf (f :: l) ↔ (∀ u : State, u.mem.wf = true → nextWf (f u)) ∧ TurnsWf l := List.forall_mem_cons
@[simp] theorem turnsWf_append (l l' : List Turn) : TurnsWf (l ++ l') ↔ TurnsWf l ∧ TurnsWf l' :=
  List.forall_mem_append
@[simp] theorem turnsWf_map {α : Type} (l : List α) (f : α → Turn) :
    TurnsWf (l.map f) ↔ ∀ a ∈ l, ∀ u : State, u.mem.wf = true → nextWf (f a u) := List.forall_mem_map

@[simp] theorem turnsWf_flatMap {α : Type} (l : List α) (f : α → List Turn) :
    TurnsWf (l.flatMap f) ↔ ∀ a ∈ l, TurnsWf (f a) := by
  simp only [TurnsWf, List.mem_flatMap]
  exact ⟨fun h a ha g hg => h g ⟨a, ha, hg⟩, fun h g ⟨a, ha, hg⟩ => h a ha g hg⟩

@[simp] theorem turnsWf_ite (c : Prop) [Decidable c] (l l' : List Turn) :
    TurnsWf (if c then l else l') ↔ (c → TurnsWf l) ∧ (¬c → TurnsWf l') := by split <;> simp [*]
theorem turnsWf_threadSteps (s : State) (slot : Nat) (t : Thread) : TurnsWf (threadSteps s slot t) := by
  unfold threadSteps
  cases t.pend <;> cases t.run <;> simp +contextual
theorem turnsWf_coreSteps (s : State) (n : Nat) (c : Core) : TurnsWf (coreSteps s n c) := by
  simp +contextual [coreSteps]
theorem turnsWf_octetSteps (n : Nat) (o : Octet) : TurnsWf (octetSteps n o) := by
  simp +contextual [octetSteps]

theorem turnsWf_packetSteps (s : State) (p : Packet) : TurnsWf (packetSteps s p) := by
  unfold packetSteps
  split
  · simp +contextual
  split
  · split <;> simp +contextual
  · split <;> simp +contextual

theorem turnsWf_launchSteps (lid : Nat) (l : Launch) : TurnsWf (launchSteps lid l) := by
  simp +contextual [launchSteps]
theorem turnsWf_dieSteps (n : Nat) (d : Die) : TurnsWf (dieSteps n d) := by
  simp +contextual [dieSteps]

theorem turnsWf_tenantSteps (n : Nat) (t : Tenant) : TurnsWf (tenantSteps n t) := by
  unfold tenantSteps
  rw [turnsWf_append]
  refine ⟨by simp +contextual, ?_⟩
  split
  · split <;> simp +contextual
  · simp

theorem turnsWf_roundSteps (s : State) (n : Nat) (r : Round) : TurnsWf (roundSteps s n r) := by
  simp +contextual [roundSteps]
theorem turnsWf_otherSteps (s : State) : TurnsWf (otherSteps s) := by
  simp +contextual [otherSteps, turnsWf_threadSteps, turnsWf_coreSteps, turnsWf_octetSteps, turnsWf_packetSteps,
    turnsWf_launchSteps, turnsWf_dieSteps, turnsWf_tenantSteps, turnsWf_roundSteps]
theorem turnsWf_sideIssues (s : State) : TurnsWf (sideIssues s) := by
  simp +contextual [sideIssues]

theorem firstChange_wf {s : State} (l) (hl : TurnsWf l) (h : s.mem.wf = true) {u} (e : firstChange s l = some u) :
    u.mem.wf = true := by
  induction l with
  | nil => exact absurd e nofun
  | cons f l ih =>
    obtain ⟨hf, hl⟩ := (turnsWf_cons f l).1 hl
    unfold firstChange at e
    split at e
    · next e1 =>
      split at e
      · exact ih hl e
      · cases e
        have := hf s h
        rw [e1] at this
        exact this
    · exact ih hl e

@[simp] theorem defaultStep_wf {s : State} {ex : Instr → State → Host.Outcome State Fault Refusal}
    {badPair : BitVec 3 → BitVec 5 → BitVec 5 → BitVec 5 → State → Host.Outcome State Fault Refusal}
    (hex : ∀ i u, u.mem.wf = true → nextWf (ex i u))
    (hbad : ∀ s3 rd rs1 rs2 u, u.mem.wf = true → nextWf (badPair s3 rd rs1 rs2 u)) (h : s.mem.wf = true) :
    nextWf (defaultStep ex badPair s) := by
  unfold defaultStep
  split
  · exact trivial
  split
  · next e => exact firstChange_wf (s := { s with fresh := s.fresh + 64 }) _ (turnsWf_otherSteps s) h e
  extract_lets s1 core cores
  have h1 : s1.mem.wf = true := h
  have hc : nextWf cores := issueCore_wf hex hbad core h1
  clear_value s1 cores
  split
  · split
    · next e => exact firstChange_wf _ (turnsWf_sideIssues _) h1 e
    · exact hc
  · exact hc

end Sys2Proof.Machine
end

section
/-! PROOFS. O59: the functions of Sys2Proof/Machine/Step.lean. -/

namespace Sys2Proof.Machine

@[simp] theorem step_wf {s : State} (h : s.mem.wf = true) : nextWf (step s) := by
  unfold step
  split
  · exact runItem_wf (fun i _ hu => exec_wf i hu) (fun _ _ _ _ _ hu => badPair_wf _ _ _ _ hu) _ h
  · exact defaultStep_wf (fun i _ hu => exec_wf i hu) (fun _ _ _ _ _ hu => badPair_wf _ _ _ _ hu) h

end Sys2Proof.Machine
end

section
/-! PROOFS. O59: every step keeps the memory's canonical form. -/

namespace Sys2Proof.Machine

/-- Settles O59, by the lemma for the step, which rests on one lemma for each function of the model. -/
theorem stepKeepsMemory : Obligations.StepKeepsMemory := by
  intro s u h e
  have hs := step_wf h
  rw [e] at hs
  exact hs

end Sys2Proof.Machine
end

section
/-! PROOFS. O51 (HostAndPackage): events, fields of a masked word, a word of eight bytes, and what a read or a
whole-word write at its home leaves. -/

namespace Sys2Proof.Machine

/-! Events -/

/-- An event, while the clocks run. -/
theorem event_of_running {s : State} (f : State → State) (h : s.tripped = false) : event s f = .next (f s.between) := by
  unfold event
  rw [if_neg (by simp [h])]
  rfl

/-! Bits of a masked word, and a word put together from bytes -/

/-- A field that a mask keeps whole. -/
theorem extractLsb'_and_of_kept {v m : Word} {at' n : Nat} (h : ∀ i < n, m.getLsbD (at' + i) = true) :
    (v &&& m).extractLsb' at' n = v.extractLsb' at' n :=
  BitVec.eq_of_getLsbD_eq fun i hi => by simp [hi, h i hi]

theorem toNat_extractLsb' {w : Nat} (v : BitVec w) (at' n : Nat) :
    (v.extractLsb' at' n).toNat = v.toNat / 2 ^ at' % 2 ^ n := by
  rw [BitVec.extractLsb'_toNat, Nat.shiftRight_eq_div_pow]

/-- The word whose bytes are f 0, f 1 and so on, for n bytes. -/
def packedBytes (f : Nat → Byte) (n : Nat) : Word :=
  (List.range n).foldl (fun v i => v ||| ((f i).setWidth 64 <<< (8 * i))) 0

theorem packedBytes_succ (f : Nat → Byte) (n : Nat) :
    packedBytes f (n + 1) = packedBytes f n ||| ((f n).setWidth 64 <<< (8 * n)) := by
  simp [packedBytes, List.range_succ]

theorem getLsbD_packedBytes (f : Nat → Byte) (n j : Nat) (hj : j < 64) :
    (packedBytes f n).getLsbD j = (decide (j < 8 * n) && (f (j / 8)).getLsbD (j % 8)) := by
  induction n with
  | zero => simp [packedBytes]
  | succ n ih =>
    rw [packedBytes_succ, BitVec.getLsbD_or, ih, BitVec.getLsbD_shiftLeft, BitVec.getLsbD_setWidth]
    by_cases h1 : j < 8 * n
    · have h2 : j < 8 * (n + 1) := by omega
      simp [h1, h2]
    · by_cases h2 : j < 8 * (n + 1)
      · have h3 : j / 8 = n := by omega
        have h4 : j % 8 = j - 8 * n := by omega
        have h5 : j - 8 * n < 64 := by omega
        simp [h1, h2, h3, h4, h5, hj]
      · have h3 : (f n).getLsbD (j - 8 * n) = false := BitVec.getLsbD_of_ge _ _ (by omega)
        simp [h1, h2, h3]

theorem byteOf_packedBytes (f : Nat → Byte) {n i : Nat} (hn : n ≤ 8) (hi : i < n) :
    byteOf (packedBytes f n) i = f i := by
  refine BitVec.eq_of_getLsbD_eq fun j hj => ?_
  have h1 : (8 * i + j) / 8 = i := by omega
  have h2 : (8 * i + j) % 8 = j := by omega
  have h3 : 8 * i + j < 8 * n := by omega
  simp only [byteOf, BitVec.getLsbD_setWidth, BitVec.getLsbD_ushiftRight]
  rw [getLsbD_packedBytes _ _ _ (by omega), h1, h2]
  simp [hj, h3]

/-! Memory: a word by its bytes, and a write of all eight of them -/

/-- The value at n addresses whose bytes are those of v from byte j on. -/
theorem Memory.read_of_bytes (m : Memory) (v : Word) (n a j : Nat) (h : ∀ i < n, m.byte (a + i) = byteOf v (j + i)) :
    m.read a n = v.toNat / 2 ^ (8 * j) % 2 ^ (8 * n) := by
  induction n generalizing a j with
  | zero => simp [Memory.read, Nat.mod_one]
  | succ n ih =>
    have h0 : (m.byte a).toNat = v.toNat / 2 ^ (8 * j) % 256 := by
      have := h 0 (by omega)
      rw [Nat.add_zero, Nat.add_zero] at this
      rw [this, byteOf, BitVec.toNat_setWidth, BitVec.toNat_ushiftRight, Nat.shiftRight_eq_div_pow]
    have h1 := ih (a + 1) (j + 1) fun i hi => by
      have := h (i + 1) (by omega)
      rwa [show a + 1 + i = a + (i + 1) by omega, show j + 1 + i = j + (i + 1) by omega]
    rw [Memory.read, h0, h1, show 8 * (j + 1) = 8 * j + 8 by omega, show 8 * (n + 1) = 8 + 8 * n by omega,
      Nat.pow_add, Nat.pow_add, ← Nat.div_div_eq_div_mul, Nat.mod_mul]

theorem Memory.word_of_bytes (m : Memory) (k : Nat) (v : Word) (h : ∀ i < 8, m.byte (8 * k + i) = byteOf v i) :
    m.word k = v := by
  rw [Memory.word, Memory.read_of_bytes m v 8 (8 * k) 0 fun i hi => by rw [Nat.zero_add]; exact h i hi]
  apply BitVec.eq_of_toNat_eq
  simpa using v.isLt

/-- Two states whose memories have the same bytes and tags. -/
def State.SameContents (s u : State) : Prop :=
  (∀ a, u.mem.byte a = s.mem.byte a) ∧ ∀ k, u.mem.full k = s.mem.full k

theorem State.SameContents.refl (s : State) : s.SameContents s := ⟨fun _ => rfl, fun _ => rfl⟩
theorem State.SameContents.trans {s u v : State} (h : s.SameContents u) (h' : u.SameContents v) : s.SameContents v :=
  ⟨fun a => (h'.1 a).trans (h.1 a), fun k => (h'.2 k).trans (h.2 k)⟩
theorem State.sameContents_of_mem {s u : State} (e : u.mem = s.mem) : s.SameContents u := by
  unfold State.SameContents
  rw [e]
  exact State.SameContents.refl s

theorem State.sameContents_settle (s : State) (k : Nat) : s.SameContents (s.settle k) := by
  unfold State.settle
  split
  · exact ⟨fun _ => rfl, fun _ => rfl⟩
  · exact State.SameContents.refl s

theorem State.sameContents_releaseWatch (s : State) (w : Watch) : s.SameContents (s.releaseWatch w) := by
  unfold State.releaseWatch
  split
  · exact (State.sameContents_settle s w.key).trans (State.sameContents_of_mem (State.homeAnswer_mem _ _ _ _))
  · exact State.SameContents.refl s

theorem State.sameContents_foldl {α : Type} {f : State → α → State} (hf : ∀ (s : State) a, s.SameContents (f s a)) (l : List α)
    (s : State) : s.SameContents (l.foldl f s) := by
  induction l generalizing s with
  | nil => exact State.SameContents.refl s
  | cons a l ih => exact (hf s a).trans (ih (f s a))

theorem State.sameContents_wakeGranule (s : State) (k : Nat) : s.SameContents (s.wakeGranule k) :=
  State.sameContents_foldl State.sameContents_releaseWatch _ { s with watches := s.watches.filter fun w => w.key / 8 != k / 8 }

theorem Memory.full_write (m : Memory) (k : Nat) (mask : BitVec 8) (v : Word) (j : Nat) :
    (m.write k mask v).full j = m.full j := by
  unfold Memory.write
  dsimp only
  split <;> rfl

/-- A whole word written at its home with no change of tag. -/
theorem State.writeHome_whole (s : State) (k : Nat) (v : Word) :
    ({ s with mem := s.mem.write k 0xFF#8 v } : State).SameContents (s.writeHome k 0xFF#8 v none) := by
  unfold State.writeHome
  dsimp only
  rw [if_pos rfl, if_pos (Memory.full_write _ _ _ _ _)]
  exact State.sameContents_wakeGranule _ k

theorem State.preWrite_of_noEpoch {s : State} (h : NoEpoch s) (n k : Nat) : s.preWrite n k = s := by
  cases n with
  | zero => rfl
  | succ n =>
    have key : ∀ l : List (Nat × Tenant), l.foldl (fun s t => s.capture (State.preWrite n) t.1 (k / 8) true) s = s := by
      intro l
      induction l with
      | nil => rfl
      | cons t l ih =>
        have hc : s.capture (State.preWrite n) t.1 (k / 8) true = s := by
          unfold State.capture
          rw [h t.1]
        rw [List.foldl_cons, hc, ih]
    exact key _

theorem byte_mask_whole {i : Nat} (h : i < 8) : (0xFF#8).getLsbD i = true := by
  revert i
  decide

/-- What a whole-word write by an agent leaves, where no tenant's epoch is open: the word, every other byte and every tag. -/
theorem State.writeWord_whole {s : State} (h : NoEpoch s) (k : Nat) (v : Word) :
    (∀ i, i < 8 → (s.writeWord k 0xFF#8 v none).mem.byte (8 * k + i) = byteOf v i) ∧
    (∀ a, a / 8 ≠ k → (s.writeWord k 0xFF#8 v none).mem.byte a = s.mem.byte a) ∧
    ∀ j, (s.writeWord k 0xFF#8 v none).mem.full j = s.mem.full j := by
  obtain ⟨hb, hf⟩ := State.writeHome_whole s k v
  rw [State.writeWord, State.beforeWrite, State.preWrite_of_noEpoch h]
  refine ⟨fun i hi => ?_, fun a ha => ?_, fun j => ?_⟩
  · rw [hb, Memory.byte_write, if_pos ⟨by omega, by omega, by rw [Nat.add_sub_cancel_left]; exact byte_mask_whole hi⟩,
      Nat.add_sub_cancel_left]
  · rw [hb, Memory.byte_write, if_neg (by omega)]
  · rw [hf]; exact Memory.full_write _ _ _ _ _

/-- A word with no error is read as it stands. -/
theorem State.readWord_of_sound {s : State} {k : Nat} (h : s.mem.poisoned k = false) :
    s.readWord k = (s, .ok (s.mem.word k)) := by
  have hs : s.settle k = s := by
    unfold State.settle
    rw [if_neg]
    unfold Memory.poisoned at h
    simp_all
  unfold State.readWord
  rw [hs]
  simp [h]

/-- What a request's way to its home changes: the combining entries that it closes. -/
theorem State.unitAt_eq {s u : State} {src k : Nat} (e : s.unitAt src k = some u) : u = { s with combines := u.combines } := by
  unfold State.unitAt at e
  dsimp only at e
  split at e
  · cases e; rfl
  · split at e
    · exact absurd e nofun
    · cases e
      split <;> rfl

end Sys2Proof.Machine
end

section
/-! PROOFS. O51: reset, power, scrubs and queue registers (R404, R405, R413, R415, R417, R418). -/

namespace Sys2Proof.Machine

/-! Reset, power, links and scrubs -/

theorem execPackageReset_next (s : State) : ∃ u, execPackageReset s = .next u ∧
    u = { State.reset with
      flash := s.flash, fuses := s.fuses, firmware := u.firmware, mailboxStatus := if u.firmware then 0 else 3
      mailboxCode := if u.firmware then 0 else 0xFF
      fresh := s.fresh, agenda := s.agenda, focus := s.focus, cur := s.cur, slow := s.slow } ∧
    (u.firmware = true ↔ Config.sha256 (bitsBytes 64 s.flash.key) = s.fuses.keyHash ∧
      Config.slhVerify s.flash.key (Config.sha256 (wordBytes (BitVec.ofNat 64 s.flash.version) ++ s.flash.image)) s.flash.sig = true ∧
      s.fuses.rollback ≤ s.flash.version) := by
  refine ⟨_, rfl, rfl, ?_⟩
  show s.imageGood = true ↔ _
  simp [State.imageGood, Flash.signed, and_assoc]

section
variable {s : State} (h : s.tripped = false)
include h

theorem execCxlLinkReset_next : ∃ u, execCxlLinkReset s = .next u ∧
    u = { s with latch := {}, hostReply := [], linksDown := u.linksDown } ∧
    ∀ l, l ∈ u.linksDown ↔ l ∈ s.linksDown ∧ l ≠ .cxl := by
  refine ⟨_, event_of_running _ h, rfl, fun l => ?_⟩
  simp [State.between]

theorem execPowerMeasure_next (w : Nat) :
    execPowerMeasure w s = .next { s with
      latch := {}
      gating := if s.powerLimit < w then min 7 (s.gating + 1)
        else if 100 * w < 95 * s.powerLimit then s.gating - 1 else s.gating } := by
  refine (event_of_running _ h).trans (congrArg _ ?_)
  show (if s.powerLimit < w then ({ s.between with gating := min 7 (s.gating + 1) } : State)
    else if 100 * w < 95 * s.powerLimit then { s.between with gating := s.gating - 1 } else s.between) = _
  by_cases hw : s.powerLimit < w
  · rw [if_pos hw, if_pos hw]; rfl
  rw [if_neg hw, if_neg hw]
  by_cases hl : 100 * w < 95 * s.powerLimit
  · rw [if_pos hl, if_pos hl]; rfl
  · rw [if_neg hl, if_neg hl]; rfl

theorem execThermalThrottle_next : execThermalThrottle s = .next { s with latch := {}, gating := 7 } :=
  event_of_running _ h

theorem execThermalTrip_next : execThermalTrip s = .next { s with latch := {}, tripped := true } :=
  event_of_running _ h

theorem execPatrolScrub_next (k : Nat) :
    (k ∉ s.mem.upsets → execPatrolScrub k s = .next s.between) ∧
    (k ∈ s.mem.upsets → execPatrolScrub k s =
      .next { s with latch := {}, mem := s.mem.poison k, checks := s.checks ++ [⟨1, 8 * k⟩] }) := by
  unfold execPatrolScrub
  rw [event_of_running _ h]
  exact ⟨fun hk => congrArg _ (if_neg (by simpa [State.between] using hk)),
    fun hk => congrArg _ (if_pos (by simpa [State.between] using hk))⟩

theorem execLinkReplay_next (link : LinkName) : execLinkReplay link s = .next s.between := by
  unfold execLinkReplay
  rw [event_of_running _ h]
  cases link <;> rfl

/-! Queue registers -/

theorem execQueueDoorbell_next {q : Nat} (tail : BitVec 32) (hq : q ≤ 4095) (hh : s.queueHeld q = false) :
    execQueueDoorbell q tail s =
      .next { (s.setQueue q { s.queue q with tail := tail.toNat, bells := (s.queue q).bells ++ [(tail.toNat, s.nextId)] }) with
        latch := {}, nextId := s.nextId + 1 } := by
  unfold execQueueDoorbell
  rw [event_of_running _ h, if_neg (by omega), if_neg (by rw [show s.between.queueHeld q = _ from hh]; simp)]
  rfl

theorem execQueueDoorbell_held {q : Nat} (tail : BitVec 32) (hq : q ≤ 4095) (hh : s.resetting = some (s.queue q).tenant) :
    execQueueDoorbell q tail s = .next { s with latch := {}, heldBells := s.heldBells ++ [(q, tail)] } := by
  have hq' : s.between.queueHeld q = true := by
    show (s.resetting == some (s.queue q).tenant) = true
    simp [hh]
  unfold execQueueDoorbell
  rw [event_of_running _ h, if_neg (by omega), if_pos hq']
  rfl

theorem execRegisterWrite_queueCompletion {q : Nat} (v : Word) (hq : q ≤ 4095) :
    execRegisterWrite (.queueCompletion q) v s =
      .next (s.setQueue q { s.queue q with word1 := v &&& 0x0000FFFFFFFFFFFF#64 }).between := by
  unfold execRegisterWrite
  rw [event_of_running _ h]
  dsimp only
  rw [if_neg (by omega)]
  rfl

theorem execRegisterWrite_queueChead {q : Nat} (v : Word) (hq : q ≤ 4095) :
    execRegisterWrite (.queueChead q) v s = .next (s.setQueue q { s.queue q with chead := v.toNat % 2 ^ 32 }).between := by
  unfold execRegisterWrite
  rw [event_of_running _ h]
  dsimp only
  rw [if_neg (by omega), toNat_extractLsb', Nat.pow_zero, Nat.div_one]
  rfl

end

/-- A range of addresses lies within an HDM range of the tenant. -/
theorem State.inHdm_iff (s : State) (t a n : Nat) : s.inHdm t a n = true ↔
    ∃ r ∈ s.hdm, r.2.tenant = t ∧ r.2.base ≤ a ∧ a + n ≤ r.2.base + r.2.len := by
  simp only [State.inHdm, List.any_eq_true, Bool.and_eq_true, beq_iff_eq, decide_eq_true_eq, and_assoc]

/-- The mask of queue word 0 keeps the field of the ring's size. -/
theorem queueWord0_size (v : Word) : ((v &&& 0x0000FFFFFFFFF00F#64).extractLsb' 0 4).toNat = v.toNat % 16 := by
  rw [extractLsb'_and_of_kept (by decide), toNat_extractLsb', Nat.pow_zero, Nat.div_one]
  rfl

/-- The mask of queue word 0 keeps the field of the ring's base. -/
theorem queueWord0_base (v : Word) :
    ((v &&& 0x0000FFFFFFFFF00F#64).extractLsb' 12 36).toNat = v.toNat / 2 ^ 12 % 2 ^ 36 := by
  rw [extractLsb'_and_of_kept (by decide), toNat_extractLsb']

theorem execQueueEnable_next {s : State} (h : s.tripped = false) {q : Nat} (v : Word) (hq : q ≤ 4095) :
    let ring (t : Nat) (a n : Nat) : Prop := ∃ r ∈ s.hdm, r.2.tenant = t ∧ r.2.base ≤ a ∧ a + n ≤ r.2.base + r.2.len
    let rlog := v.toNat % 16
    let clog := (s.queue q).word1.toNat % 16
    let t := (s.queue q).tenant
    let ok : Prop := 4 ≤ rlog ∧ rlog ≤ 12 ∧ 4 ≤ clog ∧ ring t (v.toNat / 2 ^ 12 % 2 ^ 36 * 4096) (512 * 2 ^ rlog) ∧
      ring t ((s.queue q).word1.toNat / 2 ^ 4 % 2 ^ 44 * 16) (16 * 2 ^ clog)
    ∃ x, execQueueEnable q v s = .next (s.setQueue q x).between ∧
      x = { s.queue q with word0 := v &&& 0x0000FFFFFFFFF00F#64, en := x.en } ∧ (x.en = true ↔ v.getLsbD 63 = true ∧ ok) := by
  intro ring rlog clog t ok
  unfold execQueueEnable
  rw [event_of_running _ h, if_neg (by omega)]
  refine ⟨_, rfl, rfl, ?_⟩
  simp only [HostQueue.rlog, HostQueue.rbase, HostQueue.clog, HostQueue.cbase, queueWord0_size, queueWord0_base]
  simp only [toNat_extractLsb', Nat.pow_zero, Nat.div_one, Bool.and_eq_true, decide_eq_true_eq, State.inHdm_iff, and_assoc]
  rfl

end Sys2Proof.Machine
end

section
/-! PROOFS. O51: accesses of the host and of peers, SPDM and BAR0 (R401, R402, R409, R412, R414). -/

namespace Sys2Proof.Machine

/-! Accesses of the host, SPDM, BAR0 and peers -/

/-- A word of an HDM range that the home's access table refuses to the host. -/
theorem State.hostWord_of_refused {s : State} {a pa level : Nat} {r : HdmRange} (hr : s.hdmOf a = some (r, pa))
    (hok : s.accessOk (sliceOf pa) (r.tenant * 8 + 4) r.cls level = false) : s.hostWord a level = none := by
  unfold State.hostWord
  rw [hr]
  exact if_neg (by simp [hok])

/-- A word of an HDM range that the home's access table lets the host reach. -/
theorem State.hostWord_of_allowed {s : State} {a pa level : Nat} {r : HdmRange} (hr : s.hdmOf a = some (r, pa))
    (hp : usablePa pa = true) (hok : s.accessOk (sliceOf pa) (r.tenant * 8 + 4) r.cls level = true) :
    s.hostWord a level = some (pa / 8) := by
  unfold State.hostWord
  rw [hr]
  exact if_pos (by simp [hp, hok])

/-- An aligned word is covered by itself. -/
theorem coveredWords_of_aligned {a : Nat} (h : a % 8 = 0) : coveredWords a 8 = [a] := by
  have e : a / 8 * 8 = a := by omega
  simp [coveredWords, h, e]

theorem State.hostArrives_one (s : State) (level a : Nat) :
    s.hostArrives level [a] = match s.hostWord a level with | some k => s.unitAt epCol k | none => some s := rfl

theorem State.hostReadWord_of_sound {u : State} {a k : Nat} (hf : u.firmware = true) (hw : u.hostWord a 1 = some k)
    (hs : u.mem.poisoned k = false) :
    u.hostReadWord a = { u with hostReply := u.hostReply ++ [(u.mem.word k, false)] } := by
  unfold State.hostReadWord
  rw [if_neg (by simp [hf]), hw]
  dsimp only
  rw [State.readWord_of_sound hs]

theorem State.hostReadWord_of_refused {u : State} {a : Nat} (hf : u.firmware = true) (hw : u.hostWord a 1 = none) :
    u.hostReadWord a = { u with
      hostReply := u.hostReply ++ [(Config.freeWord u.fresh, true)], fresh := u.fresh + 1
      checks := u.checks ++ [⟨5, a⟩] } := by
  unfold State.hostReadWord
  rw [if_neg (by simp [hf]), hw]
  rfl

theorem State.hostWriteWord_of_refused {u : State} {addr a : Nat} {bytes : List Byte} (hf : u.firmware = true)
    (hw : u.hostWord a 2 = none) : u.hostWriteWord addr bytes a = u.check 5 a := by
  unfold State.hostWriteWord
  rw [if_neg (by simp [hf]), hw]

/-- A host write of eight bytes at an aligned address writes the whole word that they make. -/
theorem State.hostWriteWord_of_eight {u : State} {a k : Nat} {bytes : List Byte} (hb : bytes.length = 8)
    (hf : u.firmware = true) (hw : u.hostWord a 2 = some k) :
    u.hostWriteWord a bytes a = u.writeWord k 0xFF#8 (packedBytes (fun i => bytes.getD i 0) 8) none := by
  have hbyte : ∀ i, (if a + i < a then none else bytes[a + i - a]?) = bytes[i]? := fun i => by
    rw [if_neg (by omega), Nat.add_sub_cancel_left]
  have hmask : (List.range 8).foldl (fun m i => if bytes[i]?.isSome then m ||| (1#8 <<< i) else m) 0 = 0xFF#8 := by
    simp [List.range_succ, hb]
  unfold State.hostWriteWord
  rw [if_neg (by simp [hf]), hw]
  simp only [hbyte, hmask, packedBytes, List.getD_eq_getElem?_getD]

section
variable {s : State} (h : s.tripped = false) {a pa : Nat} {r : HdmRange} (ha : a % 8 = 0) (hf : s.firmware = true)
  (hr : s.hdmOf a = some (r, pa))
include h ha hf hr

theorem execHostRead_refused (hok : s.accessOk (sliceOf pa) (r.tenant * 8 + 4) r.cls 1 = false) :
    ∃ u w, execHostRead a 8 s = .next u ∧ u.hostReply = [(w, true)] ∧ u.checks = s.checks ++ [⟨5, a⟩] ∧ u.mem = s.mem := by
  have hw : s.between.hostWord a 1 = none := State.hostWord_of_refused (s := s.between) hr hok
  have hread := State.hostReadWord_of_refused (u := { s.between with hostReply := [] }) hf hw
  unfold execHostRead
  rw [event_of_running _ h, coveredWords_of_aligned ha, State.hostArrives_one, hw]
  dsimp only [List.foldl_cons, List.foldl_nil]
  rw [hread]
  exact ⟨_, _, rfl, rfl, rfl, rfl⟩

theorem execHostRead_next {v : State} (hp : usablePa pa = true)
    (hok : s.accessOk (sliceOf pa) (r.tenant * 8 + 4) r.cls 1 = true) (hs : s.mem.poisoned (pa / 8) = false)
    (hv : s.between.unitAt epCol (pa / 8) = some v) :
    execHostRead a 8 s = .next { v with hostReply := [(s.mem.word (pa / 8), false)] } := by
  have hw : s.between.hostWord a 1 = some (pa / 8) := State.hostWord_of_allowed (s := s.between) hr hp hok
  obtain ⟨c, rfl⟩ : ∃ c, v = { s.between with combines := c } := ⟨_, State.unitAt_eq hv⟩
  have hread := State.hostReadWord_of_sound (u := { s.between with combines := c, hostReply := [] }) hf hw hs
  unfold execHostRead
  rw [event_of_running _ h, coveredWords_of_aligned ha, State.hostArrives_one, hw]
  dsimp only
  rw [hv]
  dsimp only [List.foldl_cons, List.foldl_nil]
  rw [hread]
  rfl

theorem execHostWrite_refused (hok : s.accessOk (sliceOf pa) (r.tenant * 8 + 4) r.cls 2 = false)
    {bytes : List Byte} (hb : bytes.length = 8) :
    execHostWrite a bytes s = .next { s with latch := {}, checks := s.checks ++ [⟨5, a⟩] } := by
  have hw : s.between.hostWord a 2 = none := State.hostWord_of_refused (s := s.between) hr hok
  unfold execHostWrite
  rw [event_of_running _ h, hb, coveredWords_of_aligned ha, State.hostArrives_one, hw]
  dsimp only [List.foldl_cons, List.foldl_nil]
  rw [State.hostWriteWord_of_refused (u := s.between) hf hw]
  rfl

theorem execHostWrite_next {v : State} (hpa : pa % 8 = 0) (hp : usablePa pa = true)
    (hok : s.accessOk (sliceOf pa) (r.tenant * 8 + 4) r.cls 2 = true) (he : NoEpoch s)
    (hv : s.between.unitAt epCol (pa / 8) = some v) {bytes : List Byte} (hb : bytes.length = 8) :
    ∃ u, execHostWrite a bytes s = .next u ∧ (∀ i, i < 8 → u.mem.byte (pa + i) = bytes.getD i 0) ∧
      (∀ x, x / 8 ≠ pa / 8 → u.mem.byte x = s.mem.byte x) ∧ ∀ k, u.mem.full k = s.mem.full k := by
  have hw : s.between.hostWord a 2 = some (pa / 8) := State.hostWord_of_allowed (s := s.between) hr hp hok
  obtain ⟨c, rfl⟩ : ∃ c, v = { s.between with combines := c } := ⟨_, State.unitAt_eq hv⟩
  have hwrite := State.hostWriteWord_of_eight (u := { s.between with combines := c }) hb hf hw
  obtain ⟨hbytes, hothers, hfull⟩ := State.writeWord_whole (s := { s.between with combines := c }) he (pa / 8)
    (packedBytes (fun i => bytes.getD i 0) 8)
  unfold execHostWrite
  rw [event_of_running _ h, hb, coveredWords_of_aligned ha, State.hostArrives_one, hw]
  dsimp only
  rw [hv]
  dsimp only [List.foldl_cons, List.foldl_nil]
  rw [hwrite]
  refine ⟨_, rfl, fun i hi => ?_, hothers, hfull⟩
  have e : pa + i = 8 * (pa / 8) + i := by omega
  rw [e, hbytes i hi, byteOf_packedBytes _ (Nat.le_refl 8) hi]

end

section
variable {s : State} (h : s.tripped = false)
include h

theorem execSpdmCertificate_next : ∃ u ws, execSpdmCertificate s = .next u ∧
    u = { s with latch := {}, hostReply := u.hostReply, fresh := s.fresh + 1 } ∧
    u.hostReply = if s.firmware then (bitsWords 8 (Config.slhKey s.fuses.seed) ++ ws).map fun w => (w, false) else [] := by
  unfold execSpdmCertificate
  rw [event_of_running _ h]
  exact ⟨_, [Config.spdmAnswer s.fresh], rfl, rfl, rfl⟩

theorem execSpdmMeasurements_next :
    let m := [Config.sha256 Config.bootRom, Config.sha256 (wordBytes (BitVec.ofNat 64 s.flash.version) ++ s.flash.image),
        Config.sha256 (bitsBytes 32 s.fuses.keyHash ++ wordBytes (BitVec.ofNat 64 s.fuses.rollback) ++ bitsBytes 32 s.fuses.seed),
        Config.sha256 (s.tenantConfig.flatMap wordBytes)].flatMap (bitsWords 4)
    ∃ u, execSpdmMeasurements s = .next u ∧ u = { s with latch := {}, hostReply := u.hostReply, fresh := s.fresh + 1 } ∧
      u.hostReply = if s.firmware then
        (m ++ bitsWords 3724 (Config.slhSign s.fuses.seed (Config.sha256 (m.flatMap wordBytes)))).map fun w => (w, false) else [] := by
  intro m
  have hm : s.between.measurements.flatMap (bitsWords 4) = m := rfl
  unfold execSpdmMeasurements
  rw [event_of_running _ h, hm]
  exact ⟨_, rfl, rfl, rfl⟩

theorem execBarRead_tail {q : Nat} (hq : q ≤ 4095) :
    execBarRead (64 * q + 16) s = .next { s with latch := {}, hostReply := [(BitVec.ofNat 64 (s.queue q).tail, false)] } := by
  have hread : s.between.barRead (64 * q + 16) = BitVec.ofNat 64 (s.queue q).tail := by
    have h1 : (64 * q + 16) / 64 = q := by omega
    have h2 : (64 * q + 16) % 64 / 8 = 2 := by omega
    unfold State.barRead
    rw [if_pos (by omega), h1, h2]
    rfl
  unfold execBarRead
  rw [event_of_running _ h, hread]
  rfl

theorem execBarRead_mailboxStatus : execBarRead 0x40028 s =
    .next { s with latch := {}, hostReply := [(BitVec.ofNat 64 (s.mailboxCode * 256 + s.mailboxStatus), false)] } := by
  have hread : s.between.barRead 0x40028 = BitVec.ofNat 64 (s.mailboxCode * 256 + s.mailboxStatus) := by
    unfold State.barRead
    rw [if_neg (by decide), if_pos rfl]
    rfl
  unfold execBarRead
  rw [event_of_running _ h, hread]
  rfl

omit h in
/-- A request that every check lets through is not refused. -/
theorem not_refused_of_allowed {a b c : Bool} (ha : a = true) (hb : b = true) (hc : c = true) :
    ¬(!(a && b && c)) = true := by simp [ha, hb, hc]

theorem execPeerAccess_read {port tn cls pa : Nat} (hp : usablePa pa = true)
    (hport : s.accessOk (514 + port) (tn * 8 + 5) cls 1 = true) (hhome : s.accessOk (sliceOf pa) (tn * 8 + 5) cls 1 = true)
    (hs : s.mem.poisoned (pa / 8) = false) {v : State} (hv : s.between.unitAt epCol (pa / 8) = some v) :
    execPeerAccess port tn cls .read pa s =
      .next { v with outside := s.outside ++ [⟨some port, pa, .answer (s.mem.word (pa / 8)), cls, tn⟩] } := by
  have hok : ¬(!(usablePa pa && s.between.accessOk (514 + port) (tn * 8 + 5) cls (peerLevel .read) &&
      s.between.accessOk (sliceOf pa) (tn * 8 + 5) cls (peerLevel .read))) = true :=
    not_refused_of_allowed hp hport hhome
  obtain ⟨c, rfl⟩ : ∃ c, v = { s.between with combines := c } := ⟨_, State.unitAt_eq hv⟩
  have hread := State.readWord_of_sound (s := { s.between with combines := c }) hs
  unfold execPeerAccess
  rw [event_of_running _ h]
  dsimp only
  rw [if_neg hok, hv]
  dsimp only
  rw [hread]
  rfl

theorem execPeerAccess_write {port tn cls pa : Nat} (hp : usablePa pa = true)
    (hport : s.accessOk (514 + port) (tn * 8 + 5) cls 2 = true) (hhome : s.accessOk (sliceOf pa) (tn * 8 + 5) cls 2 = true)
    (he : NoEpoch s) (v : Word) {x : State} (hx : s.between.unitAt epCol (pa / 8) = some x) :
    ∃ u, execPeerAccess port tn cls (.write 0xFF#8 v) pa s = .next u ∧ u.mem.word (pa / 8) = v ∧
      (∀ a, a / 8 ≠ pa / 8 → u.mem.byte a = s.mem.byte a) ∧ ∀ k, u.mem.full k = s.mem.full k := by
  have hok : ¬(!(usablePa pa && s.between.accessOk (514 + port) (tn * 8 + 5) cls (peerLevel (.write 0xFF#8 v)) &&
      s.between.accessOk (sliceOf pa) (tn * 8 + 5) cls (peerLevel (.write 0xFF#8 v)))) = true :=
    not_refused_of_allowed hp hport hhome
  obtain ⟨c, rfl⟩ : ∃ c, x = { s.between with combines := c } := ⟨_, State.unitAt_eq hx⟩
  obtain ⟨hbytes, hothers, hfull⟩ := State.writeWord_whole (s := { s.between with combines := c }) he (pa / 8) v
  unfold execPeerAccess
  rw [event_of_running _ h]
  dsimp only
  rw [if_neg hok, hx]
  exact ⟨_, rfl, Memory.word_of_bytes _ _ _ hbytes, hothers, hfull⟩

end

end Sys2Proof.Machine
end

section
/-! PROOFS. O51: link failures and peer groups (R282, R363), and the obligation. -/

namespace Sys2Proof.Machine

/-! Link failures: what ends a request over a link changes neither memory nor reports nor the links' state -/

/-- Two states with the same memory, the same machine-check records and the same links down. -/
def State.SameReports (s u : State) : Prop := u.mem = s.mem ∧ u.checks = s.checks ∧ u.linksDown = s.linksDown

theorem State.SameReports.refl (s : State) : s.SameReports s := ⟨rfl, rfl, rfl⟩

theorem State.SameReports.trans {s u v : State} (h : s.SameReports u) (h' : u.SameReports v) : s.SameReports v :=
  ⟨h'.1.trans h.1, h'.2.1.trans h.2.1, h'.2.2.trans h.2.2⟩

theorem State.sameReports_foldl {α : Type} {f : State → α → State} (hf : ∀ (s : State) a, s.SameReports (f s a))
    (l : List α) (s : State) : s.SameReports (l.foldl f s) := by
  induction l generalizing s with
  | nil => exact State.SameReports.refl s
  | cons a l ih => exact (hf s a).trans (ih (f s a))

theorem State.sameReports_modThread (s : State) (slot : Nat) (f : Thread → Thread) : s.SameReports (s.modThread slot f) :=
  ⟨State.modThread_mem _ _ _, State.modThread_checks _ _ _, State.modThread_linksDown _ _ _⟩

theorem State.sameReports_answer (s : State) (slot k : Nat) (r : Except Nat Word) : s.SameReports (s.answer slot k r) :=
  State.sameReports_modThread _ _ _

theorem State.sameReports_modPort (s : State) (slot h : Nat) (f : Port → Port) : s.SameReports (s.modPort slot h f) :=
  State.sameReports_modThread _ _ _

theorem State.sameReports_endUpdate (s : State) (f : Flight) (refused : Bool) : s.SameReports (s.endUpdate f refused) := by
  unfold State.endUpdate
  split
  · split
    · exact ⟨rfl, rfl, rfl⟩
    · exact State.SameReports.refl s
  · exact State.sameReports_modThread _ _ _

theorem State.sameReports_endAway (s : State) (f : Flight) : s.SameReports (s.endAway f) := by
  unfold State.endAway
  extract_lets s1 core
  have h1 : s.SameReports s1 := ⟨rfl, rfl, rfl⟩
  split
  · exact h1.trans (State.sameReports_endUpdate _ _ _)
  split
  · exact h1
  · split
    · exact h1
    · exact h1.trans (State.sameReports_modPort _ _ _ _)
  · split
    · exact h1.trans ⟨rfl, rfl, rfl⟩
    · exact h1

theorem State.sameReports_refuseAway (s : State) (ident : Nat) : s.SameReports (s.refuseAway ident) := by
  unfold State.refuseAway
  split
  · next f _ =>
    have hdrop : ∀ l, s.SameReports { s with flights := l } := fun _ => ⟨rfl, rfl, rfl⟩
    split
    · exact (hdrop _).trans (State.sameReports_endUpdate _ _ _)
    split
    · exact (State.sameReports_endAway s f).trans ⟨rfl, rfl, rfl⟩
    · exact (hdrop _).trans (State.sameReports_modPort _ _ _ _)
    · exact State.sameReports_endAway s f
  · exact State.SameReports.refl s

theorem State.sameReports_ackUpdate (s : State) (u : Update) (e : UpdateEnd) : s.SameReports (s.ackUpdate u e) :=
  State.sameReports_foldl (fun v who => by cases who <;> exact ⟨rfl, rfl, rfl⟩) _ s

theorem State.sameReports_failGroup (s : State) (group : Nat) : s.SameReports (s.failGroup group) := ⟨rfl, rfl, rfl⟩

theorem State.sameReports_endPacket (s : State) (fuel : Nat) (p : Packet) : s.SameReports (s.endPacket fuel p) := by
  induction fuel generalizing s p with
  | zero => exact State.SameReports.refl s
  | succ fuel ih =>
    unfold State.endPacket
    extract_lets merged dropped s1 ended
    have h1 : s.SameReports s1 := ⟨rfl, rfl, rfl⟩
    have hanswers : ∀ slot (l : List Nat), s.SameReports (l.foldl (fun s k => s.answer slot k (.error 0x09)) s1) :=
      fun slot l => h1.trans (State.sameReports_foldl (fun v k => State.sameReports_answer v slot k _) l s1)
    have he : ∀ u, ended = some u → s.SameReports u := by
      intro u hu
      unfold ended at hu
      clear_value s1
      split at hu
      · cases hu
        split
        · exact h1.trans ⟨rfl, rfl, rfl⟩
        · exact h1.trans ⟨rfl, rfl, rfl⟩
        · exact hanswers _ _
      · cases hu; exact hanswers _ _
      · cases hu; exact h1.trans (State.sameReports_ackUpdate _ _ _)
      · cases hu; exact h1.trans (State.sameReports_ackUpdate _ _ _)
      · exact absurd hu nofun
    clear_value ended
    split
    · exact (he _ rfl).trans (State.sameReports_foldl (fun v m => ih v m) _ _)
    · exact State.SameReports.refl s

section
variable {s : State} (h : s.tripped = false)
include h

theorem execLinkFailure_next (link : LinkName) : ∃ u, execLinkFailure link s = .next u ∧ link ∈ u.linksDown ∧
    u.mem = s.mem ∧ ∃ k, u.checks = s.checks ++ [⟨6, k⟩] := by
  unfold execLinkFailure
  rw [event_of_running _ h]
  refine ⟨_, rfl, ?_⟩
  extract_lets about s0 s1 s2 s3
  have h0 : s.SameReports s0 := State.SameReports.trans (u := s.between) ⟨rfl, rfl, rfl⟩
    (State.sameReports_foldl (fun v x => State.sameReports_foldl (fun w k => State.sameReports_answer w _ _ _) _ v) _ _)
  clear_value s0
  have h1 : s.SameReports s1 := h0.trans (State.sameReports_foldl State.sameReports_refuseAway _ _)
  clear_value s1
  obtain ⟨hm1, hc1, -⟩ := h1
  have hm2 : s2.mem = s.mem := hm1
  have hc2 : s2.checks = s.checks := hc1
  have hl2 : link ∈ s2.linksDown := by
    show link ∈ if s1.linksDown.contains link then s1.linksDown else s1.linksDown ++ [link]
    split
    · next hin => exact List.contains_iff_mem.1 hin
    · exact List.mem_append_right _ (List.mem_singleton_self _)
  clear_value s2
  obtain ⟨hm3, hc3, hl3⟩ : s2.SameReports s3 := by
    unfold s3
    split
    · exact State.sameReports_foldl (fun v q => State.sameReports_endPacket v _ q) _ _
    · exact State.sameReports_foldl State.sameReports_failGroup _ _
    · exact State.SameReports.refl _
  refine ⟨?_, hm3.trans hm2, about, ?_⟩
  · show link ∈ s3.linksDown
    rw [hl3]; exact hl2
  · show s3.checks ++ [⟨6, about⟩] = _
    rw [hc3, hc2]

theorem execPeerGroupLeave_next (group package : Nat) : ∃ u, execPeerGroupLeave group package s = .next u ∧ u.mem = s.mem ∧
    (∀ g ∈ u.peerGroups, g.1 = group → package ∉ g.2) ∧
    ∀ r ∈ u.rounds, ctlScope r.2.group = 2 → ctlPg r.2.group = group → r.2.failed.isSome = true := by
  unfold execPeerGroupLeave
  rw [event_of_running _ h]
  refine ⟨_, rfl, rfl, ?_, ?_⟩
  · intro g hg hgroup
    obtain ⟨g0, -, rfl⟩ := List.mem_map.1 hg
    split at hgroup
    · next e => rw [if_pos e]; simp
    · next e => exact absurd hgroup e
  · intro r hr hscope hgroup
    obtain ⟨r0, -, rfl⟩ := List.mem_map.1 hr
    dsimp only at hscope hgroup ⊢
    split at hscope
    · next e => rw [if_pos e]; cases r0.2.failed <;> rfl
    · next e => rw [if_neg e] at hgroup; exact absurd ⟨hscope, hgroup⟩ e

end

/-- Settles O51, clause by clause: one lemma for each event from outside, under its own name above. -/
theorem hostAndPackage : Obligations.HostAndPackage := by
  refine ⟨execPackageReset_next, fun s h => ⟨execCxlLinkReset_next h, fun w => execPowerMeasure_next h w,
    execThermalThrottle_next h, execThermalTrip_next h, fun k => execPatrolScrub_next h k,
    fun q tail hq hh => execQueueDoorbell_next h tail hq hh, fun q tail hq hh => execQueueDoorbell_held h tail hq hh,
    fun q v hq => execQueueEnable_next h v hq,
    fun q v hq => ⟨execRegisterWrite_queueCompletion h v hq, execRegisterWrite_queueChead h v hq⟩,
    fun a r pa ha hf hr hpa => ⟨fun v hp hok hs hv => execHostRead_next h ha hf hr hp hok hs hv,
      fun v hp hok he hv bytes hb => execHostWrite_next h ha hf hr hpa hp hok he hv hb,
      fun hok => execHostRead_refused h ha hf hr hok, fun hok bytes hb => execHostWrite_refused h ha hf hr hok hb⟩,
    execSpdmCertificate_next h, execSpdmMeasurements_next h, fun q hq => execBarRead_tail h hq, execBarRead_mailboxStatus h,
    fun port tn cls pa hp hpa => ⟨fun hport hhome hs v hv => execPeerAccess_read h hp hport hhome hs hv,
      fun hport hhome he v x hx => execPeerAccess_write h hp hport hhome he v hx⟩,
    fun link => execLinkReplay_next h link, fun link => execLinkFailure_next h link,
    fun group package => execPeerGroupLeave_next h group package⟩⟩

end Sys2Proof.Machine
end

section
/-! Decoding and encoding (R33 to R37, R44, R46, R63): a word cut into its fields and put together again, and the decoder on the
fields that the encoder writes. -/

namespace Sys2Proof

/-! Two fields side by side, of the widths the name gives, cut apart again -/

section
variable (a a' : BitVec 1) (b : BitVec 2) (c : BitVec 3) (d : BitVec 4)

theorem append_1_1_high : (a ++ a' : BitVec 2).extractLsb' 1 1 = a := BitVec.extractLsb'_append_eq_left
theorem append_1_1_low : (a ++ a' : BitVec 2).extractLsb' 0 1 = a' := BitVec.extractLsb'_append_eq_right
theorem append_1_2_low : (a ++ b : BitVec 3).extractLsb' 0 2 = b := BitVec.extractLsb'_append_eq_right
theorem append_1_3_high : (a ++ c : BitVec 4).extractLsb' 3 1 = a := BitVec.extractLsb'_append_eq_left
theorem append_1_3_low : (a ++ c : BitVec 4).extractLsb' 0 3 = c := BitVec.extractLsb'_append_eq_right
theorem append_3_1_high : (c ++ a : BitVec 4).extractLsb' 1 3 = c := BitVec.extractLsb'_append_eq_left
theorem append_3_1_low : (c ++ a : BitVec 4).extractLsb' 0 1 = a := BitVec.extractLsb'_append_eq_right
theorem append_1_4_high : (a ++ d : BitVec 5).extractLsb' 4 1 = a := BitVec.extractLsb'_append_eq_left
theorem append_1_4_low : (a ++ d : BitVec 5).extractLsb' 0 4 = d := BitVec.extractLsb'_append_eq_right
theorem append_4_1_high : (d ++ a : BitVec 5).extractLsb' 1 4 = d := BitVec.extractLsb'_append_eq_left
theorem append_4_1_low : (d ++ a : BitVec 5).extractLsb' 0 1 = a := BitVec.extractLsb'_append_eq_right
theorem append_2_3_high : (b ++ c : BitVec 5).extractLsb' 3 2 = b := BitVec.extractLsb'_append_eq_left
theorem append_2_3_low : (b ++ c : BitVec 5).extractLsb' 0 3 = c := BitVec.extractLsb'_append_eq_right
theorem append_3_2_low : (c ++ b : BitVec 5).extractLsb' 0 2 = b := BitVec.extractLsb'_append_eq_right

/-- The type codes of the floating-point forms (R34). -/
theorem floatType_bit2 : (0#1 ++ b : BitVec 3).getLsbD 2 = false := by
  simp only [BitVec.getLsbD_append]; simp

/-- The type codes of the integer forms (R34). -/
theorem intType_bit2 : (1#1 ++ b : BitVec 3).getLsbD 2 = true := by
  simp only [BitVec.getLsbD_append]; simp

theorem intType_bit2_ne : ¬ (1#1 ++ b : BitVec 3).getLsbD 2 = false := by
  rw [intType_bit2]; exact Bool.noConfusion

/-- The register strides and the rotation that pitch packs into its rd field (R37). -/
theorem pitchFields_cut (sd sa sb : BitVec 1) (rot : BitVec 2) :
    let f : BitVec 5 := sd ++ sa ++ sb ++ rot
    f.extractLsb' 4 1 = sd ∧ f.extractLsb' 3 1 = sa ∧ f.extractLsb' 2 1 = sb ∧ f.extractLsb' 0 2 = rot := by
  refine ⟨?_, ?_, ?_, ?_⟩ <;> (ext i hi; simp; grind)
end

/-! An immediate that the encoder cuts into fields, put together again (R63) -/

theorem join_s3 (v : BitVec 3) : v.extractLsb' 1 2 ++ v.extractLsb' 0 1 = v :=
  (BitVec.extractLsb'_append_extractLsb'_eq_extractLsb' rfl).trans BitVec.extractLsb'_eq_self

theorem join_pred (v : BitVec 4) : v.extractLsb' 1 3 ++ v.extractLsb' 0 1 = v :=
  (BitVec.extractLsb'_append_extractLsb'_eq_extractLsb' rfl).trans BitVec.extractLsb'_eq_self

theorem join_fm (v : BitVec 4) : v.extractLsb' 2 2 ++ v.extractLsb' 1 1 ++ v.extractLsb' 0 1 = v := by
  ext i hi; simp; grind

theorem join_shift (v : BitVec 6) : v.extractLsb' 5 1 ++ v.extractLsb' 0 5 = v :=
  (BitVec.extractLsb'_append_extractLsb'_eq_extractLsb' rfl).trans BitVec.extractLsb'_eq_self

theorem join_groupImm (v : BitVec 10) : v.extractLsb' 9 1 ++ v.extractLsb' 5 4 ++ v.extractLsb' 0 5 = v := by
  ext i hi; simp; grind

theorem join_imm12 (v : BitVec 12) :
    v.extractLsb' 10 2 ++ v.extractLsb' 9 1 ++ v.extractLsb' 5 4 ++ v.extractLsb' 0 5 = v := by
  ext i hi; simp; grind

theorem join_branchImm (v : BitVec 12) : v.extractLsb' 11 1 ++ v.extractLsb' 10 1 ++ v.extractLsb' 9 1 ++ v.extractLsb' 8 1 ++
    v.extractLsb' 4 4 ++ v.extractLsb' 0 4 = v := by
  ext i hi; simp; grind

theorem join_upperImm (v : BitVec 20) : v.extractLsb' 18 2 ++ v.extractLsb' 17 1 ++ v.extractLsb' 13 4 ++ v.extractLsb' 8 5 ++
    v.extractLsb' 3 5 ++ v.extractLsb' 0 3 = v := by
  ext i hi; simp; grind

theorem join_jumpImm (v : BitVec 20) : v.extractLsb' 19 1 ++ v.extractLsb' 14 5 ++ v.extractLsb' 11 3 ++ v.extractLsb' 10 1 ++
    v.extractLsb' 9 1 ++ v.extractLsb' 8 1 ++ v.extractLsb' 4 4 ++ v.extractLsb' 0 4 = v := by
  ext i hi; simp; grind

/-! Words and their fields -/

theorem Parts.ofWord_toWord (p : Parts) : Parts.ofWord p.toWord = p := by
  obtain ⟨top, b29, mid, rs2, rs1, f3, rd, op⟩ := p
  simp only [Parts.ofWord, Parts.toWord, Parts.mk.injEq]
  refine ⟨?_, ?_, ?_, ?_, ?_, ?_, ?_, ?_⟩ <;>
  · ext i hi
    simp only [BitVec.getElem_extractLsb', BitVec.getLsbD_append]
    grind

theorem decodeWord_toWord (p : Parts) : decodeWord p.toWord = decodeParts p := by
  rw [decodeWord, Parts.ofWord_toWord]

/-! The decoder on the fields that the encoder writes -/

/-- An instruction with its operands written otherwise is the same answer. -/
theorem ok_of_eq {x : Except Reject Instr} {i j : Instr} (h : x = .ok j) (e : j = i) : x = .ok i := e ▸ h

/-- The decoder reads the fields that the encoder writes, family by family: where every operand stands whole in its field the decoder
gives it as it is, and an operand that the encoder cuts or packs is put together again. -/
theorem decodeParts_encodeParts {i : Instr} {p : Parts} (hw : i.wf = true) (h : encodeParts i = some p) :
    decodeParts p = .ok i := by
  cases i <;> obtain ⟨⟩ := h <;> delta decodeParts <;> dsimp only
  -- operands cut into several fields
  case lb | lh | lw | ld | lbu | lhu | lwu | sb | sh | sw | sd | addi | slti | sltiu | xori | ori | andi | addiw | jalr |
      csrrw | csrrs | csrrc | csrrwi | csrrsi | csrrci =>
    exact ok_of_eq rfl (by rw [join_imm12])
  case lui | auipc => exact ok_of_eq rfl (by rw [join_upperImm])
  case jal =>
    exact ok_of_eq rfl (by rw [append_1_1_high, append_1_1_low, append_4_1_high, append_4_1_low, join_jumpImm])
  case beq | bne | blt | bge | bltu | bgeu =>
    exact ok_of_eq rfl (by rw [append_1_1_high, append_1_1_low, append_4_1_high, append_4_1_low, join_branchImm])
  case ldg | stg => exact ok_of_eq rfl (by rw [join_groupImm])
  case mmBf16 | mmF16 | mmE4m3 | mmE5m2 | mmE4m3E5m2 | mmE5m2E4m3 | mmC8 | mmBf16C8 | mmE2m1 | mmI8 | mmF32x =>
    exact ok_of_eq rfl (by rw [join_s3])
  -- operands packed into one field
  case slli | srli | srai => simp [decodeOpImm, append_3_1_high, append_3_1_low, join_shift]
  case fence =>
    exact ok_of_eq rfl (by rw [append_1_3_high, append_1_3_low, append_1_4_high, append_1_4_low, join_fm, join_pred])
  case fadd | fsub | fmul | fmac | fmsc | fmin | fmax | fdiv | fsqrt | frcpe | frsqe | fsgnj | fsgnjn | fsgnjx | fsum | fmaxa =>
    exact ok_of_eq (if_pos (floatType_bit2 _)) (by rw [append_1_2_low])
  case spanAdd | spanSub | spanMin | spanMax | spanMaxn | spanMul | spanMulh | spanAnd | spanOr | spanXor | spanSll | spanSrl |
      spanSra | fsl | fsr | gmax =>
    exact ok_of_eq (if_neg (intType_bit2_ne _)) (by rw [append_1_2_low])
  case fclass | qenc | qdec | qfp8 | qfp8x | dfp8 | dfp8x =>
    delta decodeCustom1; dsimp only
    exact ok_of_eq (if_pos (floatType_bit2 _)) (by rw [append_1_2_low])
  case cmpltn | clz | popc | gsum =>
    delta decodeCustom1; dsimp only
    exact ok_of_eq (if_pos (intType_bit2 _)) (by rw [append_1_2_low])
  case tabld => delta decodeCustom1; dsimp only; exact ok_of_eq rfl (by rw [append_3_2_low])
  case amadd | amand | amor | amxor | ammin | ammax | amminn | ammaxn | amswp | amcas | amfadd | amfaddC =>
    delta decodeCustom2; dsimp only
    exact ok_of_eq rfl (by rw [append_1_1_high, append_1_1_low])
  case fenceS kind scope =>
    -- the kind and the scope that R36 leaves out are not well formed
    obtain ⟨hk, hs⟩ := Bool.and_eq_true_iff.1 (hw : (decide (kind ≠ 3#2) && decide (scope ≠ 7#3)) = true)
    delta decodeCustom2; dsimp only
    rw [append_2_3_high, append_2_3_low]
    exact (if_neg (of_decide_eq_true hk)).trans (if_neg (of_decide_eq_true hs))
  case reach => delta decodeCustom3; dsimp only; exact ok_of_eq rfl (by simp only [append_3_2_low])
  case when => delta decodeCustom3; dsimp only; exact ok_of_eq rfl (by rw [append_1_3_high, append_4_1_low, join_shift])
  case pitch => delta decodeCustom3; dsimp only; exact ok_of_eq rfl (by simp [pitchFields_cut])
  case xempty => delta decodeCustom3; dsimp only; exact ok_of_eq rfl (by rw [append_3_2_low])
  -- the other forms: every operand stands whole in its field
  case add | sub | sll | slt | sltu | xor | srl | sra | or | and | mul | mulh | mulhsu | mulhu | div | divu | rem | remu =>
    delta decodeOp; dsimp only; rfl
  case addw | subw | sllw | srlw | sraw | mulw | divw | divuw | remw | remuw => delta decodeOp32; dsimp only; rfl
  case slliw | srliw | sraiw => delta decodeOpImm32; dsimp only; rfl
  case fenceI => rfl
  case ecall | ebreak => delta decodeSystem; dsimp only; rfl
  case cmpeq | cmplt | cmple | cvt | cvtr | abs | neg | perm | lmsk | lexp => delta decodeCustom1; dsimp only; rfl
  case lde | ldt | stf | stp | tagrd | tagset | waitA | wake | ldx | stx | fenceE | pbind | punb | pstat | psave | prest | pskip | isect |
      tlook | tins | tinv => delta decodeCustom2; dsimp only; rfl
  all_goals delta decodeCustom3; dsimp only; rfl

/-- Settles O58: the word keeps the fields, and the decoder gives back the instruction they were written for. -/
theorem decodeEncode : Obligations.DecodeEncode := by
  intro i w hw h
  obtain ⟨p, hp, rfl⟩ := Option.map_eq_some_iff.1 h
  rw [decodeWord_toWord, decodeParts_encodeParts hw hp]

/-- Settles O57: each of the words is the one that the encoder writes for its instruction. -/
theorem decodeExamples : Obligations.DecodeExamples := by
  refine ⟨?_, ?_, ?_, ?_, ?_, ?_, ?_, ?_, ?_, ?_, ?_, ?_, ?_, ?_, ?_, ?_, ?_, ?_, ?_, ?_, ?_, ?_, ?_, ?_, ?_, ?_, ?_, ?_, ?_, ?_, ?_,
    ?_, ?_, ?_, ?_, ?_, ?_, ?_, ?_, ?_, ?_, ?_, ?_, ?_, ?_, ?_, ?_⟩ <;> exact decodeEncode _ _ rfl rfl

end Sys2Proof
end

section
/-! The words of an instruction (R38 to R41): the prefixes in front of it, its extended fields, the operands it names and what keeps
it from executing. -/

namespace Sys2Proof.Machine

/-! The words reach and when (R39, R40, R41) -/

section
variable {s : State} {t : Thread} {second : Bool} {l : Latch → Latch}

theorem prefixWord_first (hc : s.tripped = false) (ht : s.thread? s.cur = some t) :
    prefixWord s false l = .next { s with latch := { l s.latch with n := s.latch.n + 1, more := true } } := by
  simp [prefixWord, hc, ht]

theorem prefixWord_second (hc : s.tripped = false) (ht : s.thread? s.cur = some t) :
    prefixWord s true l = .next (s.trap s.cur 0x01 s.latch.tval) := by
  simp [prefixWord, hc, ht]
end

theorem execReach_eq (a b c : BitVec 2) (s : State) :
    exec (.reach a b c) s = prefixWord s s.latch.reach.isSome fun l => { l with reach := some (c, b, a) } := rfl

theorem execWhen_eq (neg : BitVec 1) (p : BitVec 6) (s : State) :
    exec (.when neg p) s = prefixWord s s.latch.guard.isSome fun l => { l with guard := some (decide (neg = 1#1), p) } := rfl

/-- A word whose instruction asks for another one is latched, and the words after it run from there (R41). -/
theorem runWords_more {s s1 s2 : State} {t : Thread} {w : BitVec 32} {i : Instr} {fuel : Nat} (ht : s.thread? s.cur = some t)
    (hf : s.fetch32 s.cur t (t.pc + BitVec.ofNat 64 (4 * s.latch.n)) = (s1, .ok w)) (hd : decodeWord w = .ok i)
    (hx : exec i { s1 with latch := { s1.latch with word := w } } = .next s2) (hm : s2.latch.more = true) :
    runWords exec badPair (fuel + 1) s = runWords exec badPair fuel { s2 with latch := { s2.latch with more := false } } := by
  simp only [runWords, ht, hf, hd, hx, hm, if_true]

/-- Settles O3: reach and when are each a prefixWord, whose state the next word starts from. -/
theorem prefixedStep : Obligations.PrefixedStep := by
  refine ⟨fun s t a b c neg p hc ht => ⟨fun h => ?_, fun h => ?_, fun h => ?_, fun h => ?_⟩,
    fun s s1 t w fuel a b c neg p ht hf hc hs hm => ⟨fun hd h => ?_, fun hd h => ?_⟩,
    fun l f d a b => ⟨fun h => ?_, fun h => ?_⟩⟩
  · rw [execReach_eq, h]; exact prefixWord_first hc ht
  · rw [execReach_eq, Option.isSome_iff_ne_none.2 h]; exact prefixWord_second hc ht
  · rw [execWhen_eq, h]; exact prefixWord_first hc ht
  · rw [execWhen_eq, Option.isSome_iff_ne_none.2 h]; exact prefixWord_second hc ht
  · obtain ⟨t1, ht1⟩ := Option.isSome_iff_exists.1 hs
    rw [runWords_more ht hf hd (by rw [execReach_eq, h]; exact prefixWord_first hc ht1) rfl, ← hm]
  · obtain ⟨t1, ht1⟩ := Option.isSome_iff_exists.1 hs
    rw [runWords_more ht hf hd (by rw [execWhen_eq, h]; exact prefixWord_first hc ht1) rfl, ← hm]
  · simp [Latch.rd, Latch.rs1, Latch.rs2, h]
  · simp [Latch.rd, Latch.rs1, Latch.rs2, h]

end Sys2Proof.Machine
end

section
/-! The forms of the integer base, as the issue of their operands (R64, R65, R68) -/

namespace Sys2Proof.Machine

theorem exec_regForm {i : Instr} {rd rs1 rs2 : BitVec 5} {f : Word → Word → Word} (h : regForm i = some (rd, rs1, rs2, f)) :
    ∃ g, ∀ s, exec i s = aluR s rd rs1 rs2 g := by
  cases i <;> cases h <;> delta exec <;> dsimp only <;> exact ⟨_, fun _ => rfl⟩

theorem exec_immForm {i : Instr} {rd rs1 : BitVec 5} {f : Word → Word} (h : immForm i = some (rd, rs1, f)) :
    ∃ g, ∀ s, exec i s = aluI s rd rs1 g := by
  cases i <;> cases h <;> delta exec <;> dsimp only <;> exact ⟨_, fun _ => rfl⟩

theorem exec_lui (rd : BitVec 5) (imm : BitVec 20) (s : State) : exec (.lui rd imm) s = aluU s rd fun _ => immU imm := rfl

theorem exec_auipc (rd : BitVec 5) (imm : BitVec 20) (s : State) : exec (.auipc rd imm) s = aluU s rd fun pc => pc + immU imm := rfl

/-- The comparisons of R68, in the numbers that its words stand for. -/
theorem exec_branchForm {i : Instr} {rs1 rs2 : BitVec 5} {imm : BitVec 12} {f : Word → Word → Bool}
    (h : branchForm i = some (rs1, rs2, imm, f)) (s : State) : exec i s = branch s rs1 rs2 imm f := by
  cases i <;> cases h <;> delta exec <;> dsimp only <;> refine congrArg (branch s _ _ _) (funext fun x => funext fun y => ?_)
  case beq => simp [BitVec.toNat_inj, beq_eq_decide]
  case bne => simp [BitVec.toNat_inj, bne, beq_eq_decide]
  case blt => rfl
  case bge => simp [BitVec.slt, ← decide_not]
  case bltu => rfl
  case bgeu => simp [BitVec.ult, ← decide_not]

/-! Hints (R45, R70, R73) -/

section
variable {s : State} {t : Thread}

theorem CanIssue.hint (h : CanIssue s t []) : s.hint = .next (s.retires t (s.nextPc t)) := by
  rw [State.hint, h.issue, h.done]

theorem aluU_hint (hr : s.latch.reach = none) (f : Word → Word) : aluU s 0 f = s.hint := by
  simp [aluU, hr]

theorem aluI_hint (hr : s.latch.reach = none) (rs1 : BitVec 5) (f : Word → Word) : aluI s 0 rs1 f = s.hint := by
  simp [aluI, hr]

theorem aluR_hint (hr : s.latch.reach = none) (rs1 rs2 : BitVec 5) (f : Word → Word → Word) : aluR s 0 rs1 rs2 f = s.hint := by
  simp [aluR, hr]

/-- A combination that R46 does not allow traps before anything of its operands is looked at. -/
theorem issue_illegal (hc : s.tripped = false) (ht : s.thread? s.cur = some t) (us : List RegUse) (body : State → Ctx → State) :
    issue s true us body = .next (s.trap s.cur 0x01 s.latch.tval) := by
  simp [issue, hc, ht, issueT]
end

theorem decodeWord_hintRegion {w : BitVec 32} (hop : w.extractLsb' 0 7 = 0x7B#7) (hf : w.extractLsb' 12 3 = 7#3) :
    decodeWord w = .ok .hintRegion := by
  simp [decodeWord, decodeParts, Parts.ofWord, hop, decodeCustom3, hf]

/-- Settles O6: a hint names no operand, and its body retires. -/
theorem hintsDoNothing : Obligations.HintsDoNothing := by
  intro s t h
  refine ⟨fun i rs1 rs2 f hf hr => ?_, fun i rs1 f hf hr => ?_, fun imm hr => ⟨?_, ?_⟩, fun fm pred succ hp => ?_, fun hn => ?_,
    fun hn => ?_, fun w => decodeWord_hintRegion⟩
  · obtain ⟨g, hg⟩ := exec_regForm hf
    rw [hg, aluR_hint hr, h.hint]
  · obtain ⟨g, hg⟩ := exec_immForm hf
    rw [hg, aluI_hint hr, h.hint]
  · rw [exec_lui, aluU_hint hr, h.hint]
  · rw [exec_auipc, aluU_hint hr, h.hint]
  · have hp' : ¬ (pred ≠ 0 ∧ succ ≠ 0) := fun ⟨h1, h2⟩ => hp.elim h1 h2
    show execFence fm pred succ s = _
    simp only [execFence, if_neg hp']
    exact h.hint
  · show execHintRegion s = _
    rw [execHintRegion, if_neg (not_not.2 hn)]
    exact h.hint
  · show execHintRegion s = _
    rw [execHintRegion, if_pos hn]
    exact issue_illegal h.clocks h.thread _ _

/-! Control transfers (R31, R68) -/

/-- A branch's or a jump's immediate counts halves of a word. -/
theorem signExtend_append_zero {n : Nat} (imm : BitVec n) : (imm ++ 0#1).signExtend 64 = BitVec.ofInt 64 (2 * imm.toInt) := by
  rw [BitVec.signExtend, BitVec.toInt_append_zero, pow_one]

theorem extractLsb'_two_ne_zero_iff (v : Word) : v.extractLsb' 0 2 ≠ 0 ↔ ¬ v.toNat % 4 = 0 := by
  simp [← BitVec.toNat_inj]

theorem Thread.setXs_one (t : Thread) (n : Nat) (w : Word) : t.setXs n [w] = t.setX n w := rfl

section
variable {s : State} {t : Thread} {us : List RegUse}

theorem trap_of_thread (ht : s.thread? s.cur = some t) (cause : Nat) (v : Word) :
    s.trap s.cur cause v = s.trapAt s.cur cause v t.pc := by
  rw [State.trap, ht]

theorem CanIssue.src_rs (h : CanIssue s t us) {n : Nat} (hn : rs n ∈ us) : t.src n = t.x n := h.src hn (by simp)

theorem CanIssue.trapc (h : CanIssue s t us) {cause : Nat} (hc : cause < 2 ^ 32) (w npc v : Word) :
    s.trapc ⟨s.cur, t, w, npc, us⟩ cause v = s.trapAt s.cur cause v t.pc := by
  rw [State.trapc, State.trapAccess, if_neg (by omega), if_neg (by omega), trap_of_thread h.thread]

/-- A transfer without a result is a retirement at its target. -/
theorem CanIssue.jumpTo_nil (h : CanIssue s t us) (w npc pc : Word) :
    s.jumpTo ⟨s.cur, t, w, npc, us⟩ pc 0 [] = s.retires t pc := by
  have e : s.thread? s.cur = some t := h.thread
  have hl : s.latch.replay = 0 := h.direct
  simp [State.jumpTo, h.popPorts, State.writeRegs, e, State.retire, State.modThread, hl, State.retires, Thread.retired]

/-- A transfer to an address goes there, or traps where it is no multiple of 4 (R31). -/
theorem CanIssue.transfer (h : CanIssue s t us) (w npc target : Word) (go : State) :
    (if target.extractLsb' 0 2 ≠ 0 then s.trapc ⟨s.cur, t, w, npc, us⟩ 0x03 target else go) =
      if target.toNat % 4 = 0 then go else s.trapAt s.cur 0x03 target t.pc := by
  simp only [extractLsb'_two_ne_zero_iff, h.trapc (show 0x03 < 2 ^ 32 by decide), ite_not]

/-- A transfer that goes writes its result as any retirement does. -/
theorem CanIssue.transfer_link (h : CanIssue s t us) {d : Nat} (hd : rdst d ∈ us) (w npc target v : Word) :
    (if target.extractLsb' 0 2 ≠ 0 then s.trapc ⟨s.cur, t, w, npc, us⟩ 0x03 target
      else s.jumpTo ⟨s.cur, t, w, npc, us⟩ target d [v]) =
      if target.toNat % 4 = 0 then s.retires (t.setX d v) target else s.trapAt s.cur 0x03 target t.pc := by
  have hj : s.jumpTo ⟨s.cur, t, w, npc, us⟩ target d [v] = s.retires (t.setX d v) target := h.finish hd (by simp) w target [v]
  rw [h.transfer, hj]
end

/-- Settles O7: the body of a transfer tests its target before it retires. -/
theorem controlTransfers : Obligations.ControlTransfers := by
  constructor
  · intro i rs1 rs2 imm f hf s t
    dsimp only
    intro h
    have ha : t.src (s.latch.rs1 rs1) = t.x (s.latch.rs1 rs1) := h.src_rs (by simp)
    have hb : t.src (s.latch.rs2 rs2) = t.x (s.latch.rs2 rs2) := h.src_rs (by simp)
    rw [exec_branchForm hf, branch, h.issue]
    simp only [Ctx.x, ha, hb, signExtend_append_zero, h.transfer, h.jumpTo_nil, h.done]
    cases f (t.x (s.latch.rs1 rs1)) (t.x (s.latch.rs2 rs2)) <;> rfl
  · intro s t rd rs1 imm off
    refine ⟨fun h => ?_, fun h => ?_⟩
    · show execJal rd off s = _
      rw [execJal, h.issue]
      simp only [signExtend_append_zero]
      exact congrArg _ (h.transfer_link (by simp) _ _ _ _)
    · have ha : t.src (s.latch.rs1 rs1) = t.x (s.latch.rs1 rs1) := h.src_rs (by simp)
      show execJalr rd rs1 imm s = _
      rw [execJalr, h.issue]
      simp only [Ctx.x, ha]
      exact congrArg _ (h.transfer_link (by simp) _ _ _ _)

end Sys2Proof.Machine
end

section
/-! What keeps an instruction from executing, in the order of the decode checks (R38, R40, R41, R74, R178) -/

namespace Sys2Proof.Machine

section
variable {s : State} {t : Thread} {us : List RegUse} {n : Nat}

theorem unaligned_eq_false (ha : ∀ u ∈ us, u.n % u.span = 0) : us.any (fun u => u.n % u.span != 0) = false := by
  simpa using ha

theorem overWindow_eq_none (hw : ∀ u ∈ us, ∀ n ∈ u.regs, n < t.limit) : overWindow t us = none := by
  simp only [overWindow, List.min?_eq_none_iff, List.filter_eq_nil_iff, List.mem_flatMap, decide_eq_true_eq, not_le]
  rintro n ⟨u, hu, hn⟩
  exact hw u hu n hn

/-- An instruction with a register outside the window traps before its guard is looked at. -/
theorem issue_overWindow (hc : s.tripped = false) (ht : s.thread? s.cur = some t) (ha : ∀ u ∈ us, u.n % u.span = 0)
    (hw : overWindow t us = some n) (body : State → Ctx → State) :
    issue s false us body = .next (s.trapAt s.cur 0x02 (BitVec.ofNat 64 n) t.pc) := by
  simp [issue, hc, ht, issueT, unaligned_eq_false ha, hw, trap_of_thread ht]

/-- An instruction whose guard does not let it retires, and looks at no register. -/
theorem issue_guardedOff (hc : s.tripped = false) (ht : s.thread? s.cur = some t) (hr : s.latch.replay = 0)
    (ha : ∀ u ∈ us, u.n % u.span = 0) (hw : ∀ u ∈ us, ∀ n ∈ u.regs, n < t.limit) (hg : s.latch.guardOk t.pw = false)
    (body : State → Ctx → State) : issue s false us body = .next (s.retires t (s.nextPc t)) := by
  simp [issue, hc, ht, issueT, unaligned_eq_false ha, overWindow_eq_none hw, hg, State.retire, hr, State.modThread, State.retires,
    Thread.retired, State.nextPc, Latch.next]

/-! A thread with no port and no pitch body has only its registers to wait for. -/

theorem portMisuse_of_no_ports (hp : t.ports = []) : portMisuse t us = false := by simp [portMisuse, hp]

theorem portOf_of_no_ports (hp : t.ports = []) (n : Nat) : t.portOf n = none := by simp [Thread.portOf, hp]

theorem heldByBody_of_no_body (hb : t.body = none) : heldByBody t us = false := by simp [heldByBody, heldRegs, hb]

theorem issue_emptySource (hc : s.tripped = false) (ht : s.thread? s.cur = some t) (hr : s.latch.replay = 0)
    (ha : ∀ u ∈ us, u.n % u.span = 0) (hw : ∀ u ∈ us, ∀ n ∈ u.regs, n < t.limit) (hg : s.latch.guardOk t.pw = true)
    (hp : t.ports = []) (hb : t.body = none) (he : emptySource t us = some n) (body : State → Ctx → State) :
    issue s false us body = .next { s.setThread s.cur { t with run := .waiting (.fullReg n) } with latch := {} } := by
  simp [issue, hc, ht, issueT, unaligned_eq_false ha, overWindow_eq_none hw, hg, portMisuse_of_no_ports hp,
    heldByBody_of_no_body hb, he, State.park, hr, State.modThread]

theorem issue_badParity (hc : s.tripped = false) (ht : s.thread? s.cur = some t) (ha : ∀ u ∈ us, u.n % u.span = 0)
    (hw : ∀ u ∈ us, ∀ n ∈ u.regs, n < t.limit) (hg : s.latch.guardOk t.pw = true) (hp : t.ports = []) (hb : t.body = none)
    (he : emptySource t us = none) (hpar : badParity t us = some n)
    (body : State → Ctx → State) :
    issue s false us body = .next ((s.check 2 s.cur).trapAt s.cur 0x0E (BitVec.ofNat 64 n) t.pc) := by
  have ht' : (s.check 2 s.cur).thread? (s.check 2 s.cur).cur = some t := ht
  simp [issue, hc, ht, issueT, unaligned_eq_false ha, overWindow_eq_none hw, hg, portMisuse_of_no_ports hp,
    heldByBody_of_no_body hb, he, hpar]
  exact trap_of_thread ht' _ _
end

/-! The operands of a register form -/

section
variable {t : Thread} {a b d n : Nat}

/-- The lowest of some numbers that has a property. -/
theorem min?_filter_eq_some {l : List Nat} {p : Nat → Bool} :
    (l.filter p).min? = some n ↔ n ∈ l ∧ p n = true ∧ ∀ m ∈ l, p m = true → n ≤ m := by
  simp only [List.min?_eq_some_iff, List.mem_filter, and_imp, and_assoc]

theorem overWindow_regs : overWindow t [rs a, rs b, rdst d] = some n ↔
    n ∈ [d, a, b] ∧ t.limit ≤ n ∧ ∀ m ∈ [d, a, b], t.limit ≤ m → n ≤ m := by
  simp [overWindow, min?_filter_eq_some, or_comm, or_left_comm]

theorem emptySource_regs (hp : t.ports = []) : emptySource t [rs a, rs b, rdst d] =
    ([a, b].filter fun n => !(t.reg n).full).min? := by
  simp [emptySource, portOf_of_no_ports hp, rs, rdst, RegUse.regs]

theorem badParity_regs (hp : t.ports = []) : badParity t [rs a, rs b, rdst d] =
    ([a, b].filter fun n => (t.reg n).perr).min? := by
  simp [badParity, portOf_of_no_ports hp, rs, rdst, RegUse.regs]
end

theorem aluR_of_not_hint {s : State} {rd : BitVec 5} (h : rd ≠ 0 ∨ s.latch.reach ≠ none) (rs1 rs2 : BitVec 5)
    (f : Word → Word → Word) : aluR s rd rs1 rs2 f =
      issue s false [rs (s.latch.rs1 rs1), rs (s.latch.rs2 rs2), rdst (s.latch.rd rd)] fun s' c =>
        s'.finish c (s.latch.rd rd) [f (c.x (s.latch.rs1 rs1)) (c.x (s.latch.rs2 rs2))] := by
  have hn : ¬ (rd = 0 && s.latch.reach.isNone) = true := by simpa [imp_iff_not_or] using h
  exact if_neg hn

/-- Settles O10: each check comes before those that follow it. -/
theorem operandTraps : Obligations.OperandTraps := by
  intro i rd rs1 rs2 f hf s t
  dsimp only
  intro hc ht hr hg hp hb hn
  obtain ⟨g, hx⟩ := exec_regForm hf
  simp only [hx, aluR_of_not_hint hn]
  have hal : ∀ u ∈ [rs (s.latch.rs1 rs1), rs (s.latch.rs2 rs2), rdst (s.latch.rd rd)], u.n % u.span = 0 := by
    simp [rs, rdst, Nat.mod_one]
  have hok : s.latch.guardOk t.pw = true := by rw [Latch.guardOk, hg]
  constructor
  · intro n hm hl hmin
    exact issue_overWindow hc ht hal (overWindow_regs.2 ⟨hm, hl, hmin⟩) _
  · intro hw
    have hwin : ∀ u ∈ [rs (s.latch.rs1 rs1), rs (s.latch.rs2 rs2), rdst (s.latch.rd rd)], ∀ n ∈ u.regs, n < t.limit := by
      simpa [and_comm, and_left_comm] using hw
    constructor
    · intro n hm he hmin
      refine issue_emptySource hc ht hr hal hwin hok hp hb ?_ _
      rw [emptySource_regs hp, min?_filter_eq_some]
      exact ⟨hm, by simpa using he, fun m hm' he' => hmin m hm' (by simpa using he')⟩
    · intro n hfull hm he hmin
      refine issue_badParity hc ht hal hwin hok hp hb ?_ ?_ _
      · rw [emptySource_regs hp, List.min?_eq_none_iff, List.filter_eq_nil_iff]
        exact fun m hm' => by simp [hfull m hm']
      · rw [badParity_regs hp, min?_filter_eq_some]
        exact ⟨hm, he, hmin⟩

end Sys2Proof.Machine
end

section
/-! The operands of every form that reach and when may stand before (R38, R41): each is the issue of the operands that formUses lists. -/

namespace Sys2Proof.Machine

/-- The answer is the issue of an instruction that names no registers but those of us, however it uses them. -/
def IssuesOn (s : State) (o : Host.Outcome State Fault Refusal) (us : List RegUse) : Prop :=
  ∃ us' body, o = issue s false us' body ∧ ∀ u' ∈ us', ∃ u ∈ us, u'.n = u.n ∧ u'.span = u.span

section
variable {s : State} {us : List RegUse} {o : Host.Outcome State Fault Refusal}

theorem IssuesOn.of_issue (us : List RegUse) (body : State → Ctx → State) : IssuesOn s (issue s false us body) us :=
  ⟨us, body, rfl, fun u hu => ⟨u, hu, rfl, rfl⟩⟩

theorem IssuesOn.of_nil (body : State → Ctx → State) : IssuesOn s (issue s false [] body) us :=
  ⟨[], body, rfl, by simp⟩

theorem IssuesOn.of_issueOnCompute (us : List RegUse) (body : State → Ctx → State) :
    IssuesOn s (issueOnCompute s us body) us := by
  rw [issueOnCompute]
  split
  · refine ⟨_, _, rfl, fun u' hu' => ?_⟩
    obtain ⟨u, hu, rfl⟩ := List.mem_map.1 hu'
    exact ⟨u, hu, rfl, rfl⟩
  · exact .of_issue us body

theorem IssuesOn.of_aluU (rd : BitVec 5) (f : Word → Word) : IssuesOn s (aluU s rd f) [rdst (s.latch.rd rd)] := by
  rw [aluU]
  split
  · exact .of_nil _
  · exact .of_issue _ _

theorem IssuesOn.of_aluI (rd rs1 : BitVec 5) (f : Word → Word) :
    IssuesOn s (aluI s rd rs1 f) [rs (s.latch.rs1 rs1), rdst (s.latch.rd rd)] := by
  rw [aluI]
  split
  · exact .of_nil _
  · exact .of_issue _ _

theorem IssuesOn.of_aluR (rd rs1 rs2 : BitVec 5) (f : Word → Word → Word) :
    IssuesOn s (aluR s rd rs1 rs2 f) [rs (s.latch.rs1 rs1), rs (s.latch.rs2 rs2), rdst (s.latch.rd rd)] := by
  rw [aluR]
  split
  · exact .of_nil _
  · exact .of_issue _ _

/-- What an issue on the registers does, it does however it uses them. -/
theorem IssuesOn.guardedOff {t : Thread} (h : IssuesOn s o us) (hc : s.tripped = false) (ht : s.thread? s.cur = some t)
    (hr : s.latch.replay = 0) (ha : ∀ u ∈ us, u.n % u.span = 0) (hw : ∀ u ∈ us, ∀ n ∈ u.regs, n < t.limit)
    (hg : s.latch.guardOk t.pw = false) : o = .next (s.retires t (s.nextPc t)) := by
  obtain ⟨us', body, rfl, hsub⟩ := h
  refine issue_guardedOff hc ht hr (fun u' hu' => ?_) (fun u' hu' => ?_) hg body
  · obtain ⟨u, hu, hn, hs⟩ := hsub u' hu'
    rw [hn, hs]
    exact ha u hu
  · obtain ⟨u, hu, hn, hs⟩ := hsub u' hu'
    rw [RegUse.regs, hn, hs]
    exact hw u hu
end

/-! Lanes and registers of a span, as the statements count them (R201, R202) -/

theorem regsOf_eq_regsFor (n w : Nat) : regsOf n w = regsFor n w := by
  rw [regsOf, regsFor]
  split <;> omega

theorem laneCount_tyWidth (span : BitVec 2) (ty : Nat) : laneCount span (tyWidth ty) = lanesIn span (tyWidth ty) := by
  have h : tyWidth ty ∣ 64 := by
    unfold tyWidth
    split <;> decide
  rw [laneCount, lanesIn, Nat.mul_div_assoc _ h]

theorem LaneOp.uses_eq_shape0 (o : LaneOp) (l : Latch) :
    o.uses l = (shape0 l o.span o.bc o.ty o.rd o.rs1 o.rs2 o.readsRd o.readsRs2).uses := by
  simp only [LaneOp.uses, shape0, regsOf_eq_regsFor, laneCount_tyWidth]

/-! The span forms (R203 to R213) -/

section
variable {s : State} {sh : Shape}

theorem IssuesOn.of_spanForm (hl : sh.illegal = false) (rounds single : Bool) (fill : Fill) (w d : Nat)
    (f : State → Ctx → Mode → Lanes) : IssuesOn s (spanForm s sh rounds single fill w d f) sh.uses := by
  rw [spanForm, hl]
  exact .of_issue _ _

variable (span ty : BitVec 2) (bc : BitVec 1) (rd rs1 rs2 : BitVec 5)

theorem IssuesOn.of_fpForm (rounds readRd readRs2 : Bool) (f : Fmt → Mode → Nat → Nat → Nat → Res) :
    IssuesOn s (fpForm s span bc ty rd rs1 rs2 rounds readRd readRs2 f)
      (shape0 s.latch span bc ty.toNat rd rs1 rs2 readRd readRs2).uses := by
  rw [fpForm]
  exact .of_spanForm rfl _ _ _ _ _ _

theorem IssuesOn.of_fpReduce (rounds : Bool) (f : Fmt → Mode → List Nat → Res) :
    IssuesOn s (fpReduce s span bc ty rd rs1 rs2 rounds f) (shape0 s.latch span bc ty.toNat rd rs1 rs2 false false).uses := by
  rw [fpReduce]
  exact .of_spanForm rfl _ _ _ _ _ _

theorem IssuesOn.of_intForm (readRd : Bool) (f : Nat → Nat → Nat → Nat → Nat) :
    IssuesOn s (intForm s span bc ty rd rs1 rs2 readRd f)
      (shape0 s.latch span bc (4 + ty.toNat) rd rs1 rs2 readRd true).uses := by
  rw [intForm]
  exact .of_spanForm rfl _ _ _ _ _ _

theorem IssuesOn.of_cmpForm (ty : Nat) (signals : Bool) (ord : Int → Bool) (int : Nat → Nat → Nat → Bool) :
    IssuesOn s (cmpForm s span ty rd rs1 rs2 signals ord int) (shape2 s.latch span ty rd rs1 rs2).uses := by
  rw [cmpForm]
  exact .of_spanForm rfl _ _ _ _ _ _

theorem IssuesOn.of_bitForm (ty : Nat) (f : Nat → Nat → Nat) :
    IssuesOn s (bitForm s span ty rd rs1 f) (shape1 s.latch span ty rd rs1).uses := by
  rw [bitForm]
  exact .of_spanForm rfl _ _ _ _ _ _

theorem IssuesOn.of_quantForm (counts : Bool) (q : State → Ctx → Fv → Fv → Quant) :
    IssuesOn s (quantForm s span ty rd rs1 rs2 counts q) (shapeQuant s.latch span ty.toNat rd rs1 rs2).uses := by
  rw [quantForm]
  exact .of_spanForm rfl _ _ _ _ _ _

theorem IssuesOn.of_dequantForm (v : State → Ctx → Nat → Fv) :
    IssuesOn s (dequantForm s span ty rd rs1 rs2 v) (shapeDequant s.latch span ty.toNat rd rs1 rs2).uses := by
  rw [dequantForm]
  exact .of_spanForm rfl _ _ _ _ _ _

theorem IssuesOn.of_convertForm (ty dt : Nat) (signed rounds : Bool) (mode : Option Mode)
    (hk : regsOf (laneCount span (tyWidth ty)) (tyWidth dt) ≤ 8) :
    IssuesOn s (convertForm s span ty dt rd rs1 signed rounds mode) (shapeCvt s.latch span ty dt rd rs1).uses := by
  rw [convertForm]
  exact .of_spanForm (decide_eq_false (by omega)) _ _ _ _ _ _
end

theorem issuesOn_laneForm {s : State} {i : Instr} {o : LaneOp} (h : laneForm i = some o) :
    IssuesOn s (exec i s) (o.uses s.latch) := by
  rw [LaneOp.uses_eq_shape0]
  cases i <;> cases h <;> delta exec <;> dsimp only
  case fclass => delta execFclass; exact .of_spanForm rfl _ _ _ _ _ _
  case cmpeq | cmplt | cmple | cmpltn => exact .of_cmpForm _ _ _ _ _ _ _ _
  case clz | popc | abs | neg => exact .of_bitForm _ _ _ _ _
  case fadd | fsub | fmul | fmac | fmsc | fmin | fmax | fdiv | fsqrt | frcpe | frsqe | fsgnj | fsgnjn | fsgnjx =>
    exact .of_fpForm _ _ _ _ _ _ _ _ _ _
  all_goals exact .of_intForm _ _ _ _ _ _ _ _

section
variable (l : Latch) (span : BitVec 2) (ty : Nat) (rd rs1 rs2 : BitVec 5)

theorem shape0_uses_one (bc : BitVec 1) :
    (shape0 l span bc ty rd rs1 rs2 false false).uses = spanUses.same l span ty rd rs1 := by
  simp only [shape0, spanUses.same, regsOf_eq_regsFor, laneCount_tyWidth]
  rfl

theorem shape2_uses : (shape2 l span ty rd rs1 rs2).uses =
    [rs (l.rs1 rs1) (regsFor (lanesIn span (tyWidth ty)) (tyWidth ty)), rs (l.rs2 rs2) (regsFor (lanesIn span (tyWidth ty)) (tyWidth ty)),
      rdst (l.rd rd) (regsFor (lanesIn span (tyWidth ty)) (tyWidth ty))] := by
  simp only [shape2, shape0, regsOf_eq_regsFor, laneCount_tyWidth]
  rfl
end

theorem issuesOn_spanUses {s : State} {i : Instr} {us : List RegUse} (h : spanUses s.latch i = some us) :
    IssuesOn s (exec i s) us := by
  cases i
  case cvt | cvtr =>
    obtain ⟨hk, ⟨⟩⟩ := Option.ite_none_right_eq_some.1 h
    simp only [← laneCount_tyWidth, ← regsOf_eq_regsFor] at hk ⊢
    delta exec
    exact .of_convertForm _ _ _ _ _ _ _ _ hk
  all_goals cases h <;> delta exec <;> dsimp only
  case gmax => delta execGmax; rw [← shape0_uses_one]; exact .of_spanForm rfl _ _ _ _ _ _
  case gsum => delta execGsum; rw [← shape0_uses_one]; exact .of_spanForm rfl _ _ _ _ _ _
  case fsum | fmaxa => rw [← shape0_uses_one]; exact .of_fpReduce _ _ _ _ _ _ _ _
  case perm => delta execPerm; rw [← shape2_uses]; exact .of_spanForm rfl _ _ _ _ _ _
  all_goals simp only [← laneCount_tyWidth, ← regsOf_eq_regsFor]
  case lmsk => delta execLmsk; exact .of_spanForm rfl _ _ _ _ _ _
  case lexp => delta execLexp; exact .of_spanForm rfl _ _ _ _ _ _
  case qenc | qfp8 | qfp8x => exact .of_quantForm _ _ _ _ _ _ _
  case qdec | dfp8 | dfp8x => exact .of_dequantForm _ _ _ _ _ _


/-! The integer, memory, atomic and job forms -/

section
variable {s : State} {i : Instr}

theorem issuesOn_regForm {f} (h : regForm i = some f) :
    IssuesOn s (exec i s) [rs (s.latch.rs1 f.2.1), rs (s.latch.rs2 f.2.2.1), rdst (s.latch.rd f.1)] := by
  obtain ⟨g, hg⟩ := exec_regForm h
  rw [hg]
  exact .of_aluR _ _ _ _

theorem issuesOn_immForm {f} (h : immForm i = some f) :
    IssuesOn s (exec i s) [rs (s.latch.rs1 f.2.1), rdst (s.latch.rd f.1)] := by
  obtain ⟨g, hg⟩ := exec_immForm h
  rw [hg]
  exact .of_aluI _ _ _

theorem issuesOn_branchForm {f} (h : branchForm i = some f) :
    IssuesOn s (exec i s) [rs (s.latch.rs1 f.1), rs (s.latch.rs2 f.2.1)] := by
  rw [exec_branchForm h]
  exact .of_issue _ _

theorem issuesOn_loadForm {f} (h : loadForm i = some f) :
    IssuesOn s (exec i s) [rs (s.latch.rs1 f.2.1), rdst (s.latch.rd f.1)] := by
  cases i <;> cases h <;> exact .of_issue _ _

theorem issuesOn_storeForm {f} (h : storeForm i = some f) :
    IssuesOn s (exec i s) [rs (s.latch.rs1 f.2.1), rs (s.latch.rs2 f.1)] := by
  cases i <;> cases h <;> exact .of_issue _ _

/-- An atomic that compares reads its rd as well. -/
theorem IssuesOn.of_amo (op : AmOp) (size ar : BitVec 1) (rd rs2 rs1 : BitVec 5) :
    IssuesOn s (amo s op size ar rd rs2 rs1) [rs (s.latch.rs1 rs1), rs (s.latch.rs2 rs2), rdst (s.latch.rd rd)] := by
  rw [amo]
  refine ⟨_, _, rfl, ?_⟩
  split <;> simp [rs, rdst, rmod]

theorem issuesOn_atomicForm {f} (h : atomicForm i = some f) : IssuesOn s (exec i s)
    [rs (s.latch.rs1 f.2.2.2.2.2), rs (s.latch.rs2 f.2.2.2.2.1), rdst (s.latch.rd f.2.2.2.1)] := by
  cases i <;> cases h <;> exact .of_amo _ _ _ _ _ _

theorem IssuesOn.of_haulForm (op : Nat) (rd rs1 : BitVec 5) :
    IssuesOn s (haulForm s op rd rs1) [rs (s.latch.rs1 rs1), rdst (s.latch.rd rd)] := .of_issueOnCompute _ _

theorem issuesOn_haulOp {f} (h : haulOp i = some f) :
    IssuesOn s (exec i s) [rs (s.latch.rs1 f.2.2), rdst (s.latch.rd f.2.1)] := by
  cases i <;> cases h <;> exact .of_haulForm _ _ _

theorem IssuesOn.of_mmForm (pair : Nat) (s3 : BitVec 3) (rd rs1 rs2 : BitVec 5) : IssuesOn s (mmForm s pair s3 rd rs1 rs2)
    [rs (s.latch.rs1 rs1), rs (s.latch.rs2 rs2), rs (8 + s3.toNat), rdst (s.latch.rd rd)] := .of_issueOnCompute _ _

theorem issuesOn_multiplyOp {f} (h : multiplyOp i = some f) : IssuesOn s (exec i s)
    [rs (s.latch.rs1 f.2.2.2.1), rs (s.latch.rs2 f.2.2.2.2), rs (8 + f.2.1.toNat), rdst (s.latch.rd f.2.2.1)] := by
  cases i <;> cases h <;> exact .of_mmForm _ _ _ _ _
end

/-! The forms that name whole registers and groups -/

section
variable {s : State} (rd rs1 rs2 : BitVec 5)

theorem IssuesOn.of_csrOp (csr : BitVec 12) (src : List RegUse) (reads : Bool) (f : Ctx → Option (Word → Word)) :
    IssuesOn s (csrOp s csr rd src reads f) (src ++ [rdst (s.latch.rd rd)]) := .of_issue _ _

theorem IssuesOn.of_syncLoad (kind : Nat) :
    IssuesOn s (syncLoad s rd rs1 kind) [rs (s.latch.rs1 rs1), rdst (s.latch.rd rd)] := .of_issue _ _

theorem IssuesOn.of_tagOp (span : Nat) (act : TagAct) : IssuesOn s (tagOp s rd rs1 rs2 span act)
    [rs (s.latch.rs1 rs1), rs (s.latch.rs2 rs2), rdst (s.latch.rd rd) span] := .of_issue _ _

theorem IssuesOn.of_pollForm (matrix waits : Bool) : IssuesOn s (pollForm s rd rs1 matrix waits)
    [rs (s.latch.rs1 rs1), rdst (s.latch.rd rd) (if matrix then 2 else 1)] := .of_issueOnCompute _ _

theorem IssuesOn.of_scaleForm (cached : Bool) (form : Nat)
    (act : State → Ctx → Nat → Nat × Nat → Word → Nat × Int → Nat → State) : IssuesOn s (scaleForm s rd rs1 rs2 cached form act)
    [rs (s.latch.rs1 rs1), rs (s.latch.rs2 rs2), rdst (s.latch.rd rd)] := .of_issue _ _

/-- tret only names its source where its thread is no activation on the service slot. -/
theorem IssuesOn.of_execTret : IssuesOn s (execTret rs1 s) [rs (s.latch.rs1 rs1)] := by
  delta execTret
  dsimp only
  split
  · split
    · exact .of_issue _ _
    · exact ⟨_, _, rfl, by simp [rs, rname]⟩
  · exact ⟨_, _, rfl, by simp [rs, rname]⟩
end

theorem issuesOn_plainUses {s : State} {i : Instr} {us : List RegUse} (h : plainUses s.latch i = some us) :
    IssuesOn s (exec i s) us := by
  cases i <;> cases h <;> delta exec <;> dsimp only
  case lui | auipc => exact .of_aluU _ _
  case csrrwi | csrrsi | csrrci => exact .of_csrOp _ _ [] _ _
  case csrrw => delta execCsrrw; exact .of_csrOp _ _ [rs _] _ _
  case csrrs => delta execCsrrs; exact .of_csrOp _ _ [rs _] _ _
  case csrrc => delta execCsrrc; exact .of_csrOp _ _ [rs _] _ _
  case lde | ldt => exact .of_syncLoad _ _ _
  case tlook | tins | tinv => exact .of_tagOp _ _ _ _ _
  case hwait | hpoll | mwait | mpoll => exact .of_pollForm _ _ _ _
  case sscale => delta execSscale; exact .of_scaleForm _ _ _ _ _ _
  case sscaleH => delta execSscaleH; exact .of_scaleForm _ _ _ _ _ _
  case sscaleG => delta execSscaleG; exact .of_scaleForm _ _ _ _ _ _
  case tret => exact .of_execTret _
  case mbload | mst | mclr | mrestart | jobint => exact .of_issueOnCompute _ _
  all_goals exact .of_issue _ _


/-- A form with its operands is one of the families of formUses. -/
theorem issuesOn_formUses {s : State} {i : Instr} {us : List RegUse} (h : formUses s.latch i = some us) :
    IssuesOn s (exec i s) us := by
  simp only [formUses, Option.orElse_eq_some, Option.map_eq_some_iff] at h
  obtain ⟨f, hf, rfl⟩ | ⟨-, ⟨f, hf, rfl⟩ | ⟨-, ⟨f, hf, rfl⟩ | ⟨-, ⟨f, hf, rfl⟩ | ⟨-, ⟨f, hf, rfl⟩ | ⟨-, ⟨f, hf, rfl⟩ |
    ⟨-, ⟨o, ho, rfl⟩ | ⟨-, ⟨f, hf, rfl⟩ | ⟨-, ⟨f, hf, rfl⟩ | ⟨-, hs | ⟨-, hu⟩⟩⟩⟩⟩⟩⟩⟩⟩⟩ := h
  · exact issuesOn_regForm hf
  · exact issuesOn_immForm hf
  · exact issuesOn_branchForm hf
  · exact issuesOn_loadForm hf
  · exact issuesOn_storeForm hf
  · exact issuesOn_atomicForm hf
  · exact issuesOn_laneForm ho
  · exact issuesOn_haulOp hf
  · exact issuesOn_multiplyOp hf
  · exact issuesOn_spanUses hs
  · exact issuesOn_plainUses hu

/-- Settles O9: an instruction whose guard does not let it looks at its operands' numbers alone. -/
theorem guardedOff : Obligations.GuardedOff := by
  intro s t i us neg p hc ht hr hl hp hu ha hw
  have hg : s.latch.guardOk t.pw = false := by simp [Latch.guardOk, hl, hp]
  exact (issuesOn_formUses hu).guardedOff hc ht hr ha hw hg

end Sys2Proof.Machine
end

section
/-! What a trap leaves of the condition that its thread was held back for (R377): a delivery clears it, and nothing that follows in
the step, from the record it posts to the freezing of a tenant, holds the thread back again. -/

namespace Sys2Proof.Machine

/-- The condition that slot n's thread is held back for. -/
def holdIn (threads : AMap Thread) (n : Nat) : Option Cond := (amGet threads n).bind (·.hold)

section
variable (s : State) (n : Nat)

theorem State.modThread_holdIn {slot : Nat} {f : Thread → Thread} (hf : ∀ t, (f t).hold = t.hold) :
    holdIn (s.modThread slot f).threads n = holdIn s.threads n := by
  show ((s.modThread slot f).thread? n).bind (·.hold) = (s.thread? n).bind (·.hold)
  rw [State.thread?_modThread]
  split
  · simp only [Option.bind_map, Function.comp_def, hf]
  · rfl

theorem State.modThread_holdIn_none {slot : Nat} {f : Thread → Thread} (hf : ∀ t, t.hold = none → (f t).hold = none)
    (h : holdIn s.threads n = none) : holdIn (s.modThread slot f).threads n = none := by
  change (s.thread? n).bind (·.hold) = none at h
  show ((s.modThread slot f).thread? n).bind (·.hold) = none
  rw [State.thread?_modThread]
  split
  · cases e : s.thread? n with
    | none => rfl
    | some t => exact hf t (by simpa [e] using h)
  · exact h

theorem State.modThread_holdIn_self {f : Thread → Thread} (hf : ∀ t, (f t).hold = none) :
    holdIn (s.modThread n f).threads n = none := by
  show ((s.modThread n f).thread? n).bind (·.hold) = none
  rw [State.thread?_modThread, if_pos rfl]
  cases s.thread? n with
  | none => rfl
  | some t => exact hf t

theorem foldl_holdIn {α : Type} {f : State → α → State} (hf : ∀ u a, holdIn (f u a).threads n = holdIn u.threads n)
    (l : List α) : holdIn (l.foldl f s).threads n = holdIn s.threads n := by
  induction l generalizing s with
  | nil => rfl
  | cons a l ih => exact (ih (f s a)).trans (hf s a)

/-! Answers and replies -/

@[simp] theorem State.settle_threads (k : Nat) : (s.settle k).threads = s.threads := by
  unfold State.settle
  split <;> rfl

@[simp] theorem State.settleWalk_threads (tenant va : Nat) : (s.settleWalk tenant va).threads = s.threads := by
  unfold State.settleWalk
  repeat' split
  all_goals simp

@[simp] theorem State.modTenant_threads (tn : Nat) (f : Tenant → Tenant) : (s.modTenant tn f).threads = s.threads := rfl

@[simp] theorem State.check_threads (kind about : Nat) : (s.check kind about).threads = s.threads := rfl

@[simp] theorem State.inject_threads (p : Packet) (node port : Nat) : (s.inject p node port).threads = s.threads := by
  unfold State.inject
  dsimp only
  split <;> rfl

@[simp] theorem State.enter_threads (p : Packet) : (s.enter p).threads = s.threads := by
  unfold State.enter
  split
  · exact s.inject_threads _ _ _
  · rfl

@[simp] theorem State.send_threads (isReply : Bool) (src dst : Nat) (p : Payload) :
    (s.send isReply src dst p).threads = s.threads := s.enter_threads _

@[simp] theorem State.answer_holdIn (slot k : Nat) (r : Except Nat Word) :
    holdIn (s.answer slot k r).threads n = holdIn s.threads n :=
  s.modThread_holdIn n fun t => by (repeat' split) <;> rfl

@[simp] theorem State.homeAnswer_holdIn (slot k : Nat) (r : Except Nat Word) :
    holdIn (s.homeAnswer slot k r).threads n = holdIn s.threads n := by
  unfold State.homeAnswer
  split <;> simp

@[simp] theorem State.gotWord_holdIn (slot port no i : Nat) (va : Word) (r : Except Nat Word) :
    holdIn (s.gotWord slot port no i va r).threads n = holdIn s.threads n :=
  s.modThread_holdIn n fun t => by split <;> rfl

@[simp] theorem State.answerHeld_holdIn (x : Held) (r : Except Nat Word) :
    holdIn (s.answerHeld x r).threads n = holdIn s.threads n := by
  unfold State.answerHeld
  split <;> simp

@[simp] theorem State.releaseWatch_holdIn (w : Watch) : holdIn (s.releaseWatch w).threads n = holdIn s.threads n := by
  unfold State.releaseWatch
  split <;> simp

@[simp] theorem State.wakeGranule_holdIn (k : Nat) : holdIn (s.wakeGranule k).threads n = holdIn s.threads n :=
  foldl_holdIn _ n (fun u w => u.releaseWatch_holdIn n w) _

@[simp] theorem State.performHeld_holdIn (x : Held) : holdIn (s.performHeld x).threads n = holdIn s.threads n := by
  unfold State.performHeld
  dsimp only
  repeat' split
  all_goals simp

@[simp] theorem State.releaseHeld_holdIn (k fuel : Nat) : holdIn (s.releaseHeld k fuel).threads n = holdIn s.threads n := by
  induction fuel generalizing s with
  | zero => rfl
  | succ fuel ih =>
    unfold State.releaseHeld
    split
    · rw [ih]
      split <;> simp
    · rfl

/-! Writes and posts -/

/-- What follows a write at a home: the held requests, then the waiters of the granule (R271, R276). -/
theorem State.afterWrite_holdIn (c : Prop) [Decidable c] (k fuel : Nat) :
    holdIn ((if c then s else s.releaseHeld k fuel).wakeGranule k).threads n = holdIn s.threads n := by
  rw [State.wakeGranule_holdIn]
  split <;> simp

@[simp] theorem State.writeHome_holdIn (k : Nat) (mask : BitVec 8) (v : Word) (tag : Option Bool) :
    holdIn (s.writeHome k mask v tag).threads n = holdIn s.threads n := by
  unfold State.writeHome
  refine (State.afterWrite_holdIn _ n _ k _).trans ?_
  show holdIn (if mask = 0xFF#8 then s else s.settle k).threads n = _
  split <;> simp

@[simp] theorem State.writePoison_holdIn (k : Nat) (v : Word) (tag : Option Bool) :
    holdIn (s.writePoison k v tag).threads n = holdIn s.threads n :=
  State.afterWrite_holdIn _ n _ k _

section
variable {pre : State → Nat → State} (hpre : ∀ u k, holdIn (pre u k).threads n = holdIn u.threads n)
include hpre

theorem State.postWith_holdIn (tenant slot code cause kind : Nat) (addr value : Word) :
    holdIn (s.postWith pre tenant slot code cause kind addr value).threads n = holdIn s.threads n := by
  unfold State.postWith
  dsimp only
  repeat' split
  all_goals simp only [State.writeHome_holdIn, hpre, State.settleWalk_threads, State.settle_threads]

theorem State.copyWord_holdIn (src dst : Nat) : holdIn (s.copyWord pre src dst).threads n = holdIn s.threads n := by
  unfold State.copyWord
  dsimp only
  split <;> simp [hpre]

theorem State.flipGen_holdIn (tn : Nat) (p : Nat × Nat × Nat × Nat) :
    holdIn (s.flipGen pre tn p).threads n = holdIn s.threads n := by
  unfold State.flipGen
  split
  · rfl
  · dsimp only
    split
    · rfl
    · split <;> simp [hpre]

theorem State.capture_holdIn (tn g : Nat) (byWrite : Bool) :
    holdIn (s.capture pre tn g byWrite).threads n = holdIn s.threads n := by
  unfold State.capture
  split
  · rfl
  · next ep _ =>
    have hw : holdIn ((ep.pagesAt g).foldl (fun s p => s.settleWalk tn (ep.destOf g p)) s).threads n = holdIn s.threads n :=
      foldl_holdIn _ n (fun u p => by simp) _
    dsimp only
    split
    · rfl
    · split
      · rfl
      · split
        · exact (State.postWith_holdIn _ n hpre _ _ _ _ _ _ _).trans hw
        · refine (foldl_holdIn _ n (fun u p => u.flipGen_holdIn n hpre tn p) _).trans
            ((foldl_holdIn _ n (fun u p => ?_) _).trans hw)
          split
          · exact foldl_holdIn _ n (fun v j => v.copyWord_holdIn n hpre _ _) _
          · rfl
end

theorem State.preWrite_holdIn (depth k : Nat) : holdIn (s.preWrite depth k).threads n = holdIn s.threads n := by
  induction depth generalizing s k with
  | zero => rfl
  | succ depth ih => exact foldl_holdIn _ n (fun u (t : Nat × Tenant) => u.capture_holdIn n ih t.1 (k / 8) true) _

@[simp] theorem State.post_holdIn (tenant slot code cause kind : Nat) (addr value : Word) :
    holdIn (s.post tenant slot code cause kind addr value).threads n = holdIn s.threads n :=
  s.postWith_holdIn n (fun u k => u.preWrite_holdIn n 17 k) tenant slot code cause kind addr value

/-! Freezing a tenant -/

@[simp] theorem State.dropAsk_holdIn (slot h : Nat) : holdIn (s.dropAsk slot h).threads n = holdIn s.threads n :=
  s.modThread_holdIn n fun t => by split <;> rfl

@[simp] theorem State.withdrawOwn_threads (slot : Nat) : (s.withdrawOwn slot).threads = s.threads := by
  unfold State.withdrawOwn
  dsimp only
  split <;> rfl

@[simp] theorem State.withdraw_holdIn (slot : Nat) : holdIn (s.withdraw slot).threads n = holdIn s.threads n := by
  rw [State.withdraw, State.dropAsks, foldl_holdIn _ n (fun u h => u.dropAsk_holdIn n slot h), State.withdrawOwn_threads]

variable {s n}

theorem State.stopFrozen_holdIn (slot : Nat) (h : holdIn s.threads n = none) : holdIn (s.stopFrozen slot).threads n = none := by
  refine State.modThread_holdIn_none _ n (fun t ht => ?_) (by rwa [State.withdraw_holdIn])
  split
  · split
    · exact ht
    · rfl
  · exact ht

theorem State.freeze_holdIn (tn : Nat) (h : holdIn s.threads n = none) : holdIn (s.freeze tn).threads n = none := by
  unfold State.freeze
  exact List.foldlRecOn (motive := fun u : State => holdIn u.threads n = none) _ _ h fun u hu slot _ => State.stopFrozen_holdIn slot hu

/-! Traps -/

theorem State.supervisorTrap_holdIn (slot cause : Nat) (v pc : Word) (h : holdIn s.threads n = none) :
    holdIn (s.supervisorTrap slot cause v pc).threads n = none := by
  unfold State.supervisorTrap
  split
  · exact h
  · dsimp only
    split
    · exact State.freeze_holdIn _ h
    · rw [State.post_holdIn]
      exact State.modThread_holdIn_none s n (fun t ht => ht) h

theorem State.deliver_holdIn (slot cause : Nat) (v pc : Word) : holdIn (s.deliver slot cause v pc).threads slot = none := by
  unfold State.deliver
  split
  · next e => exact (congrArg (·.bind (·.hold)) e :)
  · have h := s.modThread_holdIn_self slot (f := fun t =>
      { t with hold := none, pend := none, stepped := t.stepOne, carried := none }) fun _ => rfl
    dsimp only
    split
    · split
      · exact State.modThread_holdIn_none _ slot (fun t ht => ht) h
      · split
        · exact State.modThread_holdIn_none _ slot (fun t ht => ht) h
        · exact State.supervisorTrap_holdIn _ _ _ _ h
    · exact State.supervisorTrap_holdIn _ _ _ _ h

/-- The thread that an instruction's trap is delivered to is held back for nothing. -/
theorem State.trapAt_holdIn (hr : s.latch.replay = 0) (slot cause : Nat) (v pc : Word) (ht : (s.thread? slot).isSome = true) :
    holdIn (s.trapAt slot cause v pc).threads slot = none := by
  obtain ⟨t, ht⟩ := Option.isSome_iff_exists.1 ht
  rw [State.trapAt, ht]
  dsimp only
  rw [if_neg (not_not.2 hr)]
  exact State.deliver_holdIn _ _ _ _
end

end Sys2Proof.Machine
end

section
/-! A core's turn (R311): from the agenda's item to the instruction at the pc of the slot granted. -/

namespace Sys2Proof.Machine

section
variable {s s' : State} {t : Thread} {core n slot dt : Nat} {rest : List (Nat × Item)}

/-- An issue takes its cycles and its item, and is the core's turn where no step of a rope is granted. -/
theorem step_issue (ha : s.agenda = (dt, .issue core) :: rest)
    (hs : s' = { s with cycle := (s.cycle + dt) % 2 ^ 64, agenda := rest }) (hc : s.tripped = false)
    (hi : (s'.core core).issuedAt ≠ some s'.cycle) (hr : s'.ropeTurn core = none) : step s = issueTurn exec badPair core 64 s' := by
  have hc' : s'.tripped = false := by rw [hs]; exact hc
  have hrun : step s = runItem exec badPair s' (.issue core) := by simp only [step, ha, hs]
  simp only [hrun, runItem, hc', issueCore, if_neg hi, hr]
  rfl

section
variable {ex : Instr → State → Host.Outcome State Fault Refusal}
  {bad : BitVec 3 → BitVec 5 → BitVec 5 → BitVec 5 → State → Host.Outcome State Fault Refusal} {fuel : Nat}

/-- The slot granted runs, and its answer is the turn's unless the slot is refused. -/
theorem issueTurn_granted (hg : (s.grant core).1 = some n) (ht : s.thread? (core * 64 + n) = some t)
    (hw : (s.spanNext (core * 64 + n) && s.spanWaits core t) = false) : issueTurn ex bad core (fuel + 1) s =
      match runSlot ex bad (core * 64 + n) (s.turn core n (s.spanNext (core * 64 + n))) with
      | .next s1 => if s1.foundFull (core * 64 + n) then
          issueTurn ex bad core fuel (s.refused (core * 64 + n) .bufferRoom false) else .next s1
      | r => r := by
  rw [issueTurn]
  simp only [hg, ht, Option.bind_some, Option.map_some, hw]
  rfl

theorem runSlot_eq_runWords (ht : s.thread? slot = some t) (hb : t.body = none) (hp : t.pc.toNat % 4 = 0) (hs : t.stepped = false) :
    runSlot ex bad slot s = runWords ex bad 3 { s with cur := slot, latch := {} } := by
  have ht' : ({ s with cur := slot, latch := {} } : State).thread? slot = some t := ht
  have hp' : ¬ t.pc.extractLsb' 0 2 ≠ 0 := by rw [extractLsb'_two_ne_zero_iff]; exact not_not.2 hp
  simp only [runSlot, ht', hb, Option.bind_none, if_neg hp', hs]
  rfl

variable {s1 s2 : State} {w : BitVec 32} {i : Instr} {r : Fault} {e : Reject}

theorem runWords_last (ht : s.thread? s.cur = some t)
    (hf : s.fetch32 s.cur t (t.pc + BitVec.ofNat 64 (4 * s.latch.n)) = (s1, .ok w)) (hd : decodeWord w = .ok i)
    (hx : ex i { s1 with latch := { s1.latch with word := w } } = .next s2) (hm : s2.latch.more = false) :
    runWords ex bad (fuel + 1) s = .next s2 := by
  simp only [runWords, ht, hf, hd, hx, hm]
  rfl

theorem runWords_fault (ht : s.thread? s.cur = some t)
    (hf : s.fetch32 s.cur t (t.pc + BitVec.ofNat 64 (4 * s.latch.n)) = (s1, .ok w)) (hd : decodeWord w = .ok i)
    (hx : ex i { s1 with latch := { s1.latch with word := w } } = .fault r) :
    runWords ex bad (fuel + 1) s = .fault r := by
  simp only [runWords, ht, hf, hd, hx]

theorem runWords_reject (ht : s.thread? s.cur = some t)
    (hf : s.fetch32 s.cur t (t.pc + BitVec.ofNat 64 (4 * s.latch.n)) = (s1, .ok w)) (hd : decodeWord w = .error e)
    (he : ∀ f p d a b, e ≠ .reservedPair f p d a b) : runWords ex bad (fuel + 1) s =
      .next (({ s1 with latch := { s1.latch with word := w } } : State).trap s1.cur 0x01 (w.setWidth 64)) := by
  cases e with
  | reservedPair f p d a b => exact absurd rfl (he f p d a b)
  | _ => simp only [runWords, ht, hf, hd]
end

/-- A slot whose thread a trap is delivered to is not refused (R166). -/
theorem foundFull_trap (hr : s.latch.replay = 0) (ht : s.thread? slot = some t) (cause : Nat) (v : Word) :
    (s.trap slot cause v).foundFull slot = false := by
  have h : ((s.trapAt slot cause v t.pc).thread? slot).bind (·.hold) = none :=
    State.trapAt_holdIn hr _ _ _ _ (by rw [ht]; rfl)
  rw [State.trap, ht]
  unfold State.foundFull
  split
  · next u hu =>
    rw [hu, Option.bind_some] at h
    rw [h]
    exact Bool.and_false _
  · rfl

/-! What the turn's grant leaves -/

theorem modThread_yielded {m o : Nat} (ht : s.thread? m = some t) :
    ∃ y, (s.modThread o fun t => { t with yielded := false }).thread? m = some { t with yielded := y } := by
  rw [State.thread?_modThread, ht]
  split
  · exact ⟨_, rfl⟩
  · exact ⟨t.yielded, rfl⟩

theorem afterGrant_thread? {m : Nat} (ht : s.thread? m = some t) : ∃ y, (s.afterGrant core).thread? m = some { t with yielded := y } := by
  unfold State.afterGrant
  dsimp only
  split
  · exact ⟨t.yielded, ht⟩
  · split
    · exact modThread_yielded ht
    · exact ⟨t.yielded, ht⟩

theorem turn_thread? (span : Bool) (ht : s.thread? (core * 64 + n) = some t) :
    ∃ y, (s.turn core n span).thread? (core * 64 + n) = some { t with yielded := y, spanRefused := 0 } := by
  obtain ⟨y, hy⟩ := afterGrant_thread? (core := core) ht
  refine ⟨y, ?_⟩
  rw [State.turn, State.thread?_modThread, if_pos rfl]
  have hs : (if span then (s.afterGrant core).modCore core fun c => { c with pipeAt := some s.cycle }
      else s.afterGrant core).thread? (core * 64 + n) = some { t with yielded := y } := by
    cases span <;> exact hy
  rw [hs]
  rfl

/-! The fetch buffer (R71) -/

theorem fetchBit_eq (a : Word) (h : a.toNat % 4 = 0) : (if a.getLsbD 2 then 32 else 0) = 8 * (a.toNat % 8) := by
  rw [BitVec.getLsbD, Nat.testBit_eq_decide_div_mod_eq]
  simp only [decide_eq_true_eq]
  split <;> omega

theorem fetch32_of_buffer {g : Granule} {a : Word} (hg : amGet (s.core (coreOf slot)).fetch (a.toNat / 64) = some g)
    (hp : g.poison.contains (a.toNat % 64 / 8) = false) (h4 : a.toNat % 4 = 0) :
    s.fetch32 slot t a = (s, .ok ((g.words.getD (a.toNat % 64 / 8) 0).extractLsb' (8 * (a.toNat % 8)) 32)) := by
  simp only [State.fetch32, State.granule, hg, hp, fetchBit_eq a h4]
  rfl
end

/-- Settles O2: the step is the run of the words at the pc, whose first the fetch buffer holds. -/
theorem stepRunsDecoded : Obligations.StepRunsDecoded := by
  intro s dt core n rest t g w i s1 slot s2 s3 ha hc hi hr hg hn ht hw hb hst h4 hbuf hpoison hword
  obtain ⟨y, hty⟩ := turn_thread? (s1.spanNext slot) ht
  have ht2 : s2.thread? s2.cur = some { t with yielded := y, spanRefused := 0 } := hty
  have hcore : coreOf slot = core := by
    show (core * 64 + n) / 64 = core
    omega
  have hf : s2.fetch32 s2.cur { t with yielded := y, spanRefused := 0 } (t.pc + BitVec.ofNat 64 (4 * s2.latch.n)) = (s2, .ok w) := by
    have hpc : t.pc + BitVec.ofNat 64 (4 * s2.latch.n) = t.pc := BitVec.add_zero _
    rw [hpc, ← hword]
    exact fetch32_of_buffer (by rw [hcore]; exact hbuf) hpoison h4
  have hstep : step s = match runWords exec badPair 3 s2 with
      | .next u => if u.foundFull slot then issueTurn exec badPair core 63 (s1.refused slot .bufferRoom false) else .next u
      | r => r := by
    rw [step_issue ha rfl hc hi hr, issueTurn_granted hg ht hw, runSlot_eq_runWords hty hb h4 hst]
  refine ⟨fun hd => ⟨fun r hx => ?_, fun s4 hx hm hfull => ?_⟩, fun e hd he => ?_⟩
  · rw [hstep, runWords_fault ht2 hf hd hx]
  · rw [hstep, runWords_last ht2 hf hd hx hm]
    exact if_neg (by rw [hfull]; exact Bool.false_ne_true)
  · rw [hstep, runWords_reject ht2 hf hd he]
    exact if_neg (by rw [foundFull_trap (s := s3) rfl hty]; exact Bool.false_ne_true)

end Sys2Proof.Machine
end

section
/-! The values of the integer instructions (R64, R65): the model computes them in words, the statements in the integers that the
words stand for. -/

namespace Sys2Proof.Machine

/-! Words of any width -/

section
variable {n : Nat} (x y : BitVec n) (k : Nat)

theorem ofInt_toInt_sub : BitVec.ofInt n (x.toInt - y.toInt) = x - y := by
  rw [Int.sub_eq_add_neg, BitVec.ofInt_add, BitVec.ofInt_neg, BitVec.ofInt_toInt, BitVec.ofInt_toInt, ← BitVec.sub_eq_add_neg]

theorem ofNat_toNat_mul_two_pow : BitVec.ofNat n (x.toNat * 2 ^ k) = x <<< k := by
  simp [← BitVec.toNat_inj, Nat.shiftLeft_eq]

theorem ofNat_toNat_div_two_pow : BitVec.ofNat n (x.toNat / 2 ^ k) = x >>> k := by
  rw [← Nat.shiftRight_eq_div_pow, ← BitVec.toNat_ushiftRight, BitVec.ofNat_toNat, BitVec.setWidth_eq]

theorem ofInt_toInt_div_two_pow : BitVec.ofInt n (x.toInt / 2 ^ k) = x.sshiftRight k := by
  have h : (x.toInt / 2 ^ k) = (x.sshiftRight k).toInt := by
    rw [BitVec.toInt_sshiftRight, Int.shiftRight_eq_div_pow]
    simp
  rw [h, BitVec.ofInt_toInt]

theorem divS_eq : divS x y = if y = 0 then BitVec.ofInt n (-1) else BitVec.ofInt n (x.toInt.tdiv y.toInt) := by
  rw [divS, ← BitVec.neg_one_eq_allOnes]
  simp [BitVec.ofInt_neg]

theorem divU_eq : divU x y = if y = 0 then BitVec.ofInt n (-1) else BitVec.ofNat n (x.toNat / y.toNat) := by
  rw [divU, ← BitVec.neg_one_eq_allOnes]
  simp [BitVec.ofInt_neg]
end

/-! Immediates (R63): the sign extension is the immediate's own value -/

theorem immI_eq (i : BitVec 12) : immI i = BitVec.ofInt 64 i.toInt := rfl

theorem toInt_immI (i : BitVec 12) : (immI i).toInt = i.toInt := BitVec.toInt_signExtend_of_le (by decide)

theorem immU_eq (i : BitVec 20) : immU i = BitVec.ofInt 64 (i.toInt * 2 ^ 12) := by
  rw [immU, BitVec.signExtend, BitVec.toInt_append_zero, Int.mul_comm]

theorem add_immI (x : Word) (i : BitVec 12) : x + immI i = BitVec.ofInt 64 (x.toInt + i.toInt) := by
  rw [BitVec.ofInt_add, BitVec.ofInt_toInt, immI_eq]

/-! The W forms: 32-bit numbers, whose words the low halves are -/

section
variable (x y : Word)

theorem low32_eq_setWidth : low32 x = x.setWidth 32 := (BitVec.setWidth_eq_extractLsb' (by decide)).symm

theorem lowS_eq : lowS x = (low32 x).toInt := by rw [lowS, low32_eq_setWidth]

theorem lowU_eq : lowU x = (low32 x).toNat := by rw [lowU, low32_eq_setWidth, BitVec.toNat_setWidth]

theorem lowU_eq_zero_iff : lowU x = 0 ↔ low32 x = 0 := by rw [lowU_eq, ← BitVec.toNat_inj]; rfl

theorem low32_add : low32 (x + y) = low32 x + low32 y := by
  simp only [low32_eq_setWidth, BitVec.setWidth_add _ _ (show 32 ≤ 64 by decide)]

theorem low32_mul : low32 (x * y) = low32 x * low32 y := by
  simp only [low32_eq_setWidth, BitVec.setWidth_mul _ _ (show 32 ≤ 64 by decide)]

theorem low32_sub : low32 (x - y) = low32 x - low32 y := by
  have h : low32 (x - y) + low32 y = low32 x := by rw [← low32_add, BitVec.sub_add_cancel]
  rw [← h, BitVec.add_sub_cancel]

theorem sext32_eq : sext32 x = wide (low32 x) := rfl

theorem low32_immI (i : BitVec 12) : low32 (immI i) = BitVec.ofInt 32 i.toInt := by
  show low32 (i.signExtend 64) = i.signExtend 32
  ext j hj
  simp [low32_eq_setWidth, BitVec.getElem_signExtend, show j < 64 by omega]

theorem wordOfInt_eq (v : Int) : wordOfInt v = wide (BitVec.ofInt 32 v) := rfl

theorem wordOfInt_natCast (n : Nat) : wordOfInt n = wide (BitVec.ofNat 32 n) := by rw [wordOfInt_eq, BitVec.ofInt_natCast]

theorem ofInt_lowU : BitVec.ofInt 32 (lowU x) = low32 x := by
  rw [lowU_eq, BitVec.ofInt_natCast, BitVec.ofNat_toNat, BitVec.setWidth_eq]

theorem ofInt_lowS : BitVec.ofInt 32 (lowS x) = low32 x := by rw [lowS_eq, BitVec.ofInt_toInt]

theorem lowU_mul_two_pow (k : Nat) : wide (low32 x <<< k) = wordOfInt (lowU x * 2 ^ k) := by
  rw [← ofNat_toNat_mul_two_pow, ← lowU_eq, ← wordOfInt_natCast]
  push_cast
  rfl

theorem lowU_div_two_pow (k : Nat) : wide (low32 x >>> k) = wordOfInt (lowU x / 2 ^ k) := by
  rw [← ofNat_toNat_div_two_pow, ← lowU_eq, ← wordOfInt_natCast]
  push_cast
  rfl

theorem lowS_div_two_pow (k : Nat) : wide ((low32 x).sshiftRight k) = wordOfInt (lowS x / 2 ^ k) := by
  rw [← ofInt_toInt_div_two_pow, ← lowS_eq, ← wordOfInt_eq]
end

/-! The forms of R64 and R65, as the statements give them -/

theorem exec_regForm_eq {i : Instr} {rd rs1 rs2 : BitVec 5} {f : Word → Word → Word} (h : regForm i = some (rd, rs1, rs2, f))
    (s : State) : exec i s = aluR s rd rs1 rs2 f := by
  cases i <;> cases h <;> delta exec <;> dsimp only <;> refine congrArg (aluR s _ _ _) (funext fun x => funext fun y => ?_)
  case add => rw [BitVec.ofNat_add, BitVec.ofNat_toNat, BitVec.ofNat_toNat, BitVec.setWidth_eq, BitVec.setWidth_eq]
  case sub => exact (ofInt_toInt_sub x y).symm
  case sll => exact (ofNat_toNat_mul_two_pow x _).symm
  case slt => rfl
  case sltu => rfl
  case srl => exact (ofNat_toNat_div_two_pow x _).symm
  case sra => exact (ofInt_toInt_div_two_pow x _).symm
  case mul => rw [BitVec.ofNat_mul, BitVec.ofNat_toNat, BitVec.ofNat_toNat, BitVec.setWidth_eq, BitVec.setWidth_eq]
  case mulh => rfl
  case mulhsu => rfl
  case mulhu => exact BitVec.ofInt_natCast 64 (x.toNat * y.toNat / 2 ^ 64)
  case div => exact divS_eq x y
  case divu => exact divU_eq x y
  case addw => rw [sext32_eq, low32_add, wordOfInt_eq, BitVec.ofInt_add, ofInt_lowU, ofInt_lowU]
  case subw => rw [sext32_eq, low32_sub, lowS_eq, lowS_eq, wordOfInt_eq, ofInt_toInt_sub]
  case sllw => exact lowU_mul_two_pow x _
  case srlw => exact lowU_div_two_pow x _
  case sraw => exact lowS_div_two_pow x _
  case mulw => rw [sext32_eq, low32_mul, wordOfInt_eq, BitVec.ofInt_mul, ofInt_lowU, ofInt_lowU]
  case divw => simp only [divS_eq, lowU_eq_zero_iff, apply_ite wide, wordOfInt_eq, lowS_eq]
  case divuw =>
    simp only [divU_eq, lowU_eq_zero_iff, apply_ite wide, wordOfInt_eq]
    rw [← Int.natCast_ediv, BitVec.ofInt_natCast, lowU_eq, lowU_eq]
  case remw => simp only [remS, lowU_eq_zero_iff, apply_ite wide, wordOfInt_eq, lowS_eq, ofInt_lowU]
  case remuw =>
    simp only [remU, lowU_eq_zero_iff, apply_ite wide, wordOfInt_eq, ofInt_lowU]
    rw [← Int.natCast_emod, BitVec.ofInt_natCast, lowU_eq, lowU_eq]
  all_goals rfl

theorem exec_immForm_eq {i : Instr} {rd rs1 : BitVec 5} {f : Word → Word} (h : immForm i = some (rd, rs1, f))
    (s : State) : exec i s = aluI s rd rs1 f := by
  cases i <;> cases h <;> delta exec <;> dsimp only <;> refine congrArg (aluI s _ _) (funext fun x => ?_)
  case addi => exact add_immI x _
  case slti i => rw [BitVec.slt_eq_decide, toInt_immI]; rfl
  case addiw => rw [sext32_eq, low32_add, wordOfInt_eq, BitVec.ofInt_add, ofInt_lowS, low32_immI]
  case slli => exact (ofNat_toNat_mul_two_pow x _).symm
  case srli => exact (ofNat_toNat_div_two_pow x _).symm
  case srai => exact (ofInt_toInt_div_two_pow x _).symm
  case slliw => exact lowU_mul_two_pow x _
  case srliw => exact lowU_div_two_pow x _
  case sraiw => exact lowS_div_two_pow x _
  all_goals rfl

/-! The computational forms of an instruction that can issue: rd x0 without reach is a hint, which leaves the registers as they
are, and so does a write of x0 -/

section
variable {s : State} {t : Thread} {us us' : List RegUse}

/-- What keeps no operand of a list from being used keeps none of a part of it. -/
theorem CanIssue.mono (h : CanIssue s t us) (hs : ∀ u ∈ us', u ∈ us) : CanIssue s t us' where
  clocks := h.clocks
  thread := h.thread
  direct := h.direct
  guard := h.guard
  aligned u hu := h.aligned u (hs u hu)
  inWindow u hu := h.inWindow u (hs u hu)
  unbound p hp u hu := h.unbound p hp u (hs u hu)
  unheld := by
    have hh := h.unheld
    unfold heldByBody heldRegs at hh ⊢
    split
    · next b hb =>
      simp only [hb, List.any_eq_false, List.mem_flatMap, List.mem_filter] at hh ⊢
      exact fun n ⟨u, hu, hn⟩ => hh n ⟨u, ⟨hs u hu.1, hu.2⟩, hn⟩
    · rfl
  full u hu := h.full u (hs u hu)
  parity u hu := h.parity u (hs u hu)

theorem CanIssue.hint_retires (h : CanIssue s t us) : s.hint = .next (s.retires t (s.nextPc t)) :=
  (h.mono (by simp) : CanIssue s t []).hint

theorem setX_of_hint {rd : BitVec 5} (hr : (rd = 0 && s.latch.reach.isNone) = true) (v : Word) :
    t.setX (s.latch.rd rd) v = t := by
  obtain ⟨rfl, hn⟩ : rd = 0 ∧ s.latch.reach = none := by simpa using hr
  simp [Latch.rd, hn, Thread.setX]

theorem CanIssue.aluU {rd : BitVec 5} (h : CanIssue s t [rdst (s.latch.rd rd)]) (f : Word → Word) :
    aluU s rd f = .next (s.retires (t.setX (s.latch.rd rd) (f t.pc)) (s.nextPc t)) := by
  unfold Machine.aluU
  split
  · next hr => rw [setX_of_hint hr, h.hint_retires]
  · rw [h.issue]
    exact congrArg _ (h.finish (List.mem_singleton_self _) (by simp) _ _ [f t.pc])

theorem CanIssue.aluI {rd rs1 : BitVec 5} (h : CanIssue s t [rs (s.latch.rs1 rs1), rdst (s.latch.rd rd)]) (f : Word → Word) :
    aluI s rd rs1 f = .next (s.retires (t.setX (s.latch.rd rd) (f (t.x (s.latch.rs1 rs1)))) (s.nextPc t)) := by
  unfold Machine.aluI
  split
  · next hr => rw [setX_of_hint hr, h.hint_retires]
  · rw [h.issue, ← h.src_rs (n := s.latch.rs1 rs1) (by simp)]
    exact congrArg _ (h.finish (u := rdst (s.latch.rd rd)) (by simp) (by simp) _ _ [_])

theorem CanIssue.aluR {rd rs1 rs2 : BitVec 5}
    (h : CanIssue s t [rs (s.latch.rs1 rs1), rs (s.latch.rs2 rs2), rdst (s.latch.rd rd)]) (f : Word → Word → Word) :
    aluR s rd rs1 rs2 f =
      .next (s.retires (t.setX (s.latch.rd rd) (f (t.x (s.latch.rs1 rs1)) (t.x (s.latch.rs2 rs2)))) (s.nextPc t)) := by
  unfold Machine.aluR
  split
  · next hr => rw [setX_of_hint hr, h.hint_retires]
  · rw [h.issue, ← h.src_rs (n := s.latch.rs1 rs1) (by simp), ← h.src_rs (n := s.latch.rs2 rs2) (by simp)]
    exact congrArg _ (h.finish (u := rdst (s.latch.rd rd)) (by simp) (by simp) _ _ [_])
end

/-- Settles O4: each form computes its rule's value, and its issue writes that value to rd. -/
theorem integerRegisterForms : Obligations.IntegerRegisterForms := by
  intro i rd rs1 rs2 f hf s t
  dsimp only
  intro h
  rw [exec_regForm_eq hf, h.aluR]

/-- Settles O5: the immediate forms as the register forms; lui and auipc take their U value. -/
theorem integerImmediateForms : Obligations.IntegerImmediateForms := by
  constructor
  · intro i rd rs1 f hf s t
    dsimp only
    intro h
    rw [exec_immForm_eq hf, h.aluI]
  · intro rd imm s t
    dsimp only
    intro h
    rw [exec_lui, exec_auipc, h.aluU, h.aluU, immU_eq]
    exact ⟨rfl, rfl⟩

end Sys2Proof.Machine
end

section
/-! What a record posted to the fault queue leaves (R382): its writes are performed at homes, whose held requests and waiters they
answer (R271, R276), and an open epoch captures before them (R371). No core, rope or unit of the fabric's edge changes, and of a thread
only what replies change: its pending request and its ports. -/

namespace Sys2Proof.Machine

/-- A thread without what a reply changes. -/
def Thread.bare (t : Thread) : Thread := { t with pend := none, ports := [] }

/-- The machine without what the homes' memory, their answers, and the captures before a write change. -/
def State.atCores (s : State) : State × (Nat → Option Thread) :=
  ({ s with threads := [], mem := {}, tenants := [], launches := [], holds := [], watches := [], packets := [], checks := []
            nextId := 0 }, fun n => (s.thread? n).map Thread.bare)

section
variable (s : State)

theorem State.modThread_atCores {slot : Nat} {f : Thread → Thread} (hf : ∀ t, (f t).bare = t.bare) :
    (s.modThread slot f).atCores = s.atCores := by
  refine Prod.ext ?_ (funext fun n => ?_)
  · unfold State.modThread
    split <;> rfl
  · show ((s.modThread slot f).thread? n).map Thread.bare = _
    rw [State.thread?_modThread]
    split
    · rw [Option.map_map]
      exact congrArg (Option.map · _) (funext hf)
    · rfl

theorem foldl_atCores {α : Type} {f : State → α → State} (hf : ∀ u a, (f u a).atCores = u.atCores) (l : List α) :
    (l.foldl f s).atCores = s.atCores := by
  induction l generalizing s with
  | nil => rfl
  | cons a l ih => exact (ih (f s a)).trans (hf s a)

/-! Answers and replies -/

@[simp] theorem State.settle_atCores (k : Nat) : (s.settle k).atCores = s.atCores := by
  unfold State.settle
  split <;> rfl

@[simp] theorem State.settleWalk_atCores (tenant va : Nat) : (s.settleWalk tenant va).atCores = s.atCores := by
  unfold State.settleWalk
  repeat' split
  all_goals simp

@[simp] theorem State.modTenant_atCores (tn : Nat) (f : Tenant → Tenant) : (s.modTenant tn f).atCores = s.atCores := rfl

@[simp] theorem State.enter_atCores (p : Packet) : (s.enter p).atCores = s.atCores := by
  unfold State.enter State.inject
  dsimp only
  split
  · split <;> rfl
  · rfl

@[simp] theorem State.send_atCores (isReply : Bool) (src dst : Nat) (p : Payload) :
    (s.send isReply src dst p).atCores = s.atCores := s.enter_atCores _

@[simp] theorem State.answer_atCores (slot k : Nat) (r : Except Nat Word) : (s.answer slot k r).atCores = s.atCores :=
  s.modThread_atCores fun t => by (repeat' split) <;> rfl

@[simp] theorem State.homeAnswer_atCores (slot k : Nat) (r : Except Nat Word) : (s.homeAnswer slot k r).atCores = s.atCores := by
  unfold State.homeAnswer
  split <;> simp

@[simp] theorem State.gotWord_atCores (slot port no i : Nat) (va : Word) (r : Except Nat Word) :
    (s.gotWord slot port no i va r).atCores = s.atCores :=
  s.modThread_atCores fun t => by split <;> rfl

@[simp] theorem State.answerHeld_atCores (x : Held) (r : Except Nat Word) : (s.answerHeld x r).atCores = s.atCores := by
  unfold State.answerHeld
  split <;> simp

@[simp] theorem State.releaseWatch_atCores (w : Watch) : (s.releaseWatch w).atCores = s.atCores := by
  unfold State.releaseWatch
  split
  · simp
  · rfl

@[simp] theorem State.wakeGranule_atCores (k : Nat) : (s.wakeGranule k).atCores = s.atCores :=
  foldl_atCores _ State.releaseWatch_atCores _

theorem State.setMem_atCores (m : Memory) : ({ s with mem := m } : State).atCores = s.atCores := rfl

@[simp] theorem State.performHeld_atCores (x : Held) : (s.performHeld x).atCores = s.atCores := by
  have h0 : ({ s with holds := s.holds.erase x } : State).atCores = s.atCores := rfl
  unfold State.performHeld
  dsimp only
  repeat' split
  all_goals simp [State.setMem_atCores, h0]
  exact h0

@[simp] theorem State.releaseHeld_atCores (k fuel : Nat) : (s.releaseHeld k fuel).atCores = s.atCores := by
  induction fuel generalizing s with
  | zero => rfl
  | succ fuel ih =>
    unfold State.releaseHeld
    split
    · rw [ih]
      split <;> simp
    · rfl

/-! Writes and posts -/

/-- What follows a write at a home: the held requests, then the waiters of the granule (R271, R276). -/
theorem State.afterWrite_atCores (c : Prop) [Decidable c] (k fuel : Nat) :
    ((if c then s else s.releaseHeld k fuel).wakeGranule k).atCores = s.atCores := by
  rw [State.wakeGranule_atCores]
  split <;> simp

@[simp] theorem State.writeHome_atCores (k : Nat) (mask : BitVec 8) (v : Word) (tag : Option Bool) :
    (s.writeHome k mask v tag).atCores = s.atCores := by
  unfold State.writeHome
  refine (State.afterWrite_atCores _ _ k _).trans ?_
  show (if mask = 0xFF#8 then s else s.settle k).atCores = _
  split <;> simp

@[simp] theorem State.writePoison_atCores (k : Nat) (v : Word) (tag : Option Bool) :
    (s.writePoison k v tag).atCores = s.atCores :=
  State.afterWrite_atCores _ _ k _

section
variable {pre : State → Nat → State} (hpre : ∀ u k, (pre u k).atCores = u.atCores)
include hpre

theorem State.postWith_atCores (tenant slot code cause kind : Nat) (addr value : Word) :
    (s.postWith pre tenant slot code cause kind addr value).atCores = s.atCores := by
  unfold State.postWith
  dsimp only
  repeat' split
  all_goals simp only [State.writeHome_atCores, hpre, State.settleWalk_atCores, State.settle_atCores]

theorem State.copyWord_atCores (src dst : Nat) : (s.copyWord pre src dst).atCores = s.atCores := by
  unfold State.copyWord
  dsimp only
  split <;> simp [hpre]

theorem State.flipGen_atCores (tn : Nat) (p : Nat × Nat × Nat × Nat) : (s.flipGen pre tn p).atCores = s.atCores := by
  unfold State.flipGen
  split
  · rfl
  · dsimp only
    split
    · rfl
    · split <;> simp [hpre]

theorem State.capture_atCores (tn g : Nat) (byWrite : Bool) : (s.capture pre tn g byWrite).atCores = s.atCores := by
  unfold State.capture
  split
  · rfl
  · next ep _ =>
    have hw : ((ep.pagesAt g).foldl (fun s p => s.settleWalk tn (ep.destOf g p)) s).atCores = s.atCores :=
      foldl_atCores _ (fun u p => by simp) _
    dsimp only
    split
    · rfl
    · split
      · rfl
      · split
        · exact (State.postWith_atCores _ hpre _ _ _ _ _ _ _).trans hw
        · refine (foldl_atCores _ (fun u p => u.flipGen_atCores hpre tn p) _).trans
            ((foldl_atCores _ (fun u p => ?_) _).trans hw)
          split
          · exact foldl_atCores _ (fun v j => v.copyWord_atCores hpre _ _) _
          · rfl
end

theorem State.preWrite_atCores (depth k : Nat) : (s.preWrite depth k).atCores = s.atCores := by
  induction depth generalizing s k with
  | zero => rfl
  | succ depth ih => exact foldl_atCores _ (fun u (t : Nat × Tenant) => u.capture_atCores ih t.1 (k / 8) true) _

theorem State.post_atCores (tenant slot code cause kind : Nat) (addr value : Word) :
    (s.post tenant slot code cause kind addr value).atCores = s.atCores :=
  s.postWith_atCores (fun u k => u.preWrite_atCores 17 k) tenant slot code cause kind addr value

@[simp] theorem State.post_cores (tenant slot code cause kind : Nat) (addr value : Word) :
    (s.post tenant slot code cause kind addr value).cores = s.cores :=
  congrArg (·.1.cores) (s.post_atCores tenant slot code cause kind addr value)

/-- The thread of a slot after a post: as it was, but for a pending request and ports that it answers. -/
theorem State.post_thread? {n : Nat} {t : Thread} (ht : s.thread? n = some t) (tenant slot code cause kind : Nat)
    (addr value : Word) : ∃ u, (s.post tenant slot code cause kind addr value).thread? n = some u ∧ u.bare = t.bare := by
  have h := congrFun (congrArg (·.2) (s.post_atCores tenant slot code cause kind addr value)) n
  simp only [State.atCores, ht, Option.map_some, Option.map_eq_some_iff] at h
  exact h
end

end Sys2Proof.Machine
end

section
/-! Taking a trap (R374, R377, R378) of a thread at user level, and the environment calls (R72). -/

namespace Sys2Proof.Machine

section
variable (s : State) (slot : Nat)

@[simp] theorem State.detach_threads : (s.detach slot).threads = s.threads := by
  unfold State.detach
  repeat' split
  all_goals rfl

@[simp] theorem State.detach_cores : (s.detach slot).cores = s.cores := by
  unfold State.detach
  repeat' split
  all_goals rfl

@[simp] theorem State.detach_launches : (s.detach slot).launches = s.launches := by
  unfold State.detach
  repeat' split
  all_goals rfl
end

section
variable {s : State} {slot cause : Nat} {t : Thread} {v pc : Word}

/-- The thread to which a trap is delivered waits for nothing. -/
def Thread.interrupted (t : Thread) : Thread := { t with hold := none, pend := none, stepped := t.stepOne, carried := none }

theorem State.thread?_setThread_self (s : State) (n : Nat) (t : Thread) : (s.setThread n t).thread? n = some t := by
  rw [State.thread?_setThread, if_pos rfl]

theorem State.modThread_of_thread {n : Nat} (ht : s.thread? n = some t) (f : Thread → Thread) :
    s.modThread n f = s.setThread n (f t) := by
  rw [State.modThread, ht]

theorem State.modThread_setThread (s : State) (n : Nat) (t : Thread) (f : Thread → Thread) :
    (s.setThread n t).modThread n f = s.setThread n (f t) := by
  rw [State.modThread_of_thread (s.thread?_setThread_self n t), State.setThread_setThread]

theorem State.trapAt_of_thread (ht : s.thread? slot = some t) (hr : s.latch.replay = 0) :
    s.trapAt slot cause v pc = (({ s with latch := {} } : State).detach slot).deliver slot cause v pc := by
  simp [State.trapAt, ht, hr]

/-- A user thread whose own handler takes the cause goes on there (R377). -/
theorem State.deliver_toHandler (ht : s.thread? slot = some t) (hl : t.level = .user) (hs : s.launchStopped t.launch = false)
    (hc : userCause cause = true) (h0 : t.xtvec ≠ 0) (h4 : t.xtvec.toNat % 4 = 0) (hx : t.xcause.toNat < 2 ^ 63) :
    s.deliver slot cause v pc = s.setThread slot { t.interrupted with
      xcause := BitVec.ofNat 64 (2 ^ 63 + cause), xepc := pc, xtval := v, pc := t.xtvec, run := .ready } := by
  have h4' : t.xtvec.extractLsb' 0 2 = 0 := by
    rw [← not_not (a := t.xtvec.extractLsb' 0 2 = 0), ← ne_eq, extractLsb'_two_ne_zero_iff]
    exact not_not.2 h4
  have hx' : t.xcause.getLsbD 63 = false := by
    rw [BitVec.getLsbD, Nat.testBit_eq_decide_div_mod_eq]
    exact decide_eq_false (by omega)
  have hown : (userCause cause && t.xtvec != 0 && t.xtvec.extractLsb' 0 2 == 0 && !t.xcause.getLsbD 63) = true := by
    rw [hc, h4', hx', bne_iff_ne.2 h0]
    rfl
  simp only [State.deliver, ht, hl, hs, Bool.false_eq_true, if_false, State.modThread_of_thread ht, State.modThread_setThread,
    if_pos hown, Thread.interrupted]

/-- A user thread whose own handler does not take the cause takes the supervisor route (R377). -/
theorem State.deliver_toSupervisor (ht : s.thread? slot = some t) (hl : t.level = .user) (hs : s.launchStopped t.launch = false)
    (hc : userCause cause = false) :
    s.deliver slot cause v pc = (s.setThread slot t.interrupted).supervisorTrap slot cause v pc := by
  simp only [State.deliver, ht, hl, hs, hc, State.modThread_of_thread ht, Bool.false_and, Bool.false_eq_true, if_false,
    Thread.interrupted]

/-- The activation that the supervisor route queues for a trap that a user thread cannot take itself (R378). -/
def activationFor (slot tenant cause : Nat) (v pc : Word) : Activation :=
  { target := some slot, scause := BitVec.ofNat 64 cause, sepc := pc, stval := v, tenant }

/-- The thread is parked until the activation for its trap resumes it (R377). -/
def Thread.trapped (t : Thread) (cause : Nat) (v pc : Word) : Thread :=
  { t with run := .parked .activation, kept := some (cause, v, pc) }

/-- A core with one more activation, last in its queue. -/
def Core.queues (c : Core) (a : Activation) : Core := { c with actQueue := c.actQueue ++ [a] }

theorem State.supervisorTrap_user (ht : s.thread? slot = some t) (hl : t.level = .user) (hc : userCause cause = false) :
    s.supervisorTrap slot cause v pc =
      ((s.setThread slot (t.trapped cause v pc)).modCore (coreOf slot) (·.queues (activationFor slot t.tenant cause v pc))).post
        t.tenant slot 0 cause 1 v 0 := by
  simp only [State.supervisorTrap, ht, hl, hc, State.modThread_of_thread ht, Bool.false_eq_true, if_false, Nat.add_zero,
    activationFor, Thread.trapped, Core.queues]

/-- On the supervisor route a user thread is parked, and its core has an activation more (R377, R378). -/
theorem State.supervisorTrap_parks (ht : s.thread? slot = some t) (hl : t.level = .user) (hc : userCause cause = false) :
    ∃ t1, (s.supervisorTrap slot cause v pc).thread? slot = some t1 ∧ t1.run = .parked .activation ∧
      activationFor slot t.tenant cause v pc ∈ ((s.supervisorTrap slot cause v pc).core (coreOf slot)).actQueue := by
  have hp : ((s.setThread slot (t.trapped cause v pc)).modCore (coreOf slot)
      (·.queues (activationFor slot t.tenant cause v pc))).thread? slot = some (t.trapped cause v pc) :=
    s.thread?_setThread_self slot _
  obtain ⟨u, hu, hb⟩ := State.post_thread? _ hp t.tenant slot 0 cause 1 v 0
  rw [State.supervisorTrap_user ht hl hc]
  refine ⟨u, hu, (congrArg Thread.run hb :), ?_⟩
  rw [State.core, State.post_cores]
  show _ ∈ (State.core (State.setCore _ _ _) _).actQueue
  rw [State.core_setCore, if_pos rfl]
  exact List.mem_append_right _ (List.mem_singleton_self _)
end

/-! The words of opcode 0x73 with funct3 000 or 100 (R72) -/

theorem decodeWord_system {w : BitVec 32} (hop : w.extractLsb' 0 7 = 0x73#7) :
    decodeWord w = decodeSystem (Parts.ofWord w) := by
  simp [decodeWord, decodeParts, Parts.ofWord, hop]

/-- The immediate of an I form is bits 31 to 20 of its word (R63). -/
theorem immBits_ofWord (w : BitVec 32) :
    ((Parts.ofWord w).top ++ (Parts.ofWord w).b29 ++ (Parts.ofWord w).mid ++ (Parts.ofWord w).rs2).toNat = w.toNat / 2 ^ 20 := by
  have h : (Parts.ofWord w).top ++ (Parts.ofWord w).b29 ++ (Parts.ofWord w).mid ++ (Parts.ofWord w).rs2 = w.extractLsb' 20 12 := by
    simp only [Parts.ofWord]
    rw [BitVec.extractLsb'_append_extractLsb'_eq_extractLsb' (by decide), BitVec.extractLsb'_append_extractLsb'_eq_extractLsb' (by decide),
      BitVec.extractLsb'_append_extractLsb'_eq_extractLsb' (by decide)]
  rw [h, BitVec.extractLsb'_toNat, Nat.shiftRight_eq_div_pow]
  have := w.isLt
  omega

/-- A word of opcode 0x73 and funct3 000 is its immediate's alone where rs1 and rd are 0. -/
theorem toNat_of_systemFields {w : BitVec 32} (hop : w.extractLsb' 0 7 = 0x73#7) (hf : w.extractLsb' 12 3 = 0#3)
    (h1 : w.extractLsb' 15 5 = 0#5) (hd : w.extractLsb' 7 5 = 0#5) : w.toNat = w.toNat / 2 ^ 20 * 2 ^ 20 + 0x73 := by
  simp only [← BitVec.toNat_inj, BitVec.extractLsb'_toNat, Nat.shiftRight_eq_div_pow, BitVec.toNat_ofNat] at hop hf h1 hd
  omega

theorem decodeWord_system_undefined {w : BitVec 32} (hop : w.extractLsb' 0 7 = 0x73#7)
    (hf : w.extractLsb' 12 3 = 0#3 ∨ w.extractLsb' 12 3 = 4#3) (h0 : w ≠ 0x00000073#32) (h1 : w ≠ 0x00100073#32) :
    decodeWord w = .error .undefinedForm := by
  rw [decodeWord_system hop]
  rcases hf with hf | hf
  · have hf' : (Parts.ofWord w).f3 = 0#3 := hf
    simp only [decodeSystem, hf', show (0#3).toNat = 0 from rfl]
    split
    · next h1' =>
      split
      · next hd =>
        have hw := toNat_of_systemFields hop hf h1' hd
        rw [immBits_ofWord]
        split
        · next h => exact absurd (BitVec.eq_of_toNat_eq (by rw [hw, h]; rfl)) h0
        · next h => exact absurd (BitVec.eq_of_toNat_eq (by rw [hw, h]; rfl)) h1
        · rfl
      · rfl
    · rfl
  · have hf' : (Parts.ofWord w).f3 = 4#3 := hf
    unfold decodeSystem
    rw [hf']
    rfl

/-! The calls -/

section
variable {s : State} {t : Thread}

theorem CanIssue.environmentCall (h : CanIssue s t []) {cause : Nat} (hc : cause < 2 ^ 32) :
    Machine.issue s false [] (fun s c => s.trapc c cause (c.npc - c.t.pc)) =
      .next (s.trapAt s.cur cause (BitVec.ofNat 64 (4 * (s.latch.n + 1))) t.pc) := by
  rw [h.issue, h.trapc hc]
  rw [State.nextPc, add_sub_cancel_left]

theorem execEcall_eq (s : State) : exec .ecall s = issue s false [] fun s c => s.trapc c 0x05 (c.npc - c.t.pc) := rfl

theorem execEbreak_eq (s : State) : exec .ebreak s = issue s false [] fun s c => s.trapc c 0x04 (c.npc - c.t.pc) := rfl

theorem CanIssue.ecall (h : CanIssue s t []) :
    exec .ecall s = .next (s.trapAt s.cur 0x05 (BitVec.ofNat 64 (4 * (s.latch.n + 1))) t.pc) :=
  (execEcall_eq s).trans (h.environmentCall (by decide))

theorem CanIssue.ebreak (h : CanIssue s t []) :
    exec .ebreak s = .next (s.trapAt s.cur 0x04 (BitVec.ofNat 64 (4 * (s.latch.n + 1))) t.pc) :=
  (execEbreak_eq s).trans (h.environmentCall (by decide))

/-- What a trap's delivery finds of the thread and its launch is what the instruction left. -/
theorem thread?_detach (ht : s.thread? s.cur = some t) : (({ s with latch := {} } : State).detach s.cur).thread? s.cur = some t := by
  rw [State.thread?, State.detach_threads]
  exact ht

theorem launchStopped_detach (slot lid : Nat) :
    (({ s with latch := {} } : State).detach slot).launchStopped lid = s.launchStopped lid := by
  rw [State.launchStopped, State.detach_launches]
  rfl
end

/-- Settles O8: the calls are traps of a cause that the user route takes (ebreak) or never takes (ecall). -/
theorem environmentCalls : Obligations.EnvironmentCalls := by
  refine ⟨rfl, rfl, fun s s1 t w fuel ht hf hop hf3 h0 h1 => ?_, fun s t h => ?_, fun s t neg p hc ht hr hg hp => ?_⟩
  · exact runWords_reject ht hf (decodeWord_system_undefined hop hf3 h0 h1) (by intros; nofun)
  · refine ⟨h.ecall, h.ebreak, fun hl hs => ?_, fun hl hs hv hv4 hx => ?_⟩
    · obtain ⟨t1, ht1, hrun, hmem⟩ := State.supervisorTrap_parks (cause := 0x05) (pc := t.pc)
        (v := BitVec.ofNat 64 (4 * (s.latch.n + 1))) (State.thread?_setThread_self _ s.cur t.interrupted) hl rfl
      refine ⟨_, t1, h.ecall, ?_⟩
      rw [State.trapAt_of_thread h.thread h.direct, State.deliver_toSupervisor (thread?_detach h.thread) hl
        (by rw [launchStopped_detach, hs]) rfl]
      exact ⟨ht1, hrun, hmem⟩
    · have hx' := h.ebreak
      rw [State.trapAt_of_thread h.thread h.direct, State.deliver_toHandler (thread?_detach h.thread) hl
        (by rw [launchStopped_detach, hs]) rfl hv hv4 hx] at hx'
      exact ⟨_, _, hx', State.thread?_setThread_self _ _ _, rfl, rfl, rfl, rfl, rfl, rfl⟩
  · have hoff (i : Instr) (hu : formUses s.latch i = some []) : exec i s = .next (s.retires t (s.nextPc t)) :=
      guardedOff s t i [] neg p hc ht hr hg hp hu (by simp) (by simp)
    exact ⟨hoff .ecall rfl, hoff .ebreak rfl⟩

end Sys2Proof.Machine
end

section
/-! Plain loads and stores (R66, R67): their forms, and the checks that come before any access. -/

namespace Sys2Proof.Machine

theorem exec_loadForm {i : Instr} {rd rs1 : BitVec 5} {imm : BitVec 12} {n : Nat} {sg : Bool}
    (h : loadForm i = some (rd, rs1, imm, n, sg)) (s : State) : exec i s = load s rd rs1 imm n sg := by
  cases i <;> cases h <;> rfl

theorem exec_storeForm {i : Instr} {rs2 rs1 : BitVec 5} {imm : BitVec 12} {n : Nat}
    (h : storeForm i = some (rs2, rs1, imm, n)) (s : State) : exec i s = store s rs2 rs1 imm n := by
  cases i <;> cases h <;> rfl

/-- The offset of a group counts words (R36). -/
theorem groupOffset_eq (imm : BitVec 10) : groupOffset imm = BitVec.ofInt 64 (8 * imm.toInt) := by
  rw [groupOffset, BitVec.signExtend, Int.mul_comm, BitVec.ofInt_mul]
  rfl

/-! The checks that come before any access (R67 steps 1 and 2, R120) -/

section
variable {s : State} {t : Thread} {us : List RegUse} {a b d n : Nat} {ea : Word}

theorem belowLimit_eq (slot : Nat) (t : Thread) (w npc : Word) (us : List RegUse) (a : Nat) (ea : Word) :
    belowLimit ⟨slot, t, w, npc, us⟩ a ea = (a == 2 && decide (ea.toNat < t.sbound.toNat)) := rfl

theorem belowLimit_of_above (ha : AboveLimit t a ea) (slot : Nat) (w npc : Word) (us : List RegUse) :
    belowLimit ⟨slot, t, w, npc, us⟩ a ea = false := by
  rw [belowLimit_eq, Bool.and_eq_false_imp]
  exact fun h2 => decide_eq_false (Nat.not_lt.2 (ha (by simpa using h2)))

theorem CanIssue.misaligned (h : CanIssue s t us) (ha : rs a ∈ us) {off : Word} (hn : (t.x a + off).toNat % n ≠ 0)
    (go : State → Ctx → State) :
    Machine.issue s false us (fun s c => if (c.x a + off).toNat % n ≠ 0 then s.trapc c 0x03 (c.x a + off) else go s c) =
      .next (s.trapAt s.cur 0x03 (t.x a + off) t.pc) := by
  rw [h.issue]
  simp only [Ctx.x, h.src_rs ha, if_pos hn, h.trapc (show 0x03 < 2 ^ 32 by decide)]
end

/-- Settles O16: alignment is the first test of each body, and the store limit the second of a store's. -/
theorem misalignedAccessTraps : Obligations.MisalignedAccessTraps := by
  refine ⟨fun i rd rs1 imm n sg hf s t => ?_, fun i rs2 rs1 imm n hf s t => ?_, fun s t span r rs1 imm => ?_⟩
  · intro ea h hn
    rw [exec_loadForm hf, load]
    exact h.misaligned (by simp) hn _
  · intro ea h
    rw [exec_storeForm hf, store]
    refine ⟨fun hn => h.misaligned (by simp) hn _, fun hn h2 hlow => ?_⟩
    have hx : t.src (s.latch.rs1 rs1) + imm.signExtend 64 = ea := by rw [h.src_rs (by simp)]; rfl
    have hl : (s.latch.rs1 rs1 == 2 && decide (ea.toNat < t.sbound.toNat)) = true := by simpa [h2] using hlow
    rw [h.issue]
    simp only [Ctx.x, hx, hn, belowLimit_eq, hl, if_true, h.trapc (show 0x06 < 2 ^ 32 by decide)]
    rfl
  · dsimp only
    rw [← groupOffset_eq]
    intro hn
    exact ⟨fun h => h.misaligned (by simp) hn _, fun h => h.misaligned (by simp) hn _⟩

end Sys2Proof.Machine
end

section
/-! Where an access that passes its checks leads (R67 step 3, R115), and the store that enters the store buffer (R290). -/

namespace Sys2Proof.Machine

/-! Retiring in a state that the body has changed, where no operand is bound to a port -/

section
variable {u : State} {c : Ctx} {t : Thread}

theorem State.popPorts_of_handles_nil (hh : c.handles = []) (u : State) : u.popPorts c = u := by
  rw [State.popPorts, hh]
  rfl

theorem State.retire_of_thread (ht : u.thread? u.cur = some t) (hr : u.latch.replay = 0) (pc : Word) :
    u.retire u.cur pc = u.retires t pc := by
  rw [State.retire, if_neg (not_not.2 hr), State.modThread_of_thread ht]
  rfl

theorem State.done_of_thread (hh : c.handles = []) (hs : c.slot = u.cur) (ht : u.thread? u.cur = some t) (hr : u.latch.replay = 0) :
    u.done c = u.retires t c.npc := by
  rw [State.done, State.popPorts_of_handles_nil hh, hs, State.retire_of_thread ht hr]

theorem State.finish_of_thread (hh : c.handles = []) (hs : c.slot = u.cur) (ht : u.thread? u.cur = some t) (hr : u.latch.replay = 0)
    {n : Nat} (hn : t.portOf n = none) (v : Word) : u.finish c n [v] = u.retires (t.setX n v) c.npc := by
  have hw : u.writeRegs u.cur n [v] = u.setThread u.cur (t.setX n v) := by simp [State.writeRegs, ht, hn]
  rw [State.finish, State.popPorts_of_handles_nil hh, hs, hw]
  have h := State.retire_of_thread (u := u.setThread u.cur (t.setX n v)) (State.thread?_setThread_self ..) hr c.npc
  rw [State.setThread_cur] at h
  rw [h, State.retires, State.setThread_cur, State.setThread_setThread]
  rfl
end

/-! What a translation leaves -/

section
variable {s s1 : State} (he : SameButTlbs s s1)
include he

theorem SameButTlbs.cur : s1.cur = s.cur := (congrArg State.cur he.rest :)

theorem SameButTlbs.mem : s1.mem = s.mem := (congrArg State.mem he.rest :)

theorem SameButTlbs.replay : s1.latch.replay = s.latch.replay := (congrArg (·.latch.replay) he.rest :)

theorem SameButTlbs.thread? {t : Thread} (ht : s.thread? s.cur = some t) : s1.thread? s1.cur = some t := by
  have hth : s1.threads = s.threads := (congrArg State.threads he.rest :)
  rw [State.thread?, hth, he.cur]
  exact ht

theorem SameButTlbs.sb (n : Nat) : (s1.core n).sb = (s.core n).sb := by
  obtain ⟨l, hl⟩ := he.core n
  rw [hl]
end

section
variable {s s1 : State} {t : Thread} {us : List RegUse} {va : Word} {a : Access} {tgt : Target} {p : Nat × Nat}

/-- Where an access leads does not hang on the operands of its instruction. -/
theorem State.reach_eq_checked (s : State) (t : Thread) (us : List RegUse) (va : Word) (a : Access) :
    s.reach ⟨s.cur, t, s.latch.tval, s.nextPc t, us⟩ va a = s.checked t va a := rfl

theorem Thread.carries_of_window (h : Config.ownBase ≤ va.toNat) : t.carries va = none := by
  rw [Thread.carries, Option.filter_eq_none_iff]
  intro x _
  simp [Nat.not_lt.2 h]

theorem State.checked_of_window (h : Config.ownBase ≤ va.toNat) :
    s.checked t va a = s.resolve (coreOf s.cur) t.tenant (masterOf t.tenant (coreOf s.cur)) va.toNat a := by
  simp [State.checked, State.reach, Thread.carries_of_window h, State.miss, State.misses, Nat.not_lt.2 h]
  rfl

/-- An access that passes its checks changes nothing but what the TLBs hold. -/
theorem State.checked_sameButTlbs (h : s.checked t va a = (s1, .ok tgt)) : SameButTlbs s s1 := by
  unfold State.checked State.reach at h
  split at h
  · split at h
    · cases h
    · exact (Prod.mk.inj h).1 ▸ .refl s
  · split at h
    · cases h
    · exact State.resolve_ok h

theorem ownBase_le_of_windowOf {core v : Nat} {x : Target} (h : windowOf core v = some x) : Config.ownBase ≤ v := by
  unfold windowOf at h
  by_contra hb
  have h1 : ¬ (Config.ownBase ≤ v ∧ v < Config.ownBase + storeSize core) := fun e => hb e.1
  have h2 : ¬ (Config.belayBase ≤ v ∧ v < Config.belayBase + 0x100000000) := fun e => hb (le_trans (by decide) e.1)
  have h3 : ¬ (Config.clusterBase ≤ v ∧ v < Config.clusterBase + 0x2000000) := fun e => hb (le_trans (by decide) e.1)
  have h4 : ¬ (Config.packageBase ≤ v ∧ v < Config.packageBase + 0x100000000) := fun e => hb (le_trans (by decide) e.1)
  rw [if_neg h1, if_neg h2, if_neg h3, if_neg h4] at h
  cases h

/-- An access that leads to a place in memory is none of a belay unit's words. -/
theorem windowOf_ne_belay (h : s.checked t va a = (s1, .ok tgt)) (hp : tgt.place = some p) (off : Nat) :
    windowOf (coreOf s.cur) va.toNat ≠ some (.belay off) := by
  intro hw
  have hb := ownBase_le_of_windowOf hw
  rw [State.checked_of_window hb, State.resolve] at h
  simp only [if_pos hb, hw] at h
  split at h
  · cases h
  · split at h <;> cases h
    all_goals cases hp

theorem Target.key_of_place (hp : tgt.place = some p) : tgt.key = some (p.1 / 8) := by
  cases tgt <;> cases hp <;> rfl

theorem Target.ne_belay_of_place (hp : tgt.place = some p) (off : Nat) : tgt ≠ .belay off := by
  rintro rfl
  cases hp
end

/-! The store buffer -/

/-- One word that passes the checks of a store enters the core's buffer, where there is room, and the instruction retires. -/
theorem storeWords_single {s s1 : State} {c : Ctx} {rs1 ad cls : Nat} {w : WordPut} {tgt : Target} (hl : belowLimit c rs1 w.va = false)
    (hr : s.reach c w.va .store = (s1, .ok tgt)) (hp : tgt.place = some (ad, cls)) (hroom : (s1.core c.core).sb.length < 16) :
    storeWords s c rs1 [w] =
      ({ s1.modCore c.core (fun k => { k with
          sb := k.sb ++ [⟨s1.nextId, c.slot, [(ad / 8, w.mask, w.data)], false, [], c.t.tenant, [cls]⟩] }) with
        nextId := s1.nextId + 1 } : State).done c := by
  have hb := Target.ne_belay_of_place hp
  have hk := Target.key_of_place hp
  simp only [storeWords, storeWords.checkAll, hl, hr]
  cases tgt with
  | belay off => exact absurd rfl (hb off)
  | _ => simp [Nat.not_le.2 hroom, hk, hp]; rfl

theorem byteMask_eq (n off : Nat) : byteMask n off = BitVec.ofNat 8 ((2 ^ n - 1) * 2 ^ off) := by
  rw [byteMask, ← BitVec.toNat_inj, BitVec.toNat_shiftLeft, BitVec.toNat_ofNat, BitVec.toNat_ofNat, Nat.shiftLeft_eq, Nat.mod_mul_mod]

/-- A thread that has not moved accesses where it is (R352). -/
theorem moveOr_resident {t : Thread} (h : t.ctx = 0) (s : State) (slot : Nat) (w npc : Word) (us : List RegUse) (ea : Word)
    (a : Access) (go : State → State) : moveOr s ⟨slot, t, w, npc, us⟩ ea a go = go s := by
  simp [moveOr, h]

section
variable {s s1 : State} {t : Thread} {a b n ad cls : Nat} {ea : Word} {tgt : Target}

/-- A store that can issue, aligned and above the limit, whose access lands in this package: what its body does. -/
theorem CanIssue.storeWords (h : CanIssue s t [rs a, rs b]) (ha : AboveLimit t a ea)
    (hck : s.checked t ea .store = (s1, .ok tgt)) (hp : tgt.place = some (ad, cls)) (hroom : (s.core (coreOf s.cur)).sb.length < 16)
    (m : BitVec 8) (v : Word) :
    Machine.storeWords s ⟨s.cur, t, s.latch.tval, s.nextPc t, [rs a, rs b]⟩ a [⟨ea, ea, m, v⟩] =
      (s1.buffers [(ad / 8, m, v)] false t.tenant [cls]).retires t (s.nextPc t) := by
  have he := State.checked_sameButTlbs hck
  have hroom1 : (s1.core (coreOf s.cur)).sb.length < 16 := by rwa [he.sb]
  rw [storeWords_single (belowLimit_of_above ha _ _ _ _) ((s.reach_eq_checked t _ ea .store).trans hck) hp hroom1]
  rw [State.buffers, he.cur]
  exact State.done_of_thread (h.handles _ _) he.cur.symm (he.thread? h.thread) (he.replay.trans h.direct)
end

/-- The effective address of a load or a store (R66). -/
theorem CanIssue.ea {s : State} {t : Thread} {us : List RegUse} (h : CanIssue s t us) {a : Nat} (ha : rs a ∈ us) (imm : BitVec 12) :
    t.src a + imm.signExtend 64 = t.x a + BitVec.ofInt 64 imm.toInt := by
  rw [h.src_rs ha]
  rfl

/-- Settles O13: a store that passes every check is one entry more in its core's buffer. -/
theorem storesEnterTheBuffer : Obligations.StoresEnterTheBuffer := by
  intro i rs2 rs1 imm n hf s s1 t tgt ad cls
  dsimp only
  intro h hctx hal habove hck hp hroom
  have he := State.checked_sameButTlbs hck
  refine ⟨?_, he, fun x => congrArg (·.byte x) he.mem⟩
  have hbody := h.storeWords habove hck hp hroom
  rw [exec_storeForm hf, store, h.issue]
  simp only [Ctx.x, h.ea (a := s.latch.rs1 rs1) (by simp), h.src_rs (n := s.latch.rs2 rs2) (by simp), hal,
    belowLimit_of_above habove, moveOr_resident hctx, ← byteMask_eq, ne_eq, not_true_eq_false, Bool.false_eq_true, if_false]
  split
  · next off hw => exact absurd hw (windowOf_ne_belay hck hp off)
  · rw [hbody]

end Sys2Proof.Machine
end

section
/-! Loads (R66, R67): the slot of a thread is any number in the model, and one no package has puts the thread's own store where
the addresses of the packages elsewhere begin (R5), so that a load of it travels. -/

namespace Sys2Proof.Machine

/-- A slot beyond the cores of every package. -/
def farSlot : Nat := 2 ^ 52

/-- A thread whose x5 holds the base of its own store. -/
def farThread : Thread := { pc := 0x1000, limit := 64, regs := [(5, { val := BitVec.ofNat 64 Config.ownBase })] }

/-- After reset, that thread alone and in that slot. -/
def farState : State := { State.reset with threads := [(farSlot, farThread)], cur := farSlot }

theorem farState_canIssue : CanIssue farState farThread [rs 5, rdst 9] := Tests.canIssue rfl (by decide)

/-- The access passes its checks and lands in the thread's own store. -/
theorem farState_lands : Lands farState farThread (farThread.x 5 + BitVec.ofInt 64 (0 : BitVec 12).toInt) .load farState
    (storeBase (coreOf farSlot)) := ⟨_, _, rfl, rfl, rfl⟩

theorem farState_settled : Settled farState (storeBase (coreOf farSlot) / 8) := ⟨nofun, by decide⟩

/-- ld x9, 0(x5) is asked for outside the package, and the thread waits for the reply. -/
theorem farState_load_waits : ∃ u, exec (.ld 9 5 0) farState = .next u ∧
    (u.thread? farSlot).map (·.run) = some (.waiting .reply) := ⟨_, rfl, rfl⟩

/-- Refutes O11: requests complete in the issuing step (State.slow false), and yet the load of farState waits for a reply, its word
having an address of another package; the statement has it retire. -/
theorem not_loadsReadMemory : ¬ Obligations.LoadsReadMemory := by
  unfold Obligations.LoadsReadMemory
  intro hall
  obtain ⟨hcompletes, -⟩ := hall (.ld 9 5 0) 9 5 0 8 true rfl
  obtain ⟨hnext, -⟩ := hcompletes farState farState farThread _ farState_canIssue rfl rfl rfl farState_lands farState_settled rfl
  obtain ⟨u, hexec, hwaits⟩ := farState_load_waits
  obtain rfl := Host.Outcome.next.inj (hexec.symm.trans hnext)
  exact nomatch hwaits

end Sys2Proof.Machine
end

section
/-! The Zicsr instructions (R76): a CSR that the executing thread reads without a side effect, and one that it may not name. -/

namespace Sys2Proof.Machine

theorem Thread.setCsr_ports (t : Thread) (a : BitVec 12) (v : Word) : (t.setCsr a v).ports = t.ports := by
  unfold Thread.setCsr
  split <;> rfl

section
variable {s : State} {t : Thread} {us src : List RegUse} {csr : BitVec 12} {rd : BitVec 5} {reads : Bool} {old : Word}
  {f : Ctx → Option (Word → Word)}

/-- The instruction that names operands us, as its body finds it. -/
def State.ctxOf (s : State) (t : Thread) (us : List RegUse) : Ctx := ⟨s.cur, t, s.latch.tval, s.nextPc t, us⟩

/-- A CSR whose read leaves the machine as it is, and whose write waits for nothing: none but sxval and stlbinv have more to do. -/
structure ReadsPlainly (s : State) (t : Thread) (csr : BitVec 12) (old : Word) : Prop where
  notSxval : csr ≠ 0x146#12
  notStlbinv : csr ≠ 0x14C#12
  read : s.csrRead (s.ctxOf t []) csr = some (s, old)

/-- What a write of a CSR by the executing thread leaves, to which the instruction adds rd: the state, and its thread. -/
structure WritesTo (s : State) (t : Thread) (csr : BitVec 12) (v : Word) (u : State) (t1 : Thread) : Prop where
  write : s.csrWrite (s.ctxOf t []) csr v = u
  cur : u.cur = s.cur
  latch : u.latch = s.latch
  thread : u.thread? u.cur = some t1
  ports : t1.ports = t.ports

theorem ReadsPlainly.body (hp : ReadsPlainly s t csr old) (h : CanIssue s t (src ++ [rdst (s.latch.rd rd)])) :
    csrOp s csr rd src reads f = .next (
      match f (s.ctxOf t (src ++ [rdst (s.latch.rd rd)])) with
      | none => s.finish (s.ctxOf t (src ++ [rdst (s.latch.rd rd)])) (s.latch.rd rd) [old]
      | some g => (s.csrWrite (s.ctxOf t (src ++ [rdst (s.latch.rd rd)])) csr (g old)).finish
          (s.ctxOf t (src ++ [rdst (s.latch.rd rd)])) (s.latch.rd rd) [old]) := by
  have hr : s.csrRead ⟨s.cur, t, s.latch.tval, s.nextPc t, src ++ [rdst (s.latch.rd rd)]⟩ csr = some (s, old) := hp.read
  have hx : (csr == 0x146#12) = false := beq_eq_false_iff_ne.2 hp.notSxval
  have hz : (csr == 0x14C#12) = false := beq_eq_false_iff_ne.2 hp.notStlbinv
  simp only [csrOp, h.issue, hr, hx, hz, Bool.and_false, Bool.false_and, Bool.false_eq_true, if_false, ite_self]
  rfl

theorem ReadsPlainly.keeps (hp : ReadsPlainly s t csr old) (h : CanIssue s t (src ++ [rdst (s.latch.rd rd)]))
    (hf : f (s.ctxOf t (src ++ [rdst (s.latch.rd rd)])) = none) :
    csrOp s csr rd src reads f = .next (s.retires (t.setX (s.latch.rd rd) old) (s.nextPc t)) := by
  rw [hp.body h, hf]
  exact congrArg _ (h.finish (u := rdst (s.latch.rd rd)) (by simp) (by simp) _ _ [old])

theorem ReadsPlainly.writes (hp : ReadsPlainly s t csr old) (h : CanIssue s t (src ++ [rdst (s.latch.rd rd)])) {g : Word → Word}
    (hf : f (s.ctxOf t (src ++ [rdst (s.latch.rd rd)])) = some g) {u : State} {t1 : Thread} (hw : WritesTo s t csr (g old) u t1) :
    csrOp s csr rd src reads f = .next (u.retires (t1.setX (s.latch.rd rd) old) (s.nextPc t)) := by
  have hw' : s.csrWrite (s.ctxOf t (src ++ [rdst (s.latch.rd rd)])) csr (g old) = u := hw.write
  have hd : t1.portOf (s.latch.rd rd) = none :=
    portOf_none fun p hp => h.unbound p (hw.ports ▸ hp) (rdst (s.latch.rd rd)) (by simp) _ (by simp)
  rw [hp.body h, hf]
  dsimp only
  rw [hw', State.finish_of_thread (c := s.ctxOf t _) (h.handles _ _) hw.cur.symm hw.thread (hw.latch ▸ h.direct) hd]
  rfl

/-- A CSR that the thread may not name (R76, R381). -/
theorem CanIssue.csrOp_illegal (h : CanIssue s t (src ++ [rdst (s.latch.rd rd)])) (hl : t.level ≠ .supervisor)
    (hn : s.userCsr s.cur t csr = none) :
    csrOp s csr rd src reads f = .next (s.trapAt s.cur 0x01 (s.latch.word.setWidth 64) t.pc) := by
  have hs (us : List RegUse) : Ctx.supervisor ⟨s.cur, t, s.latch.tval, s.nextPc t, us⟩ = false := beq_eq_false_iff_ne.2 hl
  simp only [csrOp, h.issue, hs, State.csrRead, hn, Bool.false_and, Bool.false_eq_true, if_false,
    h.trapc (show 0x01 < 2 ^ 32 by decide)]
  rfl
end

/-! The six forms: the new value that each gives, where it writes -/

theorem exec_csrrw (csr : BitVec 12) (rd r : BitVec 5) (s : State) : exec (.csrrw csr rd r) s =
    csrOp s csr rd [rs (s.latch.rs1 r)] true fun c => some fun _ => c.x (s.latch.rs1 r) := rfl

theorem exec_csrrs (csr : BitVec 12) (rd r : BitVec 5) (s : State) : exec (.csrrs csr rd r) s =
    csrOp s csr rd [rs (s.latch.rs1 r)] false fun c =>
      if s.latch.rs1 r = 0 then none else some fun old => old ||| c.x (s.latch.rs1 r) := rfl

theorem exec_csrrc (csr : BitVec 12) (rd r : BitVec 5) (s : State) : exec (.csrrc csr rd r) s =
    csrOp s csr rd [rs (s.latch.rs1 r)] false fun c =>
      if s.latch.rs1 r = 0 then none else some fun old => old &&& ~~~ c.x (s.latch.rs1 r) := rfl

theorem exec_csrrwi (csr : BitVec 12) (rd r : BitVec 5) (s : State) : exec (.csrrwi csr rd r) s =
    csrOp s csr rd [] true fun _ => some fun _ => r.setWidth 64 := rfl

theorem exec_csrrsi (csr : BitVec 12) (rd r : BitVec 5) (s : State) : exec (.csrrsi csr rd r) s =
    csrOp s csr rd [] false fun _ => if r = 0 then none else some fun old => old ||| r.setWidth 64 := rfl

theorem exec_csrrci (csr : BitVec 12) (rd r : BitVec 5) (s : State) : exec (.csrrci csr rd r) s =
    csrOp s csr rd [] false fun _ => if r = 0 then none else some fun old => old &&& ~~~ r.setWidth 64 := rfl

section
variable {s : State} {t : Thread} {csr : BitVec 12} {rd r : BitVec 5} {old : Word}

variable {src : List RegUse} {reads : Bool} {u : Word → State} {t1 : Word → Thread}

/-- The value that an instruction writes to a CSR goes into the state before rd does. -/
theorem ReadsPlainly.put (hp : ReadsPlainly s t csr old) (hw : ∀ v, WritesTo s t csr v (u v) (t1 v))
    (h : CanIssue s t (src ++ [rdst (s.latch.rd rd)])) {g : Ctx → Word → Word} {v : Word}
    (hg : g (s.ctxOf t (src ++ [rdst (s.latch.rd rd)])) old = v) :
    csrOp s csr rd src reads (fun c => some (g c)) = .next ((u v).retires ((t1 v).setX (s.latch.rd rd) old) (s.nextPc t)) :=
  hg ▸ hp.writes h rfl (hw _)

/-- A set or clear form, which writes nothing where it names no bits. -/
theorem ReadsPlainly.change (hp : ReadsPlainly s t csr old) (hw : ∀ v, WritesTo s t csr v (u v) (t1 v))
    (h : CanIssue s t (src ++ [rdst (s.latch.rd rd)])) (k : Prop) [Decidable k] {g : Ctx → Word → Word} {v : Word}
    (hg : g (s.ctxOf t (src ++ [rdst (s.latch.rd rd)])) old = v) :
    csrOp s csr rd src reads (fun c => if k then none else some (g c)) = .next (
      if k then s.retires (t.setX (s.latch.rd rd) old) (s.nextPc t)
      else (u v).retires ((t1 v).setX (s.latch.rd rd) old) (s.nextPc t)) := by
  by_cases hk : k
  · simp only [if_pos hk]
    exact hp.keeps h rfl
  · simp only [if_neg hk]
    exact hp.put hw h hg

theorem ReadsPlainly.registerForms (hp : ReadsPlainly s t csr old) (hw : ∀ v, WritesTo s t csr v (u v) (t1 v))
    (h : CanIssue s t [rs (s.latch.rs1 r), rdst (s.latch.rd rd)]) :
    let a := s.latch.rs1 r; let d := s.latch.rd rd
    let writes (v : Word) : State := (u v).retires ((t1 v).setX d old) (s.nextPc t)
    let keeps : State := s.retires (t.setX d old) (s.nextPc t)
    exec (.csrrw csr rd r) s = .next (writes (t.x a)) ∧
    exec (.csrrs csr rd r) s = .next (if a = 0 then keeps else writes (old ||| t.x a)) ∧
    exec (.csrrc csr rd r) s = .next (if a = 0 then keeps else writes (old &&& ~~~ t.x a)) := by
  have hx : Ctx.x (s.ctxOf t [rs (s.latch.rs1 r), rdst (s.latch.rd rd)]) (s.latch.rs1 r) = t.x (s.latch.rs1 r) := h.src_rs (by simp)
  rw [exec_csrrw, exec_csrrs, exec_csrrc]
  exact ⟨hp.put hw h hx, hp.change hw h _ (congrArg (old ||| ·) hx), hp.change hw h _ (congrArg (old &&& ~~~ ·) hx)⟩

theorem ReadsPlainly.immediateForms (hp : ReadsPlainly s t csr old) (hw : ∀ v, WritesTo s t csr v (u v) (t1 v))
    (h : CanIssue s t [rdst (s.latch.rd rd)]) :
    let d := s.latch.rd rd; let v : Word := BitVec.ofNat 64 r.toNat
    let writes (v : Word) : State := (u v).retires ((t1 v).setX d old) (s.nextPc t)
    let keeps : State := s.retires (t.setX d old) (s.nextPc t)
    exec (.csrrwi csr rd r) s = .next (writes v) ∧
    exec (.csrrsi csr rd r) s = .next (if r = 0 then keeps else writes (old ||| v)) ∧
    exec (.csrrci csr rd r) s = .next (if r = 0 then keeps else writes (old &&& ~~~ v)) := by
  rw [exec_csrrwi, exec_csrrsi, exec_csrrci, BitVec.ofNat_toNat]
  exact ⟨hp.put hw h rfl, hp.change hw h _ rfl, hp.change hw h _ rfl⟩

theorem CanIssue.registerForms_illegal (h : CanIssue s t [rs (s.latch.rs1 r), rdst (s.latch.rd rd)]) (hl : t.level ≠ .supervisor)
    (hn : s.userCsr s.cur t csr = none) :
    let illegal : State := s.trapAt s.cur 0x01 (s.latch.word.setWidth 64) t.pc
    exec (.csrrw csr rd r) s = .next illegal ∧ exec (.csrrs csr rd r) s = .next illegal ∧
      exec (.csrrc csr rd r) s = .next illegal := by
  rw [exec_csrrw, exec_csrrs, exec_csrrc]
  exact ⟨h.csrOp_illegal hl hn, h.csrOp_illegal hl hn, h.csrOp_illegal hl hn⟩

theorem CanIssue.immediateForms_illegal (h : CanIssue s t [rdst (s.latch.rd rd)]) (hl : t.level ≠ .supervisor)
    (hn : s.userCsr s.cur t csr = none) :
    let illegal : State := s.trapAt s.cur 0x01 (s.latch.word.setWidth 64) t.pc
    exec (.csrrwi csr rd r) s = .next illegal ∧ exec (.csrrsi csr rd r) s = .next illegal ∧
      exec (.csrrci csr rd r) s = .next illegal := by
  rw [exec_csrrwi, exec_csrrsi, exec_csrrci]
  exact ⟨h.csrOp_illegal hl hn, h.csrOp_illegal hl hn, h.csrOp_illegal hl hn⟩
end

/-! The CSRs of a thread (R77) -/

section
variable {s : State} {t : Thread} {csr : BitVec 12} {old : Word}

theorem readsPlainly_of_userCsr (h : s.userCsr s.cur t csr = some old) : ReadsPlainly s t csr old where
  notSxval := by
    rintro rfl
    cases h
  notStlbinv := by
    rintro rfl
    cases h
  read := by
    show State.csrRead s ⟨s.cur, t, _, _, _⟩ csr = _
    rw [State.csrRead, h]

theorem writesTo_of_userCsr (ht : s.thread? s.cur = some t) (h : s.userCsr s.cur t csr = some old) (v : Word) :
    WritesTo s t csr v (s.setThread s.cur (t.setCsr csr v)) (t.setCsr csr v) where
  write := by
    show State.csrWrite s ⟨s.cur, t, _, _, _⟩ csr v = _
    rw [State.csrWrite, h]
    exact State.modThread_of_thread ht _
  cur := rfl
  latch := rfl
  thread := State.thread?_setThread_self ..
  ports := t.setCsr_ports csr v

theorem State.retires_setThread (s : State) (t1 t2 : Thread) (pc : Word) :
    (s.setThread s.cur t1).retires t2 pc = s.retires t2 pc := by
  rw [State.retires, State.setThread_cur, State.setThread_setThread]
  rfl
end

/-- Settles O20: a CSR of the thread is read as it stands, and written before rd. -/
theorem csrInstructions : Obligations.CsrInstructions := by
  intro s t csr rd r
  dsimp only
  refine ⟨fun old hu => ?_, fun hn hl => ⟨fun h => h.registerForms_illegal hl hn, fun h => h.immediateForms_illegal hl hn⟩⟩
  have hp := readsPlainly_of_userCsr hu
  refine ⟨fun h => ?_, fun h => ?_⟩
  · have hforms := hp.registerForms (r := r) (writesTo_of_userCsr h.thread hu) h
    simpa only [State.retires_setThread] using hforms
  · have hforms := hp.immediateForms (r := r) (writesTo_of_userCsr h.thread hu) h
    simpa only [State.retires_setThread] using hforms

end Sys2Proof.Machine
end

section
/-! The supervisor CSRs (R381): each of the six forms on one, at supervisor level and below it. -/

namespace Sys2Proof.Machine

theorem State.retires_ite (k : Prop) [Decidable k] (s u : State) (t : Thread) (pc : Word) :
    (if k then s else u).retires t pc = if k then s.retires t pc else u.retires t pc :=
  apply_ite (State.retires · t pc) k s u

/-- None of the user table's CSRs has a number of the supervisor's (R77, R381). -/
theorem userCsr_eq_none_of_supervisor {csr : BitVec 12} (h0 : 0x140 ≤ csr.toNat) (h1 : csr.toNat ≤ 0x151) (s : State) (slot : Nat)
    (t : Thread) : s.userCsr slot t csr = none := by
  unfold State.userCsr
  split
  case h_21 => rfl
  all_goals omega

section
variable {s : State} {t : Thread} {csr : BitVec 12} {rd r : BitVec 5} {old : Word}

theorem readsPlainly_of_supCsr (hl : t.level = .supervisor) (hn : s.userCsr s.cur t csr = none) (hx : csr ≠ 0x146#12)
    (hz : csr ≠ 0x14C#12) (hr : s.supCsr (coreOf s.cur) t.tenant csr = some (s, old)) : ReadsPlainly s t csr old where
  notSxval := hx
  notStlbinv := hz
  read := by
    have hs : (t.level == .supervisor) = true := beq_iff_eq.2 hl
    show State.csrRead s ⟨s.cur, t, _, _, _⟩ csr = _
    simp only [State.csrRead, hn, Ctx.supervisor, hs, if_true]
    exact hr

theorem writesTo_of_setSupCsr {v : Word} {u : State} (ht : s.thread? s.cur = some t) (hn : s.userCsr s.cur t csr = none)
    (hw : s.setSupCsr (coreOf s.cur) t.tenant csr v = u) (hu : u.cur = s.cur ∧ u.latch = s.latch ∧ u.threads = s.threads) :
    WritesTo s t csr v u t where
  write := by
    show State.csrWrite s ⟨s.cur, t, _, _, _⟩ csr v = _
    rw [State.csrWrite, hn]
    exact hw
  cur := hu.1
  latch := hu.2.1
  thread := by
    rw [State.thread?, hu.2.2, hu.1]
    exact ht
  ports := rfl

/-- The six forms on a supervisor CSR that reads as old, and whose write of x leaves w x. -/
theorem CanIssue.supervisorForms (h : CanIssue s t [rs (s.latch.rs1 r), rdst (s.latch.rd rd)]) (hl : t.level = .supervisor)
    (hn : s.userCsr s.cur t csr = none) (hx : csr ≠ 0x146#12) (hz : csr ≠ 0x14C#12)
    (hr : s.supCsr (coreOf s.cur) t.tenant csr = some (s, old)) {w : Word → State}
    (hw : ∀ x, s.setSupCsr (coreOf s.cur) t.tenant csr x = w x)
    (hu : ∀ x, (w x).cur = s.cur ∧ (w x).latch = s.latch ∧ (w x).threads = s.threads) :
    let a := s.latch.rs1 r; let v := t.x a; let imm : Word := BitVec.ofNat 64 r.toNat
    let out (u : State) : State := u.retires (t.setX (s.latch.rd rd) old) (s.nextPc t)
    exec (.csrrw csr rd r) s = .next (out (w v)) ∧
    exec (.csrrs csr rd r) s = .next (out (if a = 0 then s else w (old ||| v))) ∧
    exec (.csrrc csr rd r) s = .next (out (if a = 0 then s else w (old &&& ~~~ v))) ∧
    exec (.csrrwi csr rd r) s = .next (out (w imm)) ∧
    exec (.csrrsi csr rd r) s = .next (out (if r = 0 then s else w (old ||| imm))) ∧
    exec (.csrrci csr rd r) s = .next (out (if r = 0 then s else w (old &&& ~~~ imm))) := by
  have hp := readsPlainly_of_supCsr hl hn hx hz hr
  have hwt (x : Word) : WritesTo s t csr x (w x) t := writesTo_of_setSupCsr h.thread hn (hw x) (hu x)
  obtain ⟨hrw, hrs, hrc⟩ := hp.registerForms hwt h
  obtain ⟨hwi, hsi, hci⟩ := hp.immediateForms (rd := rd) (r := r) hwt (h.mono (by simp))
  simp only [State.retires_ite]
  exact ⟨hrw, hrs, hrc, hwi, hsi, hci⟩
end

/-- spre's request goes to the die that bits 31 to 29 of the value name (R389). -/
theorem setSupCsr_spre (s : State) (core tn : Nat) (x : Word) :
    s.setSupCsr core tn 0x14D x =
      (s.setCore core { s.core core with spre := 1, spreNo := (s.core core).spreNo + 1 }).setDie (x.toNat / 2 ^ 29 % 8)
        { s.die (x.toNat / 2 ^ 29 % 8) with
          spreInbox := (s.die (x.toNat / 2 ^ 29 % 8)).spreInbox ++ [(x, core, (s.core core).spreNo + 1, tn)] } := by
  have hd : (x.extractLsb' 29 3).toNat = x.toNat / 2 ^ 29 % 8 := by
    rw [BitVec.extractLsb'_toNat, Nat.shiftRight_eq_div_pow]
  rw [← hd]
  rfl

/-- A register of the running activation is read and written where it runs (R381). -/
theorem setSupCsr_act {s : State} {core tn : Nat} {x : Activation} (ha : (s.core core).act = some x) :
    (∀ v, s.setSupCsr core tn 0x141 v = s.setCore core { s.core core with act := some { x with scause := v &&& 0x1FF#64 } }) ∧
    (∀ v, s.setSupCsr core tn 0x142 v = s.setCore core { s.core core with act := some { x with sepc := v } }) ∧
    ∀ v, s.setSupCsr core tn 0x143 v = s.setCore core { s.core core with act := some { x with stval := v } } := by
  have hm (f : Activation → Activation) : (s.core core).act.map f = some (f x) := by rw [ha]; rfl
  have hset (f : Activation → Activation) : s.setCore core { s.core core with act := (s.core core).act.map f } =
      s.setCore core { s.core core with act := some (f x) } := by rw [hm]
  exact ⟨fun v => hset fun a => { a with scause := v &&& 0x1FF#64 }, fun v => hset fun a => { a with sepc := v },
    fun v => hset fun a => { a with stval := v }⟩

theorem supCsr_act {s : State} {core tn : Nat} {x : Activation} (ha : (s.core core).act = some x) :
    s.supCsr core tn 0x141 = some (s, x.scause) ∧ s.supCsr core tn 0x142 = some (s, x.sepc) ∧
    s.supCsr core tn 0x143 = some (s, x.stval) := by
  simp [State.supCsr, ha]

/-- Settles O22: each register by what the model's table gives for its read and its write; below supervisor level none is named. -/
theorem supervisorCsrs : Obligations.SupervisorCsrs := by
  intro s t csr rd r
  dsimp only
  intro h
  refine ⟨fun hl => ?_, fun hl h0 h1 i hi => ?_⟩
  · refine ⟨?_, ?_, ?_, ?_, ?_, ?_, ?_, ?_, fun x ha => ?_, ?_⟩
    case refine_9 =>
      obtain ⟨hcause, hpc, hval⟩ := supCsr_act ha
      obtain ⟨hsetCause, hsetPc, hsetVal⟩ := setSupCsr_act ha
      exact ⟨h.supervisorForms hl rfl (by decide) (by decide) hcause hsetCause fun _ => ⟨rfl, rfl, rfl⟩,
        h.supervisorForms hl rfl (by decide) (by decide) hpc hsetPc fun _ => ⟨rfl, rfl, rfl⟩,
        h.supervisorForms hl rfl (by decide) (by decide) hval hsetVal fun _ => ⟨rfl, rfl, rfl⟩⟩
    case refine_10 =>
      exact h.supervisorForms hl rfl (by decide) (by decide) rfl (setSupCsr_spre s _ _) fun _ => ⟨rfl, rfl, rfl⟩
    all_goals exact h.supervisorForms hl rfl (by decide) (by decide) rfl (fun _ => rfl) fun _ => ⟨rfl, rfl, rfl⟩
  · have hn := userCsr_eq_none_of_supervisor h0 h1 s s.cur t
    obtain ⟨hrw, hrs, hrc⟩ := h.registerForms_illegal hl hn
    obtain ⟨hwi, hsi, hci⟩ := (h.mono (by simp) : CanIssue s t [rdst (s.latch.rd rd)]).immediateForms_illegal (r := r) hl hn
    simp only [List.mem_cons, List.not_mem_nil, or_false] at hi
    rcases hi with rfl | rfl | rfl | rfl | rfl | rfl
    · exact hrw
    · exact hrs
    · exact hrc
    · exact hwi
    · exact hsi
    · exact hci

end Sys2Proof.Machine
end

section
/-! The fences (R70, R71, R284 to R286) and xempty (R177): what they wait for, and what they leave of the thread's ports and
registers. -/

namespace Sys2Proof.Machine

section
variable {s : State} {t : Thread} {c : Ctx}

/-! What a release waits for -/

theorem Released.outstanding (hr : Released s t) (ht : s.thread? s.cur = some t) (system : Bool) : s.outstanding s.cur system = [] := by
  obtain ⟨-, hsb, hflights, hpushes, -⟩ := hr
  have hnone : (s.flights.filter fun f => f.ofThread s.cur && (system || !f.away)) = [] := by
    rw [List.filter_eq_nil_iff]
    intro f hf
    simp [Flight.ofThread, hflights f hf]
  have hports (f) : s.pushesTo s.cur f = [] := by
    rw [State.pushesTo, ht]
    refine List.flatMap_eq_nil_iff.2 fun p hp => ?_
    rw [hpushes p hp]
    rfl
  rw [State.outstanding, hsb, hnone, hports]
  rfl

theorem State.after_nil (hh : c.t.hold = none) (go : State → State) : s.after c [] go = go s := by
  rw [State.after, hh]
  rfl

theorem State.after_pending (hh : c.t.hold = none) {ids : List Nat} (hp : s.pending ids = true) (go : State → State) :
    s.after c ids go =
      { s.modThread c.slot (fun t => { t with run := .waiting (.drained ids), hold := some (.drained ids) }) with latch := {} } := by
  rw [State.after, hh]
  exact if_pos hp

theorem State.flushHost_of_no_hostWrites (ht : s.thread? c.slot = some t) (hw : t.hostWrites = false) (go : State → State) :
    s.flushHost c go = go s := by
  rw [State.flushHost, ht]
  simp [hw]

/-- The body of a release goes on at once. -/
theorem Released.after (hr : Released s t) (ht : s.thread? s.cur = some t) (system : Bool) (w npc : Word) (us : List RegUse)
    (go : State → State) : s.after ⟨s.cur, t, w, npc, us⟩ (s.outstanding s.cur system) go = go s := by
  rw [hr.outstanding ht]
  obtain ⟨hhold, -⟩ := hr
  exact State.after_nil hhold go

theorem Released.flushHost (hr : Released s t) (ht : s.thread? s.cur = some t) (w npc : Word) (us : List RegUse)
    (go : State → State) : s.flushHost ⟨s.cur, t, w, npc, us⟩ go = go s := by
  obtain ⟨-, -, -, -, hhost⟩ := hr
  exact State.flushHost_of_no_hostWrites ht hhost go

/-- A store in a store buffer is not performed. -/
theorem State.pending_of_buffered {core : Nat} {k : Core} {e : SbEntry} (hk : (core, k) ∈ s.cores) (he : e ∈ k.sb) {ids : List Nat}
    (hi : e.ident ∈ ids) : s.pending ids = true := by
  have hcore : (s.cores.any fun k => k.2.sb.any (·.ident == e.ident)) = true :=
    List.any_eq_true.2 ⟨_, hk, List.any_eq_true.2 ⟨e, he, beq_self_eq_true _⟩⟩
  refine List.any_eq_true.2 ⟨_, hi, ?_⟩
  simp [hcore]

/-- A release waits for every store of its core to this package. -/
theorem State.mem_outstanding_of_buffered {slot : Nat} {e : SbEntry} (he : e ∈ (s.core (coreOf slot)).sb)
    (hw : ∃ w ∈ e.words, isAway w.1 = false) (system : Bool) : e.ident ∈ s.outstanding slot system := by
  have hany : (e.words.any fun w => !isAway w.1) = true := by simpa using hw
  refine List.mem_append_left _ (List.mem_append_left _ (List.mem_map_of_mem (List.mem_filter.2 ⟨he, ?_⟩)))
  simp [hany]

/-! A thread with no ports -/

theorem State.discardHeld_of_no_ports (ht : s.thread? s.cur = some t) (hp : t.ports = []) :
    s.discardHeld s.cur = s.setThread s.cur t := by
  have hasks : s.dropAsks s.cur = s := by simp [State.dropAsks, ht, hp]
  obtain ⟨⟩ := t
  subst hp
  rw [State.discardHeld, hasks, State.modThread_of_thread ht]
  rfl

theorem CanIssue.done_setThread {us : List RegUse} (h : CanIssue s t us) (t1 : Thread) (w npc : Word) :
    (s.setThread s.cur t1).done ⟨s.cur, t, w, npc, us⟩ = s.retires t1 npc := by
  rw [← State.retires_setThread s t1 t1 npc]
  exact State.done_of_thread (h.handles w npc) rfl (State.thread?_setThread_self ..) h.direct

/-- With everything earlier performed and no port to empty, every fence retires. -/
theorem CanIssue.fenceBody (h : CanIssue s t []) (hp : t.ports = []) (hr : Released s t) (kind scope : Nat) (w npc : Word) :
    Machine.fenceBody kind scope s ⟨s.cur, t, w, npc, []⟩ = s.retires t npc := by
  have hlast : (if kind = 1 then s else s.discardHeld s.cur).done ⟨s.cur, t, w, npc, []⟩ = s.retires t npc := by
    rw [State.discardHeld_of_no_ports h.thread hp]
    split
    · exact h.done w npc
    · exact h.done_setThread t w npc
  simp only [Machine.fenceBody, hr.after h.thread, hr.flushHost h.thread, hlast, ite_self]

theorem CanIssue.fence (h : CanIssue s t []) (hp : t.ports = []) (hr : Released s t) (fm : BitVec 4) {p q : BitVec 4} (hp0 : p ≠ 0)
    (hq0 : q ≠ 0) : exec (.fence fm p q) s = .next (s.retires t (s.nextPc t)) := by
  show execFence fm p q s = _
  rw [execFence, h.issue, if_pos ⟨hp0, hq0⟩, h.fenceBody hp hr]

theorem CanIssue.fenceS (h : CanIssue s t []) (hp : t.ports = []) (hr : Released s t) (kind : BitVec 2) (scope : BitVec 3) :
    exec (.fenceS kind scope) s = .next (s.retires t (s.nextPc t)) := by
  show execFenceS kind scope s = _
  rw [execFenceS, h.issue, execFenceS.fenceS, h.fenceBody hp hr]

theorem CanIssue.fenceI (h : CanIssue s t []) (hr : Released s t) (hrope : s.ropeOf s.cur = none) : exec .fenceI s =
    .next ((s.setCore (coreOf s.cur) { s.core (coreOf s.cur) with fetch := [] }).retires t (s.nextPc t)) := by
  have hcore : s.fetchCore s.cur = coreOf s.cur := by rw [State.fetchCore, hrope]
  show execFenceI s = _
  rw [execFenceI, h.issue, State.release, hr.after h.thread, hr.flushHost h.thread, hcore]
  exact congrArg Host.Outcome.next (State.done_of_thread (h.handles ..) rfl h.thread h.direct)

/-- fence.s release waits while its core's buffer holds a store to this package (R285, R299). -/
theorem CanIssue.fenceS_release_waits (h : CanIssue s t []) (hh : t.hold = none) {scope : BitVec 3} (h0 : scope ≠ 0) {e : SbEntry}
    (he : e ∈ (s.core (coreOf s.cur)).sb) (hw : ∃ w ∈ e.words, isAway w.1 = false)
    (hk : (coreOf s.cur, s.core (coreOf s.cur)) ∈ s.cores) :
    ∃ u ids, exec (.fenceS 1 scope) s = .next u ∧ e.ident ∈ ids ∧
      (u.thread? s.cur).map (·.run) = some (.waiting (.drained ids)) := by
  have hmem := State.mem_outstanding_of_buffered he hw (decide (scope.toNat = 6))
  have hscope : ¬ ((1 : BitVec 2).toNat = 0 ∨ scope.toNat = 0) := by
    rintro (h1 | h1)
    · exact absurd h1 (by decide)
    · exact h0 (BitVec.eq_of_toNat_eq h1)
  have hexec : exec (.fenceS 1 scope) s = .next { s.modThread s.cur (fun t => { t with
      run := .waiting (.drained (s.outstanding s.cur (decide (scope.toNat = 6)))),
      hold := some (.drained (s.outstanding s.cur (decide (scope.toNat = 6)))) }) with latch := {} } := by
    show execFenceS 1 scope s = _
    rw [execFenceS, h.issue, execFenceS.fenceS, Machine.fenceBody, if_neg hscope,
      State.after_pending hh (State.pending_of_buffered hk he hmem)]
  refine ⟨_, _, hexec, hmem, ?_⟩
  show ((State.modThread ..).thread? s.cur).map _ = _
  rw [State.thread?_modThread, if_pos rfl, h.thread]
  rfl

/-- fence.e parks until the thread's jobs are final (R286). -/
theorem CanIssue.fenceE (h : CanIssue s t []) : exec .fenceE s =
    .next (if (t.jobs.filter fun j => !s.jobFinal j) = [] then s.retires { t with jobs := [] } (s.nextPc t)
      else { s.setThread s.cur { t with run := .waiting (.jobsFinal (t.jobs.filter fun j => !s.jobFinal j)) } with latch := {} }) := by
  show execFenceE s = _
  rw [execFenceE, h.issue]
  simp only [List.isEmpty_iff, State.modThread_of_thread h.thread, h.done_setThread, State.park, h.direct, ne_eq, not_true_eq_false,
    if_false]
end

/-! An acquire and the thread's ports (R152) -/

/-- A port that has forgotten what it asked for. -/
def Port.unasked (p : Port) : Port := { p with asks := [], again := p.asks.filterMap (·.ix) ++ p.again }

theorem Port.unasked_unasked (p : Port) : p.unasked.unasked = p.unasked := rfl

/-- The ports with that of a handle unasked. -/
def unaskedAt (m : AMap Port) (h : Nat) : AMap Port := match amGet m h with
  | some p => amPut m h p.unasked
  | none => m

theorem amGet_unaskedAt (m : AMap Port) (h k : Nat) :
    amGet (unaskedAt m h) k = (amGet m k).map fun p => if k = h then p.unasked else p := by
  unfold unaskedAt
  split
  next p hp =>
    rw [amGet_amPut]
    by_cases hk : h = k
    · subst hk
      simp [hp]
    · simp [hk, Ne.symm hk]
  next hn =>
    by_cases hk : k = h
    · subst hk
      simp [hn]
    · simp [hk]

theorem amGet_foldl_unaskedAt (hs : List Nat) (m : AMap Port) (k : Nat) :
    amGet (hs.foldl unaskedAt m) k = (amGet m k).map fun p => if k ∈ hs then p.unasked else p := by
  induction hs generalizing m with
  | nil => simp
  | cons h hs ih =>
    rw [List.foldl_cons, ih, amGet_unaskedAt, Option.map_map]
    congr 1
    funext p
    by_cases hk : k = h
    · subst hk
      simp [Port.unasked_unasked]
    · simp [hk]

theorem mem_map_fst_of_amGet {α : Type} {m : AMap α} {k : Nat} {v : α} (hv : amGet m k = some v) : k ∈ m.map (·.1) := by
  induction m with
  | nil => cases hv
  | cons p m ih =>
    rw [amGet] at hv
    split at hv
    next hk => exact List.mem_cons.2 (.inl hk.symm)
    next => exact List.mem_cons_of_mem _ (ih hv)

theorem amGet_map {α β : Type} (f : α → β) (m : AMap α) (k : Nat) :
    amGet (m.map fun x => (x.1, f x.2)) k = (amGet m k).map f := by
  induction m with
  | nil => rfl
  | cons p m ih =>
    rw [List.map_cons, amGet, amGet, ih]
    split <;> rfl

section
variable {s : State} {t : Thread} {n : Nat}

theorem State.dropAsk_cur (s : State) (n h : Nat) : (s.dropAsk n h).cur = s.cur := by simp [State.dropAsk, State.modPort]

theorem State.dropAsk_latch (s : State) (n h : Nat) : (s.dropAsk n h).latch = s.latch := by simp [State.dropAsk, State.modPort]

theorem State.dropAsk_thread? (ht : s.thread? n = some t) (h : Nat) :
    (s.dropAsk n h).thread? n = some { t with ports := unaskedAt t.ports h } := by
  show (s.modPort n h Port.unasked).thread? n = _
  rw [State.modPort, State.modThread_of_thread ht, State.thread?_setThread_self, unaskedAt]
  cases amGet t.ports h <;> rfl

theorem State.foldl_dropAsk (hs : List Nat) (ht : s.thread? n = some t) :
    let u := hs.foldl (fun s h => s.dropAsk n h) s
    u.thread? n = some { t with ports := hs.foldl unaskedAt t.ports } ∧ u.cur = s.cur ∧ u.latch = s.latch := by
  induction hs generalizing s t with
  | nil => exact ⟨ht, rfl, rfl⟩
  | cons h hs ih =>
    obtain ⟨hthread, hcur, hlatch⟩ := ih (State.dropAsk_thread? ht h)
    exact ⟨hthread, hcur.trans (State.dropAsk_cur ..), hlatch.trans (State.dropAsk_latch ..)⟩

/-- What discardHeld makes of a port that has asked for nothing. -/
def Port.discarded (p : Port) : Port := if p.kind ≤ 1 then p.discard 0 else p

/-- What discardHeld makes of the thread's ports. -/
def Thread.discardedPorts (t : Thread) : AMap Port :=
  ((t.ports.map (·.1)).foldl unaskedAt t.ports).map fun x => (x.1, x.2.discarded)

theorem Thread.amGet_discardedPorts {h : Nat} {p : Port} (hp : amGet t.ports h = some p) :
    amGet t.discardedPorts h = some p.unasked.discarded := by
  rw [Thread.discardedPorts, amGet_map, amGet_foldl_unaskedAt, hp]
  simp only [Option.map_some, if_pos (mem_map_fst_of_amGet hp)]

theorem State.discardHeld_thread? (ht : s.thread? n = some t) :
    (s.discardHeld n).thread? n = some { t with ports := t.discardedPorts } ∧ (s.discardHeld n).cur = s.cur ∧
    (s.discardHeld n).latch = s.latch := by
  have hasks : s.dropAsks n = (t.ports.map (·.1)).foldl (fun s h => s.dropAsk n h) s := by rw [State.dropAsks, ht]; rfl
  obtain ⟨hthread, hcur, hlatch⟩ := State.foldl_dropAsk (t.ports.map (·.1)) ht
  rw [State.discardHeld, hasks, State.modThread_of_thread hthread]
  exact ⟨State.thread?_setThread_self .., hcur, hlatch⟩

theorem Port.unasked_discarded (p : Port) :
    p.unasked.discarded.pos = p.pos ∧ p.unasked.discarded.bound = p.bound ∧ p.unasked.discarded.pushes = p.pushes ∧
    p.unasked.discarded.ctl = p.ctl ∧ (p.kind ≤ 1 → p.unasked.discarded.held = [] ∧ p.unasked.discarded.asks = []) := by
  by_cases hk : p.unasked.kind ≤ 1
  · rw [Port.discarded, if_pos hk]
    exact ⟨rfl, rfl, rfl, rfl, fun _ => ⟨rfl, rfl⟩⟩
  · rw [Port.discarded, if_neg hk]
    exact ⟨rfl, rfl, rfl, rfl, fun h1 => absurd h1 hk⟩

/-- fence.s acquire discards what the ports hold and retires, waiting for nothing (R284). -/
theorem CanIssue.fenceS_acquire (h : CanIssue s t []) (scope : BitVec 3) : exec (.fenceS 0 scope) s =
    .next ((s.discardHeld s.cur).retires { t with ports := t.discardedPorts } (s.nextPc t)) := by
  obtain ⟨hthread, hcur, hlatch⟩ := State.discardHeld_thread? h.thread
  show execFenceS 0 scope s = _
  rw [execFenceS, h.issue, execFenceS.fenceS, Machine.fenceBody, if_pos (.inl rfl)]
  refine congrArg Host.Outcome.next (State.done_of_thread (u := s.discardHeld s.cur) (h.handles ..) hcur.symm (hcur.symm ▸ hthread) ?_)
  rw [hlatch]
  exact h.direct
end

/-! Emptied registers (R177) -/

section
variable {s : State} {t : Thread}

theorem Thread.reg_emptyX (t : Thread) (n r : Nat) :
    (t.emptyX n).reg r = if r ≠ 0 ∧ r = n then { t.reg r with full := false } else t.reg r := by
  unfold Thread.emptyX
  by_cases hr : r = 0
  · subst hr
    simp [Thread.reg]
  · by_cases hn : r = n
    · subst hn
      simp [hr, Thread.reg, amGetD_amPut]
    · split <;> simp [hr, hn, Ne.symm hn, Thread.reg, amGetD_amPut]

/-- The thread with registers emptied. -/
def Thread.emptied (t : Thread) (regs : List Nat) : Thread := regs.foldl Thread.emptyX t

theorem Thread.reg_emptied (regs : List Nat) (t : Thread) (r : Nat) :
    (t.emptied regs).reg r = if r ≠ 0 ∧ r ∈ regs then { t.reg r with full := false } else t.reg r := by
  induction regs generalizing t with
  | nil => simp [Thread.emptied]
  | cons n regs ih =>
    rw [Thread.emptied, List.foldl_cons, ← Thread.emptied, ih, Thread.reg_emptyX]
    by_cases hn : r = n
    · subst hn
      by_cases h0 : r = 0 <;> simp [h0]
    · simp [hn]

theorem Thread.emptied_frame (regs : List Nat) (t : Thread) :
    (t.emptied regs).pw = t.pw ∧ (t.emptied regs).fcsr = t.fcsr ∧ (t.emptied regs).limit = t.limit := by
  induction regs generalizing t with
  | nil => exact ⟨rfl, rfl, rfl⟩
  | cons n regs ih =>
    have hone : (t.emptyX n).pw = t.pw ∧ (t.emptyX n).fcsr = t.fcsr ∧ (t.emptyX n).limit = t.limit := by
      unfold Thread.emptyX
      split <;> exact ⟨rfl, rfl, rfl⟩
    obtain ⟨hpw, hfcsr, hlimit⟩ := hone
    obtain ⟨hpws, hfcsrs, hlimits⟩ := ih (t.emptyX n)
    exact ⟨hpws.trans hpw, hfcsrs.trans hfcsr, hlimits.trans hlimit⟩

theorem CanIssue.xempty {nlog : BitVec 2} {rd : BitVec 5} (h : CanIssue s t [rname (s.latch.rd rd) (2 ^ nlog.toNat)])
    (hp : t.ports = []) (hb : t.body = none) : exec (.xempty nlog rd) s =
    .next (s.retires (t.emptied ((List.range (2 ^ nlog.toNat)).map (s.latch.rd rd + ·))) (s.nextPc t)) := by
  have hport (n : Nat) : t.portOf n = none := portOf_none (by simp [hp])
  have hheld (ns : List Nat) : heldRegs t ns = false := by rw [heldRegs, hb]
  show execXempty nlog rd s = _
  rw [execXempty, h.issue]
  simp only [hport, hheld, Option.isSome_none, List.any_eq_true, Bool.false_eq_true, and_false, exists_false, if_false,
    State.modThread_of_thread h.thread, h.done_setThread]
  rfl
end

/-- Settles O31: each fence by what its release waits for, acquire by what it leaves of each port, xempty by its registers. -/
theorem fencesAndEmptying : Obligations.FencesAndEmptying := by
  unfold Obligations.FencesAndEmptying
  refine ⟨fun s t h hp => ⟨fun hr => ⟨fun fm p q => h.fence hp hr fm, h.fenceS hp hr, h.fenceI hr⟩, ?_, h.fenceE, ?_⟩, ?_⟩
  · intro scope e rest hh h0 hsb hw _ hk
    exact h.fenceS_release_waits hh h0 (hsb ▸ List.mem_cons_self) hw hk
  · intro nlog rd
    dsimp only
    intro h hb
    refine ⟨_, h.xempty hp hb, fun r => ?_, fun r => ?_, Thread.emptied_frame _ t⟩
    · rw [Thread.x, Thread.reg_emptied]
      split <;> rfl
    · have hmem : r ∈ (List.range (2 ^ nlog.toNat)).map (s.latch.rd rd + ·) ↔
          s.latch.rd rd ≤ r ∧ r < s.latch.rd rd + 2 ^ nlog.toNat := by
        simp only [List.mem_map, List.mem_range]
        exact ⟨by rintro ⟨k, hk, rfl⟩; omega, fun hr => ⟨r - s.latch.rd rd, by omega, by omega⟩⟩
      simp only [Thread.reg_emptied, hmem]
      exact apply_ite Reg.full ..
  · intro s t scope h
    refine ⟨_, Thread.retired { t with ports := t.discardedPorts } _, h.fenceS_acquire scope, ?_, rfl, rfl, rfl, rfl,
      State.discardHeld_mem .., fun k p hk => ?_⟩
    · obtain ⟨-, hcur, -⟩ := State.discardHeld_thread? h.thread
      show (State.setThread ..).thread? s.cur = _
      rw [hcur]
      exact State.thread?_setThread_self ..
    · exact ⟨_, Thread.amGet_discardedPorts hk, p.unasked_discarded⟩

end Sys2Proof.Machine
end

section
/-! What memory reads back (R5, R8), and two memories of the same bytes and tags. -/

namespace Sys2Proof.Machine

/-! A word's bytes -/

/-- The value of n bytes depends on no other byte. -/
theorem Memory.read_congr {m m' : Memory} (n a : Nat) (h : ∀ i < n, m'.byte (a + i) = m.byte (a + i)) :
    m'.read a n = m.read a n := by
  induction n generalizing a with
  | zero => rfl
  | succ n ih =>
    have h0 : m'.byte a = m.byte a := h 0 n.succ_pos
    have h1 := ih (a + 1) fun i hi => by
      rw [show a + 1 + i = a + (i + 1) by omega]
      exact h (i + 1) (by omega)
    rw [Memory.read, Memory.read, h0, h1]

theorem Memory.word_congr {m m' : Memory} {k : Nat} (h : ∀ i < 8, m'.byte (8 * k + i) = m.byte (8 * k + i)) :
    m'.word k = m.word k := by
  rw [Memory.word, Memory.word, Memory.read_congr 8 _ h]

theorem Memory.read_lt (m : Memory) (n a : Nat) : m.read a n < 256 ^ n := by
  induction n generalizing a with
  | zero => exact Nat.one_pos
  | succ n ih =>
    have hb := (m.byte a).isLt
    have hr := ih (a + 1)
    rw [Memory.read, Nat.pow_succ]
    omega

/-- Byte i of a value read is the byte at the i-th address. -/
theorem Memory.read_div_mod (m : Memory) {n i : Nat} (a : Nat) (hi : i < n) :
    m.read a n / 256 ^ i % 256 = (m.byte (a + i)).toNat := by
  induction n generalizing a i with
  | zero => exact absurd hi (Nat.not_lt_zero _)
  | succ n ih =>
    have hb := (m.byte a).isLt
    cases i with
    | zero =>
      show m.read a (n + 1) / 1 % 256 = (m.byte a).toNat
      rw [Memory.read]
      omega
    | succ i =>
      have hq : m.read a (n + 1) / 256 = m.read (a + 1) n := by rw [Memory.read]; omega
      rw [Nat.pow_succ', ← Nat.div_div_eq_div_mul, hq, ih (a + 1) (Nat.lt_of_succ_lt_succ hi),
        show a + 1 + i = a + (i + 1) by omega]

theorem Memory.toNat_word (m : Memory) (k : Nat) : (m.word k).toNat = m.read (8 * k) 8 := by
  exact Nat.mod_eq_of_lt (m.read_lt 8 (8 * k))

theorem Memory.byteOf_word (m : Memory) (k : Nat) {i : Nat} (hi : i < 8) : byteOf (m.word k) i = m.byte (8 * k + i) := by
  refine BitVec.eq_of_toNat_eq ?_
  rw [byteOf, BitVec.toNat_setWidth, BitVec.toNat_ushiftRight, Nat.shiftRight_eq_div_pow, m.toNat_word,
    ← m.read_div_mod (8 * k) hi, Nat.pow_mul]

/-- Bytes of a word are a part of the word's value. -/
theorem Memory.read_of_word (m : Memory) (k : Nat) {n j : Nat} (h : j + n ≤ 8) :
    m.read (8 * k + j) n = (m.word k).toNat / 2 ^ (8 * j) % 2 ^ (8 * n) :=
  m.read_of_bytes (m.word k) n (8 * k + j) j fun i hi => by rw [m.byteOf_word k (by omega), Nat.add_assoc]

/-! Memories with the same bytes and tags -/

theorem SameMemory.refl (m : Memory) : SameMemory m m := ⟨fun _ => rfl, fun _ => rfl⟩

theorem SameMemory.trans {m m' m'' : Memory} (h : SameMemory m m') (h' : SameMemory m' m'') : SameMemory m m'' :=
  ⟨fun x => (h'.1 x).trans (h.1 x), fun k => (h'.2 k).trans (h.2 k)⟩

theorem SameMemory.word {m m' : Memory} (h : SameMemory m m') (k : Nat) : m'.word k = m.word k :=
  Memory.word_congr fun _ _ => h.1 _

/-- The same write leaves the same bytes and tags. -/
theorem SameMemory.write {m m' : Memory} (h : SameMemory m m') (k : Nat) (mask : BitVec 8) (v : Word) :
    SameMemory (m.write k mask v) (m'.write k mask v) := by
  obtain ⟨hb, hf⟩ := h
  refine ⟨fun x => ?_, fun j => ?_⟩
  · rw [Memory.byte_write, Memory.byte_write, hb]
  · rw [Memory.full_write, Memory.full_write, hf]

/-- A word written whole reads back. -/
theorem Memory.word_write_whole (m : Memory) (k : Nat) (v : Word) : (m.write k 0xFF#8 v).word k = v :=
  Memory.word_of_bytes _ _ _ fun i hi => by
    rw [Memory.byte_write, Nat.add_sub_cancel_left, if_pos ⟨by omega, by omega, byte_mask_whole hi⟩]

/-- A store's words, each written in the bytes that its mask selects, in order (R67). -/
def Memory.writeAll (m : Memory) (ws : List (Nat × BitVec 8 × Word)) : Memory :=
  ws.foldl (fun m w => m.write w.1 w.2.1 w.2.2) m

theorem SameMemory.writeAll {m m' : Memory} (h : SameMemory m m') (ws : List (Nat × BitVec 8 × Word)) :
    SameMemory (m.writeAll ws) (m'.writeAll ws) := by
  induction ws generalizing m m' with
  | nil => exact h
  | cons w ws ih => exact ih (h.write w.1 w.2.1 w.2.2)

theorem Memory.full_writeAll (m : Memory) (ws : List (Nat × BitVec 8 × Word)) (k : Nat) :
    (m.writeAll ws).full k = m.full k := by
  induction ws generalizing m with
  | nil => rfl
  | cons w ws ih => exact (ih _).trans (m.full_write w.1 w.2.1 w.2.2 k)

/-- A byte that no mask selects is as before. -/
theorem Memory.byte_writeAll_of_unselected (m : Memory) {ws : List (Nat × BitVec 8 × Word)} {a : Nat}
    (h : ∀ w ∈ ws, ¬(8 * w.1 ≤ a ∧ a < 8 * w.1 + 8 ∧ w.2.1.getLsbD (a - 8 * w.1) = true)) :
    (m.writeAll ws).byte a = m.byte a := by
  induction ws generalizing m with
  | nil => rfl
  | cons w ws ih =>
    refine (ih (m.write w.1 w.2.1 w.2.2) fun x hx => h x (List.mem_cons_of_mem _ hx)).trans ?_
    rw [Memory.byte_write, if_neg (h w List.mem_cons_self)]

end Sys2Proof.Machine
end

section
/-! The machine after a package reset (R418). -/

namespace Sys2Proof.Machine

/-- Settles O1: State.reset lists no byte, tag, access word, thread or unit, and what a list does not name has its reset value. -/
theorem resetState : Obligations.ResetState := by
  unfold Obligations.ResetState
  exact ⟨fun _ => rfl, fun _ => ⟨rfl, rfl⟩, Memory.wf_reset, rfl, rfl, fun _ _ hm => if_neg hm, fun _ => rfl,
    rfl, rfl, rfl, rfl, rfl⟩

end Sys2Proof.Machine
end

section
/-! What a write at a home leaves where no epoch is open (R93, R94, R276, R371): its bytes, the tags and the tables by which homes check
and hold requests; the threads it answers, the waiters it releases and the packets it sends are of no concern here. -/

namespace Sys2Proof.Machine

/-- What homes check and hold requests by: the tenants, the access tables, the hold stores (R90, R271, R410). -/
def State.homeTables (s : State) : AMap Tenant × AMap (BitVec 32) × List Held := (s.tenants, s.access, s.holds)

section
variable (s : State)

@[simp] theorem State.settle_homeTables (k : Nat) : (s.settle k).homeTables = s.homeTables := by
  unfold State.settle
  split <;> rfl

@[simp] theorem State.modThread_homeTables (slot : Nat) (f : Thread → Thread) :
    (s.modThread slot f).homeTables = s.homeTables := by
  unfold State.modThread
  split <;> rfl

@[simp] theorem State.enter_homeTables (p : Packet) : (s.enter p).homeTables = s.homeTables := by
  unfold State.enter State.inject
  dsimp only
  split
  · split <;> rfl
  · rfl

@[simp] theorem State.homeAnswer_homeTables (slot k : Nat) (r : Except Nat Word) :
    (s.homeAnswer slot k r).homeTables = s.homeTables := by
  unfold State.homeAnswer
  split
  · exact s.modThread_homeTables slot _
  · exact s.enter_homeTables _

@[simp] theorem State.releaseWatch_homeTables (w : Watch) : (s.releaseWatch w).homeTables = s.homeTables := by
  unfold State.releaseWatch
  split
  · exact (State.homeAnswer_homeTables _ _ _ _).trans (s.settle_homeTables w.key)
  · rfl

@[simp] theorem State.wakeGranule_homeTables (k : Nat) : (s.wakeGranule k).homeTables = s.homeTables :=
  List.foldlRecOn (motive := fun u : State => u.homeTables = s.homeTables) _ _ rfl fun u hu w _ =>
    (u.releaseWatch_homeTables w).trans hu

end

section
variable {s u : State} (h : u.homeTables = s.homeTables)
include h

theorem State.tenants_of_homeTables : u.tenants = s.tenants := congrArg (·.1) h
theorem State.holds_of_homeTables : u.holds = s.holds := congrArg (·.2.2) h

theorem NoEpoch.of_homeTables (he : NoEpoch s) : NoEpoch u := fun tn => by
  rw [State.tenant, State.tenants_of_homeTables h]
  exact he tn

theorem State.homeAllows_of_homeTables (tenant core cls level k : Nat) :
    u.homeAllows tenant core cls level k = s.homeAllows tenant core cls level k := by
  have ha : u.access = s.access := congrArg (·.2.1) h
  have ht : u.tenants = s.tenants := State.tenants_of_homeTables h
  unfold State.homeAllows State.accessOk State.accessWord State.assigned State.tenant
  rw [ha, ht]
end

/-- What a home performs of a store's words: their bytes, and nothing else of memory, of the homes' tables, and of the cores. -/
structure Stored (s u : State) (ws : List (Nat × BitVec 8 × Word)) : Prop where
  memory : SameMemory (s.mem.writeAll ws) u.mem
  tables : u.homeTables = s.homeTables
  cores : u.atCores = s.atCores

theorem Stored.refl (s : State) : Stored s s [] := ⟨.refl _, rfl, rfl⟩

theorem Stored.cons {s u v : State} {w : Nat × BitVec 8 × Word} {ws : List (Nat × BitVec 8 × Word)} (h : Stored s u [w])
    (h' : Stored u v ws) : Stored s v (w :: ws) :=
  ⟨(h.memory.writeAll ws).trans h'.memory, h'.tables.trans h.tables, h'.cores.trans h.cores⟩

/-- A plain write at a home changes no tag, so that no held request is released (R271). -/
theorem State.writeHome_stored (s : State) (k : Nat) (mask : BitVec 8) (v : Word) :
    Stored s (s.writeHome k mask v none) [(k, mask, v)] := by
  have hs : SameMemory s.mem (if mask = 0xFF#8 then s else s.settle k).mem := by
    split
    · exact .refl _
    · exact State.sameContents_settle s k
  refine ⟨?_, ?_, s.writeHome_atCores k mask v none⟩ <;>
    rw [State.writeHome] <;> dsimp only <;> rw [if_pos (Memory.full_write _ _ _ _ _)]
  · exact (hs.write k mask v).trans (State.sameContents_wakeGranule _ k)
  · rw [State.wakeGranule_homeTables]
    show (if mask = 0xFF#8 then s else s.settle k).homeTables = _
    split
    · rfl
    · exact s.settle_homeTables k

theorem NoEpoch.writeWord_stored {s : State} (he : NoEpoch s) (k : Nat) (mask : BitVec 8) (v : Word) :
    Stored s (s.writeWord k mask v none) [(k, mask, v)] := by
  rw [State.writeWord, State.beforeWrite, State.preWrite_of_noEpoch he]
  exact s.writeHome_stored k mask v

/-! The words of a store at their homes (R90, R94) -/

/-- One word of a store at its home, with its page's class: written where the home lets it through. -/
def State.storeWord (tenant core : Nat) (s : State) (w : (Nat × BitVec 8 × Word) × Nat) : State :=
  if s.homeAllows tenant core w.2 2 w.1.1 then s.writeWord w.1.1 w.1.2.1 w.1.2.2 none else s

theorem State.performWords_eq (s : State) (tenant core ident : Nat) (words : List (Nat × BitVec 8 × Word)) (classes : List Nat) :
    s.performWords tenant core ident words classes =
      ((words.zip (classes ++ List.replicate words.length 0)).foldl (State.storeWord tenant core) s).dropStored core ident
        (words.map (·.1)) := rfl

/-- Words that their homes all let through are all written. -/
theorem NoEpoch.storeWords {s : State} (he : NoEpoch s) {tenant core : Nat} {l : List ((Nat × BitVec 8 × Word) × Nat)}
    (hl : ∀ x ∈ l, s.homeAllows tenant core x.2 2 x.1.1 = true) :
    Stored s (l.foldl (State.storeWord tenant core) s) (l.map (·.1)) := by
  induction l generalizing s with
  | nil => exact .refl s
  | cons x l ih =>
    have hx : s.storeWord tenant core x = s.writeWord x.1.1 x.1.2.1 x.1.2.2 none := if_pos (hl x List.mem_cons_self)
    have h1 := he.writeWord_stored x.1.1 x.1.2.1 x.1.2.2
    have hrest := ih (he.of_homeTables h1.tables) fun y hy =>
      (State.homeAllows_of_homeTables h1.tables _ _ _ _ _).trans (hl y (List.mem_cons_of_mem _ hy))
    rw [List.foldl_cons, List.map_cons, hx]
    exact h1.cons hrest

/-- A store whose words' homes let every one of them through: they are written, and leave the store buffer. -/
theorem NoEpoch.performWords {s : State} (he : NoEpoch s) {tenant core : Nat} (ident : Nat)
    {words : List (Nat × BitVec 8 × Word)} {classes : List Nat} (hlen : classes.length = words.length)
    (hl : ∀ x ∈ words.zip classes, s.homeAllows tenant core x.2 2 x.1.1 = true) :
    ∃ u, s.performWords tenant core ident words classes = u.dropStored core ident (words.map (·.1)) ∧ Stored s u words := by
  have hzip : words.zip (classes ++ List.replicate words.length 0) = words.zip classes := by
    have h := List.zip_append (l₁ := words) (r₁ := []) (l₂ := classes) (r₂ := List.replicate words.length 0) hlen.symm
    rwa [List.append_nil, List.zip_nil_left, List.append_nil] at h
  have h := he.storeWords hl
  rw [List.map_fst_zip (Nat.le_of_eq hlen.symm)] at h
  rw [State.performWords_eq, hzip]
  exact ⟨_, rfl, h⟩

end Sys2Proof.Machine
end

section
/-! A word of the store buffer at its home (R94, R113, R290): what keeps it from there, what it writes, and what is left of its
entry. -/

namespace Sys2Proof.Machine

/-- The words of an entry that go to their home together: one, or all of a group to one local store (R113). -/
def SbEntry.goes (e : SbEntry) (idx : Nat) : List (Nat × BitVec 8 × Word) :=
  if e.whole then e.words else (e.words.drop idx).take 1

/-- The classes of their pages. -/
def SbEntry.goesClasses (e : SbEntry) (idx : Nat) : List Nat := if e.whole then e.classes else (e.classes.drop idx).take 1

section
variable {e : SbEntry} (hlen : e.classes.length = e.words.length) (idx : Nat)

theorem SbEntry.mem_of_mem_goes {w : Nat × BitVec 8 × Word} (hw : w ∈ e.goes idx) : w ∈ e.words := by
  unfold SbEntry.goes at hw
  split at hw
  · exact hw
  · exact List.mem_of_mem_drop (List.mem_of_mem_take hw)

include hlen in
theorem SbEntry.length_goesClasses : (e.goesClasses idx).length = (e.goes idx).length := by
  unfold SbEntry.goes SbEntry.goesClasses
  split
  · exact hlen
  · simp [hlen]

theorem SbEntry.mem_zip_of_mem_goes {x : (Nat × BitVec 8 × Word) × Nat} (hx : x ∈ (e.goes idx).zip (e.goesClasses idx)) :
    x ∈ e.words.zip e.classes := by
  unfold SbEntry.goes SbEntry.goesClasses at hx
  split at hx
  · exact hx
  · rw [List.zip, ← List.take_zipWith, ← List.drop_zipWith] at hx
    exact List.mem_of_mem_drop (List.mem_of_mem_take hx)

/-- What is left of an entry of the store buffer once words of the store of an identity have left it. -/
def SbEntry.without (ident : Nat) (ks : List Nat) (e : SbEntry) : Option SbEntry :=
  if e.ident ≠ ident then some e else
  let keep := e.words.zip (e.classes ++ List.replicate e.words.length 0) |>.filter fun w => !ks.contains w.1.1
  if keep.isEmpty then none
  else some { e with words := keep.map (·.1), classes := keep.map (·.2), sent := e.sent.filter fun k => !ks.contains k }

theorem SbEntry.without_of_ne {ident : Nat} (h : e.ident ≠ ident) (ks : List Nat) : e.without ident ks = some e := if_pos h

/-- Another store's entries stay as they are. -/
theorem SbEntry.filterMap_without_of_ne {ident : Nat} {l : List SbEntry} (h : ∀ x ∈ l, x.ident ≠ ident) (ks : List Nat) :
    l.filterMap (SbEntry.without ident ks) = l := by
  rw [List.filterMap_congr fun x hx => SbEntry.without_of_ne (h x hx) ks, List.filterMap_some]

/-- What identifies an entry: its identity, its slot, its words, whether they go together. -/
def SbEntry.shown (e : SbEntry) : Nat × Nat × List (Nat × BitVec 8 × Word) × Bool := (e.ident, e.slot, e.words, e.whole)

/-- An entry of which words leave: it goes with its last word. -/
theorem SbEntry.shown_without (ks : List Nat) :
    (e.without e.ident ks).map SbEntry.shown =
      if (e.words.filter fun w => !ks.contains w.1) = [] then none
      else some ({ e with words := e.words.filter fun w => !ks.contains w.1 } : SbEntry).shown := by
  let keep := (e.words.zip (e.classes ++ List.replicate e.words.length 0)).filter fun w => !ks.contains w.1.1
  have hkeep : keep.map (·.1) = e.words.filter fun w => !ks.contains w.1 := by
    have h := List.filter_map (f := fun x : (Nat × BitVec 8 × Word) × Nat => x.1) (p := fun w => !ks.contains w.1)
      (l := e.words.zip (e.classes ++ List.replicate e.words.length 0))
    rw [List.map_fst_zip (by simp)] at h
    exact h.symm
  have hnil : keep.isEmpty = true ↔ (e.words.filter fun w => !ks.contains w.1) = [] := by
    rw [← hkeep, List.map_eq_nil_iff, List.isEmpty_iff]
  rw [SbEntry.without, if_neg (not_not.2 rfl)]
  show (if keep.isEmpty then none else some { e with words := keep.map (·.1), classes := _, sent := _ }).map SbEntry.shown = _
  by_cases hk : keep.isEmpty = true
  · rw [if_pos hk, if_pos (hnil.1 hk), Option.map_none]
  · rw [if_neg hk, if_neg (mt hnil.2 hk), Option.map_some, SbEntry.shown, SbEntry.shown, hkeep]
end

/-- The words of an oldest entry leave the store buffer. -/
theorem State.sb_dropStored {s : State} {core : Nat} {e : SbEntry} {rest : List SbEntry} (hsb : (s.core core).sb = e :: rest)
    (hrest : ∀ x ∈ rest, x.ident ≠ e.ident) (ks : List Nat) :
    ((s.dropStored core e.ident ks).core core).sb.map SbEntry.shown =
      (if (e.words.filter fun w => !ks.contains w.1) = [] then []
        else [({ e with words := e.words.filter fun w => !ks.contains w.1 } : SbEntry).shown]) ++ rest.map SbEntry.shown := by
  have hcore : ((s.dropStored core e.ident ks).core core).sb = (s.core core).sb.filterMap (SbEntry.without e.ident ks) := by
    show ((s.setCore core _).core core).sb = _
    rw [State.core_setCore, if_pos rfl]
    rfl
  have he := e.shown_without ks
  rw [hcore, hsb, List.filterMap_cons, SbEntry.filterMap_without_of_ne hrest]
  split
  · next hn =>
    rw [hn] at he
    split at he
    · rw [if_pos ‹_›, List.nil_append]
    · cases he
  · next x hx =>
    rw [hx, Option.map_some] at he
    split at he
    · cases he
    · rw [if_neg ‹_›, List.map_cons, Option.some.inj he]
      rfl

section
variable {s : State} {core : Nat} {e : SbEntry} {rest : List SbEntry} (hsb : (s.core core).sb = e :: rest)

/-- No older entry, no request in flight and no push comes before a word of the oldest entry (R118, R290, R292). -/
theorem State.entryBlocked_oldest (hf : s.flights = []) (hp : ∀ t, s.thread? e.slot = some t → ∀ p ∈ t.ports, p.2.pushes = [])
    (k : Nat) : s.entryBlocked [] e k = false := by
  have hpush (f : Except Nat Target → Bool) : s.pushesTo e.slot f = [] := by
    unfold State.pushesTo
    split
    · next t ht =>
      refine List.flatMap_eq_nil_iff.2 fun p hpt => ?_
      rw [hp t ht p hpt]
      rfl
    · rfl
  simp [State.entryBlocked, hf, hpush]

include hsb in
/-- Where requests complete in the issuing step, nothing keeps words of the oldest entry from being performed. -/
theorem State.performEntry_oldest (hslow : s.slow = false) {idx : Nat} (hnow : e.goes idx ≠ []) (hsent : e.sent = [])
    (haway : ∀ w ∈ e.words, isAway w.1 = false) (hf : s.flights = [])
    (hp : ∀ t, s.thread? e.slot = some t → ∀ p ∈ t.ports, p.2.pushes = []) :
    s.performEntry core 0 idx = s.performWords e.tenant core e.ident (e.goes idx) (e.goesClasses idx) := by
  have hempty : (e.goes idx).isEmpty = false := by simpa using hnow
  have hblocked : ((e.goes idx).isEmpty || (e.goes idx).any fun w => e.sent.contains w.1 || s.entryBlocked [] e w.1) = false := by
    rw [hempty, Bool.false_or, List.any_eq_false]
    intro w _
    rw [hsent, State.entryBlocked_oldest hf hp]
    exact Bool.false_ne_true
  have hhere : ((e.goes idx).any fun w => isAway w.1) = false := by
    rw [List.any_eq_false]
    exact fun w hw => by rw [haway w (e.mem_of_mem_goes idx hw)]; exact Bool.false_ne_true
  unfold State.performEntry
  rw [hsb]
  simp only [List.getElem?_cons_zero, List.take_zero]
  show (if ((e.goes idx).isEmpty || (e.goes idx).any fun w => e.sent.contains w.1 || s.entryBlocked [] e w.1) = true then s
    else if ((e.goes idx).any fun w => isAway w.1) = true then _ else if s.slow = true then _ else _) = _
  rw [hblocked, hhere, hslow]
  rfl
end

/-- The registers of every thread, where homes alone have acted. -/
theorem State.regs_of_atCores {s u : State} (h : u.atCores = s.atCores) (slot : Nat) :
    (u.thread? slot).map (·.regs) = (s.thread? slot).map (·.regs) := by
  have hb : (u.thread? slot).map Thread.bare = (s.thread? slot).map Thread.bare := congrFun (congrArg (·.2) h) slot
  have hr (o : Option Thread) : (o.map Thread.bare).map (·.regs) = o.map (·.regs) := by cases o <;> rfl
  rw [← hr, hb, hr]

theorem State.core_of_atCores {s u : State} (h : u.atCores = s.atCores) (core : Nat) : u.core core = s.core core :=
  congrArg (fun x : State × (Nat → Option Thread) => x.1.core core) h

end Sys2Proof.Machine
end

section
/-! What an atomic writes (R278, R279): the model's words against the numbers of n bytes. -/

namespace Sys2Proof.Machine

/-- The format in which an atomic of a width adds floating-point numbers (R280). -/
def atomicFmt (n : Nat) : Fmt := if n = 64 then f64 else f32

/-- The new value of each operation is the one that its n bits give as a number. -/
theorem toNat_amNew {n : Nat} (op : AmOp) (old b c : BitVec n) :
    (amNew (atomicFmt n) op old b c).toNat = atomicNew op n old.toNat b.toNat c.toNat := by
  cases op
  case add => exact BitVec.toNat_add old b
  case and => exact BitVec.toNat_and old b
  case or => exact BitVec.toNat_or old b
  case xor => exact BitVec.toNat_xor old b
  case min =>
    simp only [amNew, atomicNew, BitVec.ofNat_toNat, BitVec.setWidth_eq, BitVec.slt, decide_eq_true_eq]
    exact apply_ite BitVec.toNat ..
  case max =>
    simp only [amNew, atomicNew, BitVec.ofNat_toNat, BitVec.setWidth_eq, BitVec.slt, decide_eq_true_eq]
    exact apply_ite BitVec.toNat ..
  case minn =>
    simp only [amNew, atomicNew, BitVec.ult, decide_eq_true_eq]
    split <;> omega
  case maxn =>
    simp only [amNew, atomicNew, BitVec.ult, decide_eq_true_eq]
    split <;> omega
  case swp => rfl
  case cas =>
    simp only [amNew, atomicNew, ← BitVec.toNat_inj]
    exact apply_ite BitVec.toNat ..
  case fadd => exact BitVec.toNat_ofNat _ n
  case faddc => exact BitVec.toNat_ofNat _ n

/-- Bytes of an atomic's access: 8, or 4 (R278). -/
def atomicBytes (wide : Bool) : Nat := if wide then 8 else 4

/-- The bytes that an atomic writes of its word are those of its access. -/
theorem getLsbD_amWord_mask (op : AmOp) (wide : Bool) {off : Nat} (w b c : Word) (ho : off < 8) (h : off % atomicBytes wide = 0)
    {i : Nat} (hi : i < 8) :
    (amWord op wide off w b c).1.getLsbD i = true ↔ off ≤ i ∧ i < off + atomicBytes wide := by
  cases wide with
  | true =>
    have h0 : off = 0 := by simp only [atomicBytes, if_true] at h; omega
    subst h0
    exact ⟨fun _ => ⟨Nat.zero_le _, by simpa [atomicBytes] using hi⟩, fun _ => byte_mask_whole hi⟩
  | false =>
    have h0 : off = 0 ∨ off = 4 := by simp only [atomicBytes, Bool.false_eq_true, if_false] at h; omega
    show (byteMask 4 off).getLsbD i = true ↔ off ≤ i ∧ i < off + 4
    rcases h0 with rfl | rfl <;> revert i <;> decide

/-- The bytes that an atomic writes are those of its operation's value on the bytes it found. -/
theorem toNat_amWord (op : AmOp) (wide : Bool) {off : Nat} (w b c : Word) (ho : off < 8) (h : off % atomicBytes wide = 0) :
    (amWord op wide off w b c).2.toNat / 2 ^ (8 * off) % 2 ^ (8 * atomicBytes wide) =
      atomicNew op (8 * atomicBytes wide) (w.toNat / 2 ^ (8 * off) % 2 ^ (8 * atomicBytes wide))
        (b.toNat % 2 ^ (8 * atomicBytes wide)) (c.toNat % 2 ^ (8 * atomicBytes wide)) := by
  cases wide with
  | true =>
    have h0 : off = 0 := by simp only [atomicBytes, if_true] at h; omega
    subst h0
    have hnew := toNat_amNew op w b c
    show (amNew (atomicFmt 64) op w b c).toNat / 1 % 2 ^ 64 =
      atomicNew op 64 (w.toNat / 1 % 2 ^ 64) (b.toNat % 2 ^ 64) (c.toNat % 2 ^ 64)
    simp only [Nat.div_one, Nat.mod_eq_of_lt w.isLt, Nat.mod_eq_of_lt b.isLt, Nat.mod_eq_of_lt c.isLt]
    exact (Nat.mod_eq_of_lt (BitVec.isLt _)).trans hnew
  | false =>
    have h0 : off = 0 ∨ off = 4 := by simp only [atomicBytes, Bool.false_eq_true, if_false] at h; omega
    have hnew := toNat_amNew op ((w >>> (8 * off)).setWidth 32) (b.setWidth 32) (c.setWidth 32)
    simp only [BitVec.toNat_setWidth, BitVec.toNat_ushiftRight, Nat.shiftRight_eq_div_pow] at hnew
    have hlt := (amNew (atomicFmt 32) op ((w >>> (8 * off)).setWidth 32) (b.setWidth 32) (c.setWidth 32)).isLt
    show ((amNew (atomicFmt 32) op ((w >>> (8 * off)).setWidth 32) (b.setWidth 32) (c.setWidth 32)).setWidth 64 <<< (8 * off)).toNat
        / 2 ^ (8 * off) % 2 ^ 32 = atomicNew op 32 (w.toNat / 2 ^ (8 * off) % 2 ^ 32) (b.toNat % 2 ^ 32) (c.toNat % 2 ^ 32)
    rw [← hnew, BitVec.toNat_shiftLeft, BitVec.toNat_setWidth, Nat.shiftLeft_eq]
    rcases h0 with rfl | rfl <;> omega

/-- An atomic's write of its word, in memory: the bytes of its access and no other. -/
theorem Memory.wroteBytes_atomic {m m' : Memory} {op : AmOp} {wide : Bool} {ad : Nat} {a b : Word}
    (h : ad % atomicBytes wide = 0)
    (hm : SameMemory (m.write (ad / 8) (amWord op wide (ad % 8) (m.word (ad / 8)) a b).1
      (amWord op wide (ad % 8) (m.word (ad / 8)) a b).2) m') :
    WroteBytes m m' ad (atomicBytes wide) (atomicNew op (8 * atomicBytes wide) (m.read ad (atomicBytes wide))
      (a.toNat % 2 ^ (8 * atomicBytes wide)) (b.toNat % 2 ^ (8 * atomicBytes wide))) := by
  have hn : atomicBytes wide = 8 ∨ atomicBytes wide = 4 := by cases wide <;> simp [atomicBytes]
  have ho : ad % 8 < 8 := Nat.mod_lt _ (by decide)
  have ha : ad % 8 % atomicBytes wide = 0 := by rcases hn with hn | hn <;> rw [hn] at h ⊢ <;> omega
  have hin : ad % 8 + atomicBytes wide ≤ 8 := by rcases hn with hn | hn <;> rw [hn] at ha ⊢ <;> omega
  have had : ad = 8 * (ad / 8) + ad % 8 := (Nat.div_add_mod ad 8).symm
  have hmask {i : Nat} (hi : i < 8) := getLsbD_amWord_mask op wide (m.word (ad / 8)) a b ho ha hi
  obtain ⟨hb, hf⟩ := hm
  refine ⟨?_, fun x hx => ?_, fun j => (hf j).trans (m.full_write ..)⟩
  · have hread : m.read ad (atomicBytes wide) = (m.word (ad / 8)).toNat / 2 ^ (8 * (ad % 8)) % 2 ^ (8 * atomicBytes wide) := by
      rw [← m.read_of_word (ad / 8) hin, ← had]
    rw [hread, ← toNat_amWord op wide _ a b ho ha]
    refine Memory.read_of_bytes _ _ _ _ _ fun i hi => ?_
    have hoff : ad + i - 8 * (ad / 8) = ad % 8 + i := by omega
    rw [hb, Memory.byte_write, hoff, if_pos ⟨by omega, by omega, (hmask (by omega)).2 ⟨by omega, by omega⟩⟩]
  · rw [hb, Memory.byte_write, if_neg]
    rintro ⟨h1, h2, h3⟩
    have := (hmask (by omega)).1 h3
    omega

end Sys2Proof.Machine
end

section
/-! A request packet at its home (R94): each form that the home's access table lets through, and the one answer to those that it
denies. -/

namespace Sys2Proof.Machine

/-- The home's reply to a request is among the packets, under the request's identity, on its way back. -/
theorem State.mem_packets_replyTo (s : State) (p : Packet) (r : Payload) :
    ∃ q ∈ (s.replyTo p r).packets, q.ident = p.ident ∧ q.isReply = true ∧ q.src = p.dst ∧ q.dst = p.src ∧ q.payload = r := by
  unfold State.replyTo State.enter State.inject
  dsimp only
  split
  · exact ⟨_, List.mem_append_right _ (List.mem_singleton_self _), rfl, rfl, rfl, rfl, rfl⟩
  · exact ⟨_, List.mem_append_right _ (List.mem_singleton_self _), rfl, rfl, rfl, rfl, rfl⟩

/-- HOME_ACCESS of a packet that its home's input grants performs it. -/
theorem execHomeAccess_packet {s : State} {pkt : Nat} {p : Packet} (h : s.tripped = false) (hp : s.packet? pkt = some p)
    (ha : p.atHome = true) (hg : s.homeGrants p = true) :
    exec (.homeAccess (.packet pkt)) s = .next (s.between.performPacket p) := by
  have hp' : s.between.packet? pkt = some p := hp
  have hg' : (p.atHome && s.between.homeGrants p) = true := Bool.and_eq_true_iff.2 ⟨ha, hg⟩
  show execHomeAccess (.packet pkt) s = _
  unfold execHomeAccess
  rw [event_of_running _ h]
  dsimp only
  rw [hp']
  dsimp only
  rw [if_pos hg']

section
variable {s : State} {p : Packet} {slot tn cls : Nat}

/-- A request that the home's access table denies is answered with cause 0x09; stores and stps, which have retired, are not answered
(notes/assumptions/60.md). -/
theorem State.performPacket_denied {op : HomeOp} (hp : p.payload = .request slot tn [cls] op)
    (hd : s.homeAllows tn p.src cls op.level (op.keys.headD 0) = false) (hs : ∀ id ws, op ≠ .store id ws)
    (hput : ∀ id x v, op ≠ .put id x v) :
    s.performPacket p = s.replyTo p (.reply slot [] (some (op.keys.headD 0, 0x09))) := by
  have hd' : (!s.homeAllows tn p.src ([cls].headD 0) op.level (op.keys.headD 0)) = true := by
    rw [List.headD_cons, hd]; rfl
  unfold State.performPacket
  rw [hp]
  dsimp only
  split
  · exact absurd rfl (hs _ _)
  · exact absurd rfl (hput _ _ _)
  · exact if_pos hd'
  · exact if_pos hd'

theorem State.performPacket_load {k : Nat} (hp : p.payload = .request slot tn [cls] (.load [k]))
    (ha : s.homeAllows tn p.src cls 1 k = true) (hs : s.mem.poisoned k = false) :
    s.performPacket p = s.replyTo p (.reply slot [(k, s.mem.word k)] none) := by
  have ha' : (!s.homeAllows tn p.src ([cls].headD 0) (HomeOp.load [k]).level ((HomeOp.load [k]).keys.headD 0)) = false := by
    rw [Bool.not_eq_false']; exact ha
  have hread : s.readAll [k] = (s, [(k, s.mem.word k)], none) := by
    rw [State.readAll, State.readWord_of_sound hs]; rfl
  unfold State.performPacket
  rw [hp]
  dsimp only
  rw [ha', hread]
  rfl

theorem State.performPacket_atomic {o : AmOp} {wide ar : Bool} {ad : Nat} {a b : Word}
    (hp : p.payload = .request slot tn [cls] (.atomic o wide ar ad a b))
    (ha : s.homeAllows tn p.src cls 3 (ad / 8) = true) (hs : s.mem.poisoned (ad / 8) = false) :
    s.performPacket p =
      (s.writeWord (ad / 8) (amWord o wide (ad % 8) (s.mem.word (ad / 8)) a b).1
        (amWord o wide (ad % 8) (s.mem.word (ad / 8)) a b).2 none).replyTo p (.reply slot [(ad / 8, s.mem.word (ad / 8))] none) := by
  have ha' : (!s.homeAllows tn p.src ([cls].headD 0) (HomeOp.atomic o wide ar ad a b).level
      ((HomeOp.atomic o wide ar ad a b).keys.headD 0)) = false := by
    rw [Bool.not_eq_false']; exact ha
  have hact : s.homeAct slot (.atomic o wide ar ad a b) =
      (s.writeWord (ad / 8) (amWord o wide (ad % 8) (s.mem.word (ad / 8)) a b).1
        (amWord o wide (ad % 8) (s.mem.word (ad / 8)) a b).2 none, some (.ok (s.mem.word (ad / 8)))) := by
    rw [State.homeAct, State.atomicHome, State.readWord_of_sound hs]
  unfold State.performPacket
  rw [hp]
  dsimp only
  rw [ha', hact]
  rfl

theorem State.performPacket_store {id : Nat} {words : List (Nat × BitVec 8 × Word)}
    (hp : p.payload = .request slot tn [cls] (.store id words)) :
    s.performPacket p = (s.dropPacket p.ident).performWords tn p.src id words [cls] := by
  unfold State.performPacket
  rw [hp]

theorem State.performPacket_sync {kind k : Nat} {v : Word} (hp : p.payload = .request slot tn [cls] (.sync kind k v))
    (ha : s.homeAllows tn p.src cls (HomeOp.sync kind k v).level k = true) :
    s.performPacket p = (s.dropPacket p.ident).arriveHeld ⟨slot, k, kind, v, none, cls, 0, 0⟩ p.age := by
  have ha' : (!s.homeAllows tn p.src ([cls].headD 0) (HomeOp.sync kind k v).level ((HomeOp.sync kind k v).keys.headD 0)) = false := by
    rw [Bool.not_eq_false']; exact ha
  unfold State.performPacket
  rw [hp]
  dsimp only
  rw [ha']
  rfl
end

end Sys2Proof.Machine
end

section
/-! A synchronising request at its home (R270, R271), where no other is held on its word. -/

namespace Sys2Proof.Machine

/-- The memory once a synchronising form has been performed on word k: lde (kind 0) leaves it, ldt (1) empties the word, stf (2) fills
it with its data (R270). -/
def Memory.synced (m : Memory) (k kind : Nat) (v : Word) : Memory :=
  if kind = 2 then (m.write k 0xFF#8 v).setTag k true else if kind = 1 then m.setTag k false else m

section
variable (m : Memory) {k kind : Nat} (v : Word)

theorem Memory.full_synced (hk : kind ≤ 2) (hf : m.full k = decide (kind < 2)) (j : Nat) :
    (m.synced k kind v).full j = if j = k then decide (kind ≠ 1) else m.full j := by
  have hcases : kind = 0 ∨ kind = 1 ∨ kind = 2 := by omega
  by_cases hj : j = k
  · subst hj
    rcases hcases with rfl | rfl | rfl <;> simp [Memory.synced, Memory.full_setTag, hf]
  · rcases hcases with rfl | rfl | rfl <;> simp [Memory.synced, Memory.full_setTag, Memory.full_write, hj, Ne.symm hj]

theorem Memory.word_synced : (m.synced k kind v).word k = if kind = 2 then v else m.word k := by
  unfold Memory.synced
  split
  · exact m.word_write_whole k v
  · split <;> rfl

theorem Memory.byte_synced {x : Nat} (hx : x / 8 ≠ k) : (m.synced k kind v).byte x = m.byte x := by
  unfold Memory.synced
  split
  · rw [Memory.byte_setTag, Memory.byte_write, if_neg (by omega)]
  · split <;> rfl
end

section
variable {s : State} {k : Nat} (hh : ∀ h ∈ s.holds, h.key ≠ k)
include hh

theorem State.releaseHeld_of_none_held (fuel : Nat) : s.releaseHeld k fuel = s := by
  cases fuel with
  | zero => rfl
  | succ fuel =>
    have hnone : (s.holds.find? fun h => h.key == k && heldReady s.mem h) = none := by
      rw [List.find?_eq_none]
      intro h hm
      simp [hh h hm]
    rw [State.releaseHeld, hnone]

theorem State.performHeld_synced {h : Held} (hkey : h.key = k) (hport : h.port = none)
    (hs : s.mem.poisoned k = false) :
    (s.performHeld h).mem = s.mem.synced k h.kind h.data ∧ (s.performHeld h).holds = s.holds := by
  have herase : s.holds.erase h = s.holds := List.erase_of_not_mem fun hm => hh h hm hkey
  have hans (u : State) (r : Except Nat Word) : (u.answerHeld h r).holds = u.holds := by
    rw [State.answerHeld, hport]
    exact State.holds_of_homeTables (u.homeAnswer_homeTables _ _ _)
  have hread := State.readWord_of_sound (s := s) hs
  have hsettle : s.settle k = s := congrArg Prod.fst hread
  subst hkey
  unfold State.performHeld Memory.synced
  rw [herase]
  dsimp only
  rw [show ({ s with holds := s.holds } : State) = s from rfl, hsettle, hs]
  split
  · exact ⟨State.answerHeld_mem _ _ _, hans _ _⟩
  · rw [if_neg Bool.false_ne_true]
    split
    · exact ⟨congrArg (·.setTag h.key false) (s.answerHeld_mem _ _), hans _ _⟩
    · exact ⟨State.answerHeld_mem _ _ _, hans _ _⟩

/-- A request whose word's tag lets it is performed, and releases no other. -/
theorem NoEpoch.arriveHeld_performed (he : NoEpoch s) {h : Held} (hkey : h.key = k) (hport : h.port = none)
    (hs : s.mem.poisoned k = false) (hr : heldReady s.mem h = true) (age : Nat) :
    SameMemory (s.mem.synced k h.kind h.data) (s.arriveHeld h age).mem ∧ (s.arriveHeld h age).holds = s.holds := by
  obtain ⟨hm, hholds⟩ := State.performHeld_synced hh hkey hport hs
  have hbefore : (if h.kind = 0 then s else s.beforeWrite h.key) = s := by
    rw [State.beforeWrite, State.preWrite_of_noEpoch he, ite_self]
  have hrelease (fuel : Nat) : (s.performHeld h).releaseHeld k fuel = s.performHeld h :=
    State.releaseHeld_of_none_held (by rw [hholds]; exact hh) fuel
  subst hkey
  unfold State.arriveHeld
  rw [if_pos hr, hbefore]
  dsimp only
  rw [hrelease, ite_self, ← hm]
  split
  · exact ⟨.refl _, hholds⟩
  · exact ⟨State.sameContents_wakeGranule _ _, (State.holds_of_homeTables (State.wakeGranule_homeTables _ _)).trans hholds⟩

omit hh in
/-- A request whose word's tag does not let it is held, last in the hold store, while that has room. -/
theorem State.arriveHeld_held {h : Held} (hr : heldReady s.mem h = false) (hroom : s.holdFull h.key = false) (age : Nat) :
    s.arriveHeld h age = { s with holds := s.holds ++ [h] } := by
  rw [State.arriveHeld, hr, hroom]
  rfl
end

/-- lde and ldt wait for a full word, stf for an empty one (R270). -/
theorem heldReady_iff {m : Memory} {h : Held} (hk : h.kind ≤ 2) :
    heldReady m h = true ↔ m.full h.key = decide (h.kind < 2) := by
  unfold heldReady
  split
  · next h2 => rw [h2]; simp
  · rw [decide_eq_true (by omega)]

end Sys2Proof.Machine
end

section
/-! HOME_ACCESS (R94): the store buffer's words and the request packets at their homes. -/

namespace Sys2Proof.Machine

/-- HOME_ACCESS of words of the oldest entry of a store buffer whose homes let them through. -/
theorem execHomeAccess_buffered {s : State} {core idx : Nat} {e : SbEntry} {rest : List SbEntry} (h : s.tripped = false)
    (hslow : s.slow = false) (hsb : (s.core core).sb = e :: rest) (hnow : e.goes idx ≠ []) (hf : s.flights = [])
    (hsent : e.sent = []) (hlen : e.classes.length = e.words.length) (haway : ∀ w ∈ e.words, isAway w.1 = false)
    (hok : ∀ x ∈ e.words.zip e.classes, s.homeAllows e.tenant core x.2 2 x.1.1 = true)
    (hp : ∀ t, s.thread? e.slot = some t → ∀ p ∈ t.ports, p.2.pushes = []) (he : NoEpoch s) :
    ∃ u, exec (.homeAccess (.buffered core 0 idx)) s = .next (u.dropStored core e.ident ((e.goes idx).map (·.1))) ∧
      Stored s.between u (e.goes idx) := by
  obtain ⟨u, hu, hst⟩ := NoEpoch.performWords (s := s.between) he e.ident (e.length_goesClasses hlen idx)
    fun x hx => hok x (e.mem_zip_of_mem_goes idx hx)
  refine ⟨u, ?_, hst⟩
  show execHomeAccess (.buffered core 0 idx) s = _
  unfold execHomeAccess
  rw [event_of_running _ h, ← hu]
  exact congrArg _ (State.performEntry_oldest (s := s.between) hsb hslow hnow hsent haway hf hp)

/-- Settles O14: a store's words at their homes are a fold of byte writes (Stored), and each request packet has its own equation. -/
theorem bufferedStoresReachMemory : Obligations.BufferedStoresReachMemory := by
  unfold Obligations.BufferedStoresReachMemory
  refine ⟨?_, ?_⟩
  · intro s core idx e rest now left held h hslow hsb hnow hf hsent hrest hlen haway hok hp he
    obtain ⟨u, hu, hmem, -, hcores⟩ := execHomeAccess_buffered h hslow hsb hnow hf hsent hlen haway hok hp he
    obtain ⟨hbytes, hfull⟩ := hmem
    have hu_sb : (u.core core).sb = e :: rest := (congrArg Core.sb (State.core_of_atCores hcores core)).trans hsb
    have hregs := State.regs_of_atCores (s := s.between) hcores
    exact ⟨_, hu, hbytes, fun a ha => (hbytes a).trans (s.mem.byte_writeAll_of_unselected ha),
      fun k => (hfull k).trans (s.mem.full_writeAll _ k), State.sb_dropStored hu_sb hrest _, hregs⟩
  · intro s pkt slot tn cls p op
    dsimp only
    generalize hkey : op.keys.headD 0 = k
    intro h hpkt hhome hgrants hop
    rw [execHomeAccess_packet h hpkt hhome hgrants]
    refine ⟨fun hd hs hput => ?_, fun ha he => ⟨?_, ?_, ?_, ?_⟩⟩
    · subst hkey
      rw [State.performPacket_denied (s := s.between) hop hd hs hput]
    · rintro rfl hs
      rw [State.performPacket_load (s := s.between) hop ha hs]
      rfl
    · rintro o wide ar ad a b rfl hs had
      subst hkey
      have hst := NoEpoch.writeWord_stored (s := s.between) he (ad / 8) (amWord o wide (ad % 8) (s.mem.word (ad / 8)) a b).1
        (amWord o wide (ad % 8) (s.mem.word (ad / 8)) a b).2
      refine ⟨_, congrArg _ (State.performPacket_atomic (s := s.between) hop ha hs),
        State.mem_packets_replyTo _ _ _, Memory.wroteBytes_atomic had ?_⟩
      rw [State.replyTo_mem]
      exact hst.memory
    · rintro id m v rfl
      obtain ⟨u, hu, hst⟩ := NoEpoch.performWords (s := s.between.dropPacket p.ident) (tenant := tn) (core := p.src) he id
        (words := [(k, m, v)]) (classes := [cls]) rfl fun x hx => by
          rw [List.mem_singleton.1 hx]
          exact ha
      obtain ⟨hbytes, hfull⟩ := hst.memory
      refine ⟨_, congrArg _ ((State.performPacket_store (s := s.between) hop).trans hu), hbytes, fun j => ?_⟩
      exact (hfull j).trans (s.mem.full_write _ _ _ j)
    · rintro kind v rfl hk hheld
      rw [State.performPacket_sync (s := s.between) hop ha]
      refine ⟨fun hf hs => ?_, fun hf hroom => ?_⟩
      · obtain ⟨hmem, hholds⟩ := NoEpoch.arriveHeld_performed (s := s.between.dropPacket p.ident) (k := k) hheld he
          (h := ⟨slot, k, kind, v, none, cls, 0, 0⟩) rfl rfl hs ((heldReady_iff hk).2 hf) p.age
        have hfull (j : Nat) := (hmem.2 j).trans (s.mem.full_synced v hk hf j)
        exact ⟨_, rfl, hholds, (hfull k).trans (if_pos rfl), fun j hj => (hfull j).trans (if_neg hj),
          (hmem.word k).trans (s.mem.word_synced v), fun x hx => (hmem.1 x).trans (s.mem.byte_synced v hx)⟩
      · have hr : heldReady s.mem ⟨slot, k, kind, v, none, cls, 0, 0⟩ = false :=
          Bool.eq_false_iff.2 fun hr => hf ((heldReady_iff hk).1 hr)
        exact ⟨_, congrArg _ (State.arriveHeld_held (s := s.between.dropPacket p.ident) hr hroom p.age), rfl, rfl⟩

end Sys2Proof.Machine
end

section
/-! The steps of the fabric (R97 to R106) where one packet is in it: nothing stands before it in a queue. -/

namespace Sys2Proof.Machine

theorem grantOf_singleton (p : Packet) : grantOf [p] = some p := by
  simp [grantOf]

section
variable {s : State} {p : Packet} (hs : s.packets = [p])
include hs

theorem State.waitingAt_singleton {node port : Nat} (hn : p.node = some node) (hd : p.depot = none) (hr : p.returned = false)
    (hport : outputPort node (p.next node) = port) : s.waitingAt node port p.isReply = [p] := by
  simp [State.waitingAt, State.spilledPair, hs, hn, hd, hr, hport]

/-- A queue holds far fewer than 256 flits. -/
theorem State.stalled_singleton (n : Option Nat) : s.stalled p n = false := by
  have hlen (f : Packet → Bool) : (s.packets.filter f).length ≤ 1 := by
    rw [hs]
    exact List.length_filter_le f [p]
  cases n with
  | some n => exact decide_eq_false (by have := hlen fun q => q.node == some n && q.depot.isNone && !q.returned &&
      q.isReply == p.isReply && outputPort n (q.next n) == outputPort n (p.next n); omega)
  | none =>
    have h : decide (256 ≤ (s.packets.filter fun q => q.atHome && q.dst == p.dst).length) = false :=
      decide_eq_false (by have := hlen fun q => q.atHome && q.dst == p.dst; omega)
    rw [State.stalled, h, Bool.and_false]

theorem State.dropPacket_singleton : (s.dropPacket p.ident).packets = [] := by
  simp [State.dropPacket, hs]

theorem State.packet?_singleton : s.packet? p.ident = some p := by
  simp [State.packet?, hs]
end

theorem State.mergeInto_of_no_combines {s : State} (hc : s.combines = []) (node : Nat) (p : Packet) : s.mergeInto node p = none := by
  rw [State.mergeInto, hc, List.find?_nil]

theorem State.passReply_of_no_combines {s : State} (hc : s.combines = []) (node : Nat) (p : Packet) : s.passReply node p = s := by
  rw [State.passReply, hc, List.find?_nil]

theorem State.openEntry_packets (s : State) (node : Nat) (p : Packet) : (s.openEntry node p).packets = s.packets := by
  unfold State.openEntry
  dsimp only
  split <;> rfl

theorem State.openEntry_cycle (s : State) (node : Nat) (p : Packet) : (s.openEntry node p).cycle = s.cycle := by
  unfold State.openEntry
  dsimp only
  split <;> rfl

/-- By how much a packet ages in going to the next router, or to its destination: once more where it crosses to another die (R102). -/
def hopsTo (node : Nat) : Option Nat → Nat
  | some n => if n / 48 = node / 48 then 1 else 2
  | none => 1

/-- A packet that comes to an empty fabric's next router, or to its destination. -/
theorem State.comeTo_of_no_packets {s : State} (hs : s.packets = []) {p : Packet} (hd : p.depot = none) (node : Nat)
    (n : Option Nat) : ∃ q, (s.comeTo p node n).packets = [q] ∧ q.node = n ∧ q.age = min 1023 (p.age + hopsTo node n) ∧
      q = { p with node := q.node, age := q.age, arrived := s.cycle, came := s.cycle, port := q.port } := by
  cases n with
  | none => exact ⟨_, congrArg (· ++ _) hs, rfl, rfl, rfl⟩
  | some n =>
    have hspilled (q : Packet) (m port : Nat) : s.spilledPair q m port = false := by simp [State.spilledPair, hs]
    have hinject (q : Packet) (port : Nat) (hq : q.depot = none) : (s.inject q n port).packets =
        [{ q with node := some n, arrived := s.cycle, came := s.cycle, port := port }] := by
      simp [State.inject, State.queueAt, hspilled, hs, hq]
    exact ⟨_, hinject _ _ hd, rfl, rfl, rfl⟩

section
variable {s : State} (h : s.tripped = false)
include h

/-- ROUTER_FORWARD of the one packet waiting: it leaves its router for the next of its path. -/
theorem execRouterForward_singleton {p : Packet} {node port : Nat} (hs : s.packets = [p]) (hn : p.node = some node)
    (hd : p.depot = none) (hr : p.returned = false) (hc : s.combines = []) (hport : outputPort node (p.next node) = port)
    (hlink : .dieLink node port ∉ s.linksDown) (hack : p.next node = none → ∀ x e d, p.payload ≠ .ack x e d) :
    ∃ u : State, u.packets = [] ∧ u.cycle = s.cycle ∧
      exec (.routerForward node port p.isReply) s = .next (u.comeTo p node (p.next node)) := by
  let s1 : State := { s.between with
    granted := amPut s.granted (node * 8 + port) s.cycle
    flowing := if s.packets.any fun q => q.depot == some (node, port) then nsIns s.flowing (node * 8 + port) else s.flowing }
  let s2 := if p.isReply then s1.passReply node p else s1.openEntry node p
  have hpackets : s2.packets = [p] := by
    show (if p.isReply then s1.passReply node p else s1.openEntry node p).packets = _
    split
    · rw [State.passReply_of_no_combines (s := s1) hc]; exact hs
    · rw [State.openEntry_packets]; exact hs
  have hcycle : s2.cycle = s.cycle := by
    show (if p.isReply then s1.passReply node p else s1.openEntry node p).cycle = _
    split
    · rw [State.passReply_of_no_combines (s := s1) hc]; rfl
    · rw [State.openEntry_cycle]; rfl
  have hmerge : (if p.isReply then none else s1.mergeInto node p) = none := by
    rw [State.mergeInto_of_no_combines (s := s1) hc, ite_self]
  have hup : s.between.linksDown.contains (.dieLink node port) = false := by
    simpa [State.between] using hlink
  refine ⟨s2.dropPacket p.ident, State.dropPacket_singleton hpackets, hcycle, ?_⟩
  show execRouterForward node port p.isReply s = _
  unfold execRouterForward
  rw [event_of_running _ h]
  dsimp only
  rw [hup, State.waitingAt_singleton (s := s.between) hs hn hd hr hport, grantOf_singleton]
  dsimp only
  rw [State.stalled_singleton (s := s.between) hs]
  refine congrArg _ ?_
  show (match (if p.isReply then none else s1.mergeInto node p) with | some e => _ | none => _) = _
  rw [hmerge]
  dsimp only
  split
  · next x e d hp hnext => exact absurd hp (hack hnext x e d)
  · rfl

/-- COMBINE_WINDOW_CLOSE of the one entry, once its window is over. -/
theorem execCombineWindowClose_singleton {e : Combine} (hc : s.combines = [e]) (ho : e.openedAt + 8 < s.cycle) :
    execCombineWindowClose e.node e.isReply 0 s = .next { s with latch := {}, combines := [{ e with isOpen := false }] } := by
  have hfilter : (s.between.combines.filter fun x => x.node == e.node && x.isReply == e.isReply) = [e] := by
    simp [State.between, hc]
  have hover : ¬s.between.cycle ≤ e.openedAt + 8 := Nat.not_le.2 ho
  unfold execCombineWindowClose
  rw [event_of_running _ h, hfilter]
  dsimp only [List.getElem?_cons_zero]
  rw [if_neg hover]
  simp [State.between, hc]

/-- AGE_INCREMENT of the one packet, which has waited 64 cycles. -/
theorem execAgeIncrement_singleton {p : Packet} (hs : s.packets = [p]) (hr : p.returned = false) (hw : p.arrived + 64 ≤ s.cycle) :
    execAgeIncrement p.ident s =
      .next { s with latch := {}, packets := [{ p with age := min 1023 (p.age + 1), arrived := p.arrived + 64 }] } := by
  unfold execAgeIncrement
  rw [event_of_running _ h]
  simp [State.between, hs, hr, hw]

/-- DEPOT_SPILL of the one packet: the depot has room for it. -/
theorem execDepotSpill_singleton {p : Packet} {node : Nat} (hs : s.packets = [p]) (hn : p.node = some node) (hd : p.depot = none)
    (hr : p.returned = false) (hport : outputPort node (p.next node) = 5) (hnode : node < 384) (hroom : p.flits ≤ depotRoom)
    (hw : amGetD s.granted (node * 8 + 5) 0 + 4096 < s.cycle) :
    execDepotSpill node 5 s =
      .next { s with latch := {}, packets := [{ p with depot := some (node, 5) }], flowing := nsDel s.flowing (node * 8 + 5) } := by
  have hwaits : (s.between.packets.filter fun q => q.node == some node && q.depot.isNone && !q.returned &&
      outputPort node (q.next node) == 5) = [p] := by
    simp [State.between, hs, hn, hd, hr, hport]
  have hused : s.between.depotUsed (nodeDie node) = 0 := by
    simp [State.depotUsed, State.between, hs, hd]
  have hspill : ¬(5 ≠ 5 ∨ 384 ≤ node ∨ [p].isEmpty ∨ s.between.cycle ≤ amGetD s.between.granted (node * 8 + 5) 0 + 4096) := by
    rintro (h5 | h384 | hnil | hlate)
    · exact h5 rfl
    · exact absurd hnode (Nat.not_lt.2 h384)
    · cases hnil
    · exact absurd hw (Nat.not_lt.2 hlate)
  unfold execDepotSpill
  rw [event_of_running _ h]
  dsimp only
  rw [hwaits, if_neg hspill, State.spillAll, hused, if_neg (by omega), State.spillAll]
  simp [State.between, hs]

/-- DEPOT_REINJECT of the one packet over a link that is up. -/
theorem execDepotReinject_singleton {p : Packet} {node port : Nat} (hs : s.packets = [p]) (hd : p.depot = some (node, port))
    (hlink : .dieLink node port ∉ s.linksDown) :
    ∃ u, execDepotReinject node port s = .next u ∧ u.packets = [{ p with depot := none, arrived := s.cycle, came := s.cycle }] ∧
      u.mem = s.mem := by
  have hfree : ((s.between.waitingAt node port false).isEmpty && (s.between.waitingAt node port true).isEmpty &&
      !s.between.linksDown.contains (.dieLink node port)) = true := by
    simpa [State.waitingAt, State.between, hs, hd] using hlink
  have hheld : (s.between.packets.filter fun q => q.depot == some (node, port)) = [p] := by
    simp [State.between, hs, hd]
  unfold execDepotReinject
  rw [event_of_running _ h]
  dsimp only
  rw [hfree, hheld, grantOf_singleton]
  dsimp only
  rw [State.stalled_singleton (s := s.between) hs, Bool.not_true, Bool.and_false]
  refine ⟨_, rfl, ?_, rfl⟩
  simp [State.between, hs]
end

end Sys2Proof.Machine
end

section
/-! The belay unit's replies (R331, R333 to R335): what answers to waiting threads and packets to other units leave, and the instruction
that ends with its reply (R75). -/

namespace Sys2Proof.Machine

theorem mem_of_amGet {α : Type} {m : AMap α} {k : Nat} {v : α} (hv : amGet m k = some v) : (k, v) ∈ m := by
  induction m with
  | nil => cases hv
  | cons x m ih =>
    obtain ⟨a, w⟩ := x
    rw [amGet] at hv
    split at hv
    · next ha => rw [ha, Option.some.inj hv]; exact List.mem_cons_self
    · exact List.mem_cons_of_mem _ (ih hv)

/-- A search that only entries of one key pass finds one of that key. -/
theorem find?_of_key {α : Type} {m : AMap α} {k : Nat} {v : α} {f : Nat × α → Bool} (hv : amGet m k = some v)
    (hk : f (k, v) = true) (hne : ∀ x ∈ m, x.1 ≠ k → f x = false) : ∃ w, m.find? f = some (k, w) := by
  cases hf : m.find? f with
  | none => exact absurd hk (List.find?_eq_none.1 hf _ (mem_of_amGet hv))
  | some x =>
    have hx : x.1 = k := by
      by_contra hx
      have := List.find?_some hf
      rw [hne x (List.mem_of_find?_eq_some hf) hx] at this
      cases this
    exact ⟨x.2, by rw [← hx]⟩

/-! The unit's barriers, mutexes and event lines -/

section
variable (s : State) (cl i : Nat)

@[simp] theorem State.barrier_setBarrier (b : Barrier) : ((s.setBarrier cl i b).cluster cl).barrier i = b := by
  simp [State.setBarrier, State.modCluster, Cluster.barrier, amGetD_amPut]

@[simp] theorem State.mutex_setMutex (m : Mutex) : ((s.setMutex cl i m).cluster cl).mutex i = m := by
  simp [State.setMutex, State.modCluster, Cluster.mutex, amGetD_amPut]

@[simp] theorem State.eventLine_setEvent (e : EventLine) : ((s.setEvent cl i e).cluster cl).eventLine i = e := by
  simp [State.setEvent, State.modCluster, Cluster.eventLine, amGetD_amPut]
end

/-! Answers to waiting threads -/

theorem State.answer_ok (s : State) (slot : Nat) (v : Word) : s.answer slot 0 (.ok v) = s.modThread slot (·.answered v) := by
  refine congrArg (s.modThread slot) (funext fun t => ?_)
  unfold Thread.answered
  cases hp : t.pend with
  | none =>
    show t = { t with pend := none }
    rw [← hp]
  | some p => rfl

/-- Two states that differ in their threads alone. -/
def State.SameButThreads (s u : State) : Prop := u = { s with threads := u.threads }

section
variable {s u : State}

theorem State.sameButThreads_modThread (s : State) (n : Nat) (f : Thread → Thread) : s.SameButThreads (s.modThread n f) := by
  unfold State.SameButThreads State.modThread
  split <;> rfl

theorem State.SameButThreads.trans {v : State} (h : s.SameButThreads u) (h' : u.SameButThreads v) : s.SameButThreads v := by
  unfold State.SameButThreads at *
  rw [h', h]

theorem State.SameButThreads.cluster (h : s.SameButThreads u) (cl : Nat) : u.cluster cl = s.cluster cl :=
  congrArg (·.cluster cl) h
theorem State.SameButThreads.packets (h : s.SameButThreads u) : u.packets = s.packets := (congrArg State.packets h :)
theorem State.SameButThreads.cycle (h : s.SameButThreads u) : u.cycle = s.cycle := (congrArg State.cycle h :)
theorem State.SameButThreads.latch (h : s.SameButThreads u) : u.latch = s.latch := (congrArg State.latch h :)
end

theorem State.sameButThreads_answer (s : State) (slot : Nat) (v : Word) : s.SameButThreads (s.answer slot 0 (.ok v)) :=
  s.sameButThreads_modThread slot _

theorem State.thread?_answer (s : State) (slot x : Nat) (v : Word) :
    (s.answer slot 0 (.ok v)).thread? x = if slot = x then (s.thread? x).map (·.answered v) else s.thread? x := by
  rw [State.answer_ok, State.thread?_modThread]

theorem State.sameButThreads_answerAll (s : State) (slots : List Nat) (v : Word) : s.SameButThreads (s.answerAll slots v) :=
  List.foldlRecOn (motive := fun u : State => s.SameButThreads u) _ _ rfl fun u hu n _ => hu.trans (u.sameButThreads_answer n v)

/-- Each of the slots, none twice, is answered once; no other thread changes. -/
theorem State.thread?_answerAll (s : State) {slots : List Nat} (hn : slots.Nodup) (v : Word) (x : Nat) :
    (s.answerAll slots v).thread? x = if x ∈ slots then (s.thread? x).map (·.answered v) else s.thread? x := by
  induction slots generalizing s with
  | nil => rfl
  | cons n slots ih =>
    obtain ⟨hnot, hrest⟩ := List.nodup_cons.1 hn
    rw [State.answerAll, List.foldl_cons]
    refine (ih (s.answer n 0 (.ok v)) hrest).trans ?_
    rw [State.thread?_answer]
    by_cases hx : n = x
    · subst hx
      rw [if_neg hnot, if_pos rfl, if_pos List.mem_cons_self]
    · simp only [if_neg hx, List.mem_cons, Ne.symm hx, false_or]

/-! Packets to other units -/

/-- The units' traffic is new packets, last in the fabric, with these payloads; threads and units are as before. -/
structure State.Sends (s u : State) (payloads : List Payload) : Prop where
  packets : ∃ ps, u.packets = s.packets ++ ps ∧ ps.map (·.payload) = payloads
  threads : u.threads = s.threads
  clusters : u.clusters = s.clusters
  cycle : u.cycle = s.cycle
  latch : u.latch = s.latch

theorem State.Sends.refl (s : State) : s.Sends s [] := ⟨⟨[], (List.append_nil _).symm, rfl⟩, rfl, rfl, rfl, rfl⟩

theorem State.Sends.trans {s u v : State} {l l' : List Payload} (h : s.Sends u l) (h' : u.Sends v l') : s.Sends v (l ++ l') := by
  obtain ⟨ps, hps, hl⟩ := h.packets
  obtain ⟨qs, hqs, hl'⟩ := h'.packets
  exact ⟨⟨ps ++ qs, by rw [hqs, hps, List.append_assoc], by rw [List.map_append, hl, hl']⟩, h'.threads.trans h.threads,
    h'.clusters.trans h.clusters, h'.cycle.trans h.cycle, h'.latch.trans h.latch⟩

theorem State.sends_send (s : State) (isReply : Bool) (src dst : Nat) (p : Payload) :
    s.Sends (s.send isReply src dst p) [p] := by
  unfold State.send State.enter State.inject
  dsimp only
  split
  · split <;> exact ⟨⟨_, rfl, rfl⟩, rfl, rfl, rfl, rfl⟩
  · exact ⟨⟨_, rfl, rfl⟩, rfl, rfl, rfl, rfl⟩

theorem State.sends_foldl_send {α : Type} (src : Nat) (dst : α → Nat) (p : α → Payload) (l : List α) (s : State) :
    s.Sends (l.foldl (fun s x => s.send false src (dst x) (p x)) s) (l.map p) := by
  induction l generalizing s with
  | nil => exact .refl s
  | cons x l ih => exact (s.sends_send false src (dst x) (p x)).trans (ih _)

theorem State.Sends.thread? {s u : State} {l : List Payload} (h : s.Sends u l) (x : Nat) : u.thread? x = s.thread? x :=
  congrArg (amGet · x) h.threads

theorem State.Sends.cluster {s u : State} {l : List Payload} (h : s.Sends u l) (cl : Nat) : u.cluster cl = s.cluster cl :=
  congrArg (fun c : AMap Cluster => amGetD c cl {}) h.clusters

/-! The instruction that ends with the unit's reply -/

/-- A thread whose access of the belay window the unit has still to answer, by the request it has outstanding (R331). -/
structure Thread.Awaits (t : Thread) (p : Pend) : Prop where
  pend : t.pend = some p
  ports : t.ports = []
  keys : p.keys = [0]
  pops : p.pops = []
  mode : p.mode = 2
  sound : p.bad = []
  fresh : ∀ g ∈ p.got, g.1 ≠ 0

/-- A delivery of the cycle landed in a register that the thread's outstanding instruction writes (R176). -/
def Thread.late (t : Thread) (cycle : Nat) : Bool :=
  t.pend.any fun p => (List.range (max 2 p.keys.length)).any fun i => p.rd != 0 && t.took cycle (p.rd + i)

theorem State.replyLate_of_thread {s : State} {slot : Nat} {t : Thread} (ht : s.thread? slot = some t) :
    s.replyLate slot = t.late s.cycle := by
  rw [State.replyLate, ht]
  rfl

theorem Thread.setXs_answered (t : Thread) (n : Nat) (ws : List Word) (v : Word) :
    (t.answered v).setXs n ws = (t.setXs n ws).answered v := by
  induction ws generalizing t n with
  | nil => rfl
  | cons w ws ih =>
    have h : (t.answered v).setX n w = (t.setX n w).answered v := by
      unfold Thread.setX
      split <;> rfl
    rw [Thread.setXs, h, ih]
    rfl

theorem State.retire_setThread (s : State) (slot : Nat) (t : Thread) (hl : s.latch.replay = 0) (pc : Word) :
    (s.setThread slot t).retire slot pc = ({ s with latch := {} } : State).setThread slot (t.retired pc) := by
  have hl1 : ¬(s.setThread slot t).latch.replay ≠ 0 := not_not.2 hl
  rw [State.retire, if_neg hl1, State.modThread_setThread]
  rfl

theorem State.landNow_of_thread {s : State} {slot : Nat} {t : Thread} (ht : s.thread? slot = some t) :
    s.landNow slot = s.setThread slot (t.marked s.cycle []) := by
  rw [State.landNow, State.modThread_of_thread ht]
  simp only [Thread.marked, List.nil_append, beq_iff_eq]

/-- The unit's reply ends the instruction: its result is written, it retires, and its thread issues next in a later cycle. -/
theorem Thread.Awaits.belayReply {t : Thread} {p : Pend} (ha : t.Awaits p) {s : State} {slot : Nat} (ht : s.thread? slot = some t)
    (hl : s.latch.replay = 0) (hlate : t.late s.cycle = false) (v : Word) :
    s.belayReply slot (.ok v) = { s.setThread slot
      (((t.setXs p.rd (p.asm.result [v])).retired p.npc).marked s.cycle []) with latch := {} } := by
  obtain ⟨hpend, hports, hkeys, hpops, hmode, hsound, hfresh⟩ := ha
  let p1 : Pend := { p with got := p.got ++ [(0, v)] }
  have hanswered : (t.answered v).pend = some p1 := by rw [Thread.answered, hpend]; rfl
  have hold : p.got.find? (·.1 == 0) = none := List.find?_eq_none.2 fun g hg => by simp [hfresh g hg]
  have hfind : p1.got.find? (·.1 == 0) = some (0, v) := by simp [p1, List.find?_append, hold]
  have hlacks : p1.lacks = none := by
    have hkeys1 : p1.keys = [0] := hkeys
    rw [Pend.lacks, hkeys1, List.find?_eq_none]
    simp [p1]
  have hcomplete : p1.complete = true := by rw [Pend.complete, hlacks]
  have hfailure : p1.failure = none := by rw [Pend.failure, hlacks]; rfl
  have hports1 : (t.answered v).ports = [] := hports
  have hport (n : Nat) : (t.answered v).portOf n = none := portOf_none (by simp [hports1])
  have hwrite : (s.setThread slot (t.answered v)).writeRegs slot p.rd (p.asm.result [v]) =
      s.setThread slot ((t.setXs p.rd (p.asm.result [v])).answered v) := by
    rw [State.writeRegs, State.thread?_setThread_self]
    dsimp only
    rw [hport, ite_self]
    dsimp only
    rw [State.setThread_setThread, Thread.setXs_eq _ _ _ 0, Nat.add_zero, Thread.setXs_answered]
  have hreply : (s.setThread slot (t.answered v)).reply slot =
      (s.setThread slot ((t.setXs p.rd (p.asm.result [v])).answered v)).retire slot p.npc := by
    rw [State.reply, State.thread?_setThread_self, Option.bind_some, hanswered]
    dsimp only
    rw [hcomplete, hfailure, ← hwrite]
    have hmode1 : p1.mode = 2 := hmode
    have hkeys1 : p1.keys = [0] := hkeys
    have hpops1 : p1.pops = [] := hpops
    simp only [hmode1, hkeys1, hpops1, List.map_cons, List.map_nil, hfind, Option.map_some, Option.getD_some, State.popHandles,
      List.foldl_nil]
    rfl
  rw [State.belayReply, State.replyLate_of_thread ht, hlate, if_neg Bool.false_ne_true, State.answer_ok,
    State.modThread_of_thread ht, hreply, State.retire_setThread _ _ _ hl,
    State.landNow_of_thread (State.thread?_setThread_self ..), State.setThread_setThread]
  rfl

/-! What a slot has asked of the unit -/

/-- A slot's request that the unit has still to act on: how its thread waits, and that no list of the unit names it. -/
theorem State.awaits_of_belayAsked {s : State} {slot : Nat} {t : Thread} {p : Pend} {r : BelayOp × Option Word}
    (ht : s.thread? slot = some t) (hp : t.pend = some p) (hports : t.ports = []) (hkeys : p.keys = [0]) (hpops : p.pops = [])
    (ha : s.belayAsked slot = some r) : t.Awaits p ∧ s.belayQueued slot = false := by
  rw [State.belayAsked, ht, Option.bind_some, hp] at ha
  dsimp only at ha
  split at ha
  · cases ha
  · next hc =>
    simp only [Bool.or_eq_true, decide_eq_true_eq, not_or, Bool.not_eq_true, Bool.not_eq_false', ne_eq, not_not,
      List.isEmpty_iff, List.any_eq_false, beq_iff_eq] at hc
    obtain ⟨⟨⟨hmode, hbad⟩, hgot⟩, hqueue⟩ := hc
    exact ⟨⟨hp, hports, hkeys, hpops, hmode, hbad, hgot⟩, hqueue⟩

section
variable {s : State} {slot : Nat} (h : s.belayQueued slot = false) (i : Nat)
include h

theorem State.slot_notMem_barrier : slot ∉ ((s.cluster (clusterOf (coreOf slot))).barrier i).waiters.map (·.slot) := by
  intro hm
  obtain ⟨w, hw, rfl⟩ := List.mem_map.1 hm
  simp only [State.belayQueued, Bool.or_eq_false_iff, List.any_eq_false, List.any_eq_true, beq_iff_eq, not_exists, not_and] at h
  obtain ⟨⟨hb, -⟩, -⟩ := h
  rw [Cluster.barrier, amGetD] at hw
  cases hg : amGet (s.cluster (clusterOf (coreOf w.slot))).barriers i with
  | none => rw [hg] at hw; cases hw
  | some b => rw [hg] at hw; exact hb _ (mem_of_amGet hg) w hw rfl

theorem State.slot_notMem_mutex : slot ∉ ((s.cluster (clusterOf (coreOf slot))).mutex i).waiters := by
  intro hm
  simp only [State.belayQueued, Bool.or_eq_false_iff, List.any_eq_false, List.contains_iff_mem] at h
  obtain ⟨⟨-, hb⟩, -⟩ := h
  rw [Cluster.mutex, amGetD] at hm
  cases hg : amGet (s.cluster (clusterOf (coreOf slot))).mutexes i with
  | none => rw [hg] at hm; cases hm
  | some m => rw [hg] at hm; exact hb _ (mem_of_amGet hg) hm

theorem State.slot_notMem_eventLine : slot ∉ ((s.cluster (clusterOf (coreOf slot))).eventLine i).waiters := by
  intro hm
  simp only [State.belayQueued, Bool.or_eq_false_iff, List.any_eq_false, List.contains_iff_mem] at h
  obtain ⟨-, hb⟩ := h
  rw [Cluster.eventLine, amGetD] at hm
  cases hg : amGet (s.cluster (clusterOf (coreOf slot))).events i with
  | none => rw [hg] at hm; cases hm
  | some e => rw [hg] at hm; exact hb _ (mem_of_amGet hg) hm
end

end Sys2Proof.Machine
end

section
/-! What the belay unit's acts leave (R333 to R335): its barriers, mutexes and event lines, the waiters they answer, the packets they
send to other units. -/

namespace Sys2Proof.Machine

/-- The unit has answered the slots with v and sent these payloads, and no other thread has changed. -/
structure State.Answers (s u : State) (slots : List Nat) (v : Word) (sent : List Payload) : Prop where
  threads : ∀ x, u.thread? x = if x ∈ slots then (s.thread? x).map (·.answered v) else s.thread? x
  packets : ∃ ps, u.packets = s.packets ++ ps ∧ ps.map (·.payload) = sent
  cycle : u.cycle = s.cycle
  latch : u.latch = s.latch

section
variable {s u : State} {slots : List Nat} {v : Word} {sent : List Payload}

theorem State.Answers.released (h : s.Answers u slots v sent) (x : Nat) (y : Thread) (hx : x ∈ slots) (hy : s.thread? x = some y) :
    u.thread? x = some (y.answered v) := by
  rw [h.threads, if_pos hx, hy]
  rfl

theorem State.Answers.untouched (h : s.Answers u slots v sent) {x : Nat} (hx : x ∉ slots) : u.thread? x = s.thread? x := by
  rw [h.threads, if_neg hx]

theorem State.answers_answerAll (s : State) (hn : slots.Nodup) (v : Word) : s.Answers (s.answerAll slots v) slots v [] :=
  have hs := s.sameButThreads_answerAll slots v
  ⟨s.thread?_answerAll hn v, ⟨[], hs.packets.trans (List.append_nil _).symm, rfl⟩, hs.cycle, hs.latch⟩

theorem State.Answers.sends {w : State} {l : List Payload} (h : s.Answers u slots v []) (hs : u.Sends w l) : s.Answers w slots v l := by
  obtain ⟨ps, hps, hnil⟩ := h.packets
  obtain ⟨qs, hqs, hl⟩ := hs.packets
  rw [List.map_eq_nil_iff.1 hnil, List.append_nil] at hps
  exact ⟨fun x => (hs.thread? x).trans (h.threads x), ⟨qs, hps ▸ hqs, hl⟩, hs.cycle.trans h.cycle, hs.latch.trans h.latch⟩
end

/-! Barriers (R332, R333) -/

theorem Barrier.n_eq (b : Barrier) : b.n = b.cfg.toNat % 2 ^ 16 := by
  rw [Barrier.n, toNat_extractLsb', Nat.pow_zero, Nat.div_one]

/-- The phase that follows a barrier's. -/
def Barrier.nextPhase (b : Barrier) : Nat := (b.phase + 1) % 2 ^ 32

/-- The slots that the barrier's firing releases: the waiters of its phase. -/
def Barrier.released (b : Barrier) : List Nat := (b.waiters.filter (·.phase == b.phase)).map (·.slot)

/-- The releases that its firing sends to the children whose arrivals counted in its phase. -/
def Barrier.releases (b : Barrier) : List Payload :=
  (b.children.filter (·.2.2 == b.phase)).map fun k => .parentRelease k.1 k.2.1

/-- The barrier once it has fired. -/
def Barrier.fired (b : Barrier) : Barrier :=
  { b with
    phase := b.nextPhase, count := b.early, early := 0, closing := false
    waiters := b.waiters.filter (·.phase != b.phase), children := b.children.filter (·.2.2 != b.phase) }

theorem Barrier.nodup_released {b : Barrier} (h : (b.waiters.map (·.slot)).Nodup) : b.released.Nodup :=
  (List.filter_sublist.map _).nodup h

theorem Barrier.mem_waiters_of_released {b : Barrier} {x : Nat} (hx : x ∈ b.released) : x ∈ b.waiters.map (·.slot) :=
  (List.filter_sublist.map _).subset hx

section
variable {s : State} {cl i : Nat} {b : Barrier} (hb : (s.cluster cl).barrier i = b)
include hb

theorem State.fireBarrier_answers (hn : b.released.Nodup) :
    ((s.fireBarrier cl i).cluster cl).barrier i = b.fired ∧
      s.Answers (s.fireBarrier cl i) b.released (BitVec.ofNat 64 b.nextPhase) b.releases := by
  subst hb
  have hans := State.answers_answerAll (s.setBarrier cl i ((s.cluster cl).barrier i).fired) hn
    (BitVec.ofNat 64 ((s.cluster cl).barrier i).nextPhase)
  have hsame := State.sameButThreads_answerAll (s.setBarrier cl i ((s.cluster cl).barrier i).fired)
    ((s.cluster cl).barrier i).released (BitVec.ofNat 64 ((s.cluster cl).barrier i).nextPhase)
  have hsends := State.sends_foldl_send (epBelay cl) (fun k : Nat × Nat × Nat => epBelay k.1) (fun k => .parentRelease k.1 k.2.1)
    (((s.cluster cl).barrier i).children.filter (·.2.2 == ((s.cluster cl).barrier i).phase))
    ((s.setBarrier cl i ((s.cluster cl).barrier i).fired).answerAll ((s.cluster cl).barrier i).released
      (BitVec.ofNat 64 ((s.cluster cl).barrier i).nextPhase))
  obtain ⟨hthreads, hpackets, hcycle, hlatch⟩ := hans.sends hsends
  refine ⟨?_, ⟨hthreads, hpackets, hcycle, hlatch⟩⟩
  exact (congrArg (·.barrier i) ((hsends.cluster cl).trans (hsame.cluster cl))).trans (s.barrier_setBarrier cl i _)

/-- Short of its number of arrivals a barrier stays as it is. -/
theorem State.settleBarrier_below (h : b.count < b.n) : s.settleBarrier cl i = s := by
  rw [State.settleBarrier, hb]
  exact if_pos (.inr (.inr h))

/-- A barrier with no parent fires at its last arrival. -/
theorem State.settleBarrier_fires (hc : b.closing = false) (hn : b.n = b.count) (h0 : 0 < b.count) (hup : b.cfg.getLsbD 41 = false) :
    s.settleBarrier cl i = s.fireBarrier cl i := by
  have hreached : ¬(b.n = 0 ∨ b.closing = true ∨ b.count < b.n) := by
    rw [hc, hn]
    rintro (hz | hz | hz)
    · omega
    · cases hz
    · omega
  rw [State.settleBarrier, hb]
  dsimp only
  rw [if_neg hreached, hup, if_neg Bool.false_ne_true]

/-- A barrier with a parent closes at its last arrival and sends one arrival there. -/
theorem State.settleBarrier_closes (hc : b.closing = false) (hn : b.n = b.count) (h0 : 0 < b.count) (hup : b.cfg.getLsbD 41 = true) :
    ((s.settleBarrier cl i).cluster cl).barrier i = { b with closing := true } ∧
      ∃ q tn, (s.settleBarrier cl i).packets = s.packets ++ [q] ∧ q.payload =
        .childArrival tn (cl / 16 * 16 + b.cfg.toNat / 2 ^ 32 % 2 ^ 4) (b.cfg.toNat / 2 ^ 36 % 2 ^ 5) cl i := by
  have hreached : ¬(b.n = 0 ∨ b.closing = true ∨ b.count < b.n) := by
    rw [hc, hn]
    rintro (hz | hz | hz)
    · omega
    · cases hz
    · omega
  rw [State.settleBarrier, hb]
  dsimp only
  rw [if_neg hreached, if_pos hup, toNat_extractLsb', toNat_extractLsb']
  have hsends := State.sends_send (s.setBarrier cl i { b with closing := true }) false (epBelay cl)
    (epBelay (cl / 16 * 16 + b.cfg.toNat / 2 ^ 32 % 2 ^ 4))
    (.childArrival (((s.tenants.find? fun t => t.2.clusters.getLsbD cl).map (·.1)).getD 0)
      (cl / 16 * 16 + b.cfg.toNat / 2 ^ 32 % 2 ^ 4) (b.cfg.toNat / 2 ^ 36 % 2 ^ 5) cl i)
  obtain ⟨ps, hps, hpayload⟩ := hsends.packets
  obtain ⟨q, rfl, hq⟩ := List.map_eq_singleton_iff.1 hpayload
  exact ⟨(congrArg (·.barrier i) (hsends.cluster cl)).trans (s.barrier_setBarrier cl i _), q, _, hps, hq⟩
end

/-- A barrier with an arrival of a slot counted in its phase; one that waits is among its waiters. -/
def Barrier.arrived (b : Barrier) (slot : Nat) (wait : Bool) : Barrier :=
  { b with count := b.count + 1, waiters := if wait then b.waiters ++ [⟨slot, b.phase⟩] else b.waiters }

/-- The thread whose arrival counts in a phase (R336). -/
def Thread.inPhase (t : Thread) (phase : Nat) : Thread := { t with pend := t.pend.map fun q => { q with phase := phase } }

section
variable (b : Barrier) (slot : Nat)

theorem Barrier.released_arrived (wait : Bool) : (b.arrived slot wait).released = b.released ++ if wait then [slot] else [] := by
  cases wait <;> simp [Barrier.released, Barrier.arrived]

theorem Barrier.fired_arrived (wait : Bool) (h : b.early = 0) (hc : b.closing = false) : (b.arrived slot wait).fired =
    { b with phase := b.nextPhase, count := 0, early := 0, waiters := b.waiters.filter (·.phase != b.phase)
             children := b.children.filter (·.2.2 != b.phase) } := by
  cases wait <;> simp [Barrier.fired, Barrier.arrived, Barrier.nextPhase, h, hc]
end

/-- An arrival at a barrier that is not closed: it counts in the phase, and the barrier settles (R333). -/
theorem State.barrierArrive_open {s : State} {slot i : Nat} {t : Thread} {b : Barrier} (ht : s.thread? slot = some t)
    (hb : (s.cluster (clusterOf (coreOf slot))).barrier i = b) (hc : b.closing = false) (wait : Bool) :
    s.barrierArrive slot i wait =
      (((s.setBarrier (clusterOf (coreOf slot)) i (b.arrived slot wait)).setThread slot (t.inPhase b.phase)).settleBarrier
        (clusterOf (coreOf slot)) i, if wait then none else some (BitVec.ofNat 64 b.phase)) := by
  have ht1 : (s.setBarrier (clusterOf (coreOf slot)) i (b.arrived slot wait)).thread? slot = some t := ht
  have hphase : b.arrivalPhase = b.phase := by rw [Barrier.arrivalPhase, hc]; rfl
  have hcounted : { b.counted with waiters := if wait then b.waiters ++ [⟨slot, b.phase⟩] else b.waiters } = b.arrived slot wait := by
    simp [Barrier.counted, Barrier.arrived, hc]
  rw [State.barrierArrive, hb]
  dsimp only
  rw [hphase, hcounted, State.modThread_of_thread ht1]
  rfl

/-! Mutexes (R334) -/

section
variable {s : State} {slot i : Nat} {m : Mutex} (hm : (s.cluster (clusterOf (coreOf slot))).mutex i = m)
include hm

theorem State.mutexAcquire_free (ho : m.owner = none) : s.mutexAcquire slot i =
    (s.setMutex (clusterOf (coreOf slot)) i { m with owner := some slot, abandoned := false }, some 1) := by
  rw [State.mutexAcquire, hm, ho]

theorem State.mutexAcquire_own (ho : m.owner = some slot) : s.mutexAcquire slot i = (s, some 2) := by
  rw [State.mutexAcquire, hm, ho]
  exact if_pos rfl

theorem State.mutexAcquire_taken {o : Nat} (ho : m.owner = some o) (hne : o ≠ slot) : s.mutexAcquire slot i =
    (s.setMutex (clusterOf (coreOf slot)) i { m with waiters := m.waiters ++ [slot] }, none) := by
  rw [State.mutexAcquire, hm, ho]
  exact if_neg hne

theorem State.mutexTry_free (ho : m.owner = none) : s.mutexTry slot i =
    (s.setMutex (clusterOf (coreOf slot)) i { m with owner := some slot, abandoned := false }, some 1) := by
  rw [State.mutexTry, hm, ho]

theorem State.mutexTry_taken {o : Nat} (ho : m.owner = some o) : s.mutexTry slot i = (s, some 0) := by
  rw [State.mutexTry, hm, ho]
end

/-- The mutex that its owner releases: its oldest waiter's, or free. -/
def Mutex.passed (m : Mutex) : Mutex := { owner := m.waiters.head?, abandoned := false, waiters := m.waiters.tail }

theorem Mutex.passed_of_none {m : Mutex} (h : m.waiters = []) : m.passed = { owner := none, abandoned := false, waiters := [] } := by
  rw [Mutex.passed, h]
  rfl

theorem Mutex.passed_of_waiters {m : Mutex} {w : Nat} {rest : List Nat} (h : m.waiters = w :: rest) :
    m.passed = { owner := some w, abandoned := false, waiters := rest } := by
  rw [Mutex.passed, h]
  rfl

theorem State.mutexRelease_own {s : State} {slot i : Nat} {m : Mutex} (hm : (s.cluster (clusterOf (coreOf slot))).mutex i = m)
    (ho : m.owner = some slot) : ∃ u, s.mutexRelease slot i = (u, true) ∧
      (u.cluster (clusterOf (coreOf slot))).mutex i = m.passed ∧ s.Answers u (m.waiters.take 1) 1 [] := by
  refine ⟨s.mutexPass (clusterOf (coreOf slot)) i false, ?_, ?_⟩
  · rw [State.mutexRelease]
    rw [hm, if_pos ho]
  · rw [State.mutexPass, hm]
    cases hw : m.waiters with
    | nil =>
      obtain ⟨hthreads, hpackets, hcycle, hlatch⟩ := State.answers_answerAll s List.nodup_nil 1
      exact ⟨by rw [State.mutex_setMutex, Mutex.passed, hw]; rfl, hthreads, hpackets, hcycle, hlatch⟩
    | cons w rest =>
      let s1 := s.setMutex (clusterOf (coreOf slot)) i { owner := some w, abandoned := false, waiters := rest }
      obtain ⟨hthreads, hpackets, hcycle, hlatch⟩ := s1.answers_answerAll (List.nodup_singleton w) 1
      refine ⟨?_, hthreads, hpackets, hcycle, hlatch⟩
      refine (congrArg (·.mutex i) ((s1.sameButThreads_answer w 1).cluster _)).trans ?_
      rw [State.mutex_setMutex, Mutex.passed, hw]
      rfl

/-! Event lines (R335) -/

section
variable {s : State} {slot i : Nat} {e : EventLine} (he : (s.cluster (clusterOf (coreOf slot))).eventLine i = e)
include he

theorem State.eventWait_set (hs : e.set = true) : s.eventWait slot i =
    (s.setEvent (clusterOf (coreOf slot)) i { e with set := !e.cfg.getLsbD 0 }, some e.value) := by
  rw [State.eventWait, he]
  exact if_pos hs

theorem State.eventWait_clear (hs : e.set = false) : s.eventWait slot i =
    (s.setEvent (clusterOf (coreOf slot)) i { e with waiters := e.waiters ++ [slot] }, none) := by
  rw [State.eventWait, he]
  exact if_neg (by simp [hs])
end

/-- The slots that a set of the line releases: with auto its oldest waiter, else all. -/
def EventLine.released (e : EventLine) : List Nat := if e.cfg.getLsbD 0 then e.waiters.take 1 else e.waiters

/-- The line after a set: with auto and a waiter, clear; else set. -/
def EventLine.afterSet (e : EventLine) (v : Word) : EventLine :=
  { e with
    value := v, set := !e.cfg.getLsbD 0 || e.waiters.isEmpty
    waiters := if e.cfg.getLsbD 0 then e.waiters.tail else [] }

/-- What a set of the line sends on. -/
def EventLine.forwards (e : EventLine) (cl : Nat) (v : Word) : List Payload :=
  if e.cfg.getLsbD 1 then
    [.forwardedSet (cl / 16 * 16 + e.cfg.toNat / 2 ^ 4 % 2 ^ 4) (e.cfg.toNat / 2 ^ 8 % 2 ^ 6) v] else []

section
variable {e : EventLine} (v : Word)

theorem EventLine.released_all (h : e.cfg.getLsbD 0 = false) : e.released = e.waiters := by
  rw [EventLine.released, h]
  rfl

theorem EventLine.afterSet_all (h : e.cfg.getLsbD 0 = false) :
    e.afterSet v = { e with set := true, value := v, waiters := [] } := by
  rw [EventLine.afterSet, h]
  rfl

theorem EventLine.afterSet_idle (h : e.waiters = []) : e.afterSet v = { e with set := true, value := v } := by
  simp [EventLine.afterSet, h]

theorem EventLine.released_oldest {w : Nat} {rest : List Nat} (h : e.cfg.getLsbD 0 = true) (hw : e.waiters = w :: rest) :
    e.released = [w] := by
  rw [EventLine.released, h, hw]
  rfl

theorem EventLine.afterSet_oldest {w : Nat} {rest : List Nat} (h : e.cfg.getLsbD 0 = true) (hw : e.waiters = w :: rest) :
    e.afterSet v = { e with set := false, value := v, waiters := rest } := by
  rw [EventLine.afterSet, h, hw]
  rfl

/-- A line with no fwd sends nothing. -/
theorem EventLine.packets_of_forwards_none {cl : Nat} {ps : List Packet} (h : e.cfg.getLsbD 1 = false)
    (hps : ps.map (·.payload) = e.forwards cl v) : ps = [] := by
  rw [EventLine.forwards, h, if_neg Bool.false_ne_true, List.map_eq_nil_iff] at hps
  exact hps

theorem EventLine.packets_of_forwards {cl : Nat} {ps : List Packet} (h : e.cfg.getLsbD 1 = true)
    (hps : ps.map (·.payload) = e.forwards cl v) : ∃ q, ps = [q] ∧ q.payload =
      .forwardedSet (cl / 16 * 16 + e.cfg.toNat / 2 ^ 4 % 2 ^ 4) (e.cfg.toNat / 2 ^ 8 % 2 ^ 6) v := by
  rw [EventLine.forwards, if_pos h] at hps
  obtain ⟨q, rfl, hq⟩ := List.map_eq_singleton_iff.1 hps
  exact ⟨q, rfl, hq⟩
end

theorem EventLine.nodup_released {e : EventLine} (h : e.waiters.Nodup) : e.released.Nodup := by
  unfold EventLine.released
  split
  · exact (List.take_sublist 1 _).nodup h
  · exact h

theorem EventLine.mem_waiters_of_released {e : EventLine} {x : Nat} (hx : x ∈ e.released) : x ∈ e.waiters := by
  unfold EventLine.released at hx
  split at hx
  · exact List.mem_of_mem_take hx
  · exact hx

/-- A set of the line, with the answers to the waiters that it releases; with fwd it goes on to another unit. -/
theorem State.eventSet_eq {s : State} {cl i : Nat} {e : EventLine} (he : (s.cluster cl).eventLine i = e) (v : Word) :
    s.eventSet cl i v =
      let s1 := (s.setEvent cl i (e.afterSet v)).answerAll e.released v
      if e.cfg.getLsbD 1 then
        let dst := cl / 16 * 16 + (e.cfg.extractLsb' 4 4).toNat
        s1.send false (epBelay cl) (epBelay dst) (.forwardedSet dst (e.cfg.extractLsb' 8 6).toNat v)
      else s1 := by
  unfold State.eventSet EventLine.afterSet EventLine.released
  rw [he]
  obtain ⟨cfg, set, value, waiters⟩ := e
  cases hauto : cfg.getLsbD 0 with
  | false => simp only [hauto, Bool.false_eq_true, if_false, Bool.not_false, Bool.true_or]
  | true => cases waiters <;> simp only [hauto, if_true] <;> rfl

theorem State.eventSet_answers {s : State} {cl i : Nat} {e : EventLine} (he : (s.cluster cl).eventLine i = e)
    (hn : e.waiters.Nodup) (v : Word) :
    ((s.eventSet cl i v).cluster cl).eventLine i = e.afterSet v ∧ s.Answers (s.eventSet cl i v) e.released v (e.forwards cl v) := by
  let s1 := (s.setEvent cl i (e.afterSet v)).answerAll e.released v
  have hans : s.Answers s1 e.released v [] := by
    obtain ⟨hthreads, hpackets, hcycle, hlatch⟩ := State.answers_answerAll (s.setEvent cl i (e.afterSet v)) (e.nodup_released hn) v
    exact ⟨hthreads, hpackets, hcycle, hlatch⟩
  have hline : (s1.cluster cl).eventLine i = e.afterSet v :=
    (congrArg (·.eventLine i) ((State.sameButThreads_answerAll _ _ _).cluster cl)).trans (s.eventLine_setEvent cl i _)
  rw [State.eventSet_eq he, toNat_extractLsb', toNat_extractLsb']
  unfold EventLine.forwards
  dsimp only
  split
  · have hsends := s1.sends_send false (epBelay cl) (epBelay (cl / 16 * 16 + e.cfg.toNat / 2 ^ 4 % 2 ^ 4))
      (.forwardedSet (cl / 16 * 16 + e.cfg.toNat / 2 ^ 4 % 2 ^ 4) (e.cfg.toNat / 2 ^ 8 % 2 ^ 6) v)
    exact ⟨(congrArg (·.eventLine i) (hsends.cluster cl)).trans hline, hans.sends hsends⟩
  · exact ⟨hline, hans⟩

end Sys2Proof.Machine
end

section
/-! The belay unit's steps for a thread's request (R331): where the unit answers it, the instruction ends with the reply. -/

namespace Sys2Proof.Machine

theorem State.answers_self (s : State) (v : Word) : s.Answers s [] v [] :=
  ⟨fun _ => rfl, ⟨[], (List.append_nil _).symm, rfl⟩, rfl, rfl⟩

theorem State.answers_setCluster (s : State) (cl : Nat) (c : Cluster) (v : Word) : s.Answers (s.setCluster cl c) [] v [] :=
  ⟨fun _ => rfl, ⟨[], (List.append_nil _).symm, rfl⟩, rfl, rfl⟩

/-- The slot's thread ends its instruction with its unit's reply in this cycle. -/
structure State.Replies (s : State) (slot : Nat) (t : Thread) (p : Pend) : Prop where
  thread : s.thread? slot = some t
  awaits : t.Awaits p
  punctual : t.late s.cycle = false
  latch : s.latch.replay = 0

/-- The slot has asked this of its unit, which has not acted yet. -/
structure State.Asks (s : State) (slot : Nat) (t : Thread) (p : Pend) (r : BelayOp × Option Word) : Prop
    extends s.Replies slot t p where
  unqueued : s.belayQueued slot = false
  asked : s.belayAsked slot = some r

theorem State.asks_between {s : State} {slot : Nat} {t : Thread} {p : Pend} {r : BelayOp × Option Word}
    (ht : s.thread? slot = some t) (hp : t.pend = some p) (hports : t.ports = []) (hkeys : p.keys = [0]) (hpops : p.pops = [])
    (hlate : s.replyLate slot = false) (ha : s.belayAsked slot = some r) : s.between.Asks slot t p r := by
  obtain ⟨hawaits, hqueue⟩ := State.awaits_of_belayAsked ht hp hports hkeys hpops ha
  exact ⟨⟨ht, hawaits, (State.replyLate_of_thread ht).symm.trans hlate, rfl⟩, hqueue, ha⟩

/-- The instruction of t ended with the words ws, the slots were answered with v. -/
structure State.Ends (s u w : State) (slot : Nat) (t : Thread) (p : Pend) (ws : List Word) (slots : List Nat) (v : Word) : Prop where
  thread : w.thread? slot = some (((t.setXs p.rd ws).retired p.npc).marked s.cycle [])
  released : ∀ x y, x ∈ slots → s.thread? x = some y → w.thread? x = some (y.answered v)
  clusters : w.clusters = u.clusters
  packets : w.packets = u.packets

theorem State.Ends.cluster {s u w : State} {slot : Nat} {t : Thread} {p : Pend} {ws : List Word} {slots : List Nat} {v : Word}
    (h : s.Ends u w slot t p ws slots v) (cl : Nat) : w.cluster cl = u.cluster cl :=
  congrArg (fun c : AMap Cluster => amGetD c cl {}) h.clusters

/-- The reply of a unit that has answered others. -/
theorem State.Replies.ends {s u : State} {slot : Nat} {t : Thread} {p : Pend} {slots : List Nat} {v : Word} {sent : List Payload}
    (h : s.Replies slot t p) (hu : s.Answers u slots v sent) (hslot : slot ∉ slots) (a : Word) :
    s.Ends u (u.belayReply slot (.ok a)) slot t p (p.asm.result [a]) slots v := by
  have ht : u.thread? slot = some t := (hu.untouched hslot).trans h.thread
  have hl : u.latch.replay = 0 := (congrArg Latch.replay hu.latch).trans h.latch
  rw [h.awaits.belayReply ht hl (hu.cycle ▸ h.punctual), hu.cycle]
  refine ⟨State.thread?_setThread_self .., fun x y hx hy => ?_, rfl, rfl⟩
  have hne : slot ≠ x := fun he => hslot (he ▸ hx)
  refine (State.thread?_setThread ..).trans ?_
  rw [if_neg hne]
  exact hu.released x y hx hy

/-- An access of the whole word gives the word. -/
theorem Asm.result_word (v : Word) : (Asm.scalar 8 0 false).result [v] = [v] := by
  simp [Asm.result, scalarOf]

/-! A load's act -/

section
variable {s u : State} {slot : Nat} {t : Thread} {p : Pend} {op : BelayOp} {o : Option Word}

theorem State.belayAct_eq (h : s.belayAsked slot = some (op, none))
    (hwait : ∀ i, op = .barWait i → s.arrivalOk slot i = true) (harrive : ∀ i, op = .barArrive i → s.arrivalOk slot i = true)
    (hload : s.belayLoad slot op = (u, o)) :
    s.belayAct slot op = o.elim u fun v => u.belayReply slot (.ok v) := by
  unfold State.belayAct
  rw [if_neg (not_not.2 h), hload]
  cases op with
  | barWait i => simp only [hwait i rfl]; cases o <;> rfl
  | barArrive i => simp only [harrive i rfl]; cases o <;> rfl
  | _ => cases o <;> rfl
end

/-! Arrivals at a barrier that is not closed (R332, R333) -/

section
variable {s : State} {slot idx : Nat} {t : Thread} {b : Barrier}

/-- The unit with an arrival counted, before its barrier settles. -/
def State.withArrival (s : State) (slot idx : Nat) (t : Thread) (b : Barrier) (wait : Bool) : State :=
  (s.setBarrier (clusterOf (coreOf slot)) idx (b.arrived slot wait)).setThread slot (t.inPhase b.phase)

@[simp] theorem State.barrier_withArrival (wait : Bool) :
    ((s.withArrival slot idx t b wait).cluster (clusterOf (coreOf slot))).barrier idx = b.arrived slot wait :=
  s.barrier_setBarrier ..

theorem State.thread?_withArrival (wait : Bool) {x : Nat} (hne : slot ≠ x) :
    (s.withArrival slot idx t b wait).thread? x = s.thread? x :=
  (State.thread?_setThread ..).trans (if_neg hne)

/-- What the last arrival at a barrier with no parent leaves: the barrier has fired, its waiters are answered with its new phase, its
children released. -/
structure State.Fired (s u : State) (slot idx : Nat) (b : Barrier) : Prop where
  released : ∀ x y, x ∈ b.released → s.thread? x = some y → u.thread? x = some (y.answered (BitVec.ofNat 64 b.nextPhase))
  barrier : (u.cluster (clusterOf (coreOf slot))).barrier idx =
    { b with phase := b.nextPhase, count := 0, early := 0, waiters := b.waiters.filter (·.phase != b.phase)
             children := b.children.filter (·.2.2 != b.phase) }
  packets : ∃ ps, u.packets = s.packets ++ ps ∧ ps.map (·.payload) = b.releases

section
variable {p : Pend} {r : BelayOp × Option Word} (h : s.Asks slot t p r)
  (hb : (s.cluster (clusterOf (coreOf slot))).barrier idx = b)
include h hb

theorem State.Asks.notMem_released : slot ∉ b.released := fun hm =>
  State.slot_notMem_barrier h.unqueued idx (hb.symm ▸ Barrier.mem_waiters_of_released hm)

variable (hc : b.closing = false) (wait : Bool)
include hc

theorem State.Asks.barrierArrive_below (hn : b.count + 1 < b.cfg.toNat % 2 ^ 16) :
    s.barrierArrive slot idx wait =
      (s.withArrival slot idx t b wait, if wait then none else some (BitVec.ofNat 64 b.phase)) := by
  have hbelow : (b.arrived slot wait).count < (b.arrived slot wait).n := by
    rw [Barrier.n_eq]
    exact hn
  rw [State.barrierArrive_open h.thread hb hc]
  exact congrArg (·, _) (State.settleBarrier_below (State.barrier_withArrival wait) hbelow)

theorem State.Asks.barrierArrive_last (hn : b.count + 1 = b.cfg.toNat % 2 ^ 16) (hup : b.cfg.getLsbD 41 = false)
    (hearly : b.early = 0) (hnodup : (b.waiters.map (·.slot)).Nodup) :
    ∃ u, s.barrierArrive slot idx wait = (u, if wait then none else some (BitVec.ofNat 64 b.phase)) ∧ s.Fired u slot idx b ∧
      (s.withArrival slot idx t b wait).Answers u (b.released ++ if wait then [slot] else [])
        (BitVec.ofNat 64 b.nextPhase) b.releases := by
  let s1 := s.withArrival slot idx t b wait
  have hnot := h.notMem_released hb
  have hs1 : (s1.cluster (clusterOf (coreOf slot))).barrier idx = b.arrived slot wait := State.barrier_withArrival wait
  have hn1 : (b.arrived slot wait).n = (b.arrived slot wait).count := (Barrier.n_eq _).trans hn.symm
  have hnodup1 : (b.arrived slot wait).released.Nodup := by
    rw [Barrier.released_arrived]
    cases wait
    · simpa using Barrier.nodup_released hnodup
    · exact List.nodup_append.2 ⟨Barrier.nodup_released hnodup, List.nodup_singleton _, fun x hx y hy he =>
        hnot (List.mem_singleton.1 hy ▸ he ▸ hx)⟩
  obtain ⟨hfired, hans⟩ := State.fireBarrier_answers hs1 hnodup1
  rw [Barrier.released_arrived] at hans
  refine ⟨s1.fireBarrier (clusterOf (coreOf slot)) idx, ?_, ⟨fun x y hx hy => ?_, ?_, hans.packets⟩, hans⟩
  · rw [State.barrierArrive_open h.thread hb hc]
    exact congrArg (·, _) (State.settleBarrier_fires hs1 hc hn1 (Nat.succ_pos _) hup)
  · exact hans.released x y (List.mem_append_left _ hx)
      ((State.thread?_withArrival wait (ne_of_mem_of_not_mem hx hnot).symm).trans hy)
  · exact hfired.trans (b.fired_arrived slot wait hearly hc)

theorem State.Asks.barrierArrive_closes (hn : b.count + 1 = b.cfg.toNat % 2 ^ 16) (hup : b.cfg.getLsbD 41 = true) :
    ∃ u, s.barrierArrive slot idx wait = (u, if wait then none else some (BitVec.ofNat 64 b.phase)) ∧
      (u.cluster (clusterOf (coreOf slot))).barrier idx = { b.arrived slot wait with closing := true } ∧
      ∃ q tn, u.packets = s.packets ++ [q] ∧ q.payload = .childArrival tn
        (clusterOf (coreOf slot) / 16 * 16 + b.cfg.toNat / 2 ^ 32 % 2 ^ 4) (b.cfg.toNat / 2 ^ 36 % 2 ^ 5)
        (clusterOf (coreOf slot)) idx := by
  have hs1 : ((s.withArrival slot idx t b wait).cluster (clusterOf (coreOf slot))).barrier idx = b.arrived slot wait :=
    State.barrier_withArrival wait
  have hn1 : (b.arrived slot wait).n = (b.arrived slot wait).count := (Barrier.n_eq _).trans hn.symm
  obtain ⟨hbarrier, hpackets⟩ := State.settleBarrier_closes hs1 hc hn1 (Nat.succ_pos _) hup
  exact ⟨_, State.barrierArrive_open h.thread hb hc wait, hbarrier, hpackets⟩
end

/-- The phase of an arrival (R336) is a field of its request alone. -/
theorem State.Replies.withArrival {p : Pend} (h : s.Replies slot t p) (wait : Bool) :
    (s.withArrival slot idx t b wait).Replies slot (t.inPhase b.phase) { p with phase := b.phase } := by
  obtain ⟨hthread, ⟨hpend, hports, hkeys, hpops, hmode, hsound, hfresh⟩, hpunctual, hlatch⟩ := h
  have hpend1 : (t.inPhase b.phase).pend = some { p with phase := b.phase } := by rw [Thread.inPhase, hpend]; rfl
  refine ⟨State.thread?_setThread_self .., ⟨hpend1, hports, hkeys, hpops, hmode, hsound, hfresh⟩, ?_, hlatch⟩
  rw [← hpunctual, Thread.late, Thread.late, Thread.inPhase, hpend]
  rfl

theorem Thread.retired_setXs_inPhase (t : Thread) (phase n : Nat) (ws : List Word) (pc : Word) :
    ((t.inPhase phase).setXs n ws).retired pc = (t.setXs n ws).retired pc := by
  have hset (x : Thread) (m : Nat) (w : Word) : (x.inPhase phase).setX m w = (x.setX m w).inPhase phase := by
    unfold Thread.setX
    split <;> rfl
  have h (l : List Word) (x : Thread) (m : Nat) : (x.inPhase phase).setXs m l = (x.setXs m l).inPhase phase := by
    induction l generalizing x m with
    | nil => rfl
    | cons w l ih => rw [Thread.setXs, hset, ih]; rfl
  rw [h]
  rfl
end

/-! A store's act -/

section
variable {s : State} {slot : Nat} {t : Thread} {p : Pend} {op : BelayOp} {v : Word} (h : s.Asks slot t p (op, some v))
  (hopt : isOpt (coreOf slot) = false) (honly : ∀ x ∈ s.threads, x.1 ≠ slot → s.belayAsked x.1 = none)
include h hopt honly

/-- The unit acts on the one store that asks it. -/
theorem State.Asks.belayPut : s.belayPut (clusterOf (coreOf slot)) op v = (s.belayStore slot v op).1.belayReply slot (.ok 0) := by
  obtain ⟨t1, ht1⟩ := find?_of_key (m := s.threads) (f := fun x => clusterOf (coreOf x.1) == clusterOf (coreOf slot) &&
    !isOpt (coreOf x.1) && decide (s.belayAsked x.1 = some (op, some v))) h.thread (by simp [hopt, h.asked])
    fun x hx hne => by simp [honly x hx hne]
  rw [State.belayPut, ht1]
end

end Sys2Proof.Machine
end

section
/-! The belay unit's steps (R331 to R335), each from the state in which the unit is asked. -/

namespace Sys2Proof.Machine

/-- The thread whose load of the belay window ended with the word in the cycle. -/
def Thread.loaded (t : Thread) (p : Pend) (a : Word) (cycle : Nat) : Thread := ((t.setX p.rd a).retired p.npc).marked cycle []

/-- The thread whose store to the belay window ended in the cycle. -/
def Thread.stored (t : Thread) (p : Pend) (cycle : Nat) : Thread := (t.retired p.npc).marked cycle []

section
variable {s : State} {slot idx : Nat} {t : Thread} {p : Pend}

/-! Loads -/

section
variable {op : BelayOp} {u : State}

/-- A load, no arrival, that the unit answers. -/
theorem State.Asks.load_answered {a : Word} (ha : s.Asks slot t p (op, none)) (hasm : p.asm = .scalar 8 0 false)
    (hwait : ∀ i, op ≠ .barWait i) (harrive : ∀ i, op ≠ .barArrive i) (hload : s.belayLoad slot op = (u, some a))
    (hu : s.Answers u [] 0 []) :
    (s.belayAct slot op).clusters = u.clusters ∧ (s.belayAct slot op).thread? slot = some (t.loaded p a s.cycle) := by
  rw [State.belayAct_eq ha.asked (fun i hi => absurd hi (hwait i)) (fun i hi => absurd hi (harrive i)) hload]
  have hends := ha.toReplies.ends hu List.not_mem_nil a
  rw [hasm, Asm.result_word] at hends
  exact ⟨hends.clusters, hends.thread⟩

/-- A load, no arrival, that waits. -/
theorem State.Asks.load_waits (ha : s.Asks slot t p (op, none)) (hwait : ∀ i, op ≠ .barWait i) (harrive : ∀ i, op ≠ .barArrive i)
    (hload : s.belayLoad slot op = (u, none)) : s.belayAct slot op = u :=
  State.belayAct_eq ha.asked (fun i hi => absurd hi (hwait i)) (fun i hi => absurd hi (harrive i)) hload
end
end

theorem State.cluster_congr {s u : State} (h : s.clusters = u.clusters) (cl : Nat) : s.cluster cl = u.cluster cl :=
  congrArg (fun c : AMap Cluster => amGetD c cl {}) h

section
variable {s : State} {slot idx : Nat} {t : Thread} {p : Pend}

section
variable {b : Barrier} (hb : (s.cluster (clusterOf (coreOf slot))).barrier idx = b) (hok : s.arrivalOk slot idx = true)
  (hc : b.closing = false)
include hb hok hc

section
variable (ha : s.Asks slot t p (.barWait idx, none))
include ha

theorem State.Asks.barWait_below (hn : b.count + 1 < b.cfg.toNat % 2 ^ 16) :
    ((s.belayAct slot (.barWait idx)).cluster (clusterOf (coreOf slot))).barrier idx = b.arrived slot true := by
  rw [State.belayAct_eq ha.asked (fun i hi => BelayOp.barWait.inj hi ▸ hok) nofun (ha.barrierArrive_below hb hc true hn)]
  exact State.barrier_withArrival true

theorem State.Asks.barWait_last (hn : b.count + 1 = b.cfg.toNat % 2 ^ 16) (hup : b.cfg.getLsbD 41 = false) (hearly : b.early = 0)
    (hnodup : (b.waiters.map (·.slot)).Nodup) : s.Fired (s.belayAct slot (.barWait idx)) slot idx b ∧
      (s.belayAct slot (.barWait idx)).thread? slot = some ((t.inPhase b.phase).answered (BitVec.ofNat 64 b.nextPhase)) := by
  obtain ⟨u, hload, hfired, hans⟩ := ha.barrierArrive_last hb hc true hn hup hearly hnodup
  rw [State.belayAct_eq ha.asked (fun i hi => BelayOp.barWait.inj hi ▸ hok) nofun hload]
  exact ⟨hfired, hans.released _ _ (List.mem_append_right _ (List.mem_singleton_self _)) (State.thread?_setThread_self ..)⟩

theorem State.Asks.barWait_closes (hn : b.count + 1 = b.cfg.toNat % 2 ^ 16) (hup : b.cfg.getLsbD 41 = true) :
    ((s.belayAct slot (.barWait idx)).cluster (clusterOf (coreOf slot))).barrier idx = { b.arrived slot true with closing := true } ∧
      ∃ q tn, (s.belayAct slot (.barWait idx)).packets = s.packets ++ [q] ∧ q.payload = .childArrival tn
        (clusterOf (coreOf slot) / 16 * 16 + b.cfg.toNat / 2 ^ 32 % 2 ^ 4) (b.cfg.toNat / 2 ^ 36 % 2 ^ 5)
        (clusterOf (coreOf slot)) idx := by
  obtain ⟨u, hload, hcloses⟩ := ha.barrierArrive_closes hb hc true hn hup
  rw [State.belayAct_eq ha.asked (fun i hi => BelayOp.barWait.inj hi ▸ hok) nofun hload]
  exact hcloses
end

section
variable (ha : s.Asks slot t p (.barArrive idx, none)) (hasm : p.asm = .scalar 8 0 false)
include ha hasm

omit hb hc in
/-- An arrival that does not wait is answered with the phase that it counts in. -/
theorem State.Asks.barArrive_ends {u : State} {slots : List Nat} {v : Word} {sent : List Payload}
    (hload : s.barrierArrive slot idx false = (u, some (BitVec.ofNat 64 b.phase)))
    (hu : (s.withArrival slot idx t b false).Answers u slots v sent) (hslot : slot ∉ slots) :
    (s.belayAct slot (.barArrive idx)).thread? slot = some (t.loaded p (BitVec.ofNat 64 b.phase) s.cycle) ∧
      (∀ x y, x ∈ slots → s.thread? x = some y → (s.belayAct slot (.barArrive idx)).thread? x = some (y.answered v)) ∧
      (s.belayAct slot (.barArrive idx)).clusters = u.clusters ∧ (s.belayAct slot (.barArrive idx)).packets = u.packets := by
  rw [State.belayAct_eq ha.asked nofun (fun i hi => BelayOp.barArrive.inj hi ▸ hok) hload]
  have hasm1 : ({ p with phase := b.phase } : Pend).asm = .scalar 8 0 false := hasm
  obtain ⟨hthread, hreleased, hclusters, hpackets⟩ := (ha.toReplies.withArrival (idx := idx) (b := b) false).ends hu hslot
    (BitVec.ofNat 64 b.phase)
  rw [hasm1, Asm.result_word, Thread.retired_setXs_inPhase] at hthread
  exact ⟨hthread, fun x y hx hy => hreleased x y hx
    ((State.thread?_withArrival false (ne_of_mem_of_not_mem hx hslot).symm).trans hy), hclusters, hpackets⟩

theorem State.Asks.barArrive_below (hn : b.count + 1 < b.cfg.toNat % 2 ^ 16) :
    ((s.belayAct slot (.barArrive idx)).cluster (clusterOf (coreOf slot))).barrier idx = { b with count := b.count + 1 } ∧
      (s.belayAct slot (.barArrive idx)).thread? slot = some (t.loaded p (BitVec.ofNat 64 b.phase) s.cycle) := by
  obtain ⟨hthread, -, hclusters, -⟩ := ha.barArrive_ends hok hasm (ha.barrierArrive_below hb hc false hn) (State.answers_self _ 0)
    List.not_mem_nil
  exact ⟨(congrArg (·.barrier idx) (State.cluster_congr hclusters _)).trans (State.barrier_withArrival false), hthread⟩

theorem State.Asks.barArrive_last (hn : b.count + 1 = b.cfg.toNat % 2 ^ 16) (hup : b.cfg.getLsbD 41 = false) (hearly : b.early = 0)
    (hnodup : (b.waiters.map (·.slot)).Nodup) : s.Fired (s.belayAct slot (.barArrive idx)) slot idx b ∧
      (s.belayAct slot (.barArrive idx)).thread? slot = some (t.loaded p (BitVec.ofNat 64 b.phase) s.cycle) := by
  obtain ⟨u, hload, ⟨-, hbarrier, hpackets⟩, hans⟩ := ha.barrierArrive_last hb hc false hn hup hearly hnodup
  rw [if_neg Bool.false_ne_true, List.append_nil] at hans
  obtain ⟨hthread, hreleased, hclusters, hsame⟩ := ha.barArrive_ends hok hasm hload hans (ha.notMem_released hb)
  exact ⟨⟨hreleased, (congrArg (·.barrier idx) (State.cluster_congr hclusters _)).trans hbarrier, hsame ▸ hpackets⟩, hthread⟩
end
end

section
variable {m : Mutex} (hm : (s.cluster (clusterOf (coreOf slot))).mutex idx = m) (hasm : p.asm = .scalar 8 0 false)
include hm

section
variable (ha : s.Asks slot t p (.mutAcquire idx, none))
include ha

include hasm in
theorem State.Asks.mutAcquire_free (ho : m.owner = none) :
    ((s.belayAct slot (.mutAcquire idx)).cluster (clusterOf (coreOf slot))).mutex idx =
        { m with owner := some slot, abandoned := false } ∧
      (s.belayAct slot (.mutAcquire idx)).thread? slot = some (t.loaded p 1 s.cycle) := by
  obtain ⟨hclusters, hthread⟩ := ha.load_answered hasm nofun nofun (State.mutexAcquire_free hm ho) (s.answers_setCluster ..)
  exact ⟨(congrArg (·.mutex idx) (State.cluster_congr hclusters _)).trans (State.mutex_setMutex ..), hthread⟩

include hasm in
theorem State.Asks.mutAcquire_own (ho : m.owner = some slot) :
    ((s.belayAct slot (.mutAcquire idx)).cluster (clusterOf (coreOf slot))).mutex idx = m ∧
      (s.belayAct slot (.mutAcquire idx)).thread? slot = some (t.loaded p 2 s.cycle) := by
  obtain ⟨hclusters, hthread⟩ := ha.load_answered hasm nofun nofun (State.mutexAcquire_own hm ho) (s.answers_self 0)
  exact ⟨(congrArg (·.mutex idx) (State.cluster_congr hclusters _)).trans hm, hthread⟩

theorem State.Asks.mutAcquire_taken {o : Nat} (ho : m.owner = some o) (hne : o ≠ slot) :
    ((s.belayAct slot (.mutAcquire idx)).cluster (clusterOf (coreOf slot))).mutex idx = { m with waiters := m.waiters ++ [slot] } ∧
      (s.belayAct slot (.mutAcquire idx)).thread? slot = some t := by
  rw [ha.load_waits nofun nofun (State.mutexAcquire_taken hm ho hne)]
  exact ⟨State.mutex_setMutex .., ha.thread⟩
end

section
variable (ha : s.Asks slot t p (.mutTry idx, none))
include ha hasm

theorem State.Asks.mutTry_free (ho : m.owner = none) :
    ((s.belayAct slot (.mutTry idx)).cluster (clusterOf (coreOf slot))).mutex idx =
        { m with owner := some slot, abandoned := false } ∧
      (s.belayAct slot (.mutTry idx)).thread? slot = some (t.loaded p 1 s.cycle) := by
  obtain ⟨hclusters, hthread⟩ := ha.load_answered hasm nofun nofun (State.mutexTry_free hm ho) (s.answers_setCluster ..)
  exact ⟨(congrArg (·.mutex idx) (State.cluster_congr hclusters _)).trans (State.mutex_setMutex ..), hthread⟩

theorem State.Asks.mutTry_taken {o : Nat} (ho : m.owner = some o) :
    ((s.belayAct slot (.mutTry idx)).cluster (clusterOf (coreOf slot))).mutex idx = m ∧
      (s.belayAct slot (.mutTry idx)).thread? slot = some (t.loaded p 0 s.cycle) := by
  obtain ⟨hclusters, hthread⟩ := ha.load_answered hasm nofun nofun (State.mutexTry_taken hm ho) (s.answers_self 0)
  exact ⟨(congrArg (·.mutex idx) (State.cluster_congr hclusters _)).trans hm, hthread⟩
end
end

section
variable {e : EventLine} (he : (s.cluster (clusterOf (coreOf slot))).eventLine idx = e) (ha : s.Asks slot t p (.evWait idx, none))
include he ha

theorem State.Asks.evWait_set (hasm : p.asm = .scalar 8 0 false) (hset : e.set = true) :
    ((s.belayAct slot (.evWait idx)).cluster (clusterOf (coreOf slot))).eventLine idx = { e with set := !e.cfg.getLsbD 0 } ∧
      (s.belayAct slot (.evWait idx)).thread? slot = some (t.loaded p e.value s.cycle) := by
  obtain ⟨hclusters, hthread⟩ := ha.load_answered hasm nofun nofun (State.eventWait_set he hset) (s.answers_setCluster ..)
  exact ⟨(congrArg (·.eventLine idx) (State.cluster_congr hclusters _)).trans (State.eventLine_setEvent ..), hthread⟩

theorem State.Asks.evWait_clear (hset : e.set = false) :
    ((s.belayAct slot (.evWait idx)).cluster (clusterOf (coreOf slot))).eventLine idx = { e with waiters := e.waiters ++ [slot] } ∧
      (s.belayAct slot (.evWait idx)).thread? slot = some t := by
  rw [ha.load_waits nofun nofun (State.eventWait_clear he hset)]
  exact ⟨State.eventLine_setEvent .., ha.thread⟩
end
end

end Sys2Proof.Machine
end

section
/-! The belay unit's steps for a thread's store (R331), and for what comes from another unit (R333, R335). -/

namespace Sys2Proof.Machine

theorem State.barrierCfg_answers {s : State} {cl i : Nat} {b : Barrier} (hb : (s.cluster cl).barrier i = b)
    (hn : (b.waiters.map (·.slot)).Nodup) (v : Word) :
    ((s.barrierCfg cl i v).cluster cl).barrier i =
        { b with cfg := v &&& 0x3FF3FFFFFFF#64, count := 0, early := 0, closing := false, waiters := [] } ∧
      s.Answers (s.barrierCfg cl i v) (b.waiters.map (·.slot)) (BitVec.allOnes 64) [] := by
  subst hb
  obtain ⟨hthreads, hpackets, hcycle, hlatch⟩ := State.answers_answerAll (s.setBarrier cl i { (s.cluster cl).barrier i with
    cfg := v &&& 0x3FF3FFFFFFF#64, count := 0, early := 0, closing := false, waiters := [] }) hn (BitVec.allOnes 64)
  exact ⟨(congrArg (·.barrier i) ((State.sameButThreads_answerAll ..).cluster cl)).trans (s.barrier_setBarrier cl i _),
    hthreads, hpackets, hcycle, hlatch⟩

/-! Stores -/

section
variable {s : State} {slot idx : Nat} {t : Thread} {p : Pend} {v : Word} (hasm : p.asm = .none) (hopt : isOpt (coreOf slot) = false)
  (honly : ∀ x ∈ s.threads, x.1 ≠ slot → s.belayAsked x.1 = none)

section
include hasm

/-- A store that the unit acts on ends in the cycle. -/
theorem State.Asks.store_ends {r : BelayOp × Option Word} {u : State} {slots : List Nat} {w : Word} {sent : List Payload}
    (ha : s.Asks slot t p r) (hu : s.Answers u slots w sent) (hslot : slot ∉ slots) :
    s.Ends u (u.belayReply slot (.ok 0)) slot t p [] slots w := by
  have h := ha.toReplies.ends hu hslot 0
  rw [hasm] at h
  exact h
end

section
variable {b : Barrier} (hb : (s.cluster (clusterOf (coreOf slot))).barrier idx = b)
include hasm hopt honly hb

theorem State.Asks.barCfg (ha : s.Asks slot t p (.barCfg idx, some v)) (hn : (b.waiters.map (·.slot)).Nodup) :
    (∀ x y, x ∈ b.waiters.map (·.slot) → s.thread? x = some y →
        (s.belayPut (clusterOf (coreOf slot)) (.barCfg idx) v).thread? x = some (y.answered (BitVec.allOnes 64))) ∧
      ((s.belayPut (clusterOf (coreOf slot)) (.barCfg idx) v).cluster (clusterOf (coreOf slot))).barrier idx =
        { b with cfg := v &&& 0x3FF3FFFFFFF#64, count := 0, early := 0, closing := false, waiters := [] } ∧
      (s.belayPut (clusterOf (coreOf slot)) (.barCfg idx) v).thread? slot = some (t.stored p s.cycle) := by
  obtain ⟨hbarrier, hans⟩ := State.barrierCfg_answers hb hn v
  obtain ⟨hthread, hreleased, hclusters, -⟩ := ha.store_ends hasm hans (hb ▸ State.slot_notMem_barrier ha.unqueued idx)
  rw [ha.belayPut hopt honly]
  exact ⟨hreleased, (congrArg (·.barrier idx) (State.cluster_congr hclusters _)).trans hbarrier, hthread⟩
end

section
variable {m : Mutex} (hm : (s.cluster (clusterOf (coreOf slot))).mutex idx = m)
include hasm hm

theorem State.Asks.mutRelease (ha : s.Asks slot t p (.mutRelease idx, some v)) (ho : m.owner = some slot) :
    ∃ u, s.mutexRelease slot idx = (u, true) ∧
      (u.belayReply slot (.ok 0)).thread? slot = some (t.stored p s.cycle) ∧
      ((u.belayReply slot (.ok 0)).cluster (clusterOf (coreOf slot))).mutex idx = m.passed ∧
      ∀ x y, x ∈ m.waiters.take 1 → s.thread? x = some y → (u.belayReply slot (.ok 0)).thread? x = some (y.answered 1) := by
  obtain ⟨u, hrelease, hmutex, hans⟩ := State.mutexRelease_own hm ho
  obtain ⟨hthread, hreleased, hclusters, -⟩ := ha.store_ends hasm hans fun hslot =>
    State.slot_notMem_mutex ha.unqueued idx (hm.symm ▸ List.mem_of_mem_take hslot)
  exact ⟨u, hrelease, hthread, (congrArg (·.mutex idx) (State.cluster_congr hclusters _)).trans hmutex, hreleased⟩
end

section
variable {e : EventLine} (he : (s.cluster (clusterOf (coreOf slot))).eventLine idx = e)
include hasm hopt honly he

theorem State.Asks.evSet (ha : s.Asks slot t p (.evSet idx, some v)) (hn : e.waiters.Nodup) :
    (s.belayPut (clusterOf (coreOf slot)) (.evSet idx) v).thread? slot = some (t.stored p s.cycle) ∧
      (∀ x y, x ∈ e.released → s.thread? x = some y →
        (s.belayPut (clusterOf (coreOf slot)) (.evSet idx) v).thread? x = some (y.answered v)) ∧
      ((s.belayPut (clusterOf (coreOf slot)) (.evSet idx) v).cluster (clusterOf (coreOf slot))).eventLine idx = e.afterSet v ∧
      ∃ ps, (s.belayPut (clusterOf (coreOf slot)) (.evSet idx) v).packets = s.packets ++ ps ∧
        ps.map (·.payload) = e.forwards (clusterOf (coreOf slot)) v := by
  obtain ⟨hline, hans⟩ := State.eventSet_answers he hn v
  obtain ⟨hthread, hreleased, hclusters, hpackets⟩ := ha.store_ends hasm hans fun hslot =>
    State.slot_notMem_eventLine ha.unqueued idx (he.symm ▸ EventLine.mem_waiters_of_released hslot)
  rw [ha.belayPut hopt honly]
  exact ⟨hthread, hreleased, (congrArg (·.eventLine idx) (State.cluster_congr hclusters _)).trans hline,
    hpackets.symm ▸ hans.packets⟩

theorem State.Asks.evCfg (ha : s.Asks slot t p (.evCfg idx, some v)) :
    ((s.belayPut (clusterOf (coreOf slot)) (.evCfg idx) v).cluster (clusterOf (coreOf slot))).eventLine idx =
        { e with cfg := v &&& 0x3FF3#64 } ∧
      (s.belayPut (clusterOf (coreOf slot)) (.evCfg idx) v).thread? slot = some (t.stored p s.cycle) := by
  subst he
  obtain ⟨hthread, -, hclusters, -⟩ := ha.store_ends hasm (s.answers_setCluster (clusterOf (coreOf slot)) _ 0) List.not_mem_nil
  rw [ha.belayPut hopt honly]
  exact ⟨(congrArg (·.eventLine idx) (State.cluster_congr hclusters _)).trans (State.eventLine_setEvent ..), hthread⟩

omit hopt honly in
theorem State.Asks.evClear (ha : s.Asks slot t p (.evClear idx, some v)) :
    (((s.belayStore slot 0 (.evClear idx)).1.belayReply slot (.ok 0)).cluster (clusterOf (coreOf slot))).eventLine idx =
        { e with set := false } ∧
      ((s.belayStore slot 0 (.evClear idx)).1.belayReply slot (.ok 0)).thread? slot = some (t.stored p s.cycle) := by
  subst he
  obtain ⟨hthread, -, hclusters, -⟩ := ha.store_ends hasm (s.answers_setCluster (clusterOf (coreOf slot)) _ 0) List.not_mem_nil
  exact ⟨(congrArg (·.eventLine idx) (State.cluster_congr hclusters _)).trans (State.eventLine_setEvent ..), hthread⟩
end
end

/-! The steps of the stores that are found by what they ask alone -/

section
variable {s : State} {slot idx : Nat} {t : Thread} {p : Pend} {v : Word} (h : s.tripped = false)
include h

theorem execMutexRelease_asked {u : State} (ha : s.belayAsked slot = some (.mutRelease idx, some v))
    (hu : s.between.mutexRelease slot idx = (u, true)) : execMutexRelease slot idx s = .next (u.belayReply slot (.ok 0)) := by
  refine (event_of_running _ h).trans (congrArg _ ?_)
  rw [show s.between.belayAsked slot = _ from ha, hu]
  exact if_neg (not_not.2 rfl)

theorem execEventClear_asked (ht : s.thread? slot = some t) (ha : s.belayAsked slot = some (.evClear idx, some v))
    (hopt : isOpt (coreOf slot) = false) (honly : ∀ x ∈ s.threads, x.1 ≠ slot → s.belayAsked x.1 = none) :
    execEventClear (clusterOf (coreOf slot)) idx s =
      .next ((s.between.belayStore slot 0 (.evClear idx)).1.belayReply slot (.ok 0)) := by
  refine (event_of_running _ h).trans (congrArg _ ?_)
  have hasked : s.between.belayAsked slot = _ := ha
  split
  · next n t1 hfind =>
    have hn : n = slot := by
      by_contra hne
      have hnone : s.between.belayAsked n = none := honly _ (List.mem_of_find?_eq_some hfind) hne
      simpa [hnone] using List.find?_some hfind
    rw [hn]
  · next hfind => simpa [hopt, hasked] using List.find?_eq_none.1 hfind _ (mem_of_amGet ht)
end

/-! What comes from another unit, alone in the fabric -/

section
variable {s : State} {p : Packet} {cl i : Nat} (h : s.tripped = false) (hs : s.packets = [p]) (hp : p.landed = true)
include h hs hp

theorem execBarrierChildArrival_below {b : Barrier} (hb : (s.cluster cl).barrier i = b) {tn fc fi : Nat}
    (hpayload : p.payload = .childArrival tn cl i fc fi) (htenant : (s.tenant tn).clusters.getLsbD cl = true)
    (hc : b.closing = false) (hn : b.count + 1 < b.cfg.toNat % 2 ^ 16) :
    ∃ u, execBarrierChildArrival p.ident s = .next u ∧ u.packets = [] ∧
      (u.cluster cl).barrier i = { b with count := b.count + 1, children := b.children ++ [(fc, fi, b.phase)] } := by
  let b1 : Barrier := { b with count := b.count + 1, children := b.children ++ [(fc, fi, b.phase)] }
  let s1 := s.between.dropPacket p.ident
  have hb1 : { b.counted with children := b.children ++ [(fc, fi, b.arrivalPhase)] } = b1 := by
    simp [b1, Barrier.counted, Barrier.arrivalPhase, hc]
  have hbelow : (s1.setBarrier cl i b1).settleBarrier cl i = s1.setBarrier cl i b1 :=
    State.settleBarrier_below (s1.barrier_setBarrier cl i b1) (by rw [Barrier.n_eq]; exact hn)
  have hn0 : ¬ b.n = 0 := by rw [Barrier.n_eq]; omega
  refine ⟨s1.setBarrier cl i b1, (event_of_running _ h).trans (congrArg _ ?_),
    State.dropPacket_singleton (s := s.between) hs, s1.barrier_setBarrier cl i b1⟩
  dsimp only
  rw [State.packet?_singleton (s := s.between) hs]
  dsimp only
  rw [hpayload]
  dsimp only
  rw [hp, show ((s.between.dropPacket p.ident).cluster cl).barrier i = b from hb,
    show ((s.between.dropPacket p.ident).tenant tn).clusters.getLsbD cl = true from htenant, hb1, hbelow]
  simp [hn0, s1]

theorem execBarrierParentRelease_closed {b : Barrier} (hb : (s.cluster cl).barrier i = b)
    (hpayload : p.payload = .parentRelease cl i) (hc : b.closing = true) (hn : b.early < b.cfg.toNat % 2 ^ 16)
    (hnodup : (b.waiters.map (·.slot)).Nodup) :
    ∃ u, execBarrierParentRelease p.ident s = .next u ∧
      (∀ x y, x ∈ b.released → s.thread? x = some y → u.thread? x = some (y.answered (BitVec.ofNat 64 b.nextPhase))) ∧
      u.packets.map (·.payload) = b.releases ∧ (u.cluster cl).barrier i = b.fired := by
  let s1 := s.between.dropPacket p.ident
  have hb1 : (s1.cluster cl).barrier i = b := hb
  obtain ⟨hfired, hans⟩ := State.fireBarrier_answers hb1 (b.nodup_released hnodup)
  obtain ⟨ps, hps, hreleases⟩ := hans.packets
  have hbelow : (s1.fireBarrier cl i).settleBarrier cl i = s1.fireBarrier cl i :=
    State.settleBarrier_below hfired (by rw [Barrier.n_eq]; exact hn)
  refine ⟨s1.fireBarrier cl i, (event_of_running _ h).trans (congrArg _ ?_), hans.released, ?_, hfired⟩
  · dsimp only
    rw [State.packet?_singleton (s := s.between) hs]
    dsimp only
    rw [hpayload]
    dsimp only
    rw [hp, show ((s.between.dropPacket p.ident).cluster cl).barrier i = b from hb, hc]
    exact hbelow
  · rw [hps, show s1.packets = [] from State.dropPacket_singleton (s := s.between) hs, List.nil_append, hreleases]

theorem execEventForwardedSet_idle {e : EventLine} (he : (s.cluster cl).eventLine i = e) {v : Word}
    (hpayload : p.payload = .forwardedSet cl i v) (hfwd : e.cfg.getLsbD 1 = false) (hw : e.waiters = []) :
    ∃ u, execEventForwardedSet p.ident s = .next u ∧ u.packets = [] ∧
      (u.cluster cl).eventLine i = { e with set := true, value := v } := by
  let s1 := s.between.dropPacket p.ident
  have he1 : (s1.cluster cl).eventLine i = e := he
  obtain ⟨hline, hans⟩ := State.eventSet_answers he1 (hw ▸ List.nodup_nil) v
  obtain ⟨ps, hps, hforwards⟩ := hans.packets
  refine ⟨s1.eventSet cl i v, (event_of_running _ h).trans (congrArg _ ?_), ?_, hline.trans (EventLine.afterSet_idle v hw)⟩
  · rw [State.packet?_singleton (s := s.between) hs]
    dsimp only
    rw [hpayload]
    exact if_pos hp
  · rw [hps, EventLine.packets_of_forwards_none v hfwd hforwards, List.append_nil]
    exact State.dropPacket_singleton (s := s.between) hs
end

end Sys2Proof.Machine
end

section
/-! The fabric and the belay unit together. -/

namespace Sys2Proof.Machine

/-- Settles O54: the fabric's steps by what one packet alone in it does, the belay unit's by what the unit leaves when it acts on
the request asked of it, the instruction ending with its reply. -/
theorem fabricAndBelay : Obligations.FabricAndBelay := by
  unfold Obligations.FabricAndBelay
  intro s h
  refine ⟨?_, ?_, ?_, ?_, ?_, ?_, ?_, ?_⟩
  · intro p node port reply hs hn hd hr hreply hc hport hlink hack
    subst hreply
    obtain ⟨u, hu, hcycle, hexec⟩ := execRouterForward_singleton h hs hn hd hr hc hport hlink hack
    obtain ⟨q, hq, hnode, hage, hsame⟩ := State.comeTo_of_no_packets hu hd node (p.next node)
    rw [hcycle] at hsame
    refine ⟨_, q, hexec, hq, hnode, hage.trans ?_, hsame⟩
    cases p.next node <;> rfl
  · intro e hc ho
    exact execCombineWindowClose_singleton h hc ho
  · intro p hs hr hw
    exact execAgeIncrement_singleton h hs hr hw
  · intro p node hs hn hd hr hport hnode hroom hw
    exact execDepotSpill_singleton h hs hn hd hr hport hnode hroom hw
  · intro p node port hs hd hlink
    exact execDepotReinject_singleton h hs hd hlink
  · intro slot t p idx ht hp hports hasm hkeys hpops hlate cl b m e retired released p1 out fires
    have hasks {r : BelayOp × Option Word} (ha : s.belayAsked slot = some r) : s.between.Asks slot t p r :=
      State.asks_between ht hp hports hkeys hpops hlate ha
    have hfires {u : State} (hf : s.between.Fired u slot idx b) : fires u := ⟨hf.released, hf.barrier, hf.packets⟩
    refine ⟨?_, ?_, ?_, ?_, ?_, ?_, ?_, ?_, ?_⟩
    · intro ha hok hc hn
      exact ⟨_, event_of_running (·.belayAct slot (.barWait idx)) h, (hasks ha).barWait_below rfl hok hc hn⟩
    · intro ha hok hc hn hearly hnodup
      refine ⟨_, event_of_running (·.belayAct slot (.barWait idx)) h, fun hup => ?_, fun hup => ?_⟩
      · obtain ⟨hfired, hthread⟩ := (hasks ha).barWait_last (s := s.between) rfl hok hc hn hup hearly hnodup
        rw [Thread.inPhase, hp] at hthread
        exact ⟨hfires hfired, hthread⟩
      · exact (hasks ha).barWait_closes rfl hok hc hn hup
    · intro ha hok hc hn
      exact ⟨_, event_of_running (·.belayAct slot (.barArrive idx)) h, (hasks ha).barArrive_below rfl hok hc hasm hn⟩
    · intro ha hok hc hn hup hearly hnodup
      obtain ⟨hfired, hthread⟩ := (hasks ha).barArrive_last (s := s.between) rfl hok hc hasm hn hup hearly hnodup
      exact ⟨_, event_of_running (·.belayAct slot (.barArrive idx)) h, hfires hfired, hthread⟩
    · intro ha o ho
      exact ⟨_, event_of_running (·.belayAct slot (.mutAcquire idx)) h,
        fun he => (hasks ha).mutAcquire_own rfl hasm (ho.trans (congrArg some he)),
        fun hne => (hasks ha).mutAcquire_taken rfl ho hne⟩
    · intro ha ho
      exact ⟨_, event_of_running (·.belayAct slot (.mutAcquire idx)) h, (hasks ha).mutAcquire_free rfl hasm ho⟩
    · intro ha
      exact ⟨_, event_of_running (·.belayAct slot (.mutTry idx)) h, fun ho => (hasks ha).mutTry_free rfl hasm ho,
        fun o ho => (hasks ha).mutTry_taken rfl hasm ho⟩
    · intro ha hset
      exact ⟨_, event_of_running (·.belayAct slot (.evWait idx)) h, (hasks ha).evWait_set rfl hasm hset⟩
    · intro ha hset
      exact ⟨_, event_of_running (·.belayAct slot (.evWait idx)) h, (hasks ha).evWait_clear rfl hset⟩
  · intro slot t p idx v ht hp hports hasm hkeys hpops hopt hlate honly cl b m e retired released
    have hasks {r : BelayOp × Option Word} (ha : s.belayAsked slot = some r) : s.between.Asks slot t p r :=
      State.asks_between ht hp hports hkeys hpops hlate ha
    refine ⟨?_, ?_, ?_, ?_, ?_⟩
    · intro ha hn
      exact ⟨_, event_of_running (·.belayPut cl (.barCfg idx) v) h, (hasks ha).barCfg (s := s.between) hasm hopt honly rfl hn⟩
    · intro ha ho
      obtain ⟨u, hrelease, hthread, hmutex, hreleased⟩ := (hasks ha).mutRelease hasm rfl ho
      refine ⟨_, execMutexRelease_asked h ha hrelease, hthread, fun hw => hmutex.trans (Mutex.passed_of_none hw), fun w rest hw => ?_⟩
      have htake : m.waiters.take 1 = [w] := congrArg (List.take 1) hw
      exact ⟨htake ▸ hreleased, hmutex.trans (Mutex.passed_of_waiters hw)⟩
    · intro ha hn
      obtain ⟨hthread, hreleased, hline, ps, hps, hforwards⟩ := (hasks ha).evSet (s := s.between) hasm hopt honly rfl hn
      exact ⟨_, event_of_running (·.belayPut cl (.evSet idx) v) h, hthread,
        fun hauto => ⟨EventLine.released_all hauto ▸ hreleased, hline.trans (EventLine.afterSet_all v hauto)⟩,
        fun _ hw => hline.trans (EventLine.afterSet_idle v hw),
        fun w rest hauto hw => ⟨EventLine.released_oldest hauto hw ▸ hreleased, hline.trans (EventLine.afterSet_oldest v hauto hw)⟩,
        fun hfwd => by rw [hps, EventLine.packets_of_forwards_none v hfwd hforwards, List.append_nil]; rfl,
        fun hfwd => by
          obtain ⟨q, rfl, hq⟩ := EventLine.packets_of_forwards v hfwd hforwards
          exact ⟨q, hps, hq⟩⟩
    · intro ha
      exact ⟨_, execEventClear_asked h ht ha hopt honly, (hasks ha).evClear hasm rfl⟩
    · intro ha
      exact ⟨_, event_of_running (·.belayPut cl (.evCfg idx) v) h, (hasks ha).evCfg (s := s.between) hasm hopt honly rfl⟩
  · intro p cl i hs hp b e
    refine ⟨?_, ?_, ?_⟩
    · intro tn fc fi hpayload htenant hc hn
      exact execBarrierChildArrival_below h hs hp rfl hpayload htenant hc hn
    · intro hpayload hc hn hnodup
      exact execBarrierParentRelease_closed h hs hp rfl hpayload hc hn hnodup
    · intro v hpayload _ hfwd hw
      exact execEventForwardedSet_idle h hs hp rfl hpayload hfwd hw

end Sys2Proof.Machine
end

section
/-! Group loads (R120): of words in a store of no package's addresses (see farState), they travel as plain loads do. -/

namespace Sys2Proof.Machine

/-- A group of one word passes its check and lands in the thread's own store, where a plain load finds it. -/
theorem farState_landsAll : LandsAll farThread .load Loadable farState (farState.groupFrom (farThread.x 5) 1) farState
    [storeBase (coreOf farSlot)] :=
  ⟨farState, _, [], ⟨_, _, rfl, rfl, rfl⟩, ⟨farState_settled, rfl⟩, ⟨rfl, rfl⟩, rfl⟩

/-- ldg x9, 0(x5) of one word is asked for outside the package, and the thread waits for the reply. -/
theorem farState_ldg_waits : ∃ u, exec (.ldg 0 9 5 0) farState = .next u ∧
    (u.thread? farSlot).map (·.run) = some (.waiting .reply) := ⟨_, rfl, rfl⟩

/-- Refutes O15: requests complete in the issuing step (State.slow false), and yet the group load of farState waits for a reply, its
word having an address of another package; the statement has it retire. -/
theorem not_groupAccess : ¬ Obligations.GroupAccess := by
  unfold Obligations.GroupAccess
  rintro ⟨hloads, -⟩
  obtain ⟨hldg, -⟩ := hloads farState farState farThread [storeBase (coreOf farSlot)] 9 5 rfl rfl
  have hnext := hldg 0 0 farState_canIssue (by decide) farState_landsAll
  obtain ⟨u, hexec, hwaits⟩ := farState_ldg_waits
  obtain rfl := Host.Outcome.next.inj (hexec.symm.trans hnext)
  exact nomatch hwaits

end Sys2Proof.Machine
end

section
/-! What a plain write leaves of the threads at the cores where no epoch is open (R93, R276): the tag of the word stands, so that no
held request is released, and a waiter released is answered, which changes its pending request alone. -/

namespace Sys2Proof.Machine

/-- A thread without its pending request. -/
def Thread.unasked (t : Thread) : Thread := { t with pend := none }

/-- The threads of the slots without their pending requests. -/
def State.unasked (s : State) (slot : Nat) : Option Thread := (s.thread? slot).map Thread.unasked

section
variable (s : State)

theorem State.unasked_of_threads {s u : State} (h : u.threads = s.threads) : u.unasked = s.unasked := by
  funext slot
  rw [State.unasked, State.unasked, State.thread?, State.thread?, h]

theorem State.answer_unasked (slot k : Nat) (r : Except Nat Word) : (s.answer slot k r).unasked = s.unasked := by
  funext n
  rw [State.unasked, State.answer, State.thread?_modThread]
  split
  · rw [Option.map_map]
    refine congrArg (Option.map · _) (funext fun t => ?_)
    rw [Function.comp]
    repeat' split
    all_goals rfl
  · rfl

theorem State.homeAnswer_unasked (slot k : Nat) (r : Except Nat Word) : (s.homeAnswer slot k r).unasked = s.unasked := by
  unfold State.homeAnswer
  split
  · exact s.answer_unasked slot k r
  · exact State.unasked_of_threads (s.send_threads _ _ _ _)

theorem State.releaseWatch_unasked (w : Watch) : (s.releaseWatch w).unasked = s.unasked := by
  unfold State.releaseWatch
  split
  · exact (State.homeAnswer_unasked _ _ _ _).trans (State.unasked_of_threads (s.settle_threads w.key))
  · rfl

theorem State.wakeGranule_unasked (k : Nat) : (s.wakeGranule k).unasked = s.unasked :=
  List.foldlRecOn (motive := fun u : State => u.unasked = s.unasked) _ _ rfl fun u hu w _ => (u.releaseWatch_unasked w).trans hu

theorem State.writeHome_unasked (k : Nat) (mask : BitVec 8) (v : Word) : (s.writeHome k mask v none).unasked = s.unasked := by
  rw [State.writeHome]
  dsimp only
  rw [if_pos (Memory.full_write _ _ _ _ _), State.wakeGranule_unasked]
  refine State.unasked_of_threads ?_
  show (if mask = 0xFF#8 then s else s.settle k).threads = s.threads
  split
  · rfl
  · exact s.settle_threads k

theorem NoEpoch.writeWord_unasked {s : State} (he : NoEpoch s) (k : Nat) (mask : BitVec 8) (v : Word) :
    (s.writeWord k mask v none).unasked = s.unasked := by
  rw [State.writeWord, State.beforeWrite, State.preWrite_of_noEpoch he]
  exact s.writeHome_unasked k mask v
end

/-- All that plain writes at homes can change is memory, the homes' answers and the waiters: no table of a home, nothing at the cores
but a thread's pending request. -/
structure State.OnlyHomesActed (s u : State) : Prop where
  tables : u.homeTables = s.homeTables
  cores : u.atCores = s.atCores
  threads : u.unasked = s.unasked

section
variable {s u v : State}

theorem State.OnlyHomesActed.refl (s : State) : s.OnlyHomesActed s := ⟨rfl, rfl, rfl⟩

theorem State.OnlyHomesActed.trans (h : s.OnlyHomesActed u) (h' : u.OnlyHomesActed v) : s.OnlyHomesActed v :=
  ⟨h'.tables.trans h.tables, h'.cores.trans h.cores, h'.threads.trans h.threads⟩

theorem NoEpoch.onlyHomesActed_writeWord (he : NoEpoch s) (k : Nat) (mask : BitVec 8) (w : Word) :
    s.OnlyHomesActed (s.writeWord k mask w none) :=
  have hst := he.writeWord_stored k mask w
  ⟨hst.tables, hst.cores, he.writeWord_unasked k mask w⟩

theorem State.OnlyHomesActed.cur (h : s.OnlyHomesActed u) : u.cur = s.cur := congrArg (·.1.cur) h.cores

theorem State.OnlyHomesActed.latch (h : s.OnlyHomesActed u) : u.latch = s.latch := congrArg (·.1.latch) h.cores

/-- The thread of a slot is the same but for its pending request. -/
theorem State.OnlyHomesActed.thread? (h : s.OnlyHomesActed u) {slot : Nat} {t : Thread} (ht : s.thread? slot = some t) :
    ∃ p, u.thread? slot = some { t with pend := p } := by
  have hslot := congrFun h.threads slot
  simp only [State.unasked, ht, Option.map_some, Option.map_eq_some_iff] at hslot
  obtain ⟨t', ht', hsame⟩ := hslot
  refine ⟨t'.pend, ht'.trans (congrArg some ?_)⟩
  show t' = { t.unasked with pend := t'.pend }
  rw [← hsame]
  rfl
end

/-! Retiring with results after such writes -/

theorem Thread.setXs_pend (t : Thread) (p : Option Pend) (n : Nat) (ws : List Word) :
    ({ t with pend := p } : Thread).setXs n ws = { t.setXs n ws with pend := p } := by
  induction ws generalizing t n with
  | nil => rfl
  | cons w ws ih =>
    have hset : ({ t with pend := p } : Thread).setX n w = { t.setX n w with pend := p } := by
      unfold Thread.setX
      split <;> rfl
    rw [Thread.setXs, Thread.setXs, hset, ih]

theorem State.finish_of_unbound {u : State} {c : Ctx} {t : Thread} (hh : c.handles = []) (hs : c.slot = u.cur)
    (ht : u.thread? u.cur = some t) (hr : u.latch.replay = 0) {n : Nat} (hn : t.portOf n = none) (ws : List Word) :
    u.finish c n ws = u.retires (t.setXs n ws) c.npc := by
  have hw : u.writeRegs u.cur n ws = u.setThread u.cur (t.setXs n ws) := by
    rw [State.writeRegs, ht]
    simp only [hn, ite_self]
    rw [Thread.setXs_eq t n ws 0, Nat.add_zero]
  rw [State.finish, State.popPorts_of_handles_nil hh, hs, hw]
  have hret := State.retire_of_thread (u := u.setThread u.cur (t.setXs n ws)) (State.thread?_setThread_self ..) hr c.npc
  rw [State.setThread_cur] at hret
  rw [hret, State.retires, State.setThread_cur, State.setThread_setThread]
  rfl

section
variable {s u : State} {t : Thread} {us : List RegUse}

/-- An instruction that can issue and that has written memory retires with its results. -/
theorem CanIssue.finish_retires (h : CanIssue s t us) (hu : s.OnlyHomesActed u) {r : RegUse} (hr : r ∈ us) (hn : r.n ∈ r.regs)
    (w : Word) (ws : List Word) {p : Memory → Prop} (hp : p u.mem) :
    Retires s (.next (u.finish ⟨s.cur, t, w, s.nextPc t, us⟩ r.n ws)) (t.setXs r.n ws) (s.nextPc t) fun v => p v.mem := by
  obtain ⟨q, hthread⟩ := hu.thread? h.thread
  have hport : ({ t with pend := q } : Thread).portOf r.n = none := portOf_none fun x hx => h.unbound x hx r hr _ hn
  have hreplay : u.latch.replay = 0 := by rw [hu.latch]; exact h.direct
  rw [State.finish_of_unbound (h.handles _ _) hu.cur.symm (hu.cur ▸ hthread) hreplay hport, Thread.setXs_pend]
  refine ⟨_, rfl, ?_, rfl, hp⟩
  rw [← hu.cur]
  exact State.thread?_setThread_self ..
end

end Sys2Proof.Machine
end

section
/-! A row of words in memory (R8): one after another written, and read back. -/

namespace Sys2Proof.Machine

/-- The values of n words from word k on. -/
def Memory.row (m : Memory) (k n : Nat) : List Word := (List.range n).map fun i => m.word (k + i)

theorem Memory.getD_row (m : Memory) {k n i : Nat} (h : i < n) : (m.row k n).getD i 0 = m.word (k + i) := by
  simp [Memory.row, h]

@[simp] theorem Memory.length_row (m : Memory) (k n : Nat) : (m.row k n).length = n := by simp [Memory.row]

section
variable {m m' m'' : Memory} {k : Nat} {ws ws' : List Word}

theorem WroteWords.word_of_outside (h : WroteWords m m' k ws) {j : Nat} (hj : ¬ (k ≤ j ∧ j < k + ws.length)) : m'.word j = m.word j :=
  Memory.word_congr fun i hi => h.2.1 _ (by rwa [show (8 * j + i) / 8 = j by omega])

/-- Rows side by side, written one after the other. -/
theorem WroteWords.append (h : WroteWords m m' k ws) (h' : WroteWords m' m'' (k + ws.length) ws') : WroteWords m m'' k (ws ++ ws') := by
  obtain ⟨hword, hbyte, hfull⟩ := h
  have hout := fun j => h'.word_of_outside (j := j)
  obtain ⟨hword', hbyte', hfull'⟩ := h'
  refine ⟨fun i hi => ?_, fun x hx => ?_, fun j => (hfull' j).trans (hfull j)⟩
  · rw [List.length_append] at hi
    by_cases hlt : i < ws.length
    · rw [hout _ (by omega), hword i hlt, List.getD_append _ _ _ _ hlt]
    · have hget := hword' (i - ws.length) (by omega)
      rw [show k + ws.length + (i - ws.length) = k + i by omega] at hget
      rw [hget, List.getD_append_right _ _ _ _ (Nat.le_of_not_lt hlt)]
  · rw [List.length_append] at hx
    rw [hbyte' x (by omega), hbyte x (by omega)]

theorem WroteWords.refl (m : Memory) (k : Nat) : WroteWords m m k [m.word k] :=
  ⟨fun i hi => by obtain rfl : i = 0 := Nat.lt_one_iff.1 hi; rfl, fun _ _ => rfl, fun _ => rfl⟩

/-- A row written with what it held. -/
theorem WroteWords.sameMemory {n : Nat} (h : WroteWords m m' k (m.row k n)) : SameMemory m m' := by
  obtain ⟨hword, hbyte, hfull⟩ := h
  rw [Memory.length_row] at hword hbyte
  refine ⟨fun x => ?_, hfull⟩
  by_cases hx : k ≤ x / 8 ∧ x / 8 < k + n
  · have hsame := hword (x / 8 - k) (by omega)
    rw [m.getD_row (by omega), show k + (x / 8 - k) = x / 8 by omega] at hsame
    calc m'.byte x = byteOf (m'.word (x / 8)) (x % 8) := by rw [Memory.byteOf_word _ _ (by omega), Nat.div_add_mod]
      _ = byteOf (m.word (x / 8)) (x % 8) := by rw [hsame]
      _ = m.byte x := by rw [Memory.byteOf_word _ _ (by omega), Nat.div_add_mod]
  · exact hbyte x hx
end

theorem NoEpoch.wroteWords_writeWord {s : State} (he : NoEpoch s) (k : Nat) (v : Word) :
    WroteWords s.mem (s.writeWord k 0xFF#8 v none).mem k [v] := by
  obtain ⟨hbytes, hothers, hfull⟩ := State.writeWord_whole he k v
  refine ⟨fun i hi => ?_, fun x hx => hothers x (by rw [List.length_singleton] at hx; omega), hfull⟩
  obtain rfl : i = 0 := Nat.lt_one_iff.1 hi
  exact Memory.word_of_bytes _ _ _ hbytes

/-- The words from k on that differ, old from new, written in order: n of them looked at. -/
def State.writeRow (s : State) (k : Nat) (old new : List Word) (n : Nat) : State :=
  (List.range n).foldl (fun u w => if old.getD w 0 = new.getD w 0 then u else u.writeWord (k + w) 0xFF#8 (new.getD w 0) none) s

section
variable {s : State} (he : NoEpoch s) (k : Nat) (new : List Word) (n : Nat)
include he

/-- A row in which the words that differ are written holds the new words, and no one but the homes has acted. -/
theorem NoEpoch.writeRow {old : List Word} (hold : ∀ i < n, old.getD i 0 = s.mem.word (k + i)) :
    WroteWords s.mem (s.writeRow k old new n).mem k ((List.range n).map fun i => new.getD i 0) ∧
    s.OnlyHomesActed (s.writeRow k old new n) := by
  induction n with
  | zero => exact ⟨⟨nofun, fun _ _ => rfl, fun _ => rfl⟩, .refl s⟩
  | succ n ih =>
    obtain ⟨hrow, hacted⟩ := ih fun i hi => hold i (Nat.lt_succ_of_lt hi)
    have hlen : ((List.range n).map fun i => new.getD i 0).length = n := by simp
    have hstep : s.writeRow k old new (n + 1) = if old.getD n 0 = new.getD n 0 then s.writeRow k old new n
        else (s.writeRow k old new n).writeWord (k + n) 0xFF#8 (new.getD n 0) none := by
      simp only [State.writeRow, List.range_succ, List.foldl_append, List.foldl_cons, List.foldl_nil]
    rw [hstep, List.range_succ, List.map_append, List.map_cons, List.map_nil]
    split
    · next hsame =>
      have hword : new.getD n 0 = (s.writeRow k old new n).mem.word (k + n) := by
        rw [hrow.word_of_outside (by omega), ← hold n n.lt_succ_self, hsame]
      refine ⟨hrow.append ?_, hacted⟩
      rw [hlen, hword]
      exact .refl _ _
    · have he' := he.of_homeTables hacted.tables
      refine ⟨hrow.append ?_, hacted.trans (he'.onlyHomesActed_writeWord _ _ _)⟩
      rw [hlen]
      exact he'.wroteWords_writeWord _ _

/-- As writeRow, of the row that memory holds and as many new words. -/
theorem NoEpoch.writeRow_row (hlen : new.length = n) :
    WroteWords s.mem (s.writeRow k (s.mem.row k n) new n).mem k new ∧ s.OnlyHomesActed (s.writeRow k (s.mem.row k n) new n) := by
  have hnew : (List.range n).map (fun i => new.getD i 0) = new :=
    List.ext_getElem (by simp [hlen]) fun i _ hi => by simp [hi]
  have h := he.writeRow k new n (old := s.mem.row k n) fun i hi => s.mem.getD_row hi
  rwa [hnew] at h
end

/-- A row of which no word is poisoned is read as it stands. -/
theorem readRow_of_sound {s : State} {k n : Nat} (h : ∀ i < n, s.mem.poisoned (k + i) = false) :
    readRow s k n = (s, .ok (s.mem.row k n)) := by
  induction n with
  | zero => rfl
  | succ n ih =>
    rw [readRow, ih fun i hi => h i (Nat.lt_succ_of_lt hi)]
    simp only [State.readWord_of_sound (h n n.lt_succ_self), Memory.row, List.range_succ, List.map_append, List.map_cons, List.map_nil]

end Sys2Proof.Machine
end

section
/-! Tag tables (R123 to R125): what each form makes of a set, and an access of one set. -/

namespace Sys2Proof.Machine

/-! The acts, by what the set holds -/

section
variable {es : List Word} {line : Nat → Word} {key w : Nat} {low at' : Word}

theorem tlookAct_of_hit (h : tagHit es key = some w) :
    tlookAct es line key low at' = ([line w + low, at' + BitVec.ofNat 64 (8 * w)], tagTouch es w (entAge (es.getD w 0))) := by
  rw [tlookAct, h]

theorem tlookAct_of_miss (h : tagHit es key = none) : tlookAct es line key low at' = ([0, at'], es) := by
  rw [tlookAct, h]

theorem tinsAct_of_hit (h : tagHit es key = some w) : tinsAct es line key low at' =
    ([line w + 2, (tagTouch es w (entAge (es.getD w 0))).getD w 0], tagTouch es w (entAge (es.getD w 0))) := by
  rw [tinsAct, h]

/-- The lowest invalid way is filled. -/
theorem tinsAct_of_invalid {n : Nat} (hlen : es.length = n) (h : tagHit es key = none) (hw : w < n)
    (hbelow : ∀ i < w, entValid (es.getD i 0) = true) (hinv : entValid (es.getD w 0) = false) :
    tinsAct es line key low at' = ([line w, 0], (tagTouch es w (n - 1)).set w (BitVec.ofNat 64 (key * 256 + 128))) := by
  subst hlen
  have hfree : es.findIdx? (fun e => !entValid e) = some w := by
    rw [List.findIdx?_eq_some_iff_getElem]
    refine ⟨hw, ?_, fun i hi => ?_⟩
    · rw [List.getD_eq_getElem _ _ hw] at hinv
      simp [hinv]
    · have hv := hbelow i hi
      rw [List.getD_eq_getElem _ _ (hi.trans hw)] at hv
      simp [hv]
  rw [tinsAct, h]
  simp only [hfree]

theorem findIdx?_invalid_of_valid (hvalid : ∀ e ∈ es, entValid e = true) : es.findIdx? (fun e => !entValid e) = none := by
  rw [List.findIdx?_eq_none_iff]
  exact fun e he => by rw [hvalid e he]; rfl

section
variable (hmiss : tagHit es key = none) (hvalid : ∀ e ∈ es, entValid e = true)
include hmiss hvalid

/-- All ways valid: the victim is replaced. -/
theorem tinsAct_of_victim (hv : tagVictim es = some w) : tinsAct es line key low at' =
    ([line w + 1, es.getD w 0], (tagTouch es w (entAge (es.getD w 0))).set w (BitVec.ofNat 64 (key * 256 + 128))) := by
  rw [tinsAct, hmiss]
  simp only [findIdx?_invalid_of_valid hvalid, hv]

/-- All ways valid and pinned: nothing is installed. -/
theorem tinsAct_of_pinned (hv : tagVictim es = none) : tinsAct es line key low at' = ([3, 0], es) := by
  rw [tinsAct, hmiss]
  simp only [findIdx?_invalid_of_valid hvalid, hv]
end

/-- The set with way w cleared, and each valid way older than it younger by one. -/
def tagCleared (es : List Word) (w : Nat) : List Word :=
  es.zipIdx.map fun x => if x.2 = w then 0
    else if entValid x.1 ∧ entAge (es.getD w 0) < entAge x.1 then entWithAge x.1 (entAge x.1 - 1) else x.1

theorem tinvAct_of_hit (h : tagHit es key = some w) : tinvAct es line key low at' = ([es.getD w 0], tagCleared es w) := by
  rw [tinvAct, h]
  refine congrArg (Prod.mk _) (List.ext_getElem (by simp [tagCleared]) fun i hi _ => ?_)
  simp [tagCleared, List.getElem_set, eq_comm (a := w)]

theorem tinvAct_of_miss (h : tagHit es key = none) : tinvAct es line key low at' = ([0], es) := by
  rw [tinvAct, h]

theorem length_tagTouch (a : Nat) : (tagTouch es w a).length = es.length := by simp [tagTouch]
theorem length_tagCleared : (tagCleared es w).length = es.length := by simp [tagCleared]
end

/-! An access of one set -/

theorem tagHeader_eq (h : Word) :
    tagHeader h = ⟨h.toNat / 2 ^ 28 % 2 ^ 18, h.toNat / 2 ^ 12 % 16, h.toNat / 2 ^ 6 % 4, h.toNat % 64⟩ := by
  simp only [tagHeader, toNat_extractLsb', pow_zero, Nat.div_one]
  rfl

/-! What R125 makes of a header and an address -/

namespace TagHeader

variable (h : TagHeader) (tab : Word) (va : Nat)

/-- The key of the address's line. -/
def key : Nat := va / 2 ^ h.lsz % 2 ^ 56

/-- The number of its set's first way. -/
def way0 : Nat := h.key va % 2 ^ h.slog * 2 ^ h.wlog

/-- The address of the set, in a table at tab. -/
def setAt : Word := tab + BitVec.ofNat 64 (64 + h.way0 va * 8)

/-- The word number of the set's first entry. -/
def setKey (s : State) : Nat := s.ownKey tab + 8 + h.way0 va

/-- The entries of the set. -/
def setOf (s : State) : List Word := s.mem.row (h.setKey tab va s) (2 ^ h.wlog)

theorem length_setOf (s : State) : (h.setOf tab va s).length = 2 ^ h.wlog := Memory.length_row ..

/-- The address of the line of way w of the set. -/
def line (w : Nat) : Word := BitVec.ofNat 64 (Config.ownBase + h.dbase + (h.way0 va + w) * 2 ^ h.lsz)

/-- The offset of the address in its line. -/
def low : Word := BitVec.ofNat 64 (va % 2 ^ h.lsz)

end TagHeader

/-- A table with header h in the executing core's window, which an instruction finds at its home: R125 accepts the header, no store
comes first, the header is not poisoned, and no epoch is open. -/
structure State.HasTable (s : State) (tab : Word) (h : TagHeader) : Prop where
  aligned : tab.toNat % 64 = 0
  inWindow : Config.ownBase ≤ tab.toNat ∧ tab.toNat < Config.ownBase + storeSize (coreOf s.cur)
  header : tagHeader (s.mem.word (s.ownKey tab)) = h
  accepted : h.ok (tab.toNat - Config.ownBase) (storeSize (coreOf s.cur)) = true
  buffer : (s.core (coreOf s.cur)).sb = []
  flights : ∀ f ∈ s.flights, f.slot ≠ s.cur
  pushes : s.pushesTo s.cur (atWord fun w => sameOrder w (s.ownKey tab)) = []
  sound : s.mem.poisoned (s.ownKey tab) = false
  noEpoch : NoEpoch s

section
variable {s : State} {t : Thread} {tab : Word} {h : TagHeader}

theorem State.HasTable.ownBefore (ht : s.HasTable tab h) : s.ownBefore (coreOf s.cur) s.cur (s.ownKey tab) = [] := by
  have hflights : (s.flights.filter fun f => f.ofThread s.cur && sameOrder f.key (s.ownKey tab)) = [] := by
    rw [List.filter_eq_nil_iff]
    intro f hf
    simp [Flight.ofThread, ht.flights f hf]
  unfold State.ownBefore
  rw [ht.buffer, hflights, ht.pushes]
  rfl

variable {rd rs1 rs2 : BitVec 5} {span : Nat} {va : Nat}
  (hc : CanIssue s t [rs (s.latch.rs1 rs1), rs (s.latch.rs2 rs2), rdst (s.latch.rd rd) span])
  (ht : s.HasTable tab h) (htab : t.x (s.latch.rs1 rs1) = tab) (hva : (t.x (s.latch.rs2 rs2)).toNat = va)
  (hsound : ∀ i < 2 ^ h.wlog, s.mem.poisoned (h.setKey tab va s + i) = false)
include hc ht htab hva hsound

/-- An access of a set: the entries that the act changes are written, and its results go to the registers from rd on. -/
theorem CanIssue.tagOp_eq {act : TagAct} {ws es : List Word}
    (hact : act (h.setOf tab va s) (h.line va) (h.key va) (h.low va) (h.setAt tab va) = (ws, es)) :
    tagOp s rd rs1 rs2 span act = .next ((s.writeRow (h.setKey tab va s) (h.setOf tab va s) es (2 ^ h.wlog)).finish
      ⟨s.cur, t, s.latch.tval, s.nextPc t, [rs (s.latch.rs1 rs1), rs (s.latch.rs2 rs2), rdst (s.latch.rd rd) span]⟩
      (s.latch.rd rd) ws) := by
  have hplace : ¬ (tab.toNat % 64 ≠ 0 ∨ tab.toNat < Config.ownBase ∨ Config.ownBase + storeSize (coreOf s.cur) ≤ tab.toNat) := by
    obtain ⟨hlow, hhigh⟩ := ht.inWindow
    have haligned := ht.aligned
    omega
  have hwaits (ks : List Nat) :
      ks.flatMap (sbTouching (s.core (coreOf s.cur)).sb) ++ s.ownBefore (coreOf s.cur) s.cur (s.ownKey tab) = [] := by
    rw [ht.ownBefore, ht.buffer, List.append_nil, List.flatMap_eq_nil_iff]
    exact fun _ _ => rfl
  have hkey : (storeBase (coreOf s.cur) + (tab.toNat - Config.ownBase)) / 8 = s.ownKey tab := rfl
  have hrow : readRow s (h.setKey tab va s) (2 ^ h.wlog) = (s, .ok (h.setOf tab va s)) := readRow_of_sound hsound
  have hset : s.ownKey tab + 8 + va / 2 ^ h.lsz % 2 ^ 56 % 2 ^ h.slog * 2 ^ h.wlog = h.setKey tab va s := rfl
  rw [tagOp, hc.issue]
  simp only [Ctx.x, Ctx.core, hc.src_rs (n := s.latch.rs1 rs1) (by simp), hc.src_rs (n := s.latch.rs2 rs2) (by simp), htab, hva]
  rw [if_neg hplace]
  simp only [hkey, hwaits, State.readWord_of_sound ht.sound, ht.header, ht.accepted, Bool.not_true, Bool.false_eq_true, if_false,
    hset, hrow]
  have hr := congrArg Prod.fst hact
  have hes := congrArg Prod.snd hact
  subst hr hes
  rfl

/-- It retires with the results, and memory differs in the entries of the set alone. -/
theorem CanIssue.tagOp_retires (hspan : 0 < span) {act : TagAct} {ws es : List Word}
    (hact : act (h.setOf tab va s) (h.line va) (h.key va) (h.low va) (h.setAt tab va) = (ws, es))
    (hlen : es.length = (h.setOf tab va s).length) :
    Retires s (tagOp s rd rs1 rs2 span act) (t.setXs (s.latch.rd rd) ws) (s.nextPc t) fun u =>
      WroteWords s.mem u.mem (h.setKey tab va s) es := by
  obtain ⟨hwrote, hacted⟩ := ht.noEpoch.writeRow_row (h.setKey tab va s) es _ (hlen.trans (h.length_setOf ..))
  rw [hc.tagOp_eq ht htab hva hsound hact]
  exact hc.finish_retires hacted (r := rdst (s.latch.rd rd) span) (by simp) (by simpa [rdst, RegUse.regs] using hspan) _ ws
    (p := fun m => WroteWords s.mem m _ es) hwrote

/-- Where the act leaves the set as it is, no byte of memory differs. -/
theorem CanIssue.tagOp_reads (hspan : 0 < span) {act : TagAct} {ws : List Word}
    (hact : act (h.setOf tab va s) (h.line va) (h.key va) (h.low va) (h.setAt tab va) = (ws, h.setOf tab va s)) :
    Retires s (tagOp s rd rs1 rs2 span act) (t.setXs (s.latch.rd rd) ws) (s.nextPc t) fun u => SameMemory s.mem u.mem := by
  obtain ⟨u, hnext, hthread, hlatch, hwrote⟩ := hc.tagOp_retires ht htab hva hsound hspan hact rfl
  exact ⟨u, hnext, hthread, hlatch, hwrote.sameMemory⟩
end

theorem exec_tlook (rd rs1 rs2 : BitVec 5) (s : State) : exec (.tlook rd rs1 rs2) s = tagOp s rd rs1 rs2 2 tlookAct := rfl
theorem exec_tins (rd rs1 rs2 : BitVec 5) (s : State) : exec (.tins rd rs1 rs2) s = tagOp s rd rs1 rs2 2 tinsAct := rfl
theorem exec_tinv (rd rs1 rs2 : BitVec 5) (s : State) : exec (.tinv rd rs1 rs2) s = tagOp s rd rs1 rs2 1 tinvAct := rfl

/-- Settles O35: each form is an access of one set, with what its act makes of a hit, a miss, an invalid way and a victim. That a new
entry's reserved bits are 0 is the model's choice (DESIGN CHOICE, notes/assumptions/73.md). -/
theorem tagTables : Obligations.TagTables := by
  unfold Obligations.TagTables
  intro s t rd rs1 rs2 d a b tab va hw dbase lsz wlog slog n key set ke at' es line low size off
    haligned hlow hhigh hlsz hlsz' hslog hdbase htable hlines hsb hflights hpushes hepoch hsound hset
  have ht : s.HasTable tab ⟨dbase, lsz, wlog, slog⟩ :=
    { aligned := haligned, inWindow := ⟨hlow, hhigh⟩, header := tagHeader_eq hw, buffer := hsb, flights := hflights
      pushes := hpushes, sound := hsound, noEpoch := hepoch
      accepted := by simp [TagHeader.ok, hlsz, hlsz', hslog, hdbase, htable, hlines, off, size, n] }
  refine ⟨fun hc => ?_, fun hc => ?_⟩
  · have hwrites := fun {act ws es1} => hc.tagOp_retires ht rfl rfl hset two_pos (act := act) (ws := ws) (es := es1)
    have hreads := fun {act ws} => hc.tagOp_reads ht rfl rfl hset two_pos (act := act) (ws := ws)
    rw [exec_tlook, exec_tins]
    refine ⟨fun w hhit => ?_, fun hmiss => ?_, fun w hhit => ?_, fun w hmiss hbelow hw hinv => ?_, fun hmiss hvalid => ?_⟩
    · exact hwrites (tlookAct_of_hit hhit) (length_tagTouch _)
    · exact hreads (tlookAct_of_miss hmiss)
    · exact hwrites (tinsAct_of_hit hhit) (length_tagTouch _)
    · exact hwrites (tinsAct_of_invalid (TagHeader.length_setOf ..) hmiss hw hbelow hinv) (List.length_set.trans (length_tagTouch _))
    · split
      · next w hv => exact hwrites (tinsAct_of_victim hmiss hvalid hv) (List.length_set.trans (length_tagTouch _))
      · next hv => exact hreads (tinsAct_of_pinned hmiss hvalid hv)
  · rw [exec_tinv]
    refine ⟨fun w hhit => ?_, fun hmiss => ?_⟩
    · exact hc.tagOp_retires ht rfl rfl hset one_pos (tinvAct_of_hit hhit) length_tagCleared
    · exact hc.tagOp_reads ht rfl rfl hset one_pos (tinvAct_of_miss hmiss)

end Sys2Proof.Machine
end

section
/-! What a thread asks about its jobs (R139 to R142, R240, R241). -/

namespace Sys2Proof.Machine

section
variable {s : State} {t : Thread} {us : List RegUse}

theorem issueOnCompute_of_compute (h : isOpt (coreOf s.cur) = false) (us : List RegUse) (body : State → Ctx → State) :
    issueOnCompute s us body = issue s false us body := by
  rw [issueOnCompute, h]
  rfl

theorem CanIssue.park (h : CanIssue s t us) (c : Cond) :
    s.park s.cur c = { s.setThread s.cur { t with run := .waiting c } with latch := {} } := by
  rw [State.park, if_neg (not_not.2 h.direct), State.modThread_of_thread h.thread]

/-- An instruction that changes its thread, but for its ports, and retires with results. -/
theorem CanIssue.finish_setThread (h : CanIssue s t us) {t1 : Thread} (hports : t1.ports = t.ports) {u : RegUse} (hu : u ∈ us)
    (hn : u.n ∈ u.regs) (w npc : Word) (ws : List Word) :
    (s.setThread s.cur t1).finish ⟨s.cur, t, w, npc, us⟩ u.n ws = s.retires (t1.setXs u.n ws) npc := by
  have hport : t1.portOf u.n = none := portOf_none fun p hp => h.unbound p (hports ▸ hp) u hu _ hn
  rw [← State.retires_setThread s t1 (t1.setXs u.n ws) npc]
  exact State.finish_of_unbound (u := s.setThread s.cur t1) (h.handles w npc) rfl (State.thread?_setThread_self ..) h.direct hport ws

variable {rd rs1 : BitVec 5} {m : Bool} {k : Nat} (hk : k = if m then 2 else 1)
  (hcompute : isOpt (coreOf s.cur) = false) (h : CanIssue s t [rs (s.latch.rs1 rs1), rdst (s.latch.rd rd) k])

/-- What a poll reads of the job that register rs1 names: the state kept for it, or state 6 where it is of the other kind (R140). -/
def State.polled (s : State) (t : Thread) (matrix : Bool) (rs1 : BitVec 5) : JobState :=
  let r := t.jobNamed s.cur (t.x (s.latch.rs1 rs1))
  if r.matrix == matrix then s.jobState r else ⟨0, 6, 0, 0, 0⟩

include hk hcompute h

/-- hpoll and mpoll, and hwait and mwait of a job that is final, retire with the words of the job's state. -/
theorem CanIssue.pollForm_retires {waits : Bool} (hfinal : waits = true → 2 ≤ (s.polled t m rs1).state) :
    pollForm s rd rs1 m waits = .next (s.retires (t.setXs (s.latch.rd rd)
      (if m then [(s.polled t m rs1).word, (s.polled t m rs1).info] else [(s.polled t m rs1).word])) (s.nextPc t)) := by
  subst hk
  have hstay : (waits && decide ((s.polled t m rs1).state < 2)) = false := by
    rw [Bool.and_eq_false_imp]
    exact fun hw => decide_eq_false (Nat.not_lt.2 (hfinal hw))
  have hx : t.src (s.latch.rs1 rs1) = t.x (s.latch.rs1 rs1) := h.src_rs (by simp)
  have hpolled (w npc : Word) (us : List RegUse) :
      s.pollState ⟨s.cur, t, w, npc, us⟩ m (t.x (s.latch.rs1 rs1)) = s.polled t m rs1 := rfl
  have hdest : s.latch.rd rd ∈ (rdst (s.latch.rd rd) (if m then 2 else 1)).regs := by cases m <;> simp [rdst, RegUse.regs]
  rw [pollForm, issueOnCompute_of_compute hcompute, h.issue]
  simp only [Ctx.x, hx, hpolled, hstay]
  exact congrArg _ (h.finish (u := rdst _ _) (by simp) hdest _ _ _)

/-- hwait and mwait of a job that is not final leave the thread waiting for it (R141, R240). -/
theorem CanIssue.pollForm_waits (hnot : (s.polled t m rs1).state < 2) :
    pollForm s rd rs1 m true = .next { s.setThread s.cur { t with
      run := .waiting (.jobsFinal [t.jobNamed s.cur (t.x (s.latch.rs1 rs1))]) } with latch := {} } := by
  subst hk
  have hx : t.src (s.latch.rs1 rs1) = t.x (s.latch.rs1 rs1) := h.src_rs (by simp)
  have hpolled (w npc : Word) (us : List RegUse) :
      s.pollState ⟨s.cur, t, w, npc, us⟩ m (t.x (s.latch.rs1 rs1)) = s.polled t m rs1 := rfl
  rw [pollForm, issueOnCompute_of_compute hcompute, h.issue]
  simp only [Ctx.x, hx, hpolled, hnot, decide_true, Bool.and_self, if_true, h.park]
end

section
variable {s : State} {t : Thread} {rd rs1 : BitVec 5} (hcompute : isOpt (coreOf s.cur) = false)
  (h : CanIssue s t [rs (s.latch.rs1 rs1), rdst (s.latch.rd rd)])
include hcompute h

/-- jobint tells of a final job (0) and of eight armed (2), and otherwise arms the job (R142). -/
theorem CanIssue.jobint : exec (.jobint rd rs1) s = .next (s.retires
    (if 2 ≤ (s.jobState (t.jobNamed s.cur (t.x (s.latch.rs1 rs1)))).state then t.setX (s.latch.rd rd) 0
      else if 8 ≤ t.armed.length then t.setX (s.latch.rd rd) 2
      else { t with armed := t.armed ++ [t.jobNamed s.cur (t.x (s.latch.rs1 rs1))], armedAt := some s.cycle }.setX (s.latch.rd rd) 1)
    (s.nextPc t)) := by
  have hx : t.src (s.latch.rs1 rs1) = t.x (s.latch.rs1 rs1) := h.src_rs (by simp)
  have hmember : rdst (s.latch.rd rd) ∈ [rs (s.latch.rs1 rs1), rdst (s.latch.rd rd)] := by simp
  have hdest : (rdst (s.latch.rd rd)).n ∈ (rdst (s.latch.rd rd)).regs := by simp
  show execJobint rd rs1 s = _
  rw [execJobint, issueOnCompute_of_compute hcompute, h.issue]
  simp only [Ctx.x, hx, State.modThread_of_thread h.thread]
  split
  · exact congrArg _ (h.finish hmember hdest _ _ _)
  · split
    · exact congrArg _ (h.finish hmember hdest _ _ _)
    · exact congrArg _ (h.finish_setThread (by rfl) hmember hdest _ _ _)

/-- mrestart takes a multiple of 4 as the restart label, and clears the mark (R241). -/
theorem CanIssue.mrestart : exec (.mrestart rd rs1) s = .next
    (if (t.x (s.latch.rs1 rs1)).toNat % 4 = 0 then
      s.retires ({ t with mlabel := t.x (s.latch.rs1 rs1), mark := false }.setX (s.latch.rd rd) t.mlabel) (s.nextPc t)
    else s.trapAt s.cur 0x03 (t.x (s.latch.rs1 rs1)) t.pc) := by
  have hx : t.src (s.latch.rs1 rs1) = t.x (s.latch.rs1 rs1) := h.src_rs (by simp)
  show execMrestart rd rs1 s = _
  rw [execMrestart, issueOnCompute_of_compute hcompute, h.issue]
  simp only [Ctx.x, hx, State.modThread_of_thread h.thread, h.trapc (show 0x03 < 2 ^ 32 by decide), ite_not]
  split
  · exact congrArg _ (h.finish_setThread (by rfl) (u := rdst (s.latch.rd rd)) (by simp) (by simp) _ _ _)
  · rfl
end

section
variable {s : State} {t : Thread} {m : Bool} {rs1 : BitVec 5}

theorem State.polled_same (h : (t.jobNamed s.cur (t.x (s.latch.rs1 rs1))).matrix = m) :
    s.polled t m rs1 = s.jobState (t.jobNamed s.cur (t.x (s.latch.rs1 rs1))) := by
  rw [State.polled, h, if_pos (beq_self_eq_true m)]

theorem State.polled_other (h : (t.jobNamed s.cur (t.x (s.latch.rs1 rs1))).matrix ≠ m) : s.polled t m rs1 = ⟨0, 6, 0, 0, 0⟩ := by
  rw [State.polled, if_neg (by rwa [beq_iff_eq])]

/-- A job of the other kind reads as final. -/
theorem State.polled_final (h : (t.jobNamed s.cur (t.x (s.latch.rs1 rs1))).matrix ≠ m ∨
    2 ≤ (s.jobState (t.jobNamed s.cur (t.x (s.latch.rs1 rs1)))).state) : 2 ≤ (s.polled t m rs1).state := by
  by_cases hm : (t.jobNamed s.cur (t.x (s.latch.rs1 rs1))).matrix = m
  · rw [State.polled_same hm]
    exact h.resolve_left (not_not.2 hm)
  · rw [State.polled_other hm]
    decide

/-- The word that hpoll and hwait write, and the words that mpoll and mwait write. -/
theorem State.polled_word : [(s.polled t false rs1).word] =
    [if (t.jobNamed s.cur (t.x (s.latch.rs1 rs1))).matrix = true then 6
      else (s.jobState (t.jobNamed s.cur (t.x (s.latch.rs1 rs1)))).word] := by
  split
  · next hm => rw [State.polled_other (by rw [hm]; decide)]; rfl
  · next hm => rw [State.polled_same (Bool.eq_false_of_not_eq_true hm)]

theorem State.polled_words : [(s.polled t true rs1).word, (s.polled t true rs1).info] =
    if (t.jobNamed s.cur (t.x (s.latch.rs1 rs1))).matrix = true then
      [(s.jobState (t.jobNamed s.cur (t.x (s.latch.rs1 rs1)))).word, (s.jobState (t.jobNamed s.cur (t.x (s.latch.rs1 rs1)))).info]
    else [6, 0] := by
  split
  · next hm => rw [State.polled_same hm]
  · next hm => rw [State.polled_other hm]; rfl
end

/-- Settles O39: each form reads the state kept for the job named. That a job armed already is armed again and counts once more is the
model's choice (DESIGN CHOICE, notes/assumptions/65.md). -/
theorem jobQueries : Obligations.JobQueries := by
  unfold Obligations.JobQueries
  intro s t rd rs1 hcompute
  dsimp only
  refine ⟨fun h => ?_, fun h => ?_⟩
  · have hpoll (waits : Bool) := h.pollForm_retires (waits := waits) (m := false) rfl hcompute
    have hmrestart := h.mrestart hcompute
    rw [if_neg Bool.false_ne_true, State.polled_word] at hpoll
    refine ⟨hpoll false nofun, fun hfinal => hpoll true fun _ => State.polled_final ?_, fun hkind hnot => ?_, h.jobint hcompute,
      fun h4 => ?_, fun h4 => ?_⟩
    · rwa [Bool.ne_false_iff]
    · rw [← State.polled_same hkind] at hnot
      exact ⟨_, h.pollForm_waits rfl hcompute hnot, State.thread?_setThread_self .., rfl⟩
    · rwa [if_pos h4] at hmrestart
    · rwa [if_neg h4] at hmrestart
  · have hpoll (waits : Bool) := h.pollForm_retires (waits := waits) (m := true) rfl hcompute
    rw [if_pos rfl, State.polled_words] at hpoll
    refine ⟨hpoll false nofun, fun hfinal => hpoll true fun _ => State.polled_final ?_, fun hkind hnot => ?_⟩
    · rwa [ne_eq, Bool.not_eq_true]
    · rw [← State.polled_same hkind] at hnot
      exact ⟨_, h.pollForm_waits rfl hcompute hnot, State.thread?_setThread_self .., rfl⟩

end Sys2Proof.Machine
end

section
/-! The acceptance of a job by an octet's queue (R127, R128): which slot is granted, and what the grant leaves. -/

namespace Sys2Proof.Machine

/-! A core that issues nothing more in the cycle -/

theorem firstAfter_some {p n : Nat} {f : Nat → Bool} (h : firstAfter p f = some n) : n < 64 ∧ f n = true := by
  obtain ⟨hn, hf⟩ := And.intro (List.mem_of_find?_eq_some h) (List.find?_some h)
  obtain ⟨i, -, rfl⟩ := List.mem_map.1 hn
  exact ⟨Nat.mod_lt _ (by decide), hf⟩

theorem amGet_isSome_of_mem {α : Type} {m : AMap α} {p : Nat × α} (h : p ∈ m) : (amGet m p.1).isSome = true := by
  induction m with
  | nil => cases h
  | cons q m ih =>
    rw [amGet]
    split
    · rfl
    · next hne => exact ih ((List.mem_cons.1 h).resolve_left fun e => hne (congrArg Prod.fst e).symm)

section
variable {s : State} {core : Nat}

/-- The barrel grants no slot of a core none of whose slots may issue (R311). -/
theorem State.grant_eq_none (h : ∀ n < 64, s.canIssue core n = false) : (s.grant core).1 = none := by
  have hnone {p : Nat} {f : Nat → Bool} (hf : ∀ n, f n = true → s.canIssue core n = true) : firstAfter p f = none := by
    by_contra hne
    obtain ⟨n, hn⟩ := Option.ne_none_iff_exists'.1 hne
    obtain ⟨hlt, hfn⟩ := firstAfter_some hn
    exact Bool.false_ne_true ((h n hlt).symm.trans (hf n hfn))
  have hcan (p : Nat) : firstAfter p (fun n => s.canIssue core n) = none := hnone fun _ => id
  have hlend (p : Nat) (g : Nat → Bool) : firstAfter p (fun n => s.canIssue core n && g n) = none :=
    hnone fun n hn => (Bool.and_eq_true_iff.1 hn).1
  unfold State.grant
  simp only [hcan, hlend, Bool.and_assoc]
  rw [ite_self]
  split
  · rfl
  · next o ho => rw [h o (firstAfter_some ho).1]; rfl

theorem State.issuesNext_of_issued (f : Instr → Bool) (h : (s.core core).issuedAt = some s.cycle) : s.issuesNext core f = false := by
  simp [State.issuesNext, h]

theorem State.issuesNext_of_empty (f : Instr → Bool) (h : ∀ slot, coreOf slot = core → s.thread? slot = none) :
    s.issuesNext core f = false := by
  have hgrant : (s.grant core).1 = none := State.grant_eq_none fun n hn => by
    rw [State.canIssue, h _ (by rw [coreOf]; omega)]
  have hthreads (p : Nat × Thread) (hp : p ∈ s.threads) : coreOf p.1 ≠ core := fun hcore => by
    have hsome := amGet_isSome_of_mem hp
    rw [← State.thread?, h _ hcore] at hsome
    cases hsome
  unfold State.issuesNext
  dsimp only
  rw [hgrant, Option.bind_none, Option.getD_none, Bool.false_or, Bool.and_eq_false_iff, List.any_eq_false]
  refine .inr fun p hp => ?_
  simp [hthreads p hp]
end

/-! The slot granted (R128) -/

section
variable {slot : Nat} {m : Bool}

/-- A candidate alone of its kind is next where an entry is free. -/
theorem Octet.nextCandidate_alone {o : Octet} (hmine : (o.candidates.filter fun c => c.2 == m).map (·.1) = [slot])
    (hroom : (if m then o.matrix else o.haul).length < 16) : o.nextCandidate m = some slot := by
  have hsearched : coreOf slot % 8 ∈ o.searched m := by
    rw [Octet.searched, List.mem_map]
    generalize (if m = true then o.matLast else o.haulLast) = last
    exact ⟨(coreOf slot % 8 + 8 - (last + 1) % 8) % 8, List.mem_range.2 (by omega), by omega⟩
  rw [Octet.nextCandidate, if_neg (Nat.not_le.2 hroom)]
  dsimp only
  rw [hmine]
  cases hfound : (o.searched m).findSome? fun c => [slot].find? fun slot => coreOf slot % 8 == c with
  | none => simpa using List.findSome?_eq_none_iff.1 hfound _ hsearched
  | some n =>
    obtain ⟨c, -, hc⟩ := List.exists_of_findSome?_eq_some hfound
    rw [← List.mem_singleton.1 (List.mem_of_find?_eq_some hc)]

section
variable {s : State} {oct : Nat} (hoct : octetOf (coreOf slot) = oct)
  (hmine : ((s.octet oct).candidates.filter fun c => c.2 == m).map (·.1) = [slot])
  (hroom : (if m then (s.octet oct).matrix else (s.octet oct).haul).length < 16)
  (hat : (if m then (s.octet oct).matAt else (s.octet oct).haulAt) ≠ some s.cycle)
  (hothers : ∀ c, c < 8 → oct * 8 + c ≠ coreOf slot →
    (s.core (oct * 8 + c)).issuedAt = some s.cycle ∨ ∀ n, coreOf n = oct * 8 + c → s.thread? n = none)
include hoct hmine hroom hat hothers

/-- A candidate alone of its kind is granted where the queue has accepted none in the cycle and every other core of the octet has issued
or holds no thread. -/
theorem State.grantedSlot_alone : s.grantedSlot oct m = some slot := by
  have hidle (c : Nat) (hlt : c < 8) (hne : c ≠ coreOf slot % 8) : s.issuesNext (oct * 8 + c) (issuesJob m) = false := by
    have hcore : oct * 8 + c ≠ coreOf slot := by rw [octetOf] at hoct; omega
    exact (hothers c hlt hcore).elim (State.issuesNext_of_issued _) (State.issuesNext_of_empty _)
  rw [State.grantedSlot, if_neg hat, Octet.nextCandidate_alone hmine hroom, Option.filter_some, if_pos]
  rw [Bool.not_eq_true', List.any_eq_false]
  intro c hc
  have hsearched := List.takeWhile_subset _ hc
  have hne := List.mem_takeWhile_imp hc
  obtain ⟨i, -, rfl⟩ := List.mem_map.1 hsearched
  rw [hidle _ (Nat.mod_lt _ (by decide)) (by simpa using hne)]
  exact Bool.false_ne_true

/-- The grant takes the candidate from the octet and gives its instruction to the acceptance. -/
theorem State.acceptOne_alone {t : Thread} {p : Pend} (ht : s.thread? slot = some t) (hp : t.pend = some p)
    (accept : State → Nat → Thread → Pend → Option State) : s.acceptOne oct m accept =
      (accept ((s.dropCandidate slot m).setThread slot { t with pend := none }) slot t p).getD s := by
  have hdrop : (s.dropCandidate slot m).thread? slot = some t := ht
  simp only [State.acceptOne, State.grantedSlot_alone hoct hmine hroom hat hothers, ht, hp, State.modThread_of_thread hdrop]
end
end

/-! The instruction that presents a candidate (R128) -/

/-- A candidate as an instruction presents it, with the words it has read. -/
def presented (rd op : Nat) (npc d : Word) (got : List Word) : Pend :=
  ⟨.none, rd, npc, [], got.zipIdx.map fun w => (w.2, w.1), [], 8, op, d, []⟩

/-- The executing thread presents a candidate: it waits for the acceptance. -/
def State.presents (s : State) (t : Thread) (m : Bool) (p : Pend) : State :=
  let o := s.octet (octetOf (coreOf s.cur))
  ((s.setThread s.cur { t with run := .waiting (.acceptance m), pend := some p }).setOctet (octetOf (coreOf s.cur))
    { o with candidates := o.candidates ++ [(s.cur, m)] }).between

/-- The state in which that candidate is granted. -/
def State.atGrant (s : State) (t : Thread) (m : Bool) : State :=
  ((s.setThread s.cur { t with run := .waiting (.acceptance m), pend := none }).setOctet (octetOf (coreOf s.cur))
    (s.octet (octetOf (coreOf s.cur)))).between

section
variable {s : State} {t : Thread} {us : List RegUse} {m : Bool} {p : Pend}

theorem State.dropCandidate_presents (hkind : ∀ c ∈ (s.octet (octetOf (coreOf s.cur))).candidates, c.2 ≠ m) :
    ((s.presents t m p).dropCandidate s.cur m).setThread s.cur { t with run := .waiting (.acceptance m), pend := none } =
      s.atGrant t m := by
  have hkept : ((s.octet (octetOf (coreOf s.cur))).candidates ++ [(s.cur, m)]).filter (· != (s.cur, m)) =
      (s.octet (octetOf (coreOf s.cur))).candidates := by
    rw [List.filter_append, List.filter_eq_self.2 fun c hc => bne_iff_ne.2 fun e => hkind c hc (congrArg Prod.snd e)]
    simp
  have hread : (s.presents t m p).octet (octetOf (coreOf s.cur)) =
      { s.octet (octetOf (coreOf s.cur)) with candidates := (s.octet (octetOf (coreOf s.cur))).candidates ++ [(s.cur, m)] } :=
    (State.octet_setOctet ..).trans (if_pos rfl)
  rw [State.dropCandidate, State.modOctet, hread]
  dsimp only
  rw [hkept]
  simp only [State.setThread, State.setOctet, State.presents, State.atGrant, State.between, amPut_amPut]

/-- A candidate that finds none of its kind, and room, is granted in the cycle. -/
theorem CanIssue.present (h : CanIssue s t us) (hq : QueueFree s m) (w npc : Word) (rd op : Nat) (d : Word) (got : List Word)
    (accept : State → Nat → Thread → Pend → Option State) {u : State}
    (hu : accept (s.atGrant t m) s.cur { t with run := .waiting (.acceptance m), pend := some (presented rd op npc d got) }
      (presented rd op npc d got) = some u) :
    s.present ⟨s.cur, t, w, npc, us⟩ m rd op d got accept = u := by
  obtain ⟨hkind, hroom, hat, hothers⟩ := hq
  have halone : (!(s.octet (octetOf (coreOf s.cur))).candidates.any fun x => x.2 == m) = true := by
    rw [Bool.not_eq_true', List.any_eq_false]
    exact fun c hc => by simpa using hkind c hc
  have hmine : (((s.octet (octetOf (coreOf s.cur))).candidates ++ [(s.cur, m)]).filter fun c => c.2 == m).map (·.1) = [s.cur] := by
    rw [List.filter_append, List.filter_eq_nil_iff.2 fun c hc => by simpa using hkind c hc]
    simp
  have hread : (s.presents t m (presented rd op npc d got)).octet (octetOf (coreOf s.cur)) =
      { s.octet (octetOf (coreOf s.cur)) with candidates := (s.octet (octetOf (coreOf s.cur))).candidates ++ [(s.cur, m)] } :=
    (State.octet_setOctet ..).trans (if_pos rfl)
  have hpresents : s.present ⟨s.cur, t, w, npc, us⟩ m rd op d got accept =
      (s.presents t m (presented rd op npc d got)).acceptOne (octetOf (coreOf s.cur)) m accept := by
    have hhandles : Ctx.handles ⟨s.cur, t, w, npc, us⟩ = [] := h.handles w npc
    simp only [State.present, Ctx.core, halone, if_true, State.modThread_of_thread h.thread, hhandles]
    rfl
  have hgrant := State.acceptOne_alone (s := s.presents t m (presented rd op npc d got)) (oct := octetOf (coreOf s.cur)) rfl
    (by rw [hread]; exact hmine) (by rw [hread]; exact hroom) (by rw [hread]; exact hat) (fun c hlt hne => ?_)
    (State.thread?_setThread_self ..) rfl accept
  · rw [hpresents, hgrant]
    rw [State.dropCandidate_presents hkind, hu, Option.getD_some]
  · refine (hothers c hlt hne).imp id fun hempty n hn => ?_
    have hcur : s.cur ≠ n := fun e => hne (hn.symm.trans (congrArg coreOf e.symm))
    exact (State.thread?_setThread ..).trans ((if_neg hcur).trans (hempty n hn))
end

/-! A job accepted (R127, R140) -/

/-- The name of the next job of a kind that a core's thread issues. -/
def State.nextJob (s : State) (core : Nat) (m : Bool) : JobRef :=
  ⟨octetOf core, m, core % 8, if m then (s.core core).matSeq else (s.core core).haulSeq⟩

/-- A core whose job under the next sequence number is queued. -/
def Core.queues1 (c : Core) (m : Bool) (info : Word) : Core :=
  let keep (seq : Nat) (l : List JobState) : List JobState := (⟨seq, 0, 0, 0, info⟩ :: l.filter (·.seq != seq)).take 64
  if m then { c with matSeq := (c.matSeq + 1) % 4096, matStates := keep c.matSeq c.matStates }
  else { c with haulSeq := (c.haulSeq + 1) % 4096, haulStates := keep c.haulSeq c.haulStates }

/-- An octet that takes a job of a kind in a cycle. -/
def Octet.takes (o : Octet) (m : Bool) (j : Job) (cycle : Nat) : Octet :=
  if m then { o with matrix := o.matrix ++ [j], matLast := j.ref.core, matAt := some cycle }
  else { o with haul := o.haul ++ [j], haulLast := j.ref.core, haulAt := some cycle }

/-- A thread one of whose jobs has been accepted. -/
def Thread.names (t : Thread) (r : JobRef) : Thread :=
  let old := t.jobMap.filter fun x => !(x.matrix == r.matrix && x.core == r.core && x.seq == r.seq)
  let kinds := (old.filter fun x => x.matrix == r.matrix).take 63
  { t with jobs := t.jobs ++ [r], jobMap := r :: (kinds ++ old.filter fun x => x.matrix != r.matrix), mark := t.mark || r.matrix }

theorem State.writeRegs_setThread {t : Thread} {n : Nat} (hp : t.portOf n = none) (s : State) (slot : Nat) (w : Word) :
    (s.setThread slot t).writeRegs slot n [w] = s.setThread slot (t.setX n w) := by
  simp [State.writeRegs, hp]

section
variable {u : State} {slot : Nat} {t : Thread} {p : Pend} {m : Bool} {mk : JobRef → Job} (hr : u.latch.replay = 0)
  (ht : u.thread? slot = some t) (hport : t.portOf p.rd = none) (hkeys : p.keys = [])
  (href : (mk (u.nextJob (coreOf slot) m)).ref = u.nextJob (coreOf slot) m)
include hr ht hport hkeys href

/-- A job accepted has its number, its place in the queue and in the thread's job map; its instruction retires with its identifier. -/
theorem State.enqueue_eq : u.enqueue slot p m mk =
    (((u.setCore (coreOf slot) ((u.core (coreOf slot)).queues1 m (mk (u.nextJob (coreOf slot) m)).info)).setOctet
      (octetOf (coreOf slot)) ((u.octet (octetOf (coreOf slot))).takes m (mk (u.nextJob (coreOf slot) m)) u.cycle)).setThread slot
      (((t.names (u.nextJob (coreOf slot) m)).setX p.rd (BitVec.ofNat 64 (u.nextJob (coreOf slot) m).ident)).retired p.npc)).between := by
  have hshape : u.enqueue slot p m mk =
      (((((u.setCore (coreOf slot) ((u.core (coreOf slot)).queues1 m (mk (u.nextJob (coreOf slot) m)).info)).setOctet
        (octetOf (coreOf slot)) ((u.octet (octetOf (coreOf slot))).takes m (mk (u.nextJob (coreOf slot) m)) u.cycle)).modThread slot
        (·.names (u.nextJob (coreOf slot) m))).popHandles slot p.keys).writeRegs slot p.rd
        [BitVec.ofNat 64 (u.nextJob (coreOf slot) m).ident]).retire slot p.npc := by
    rw [Octet.takes, href]
    cases m <;> rfl
  have hnames (x : State) (hx : x.thread? slot = some t) (r : JobRef) :
      x.modThread slot (·.names r) = x.setThread slot (t.names r) := State.modThread_of_thread hx _
  rw [hshape, hkeys, hnames _ (by exact ht), State.popHandles, List.foldl_nil, State.writeRegs_setThread (by exact hport),
    State.retire_setThread _ _ _ (by exact hr)]
  rfl
end

theorem JobRef.coreNo_nextJob (s : State) (core : Nat) (m : Bool) : (s.nextJob core m).coreNo = core := by
  show octetOf core * 8 + core % 8 = core
  rw [octetOf]
  omega

theorem JobRef.ident_nextJob (s : State) (core : Nat) (m : Bool) : (s.nextJob core m).ident =
    (if m then 2 ^ 15 else 0) + core % 8 * 2 ^ 12 + (if m then (s.core core).matSeq else (s.core core).haulSeq) % 2 ^ 12 := by
  show _ + core % 8 % 8 * 2 ^ 12 + _ = _
  rw [Nat.mod_mod]
  rfl

/-- The state that a core keeps for the job it has just queued. -/
theorem State.jobState_queues1 {s u : State} {core : Nat} {m : Bool} {info : Word}
    (h : u.core core = (s.core core).queues1 m info) : (u.jobState (s.nextJob core m)).state = 0 := by
  rw [State.jobState, JobRef.coreNo_nextJob, h]
  cases m <;> simp [State.nextJob, Core.queues1]

/-- The registers of a thread that has retired with a result, whatever else of it has changed. -/
theorem Thread.reg_setX_congr {t t1 : Thread} (h : t1.regs = t.regs) (d : Nat) (v : Word) (n : Nat) :
    (t1.setX d v).reg n = (t.setX d v).reg n := by
  have hregs : (t1.setX d v).regs = (t.setX d v).regs := by
    unfold Thread.setX
    split
    · exact h
    · rw [h]
  rw [Thread.reg, Thread.reg, hregs]

/-- A result changes the registers alone. -/
theorem Thread.setX_eq (t : Thread) (d : Nat) (v : Word) : t.setX d v = { t with regs := (t.setX d v).regs } := by
  unfold Thread.setX
  split <;> rfl

section
variable {s : State} {t : Thread} {us : List RegUse} {m : Bool} {d : Nat} {mk : JobRef → Job}

/-- The grant's acceptance of a job is that of the instruction that presented it. -/
theorem CanIssue.accepts (h : CanIssue s t us) (hd : rdst d ∈ us) {p : Pend} (hp : p.rd = d) (hkeys : p.keys = [])
    (hnpc : p.npc = s.nextPc t) {P : Job → Prop} (hP : P (mk (s.nextJob (coreOf s.cur) m)))
    (hmk : ∀ r, (mk r).ref = r ∧ (mk r).slot = s.cur ∧ (mk r).tenant = t.tenant ∧ (mk r).launch = t.launch ∧ (mk r).state = 0 ∧
      (mk r).pos = 0 ∧ (mk r).updates = []) :
    Accepts s (.next ((s.atGrant t m).enqueue s.cur p m mk)) t d m P := by
  subst hp
  obtain ⟨href, hslot, htenant, hlaunch, hstate, hpos, hupdates⟩ := hmk (s.nextJob (coreOf s.cur) m)
  have hport : t.portOf p.rd = none := portOf_none fun x hx => h.unbound x hx _ hd _ (by simp)
  have heq := State.enqueue_eq (u := s.atGrant t m) (slot := s.cur) (m := m) (mk := mk) rfl (State.thread?_setThread_self ..) hport
    hkeys href
  have hoctet : (s.atGrant t m).octet (octetOf (coreOf s.cur)) = s.octet (octetOf (coreOf s.cur)) :=
    (State.octet_setOctet ..).trans (if_pos rfl)
  refine ⟨_, mk (s.nextJob (coreOf s.cur) m), _, rfl, hP, href, hslot, htenant, hlaunch, hstate, hpos, hupdates, ?_,
    by rw [heq]; exact State.thread?_setThread_self .., ?_⟩
  · have hqueue : ((s.atGrant t m).enqueue s.cur p m mk).octet (octetOf (coreOf s.cur)) =
        (s.octet (octetOf (coreOf s.cur))).takes m (mk (s.nextJob (coreOf s.cur) m)) s.cycle := by
      rw [heq, ← hoctet]
      exact (State.octet_setOctet ..).trans (if_pos rfl)
    rw [hqueue]
    cases m <;> rfl
  · have hcore : ((s.atGrant t m).enqueue s.cur p m mk).core (coreOf s.cur) =
        (s.core (coreOf s.cur)).queues1 m (mk (s.nextJob (coreOf s.cur) m)).info := by
      rw [heq]
      exact (State.core_setCore ..).trans (if_pos rfl)
    rw [Thread.setX_eq]
    refine ⟨hnpc, rfl, rfl, rfl, rfl, rfl, rfl, fun n => ?_, State.jobState_queues1 hcore, ?_, by rw [heq]; rfl⟩
    · rw [← JobRef.ident_nextJob]
      exact Thread.reg_setX_congr (t := t) (t1 := ({ t with run := .waiting (.acceptance m), pend := none } : Thread).names
        (s.nextJob (coreOf s.cur) m)) rfl _ _ n
    · rw [hcore]
      cases m <;> rfl
end

end Sys2Proof.Machine
end

section
/-! The words of a descriptor in the issuing core's own store, as the grant reads them (R129, R295). -/

namespace Sys2Proof.Machine

/-! What an access's checks do not look at -/

/-- The state with other threads, octets and instruction words, and another count of undetermined values. -/
def State.reframed (s : State) (th : AMap Thread) (oc : AMap Octet) (l : Latch) (fr : Nat) : State :=
  { s with threads := th, octets := oc, latch := l, fresh := fr }

section
variable (s : State) (th : AMap Thread) (oc : AMap Octet) (l : Latch) (fr : Nat)

theorem State.settle_reframed (k : Nat) : (s.reframed th oc l fr).settle k = (s.settle k).reframed th oc l fr := by
  unfold State.settle
  by_cases h : s.mem.upsets.contains k = true
  · rw [if_pos h]
    exact if_pos h
  · rw [if_neg h]
    exact if_neg h

theorem State.translate_reframed (core tn va : Nat) : (s.reframed th oc l fr).translate core tn va =
    ((s.translate core tn va).1.reframed th oc l fr, (s.translate core tn va).2) := by
  have hcore : (s.reframed th oc l fr).core core = s.core core := rfl
  have hcluster : (s.reframed th oc l fr).cluster (clusterOf core) = s.cluster (clusterOf core) := rfl
  have hwalk : (s.reframed th oc l fr).walk tn va = s.walk tn va := rfl
  unfold State.translate
  rw [hcore]
  cases tlbFind (s.core core).tlb tn va with
  | some e => rfl
  | none =>
    dsimp only
    rw [hcluster, hwalk]
    cases (if isOpt core then none else tlbFind (s.cluster (clusterOf core)).tlb tn va) with
    | some e => rfl
    | none =>
      dsimp only
      rcases s.walk tn va with ⟨cause, k⟩ | ⟨leaf, base, size, x⟩
      · dsimp only
        split
        · rw [State.settle_reframed]
        · rfl
      · dsimp only
        split <;> rfl

/-- Where an access leads does not depend on threads, engines or what is executing. -/
theorem State.resolve_reframed (core tn ms va : Nat) (a : Access) : (s.reframed th oc l fr).resolve core tn ms va a =
    ((s.resolve core tn ms va a).1.reframed th oc l fr, (s.resolve core tn ms va a).2) := by
  unfold State.resolve
  split
  · rfl
  · split
    · cases windowOf core va with
      | none => rfl
      | some x =>
        cases x with
        | store c ad own =>
          have hassigned : (s.reframed th oc l fr).assigned c tn = s.assigned c tn := rfl
          dsimp only
          rw [hassigned]
          split
          · rfl
          · cases a <;> rfl
        | belay off => cases a <;> rfl
        | mem | peer | host => rfl
    · rw [State.translate_reframed]
      rcases s.translate core tn va with ⟨u, c | ⟨leaf, pa⟩⟩
      · rfl
      · dsimp only
        split <;> rfl
end

/-! A word that no store has still to reach -/

section
variable {s : State} {k : Nat}

theorem sbView_eq_zero {l : List SbEntry} (h : ∀ e ∈ l, ∀ w ∈ e.words, w.1 ≠ k) : sbView l k = (0, 0) := by
  have hwords (e : SbEntry) (he : e ∈ l) (f : BitVec 8 × Word → Nat × BitVec 8 × Word → BitVec 8 × Word) (a : BitVec 8 × Word) :
      e.words.foldl (fun a w => if w.1 = k then f a w else a) a = a := by
    have hnone := h e he
    generalize e.words = ws at hnone
    induction ws with
    | nil => rfl
    | cons w ws ih =>
      rw [List.foldl_cons, if_neg (hnone w (List.mem_cons_self ..))]
      exact ih fun x hx => hnone x (List.mem_cons_of_mem _ hx)
  unfold sbView
  generalize (0, 0) = a
  induction l with
  | nil => rfl
  | cons e l ih =>
    rw [List.foldl_cons, hwords e (List.mem_cons_self ..)]
    exact ih (fun x hx => h x (List.mem_cons_of_mem _ hx)) fun x hx => hwords x (List.mem_cons_of_mem _ hx)

/-- No push waits at one word where none waits at a word performed in order with it. -/
theorem State.pushesTo_word {slot : Nat} (h : s.pushesTo slot (atWord fun w => sameOrder w k) = []) :
    s.pushesTo slot (atWord fun w => w == k) = [] := by
  have himp (r : Except Nat Target) (hr : atWord (fun w => w == k) r = true) : atWord (fun w => sameOrder w k) r = true := by
    unfold atWord at hr ⊢
    split at hr
    · next x =>
      dsimp only
      cases hx : x.key with
      | none => rw [hx] at hr; cases hr
      | some n => rw [hx] at hr; simp_all [sameOrder]
    · cases hr
  unfold State.pushesTo at h ⊢
  split at h
  · simp only [List.flatMap_eq_nil_iff, List.map_eq_nil_iff, List.filter_eq_nil_iff, List.any_eq_true, not_exists, not_and] at h ⊢
    exact fun p hp q hq i hi hw => h p hp q hq i hi (himp _ hw)
  · rfl

/-- A load finds a settled word of the package at its home. -/
theorem State.findWord_of_settled (h : Settled s k) (hpoison : s.mem.poisoned k = false) (haway : isAway k = false) :
    s.findWord (coreOf s.cur) s.cur k 0xFF#8 = (s, .value (s.mem.word k)) := by
  obtain ⟨hbuffered, hbefore⟩ := h
  have hpushes : s.pushesTo s.cur (atWord fun w => sameOrder w k) = [] := (List.append_eq_nil_iff.1 hbefore).2
  have hview : sbView (s.core (coreOf s.cur)).sb k = (0, 0) := sbView_eq_zero hbuffered
  unfold State.findWord
  rw [State.pushesTo_word hpushes, hview, hbefore]
  unfold State.loadWord
  simp [hview, haway, State.readWord_of_sound hpoison]
end

/-! The descriptor -/

/-- The word number of an address of the own window's store, of a compute core, is that of a word of the package. -/
theorem isAway_ownKey {core va i n : Nat} (hc : isOpt core = false) (hlo : Config.ownBase ≤ va)
    (hhi : va + 8 * n ≤ Config.ownBase + storeSize core) (hi : i < n) :
    isAway ((storeBase core + (va - Config.ownBase)) / 8 + i) = false := by
  have hcore : core < Config.computeCores := by simpa [isOpt] using hc
  rw [storeSize, hc, if_neg Bool.false_ne_true] at hhi
  rw [isAway, storeBase, hc, if_neg Bool.false_ne_true, decide_eq_false_iff_not]
  unfold Config.computeCores at hcore
  unfold awayBase Config.packageBase
  unfold Config.ownBase Config.storeBytes at *
  omega

section
variable {s : State} {tn n : Nat} {va : Word} {ws : List Word}

/-- An access of the own window reaches the core's own store. -/
theorem State.resolve_own (s : State) {core ms v : Nat} (hlo : Config.ownBase ≤ v) (hhi : v < Config.ownBase + storeSize core) :
    s.resolve core tn ms v .load = (s, .ok (.store core (storeBase core + (v - Config.ownBase)) true)) := by
  have hin : v < 0x800000000000 := by
    unfold storeSize at hhi
    simp only [Config.ownBase, Config.optStoreBytes, Config.storeBytes] at *
    split at hhi <;> omega
  simp [State.resolve, windowOf, hlo, hhi, Nat.not_le.2 hin]

/-- The loads of a descriptor that lies settled in the own window read its words. -/
theorem State.descriptor_of_ownWords (hc : isOpt (coreOf s.cur) = false) (h : OwnWords s va n ws) :
    s.descriptor s.cur tn va n = (s, some (.ok ws)) := by
  obtain ⟨halign, hlo, hhi, hword, rfl⟩ := h
  induction n with
  | zero => rfl
  | succ n ih =>
    obtain ⟨hsettled, hsound⟩ := hword n (Nat.lt_succ_self n)
    have hkey : (storeBase (coreOf s.cur) + (va.toNat + 8 * n - Config.ownBase)) / 8 =
        (storeBase (coreOf s.cur) + (va.toNat - Config.ownBase)) / 8 + n := by omega
    rw [State.descriptor, ih (by omega) fun i hi => hword i (by omega)]
    dsimp only
    rw [State.resolve_own s (by omega) (by omega)]
    dsimp only
    rw [hkey, State.findWord_of_settled hsettled hsound (isAway_ownKey hc hlo hhi (Nat.lt_succ_self n))]
    dsimp only
    rw [List.range_succ, List.map_append]
    rfl
end

section
variable {s : State} {t : Thread} {m : Bool}

theorem State.atGrant_eq (s : State) (t : Thread) (m : Bool) : s.atGrant t m = s.reframed
    (amPut s.threads s.cur { t with run := .waiting (.acceptance m), pend := none })
    (amPut s.octets (octetOf (coreOf s.cur)) (s.octet (octetOf (coreOf s.cur)))) {} s.fresh := rfl

/-- What a word has still to wait for does not change from the issue to the grant. -/
theorem Settled.atGrant {k : Nat} (ht : s.thread? s.cur = some t) (h : Settled s k) : Settled (s.atGrant t m) k := by
  obtain ⟨hbuffered, hbefore⟩ := h
  refine ⟨hbuffered, ?_⟩
  have ht' : (s.atGrant t m).thread? s.cur = some { t with run := .waiting (.acceptance m), pend := none } :=
    State.thread?_setThread_self ..
  have hpushes : (s.atGrant t m).pushesTo s.cur (atWord fun w => sameOrder w k) =
      s.pushesTo s.cur (atWord fun w => sameOrder w k) := by
    unfold State.pushesTo
    rw [ht, ht', State.atGrant_eq]
    simp only [State.resolve_reframed]
  have hshape : (s.atGrant t m).ownBefore (coreOf s.cur) s.cur k = s.ownBefore (coreOf s.cur) s.cur k := by
    unfold State.ownBefore
    rw [hpushes, ht, ht']
    rfl
  exact hshape.trans hbefore

theorem OwnWords.atGrant {n : Nat} {va : Word} {ws : List Word} (ht : s.thread? s.cur = some t) (h : OwnWords s va n ws) :
    OwnWords (s.atGrant t m) va n ws := by
  obtain ⟨halign, hlo, hhi, hword, hws⟩ := h
  exact ⟨halign, hlo, hhi, fun i hi => ⟨(hword i hi).1.atGrant ht, (hword i hi).2⟩, hws⟩
end

end Sys2Proof.Machine
end

section
/-! The delivery of a trap at any level (R377, R378): where the thread is left, and that no register and no haul queue changes. -/

namespace Sys2Proof.Machine

/-- The registers of every slot, and every octet's queue of haul jobs. -/
def State.regsAndHauls (s : State) : (Nat → Option (AMap Reg)) × (Nat → List Job) :=
  (fun n => (s.thread? n).map (·.regs), fun o => (s.octet o).haul)

section
variable (s : State) {slot : Nat}

theorem State.regsAndHauls_setThread {t t1 : Thread} (ht : s.thread? slot = some t) (hregs : t1.regs = t.regs) :
    (s.setThread slot t1).regsAndHauls = s.regsAndHauls := by
  have hreg (n : Nat) : ((s.setThread slot t1).thread? n).map (·.regs) = (s.thread? n).map (·.regs) := by
    rw [State.thread?_setThread]
    split
    · next h => rw [← h, ht, Option.map_some, Option.map_some, hregs]
    · rfl
  exact Prod.ext (funext hreg) rfl

theorem State.regsAndHauls_modThread {f : Thread → Thread} (hf : ∀ t, (f t).regs = t.regs) :
    (s.modThread slot f).regsAndHauls = s.regsAndHauls := by
  cases ht : s.thread? slot with
  | some t => rw [State.modThread_of_thread ht, s.regsAndHauls_setThread ht (hf t)]
  | none => rw [State.modThread, ht]

theorem State.regsAndHauls_of_atCores {s u : State} (h : u.atCores = s.atCores) : u.regsAndHauls = s.regsAndHauls :=
  Prod.ext (funext (State.regs_of_atCores h)) (congrArg (fun x o => (x.1.octet o).haul) h)

theorem State.regsAndHauls_modOctet (o : Nat) {f : Octet → Octet} (hf : ∀ x, (f x).haul = x.haul) :
    (s.modOctet o f).regsAndHauls = s.regsAndHauls := by
  refine Prod.ext rfl (funext fun n => ?_)
  show ((s.modOctet o f).octet n).haul = (s.octet n).haul
  rw [State.modOctet, State.octet_setOctet]
  split
  · next h => rw [hf, h]
  · rfl

theorem State.regsAndHauls_modCluster (c : Nat) (f : Cluster → Cluster) : (s.modCluster c f).regsAndHauls = s.regsAndHauls := rfl

theorem State.regsAndHauls_foldl {α : Type} {f : State → α → State} (hf : ∀ u a, (f u a).regsAndHauls = u.regsAndHauls)
    (l : List α) : (l.foldl f s).regsAndHauls = s.regsAndHauls :=
  List.foldlRecOn (motive := fun u => u.regsAndHauls = s.regsAndHauls) l f rfl fun u hu a _ => (hf u a).trans hu

/-! A trap in a supervisor freezes the tenant (R378, R394) -/

theorem State.regsAndHauls_dropAsk (h : Nat) : (s.dropAsk slot h).regsAndHauls = s.regsAndHauls := by
  refine s.regsAndHauls_modThread fun t => ?_
  split <;> rfl

theorem State.regsAndHauls_withdraw : (s.withdraw slot).regsAndHauls = s.regsAndHauls := by
  have hown : (s.withdrawOwn slot).regsAndHauls = s.regsAndHauls := by
    unfold State.withdrawOwn
    dsimp only
    split
    · rfl
    · rw [State.regsAndHauls_modCluster, State.regsAndHauls_modOctet _ _ (by exact fun x => rfl)]
      rfl
  exact (State.regsAndHauls_foldl _ (fun u h => u.regsAndHauls_dropAsk h) _).trans hown

theorem State.regsAndHauls_stopFrozen : (s.stopFrozen slot).regsAndHauls = s.regsAndHauls := by
  refine (State.regsAndHauls_modThread _ fun t => ?_).trans s.regsAndHauls_withdraw
  split
  · split <;> rfl
  · rfl

theorem State.regsAndHauls_freeze (tn : Nat) : (s.freeze tn).regsAndHauls = s.regsAndHauls :=
  State.regsAndHauls_foldl _ (fun u _ => u.regsAndHauls_stopFrozen) _

/-! The routes -/

theorem State.regsAndHauls_supervisorTrap (cause : Nat) (v pc : Word) :
    (s.supervisorTrap slot cause v pc).regsAndHauls = s.regsAndHauls := by
  unfold State.supervisorTrap
  split
  · rfl
  · next t _ =>
    dsimp only
    cases t.level with
    | supervisor => exact State.regsAndHauls_freeze _ _
    | user | handler => exact (State.regsAndHauls_of_atCores (State.post_atCores ..)).trans (State.regsAndHauls_modThread _ fun t => rfl)

theorem State.regsAndHauls_deliver (cause : Nat) (v pc : Word) : (s.deliver slot cause v pc).regsAndHauls = s.regsAndHauls := by
  have hinterrupt : (s.modThread slot (·.interrupted)).regsAndHauls = s.regsAndHauls := s.regsAndHauls_modThread fun t => rfl
  have hroute : ((s.modThread slot (·.interrupted)).supervisorTrap slot cause v pc).regsAndHauls = s.regsAndHauls :=
    (State.regsAndHauls_supervisorTrap _ cause v pc).trans hinterrupt
  unfold State.deliver
  split
  · rfl
  · next t _ =>
    dsimp only
    cases t.level with
    | user =>
      dsimp only
      split
      · exact (State.regsAndHauls_modThread _ (by exact fun t => rfl)).trans hinterrupt
      · split
        · exact (State.regsAndHauls_modThread _ (by exact fun t => rfl)).trans hinterrupt
        · exact hroute
    | handler | supervisor => exact hroute

theorem State.regsAndHauls_trapAt (hr : s.latch.replay = 0) (cause : Nat) (v pc : Word) :
    (s.trapAt slot cause v pc).regsAndHauls = s.regsAndHauls := by
  have hdetach : (({ s with latch := {} } : State).detach slot).regsAndHauls = s.regsAndHauls := by
    have hoctets : (({ s with latch := {} } : State).detach slot).octets = s.octets := by
      unfold State.detach
      repeat' split
      all_goals rfl
    have hthreads : (({ s with latch := {} } : State).detach slot).threads = s.threads := State.detach_threads _ _
    simp only [State.regsAndHauls, State.thread?, State.octet, hoctets, hthreads]
  cases ht : s.thread? slot with
  | none => rw [State.trapAt, ht]
  | some t => rw [State.trapAt_of_thread ht hr, State.regsAndHauls_deliver, hdetach]
end

/-! Where the trap leaves its thread -/

/-- A thread that has taken a trap: its own handler goes on with a cause that it may handle, or the thread is parked with the trap kept. -/
def Thread.TookTrap (t1 : Thread) (cause : Nat) (v pc : Word) : Prop :=
  (userCause cause = true ∧ t1.run = .ready ∧ t1.xcause = BitVec.ofNat 64 (2 ^ 63 + cause) ∧ t1.xtval = v ∧ t1.xepc = pc) ∨
  ((t1.run = .parked .activation ∨ t1.run = .parked .resume) ∧ t1.kept = some (cause, v, pc))

section
variable {s : State} {slot cause : Nat} {t : Thread} {v pc : Word}

theorem State.supervisorTrap_takes (ht : s.thread? slot = some t) (hl : t.level ≠ .supervisor) :
    ∃ t1, (s.supervisorTrap slot cause v pc).thread? slot = some t1 ∧ t1.TookTrap cause v pc := by
  have hparks (u : State) (hu : u.threads = (s.setThread slot (t.trapped cause v pc)).threads) :
      ∃ t1, (u.post t.tenant slot 0 cause 1 v 0).thread? slot = some t1 ∧ t1.TookTrap cause v pc := by
    have hthread : u.thread? slot = some (t.trapped cause v pc) := by
      rw [State.thread?, hu]
      exact State.thread?_setThread_self ..
    obtain ⟨t1, ht1, hbare⟩ := State.post_thread? u hthread t.tenant slot 0 cause 1 v 0
    exact ⟨t1, ht1, .inr ⟨.inl (congrArg Thread.run hbare), congrArg Thread.kept hbare⟩⟩
  unfold State.supervisorTrap
  rw [ht]
  dsimp only
  split
  · next h => exact absurd h hl
  · refine hparks _ ?_
    rw [State.modThread_of_thread ht]
    rfl

theorem State.deliver_takes (ht : s.thread? slot = some t) (hl : t.level ≠ .supervisor) :
    ∃ t1, (s.deliver slot cause v pc).thread? slot = some t1 ∧ t1.TookTrap cause v pc := by
  have hroute : ∃ t1, ((s.setThread slot t.interrupted).supervisorTrap slot cause v pc).thread? slot = some t1 ∧
      t1.TookTrap cause v pc :=
    State.supervisorTrap_takes (State.thread?_setThread_self ..) hl
  unfold State.deliver
  rw [ht]
  dsimp only
  split
  · split
    · rw [State.modThread_of_thread ht, State.modThread_setThread]
      exact ⟨_, State.thread?_setThread_self .., .inr ⟨.inr rfl, rfl⟩⟩
    · rw [State.modThread_of_thread ht]
      split
      · next hown =>
        simp only [Bool.and_eq_true] at hown
        obtain ⟨⟨⟨hcause, -⟩, -⟩, -⟩ := hown
        rw [State.modThread_setThread]
        exact ⟨_, State.thread?_setThread_self .., .inl ⟨hcause, rfl, rfl, rfl, rfl⟩⟩
      · exact hroute
  · rw [State.modThread_of_thread ht]
    exact hroute

/-- What a trap leaves: registers and haul queues as they were, and the thread with the trap, unless a supervisor made it. -/
theorem State.trapAt_takes (ht : s.thread? slot = some t) (hr : s.latch.replay = 0) :
    ∃ t1, (s.trapAt slot cause v pc).thread? slot = some t1 ∧ t1.regs = t.regs ∧
      (∀ o, ((s.trapAt slot cause v pc).octet o).haul = (s.octet o).haul) ∧ (t1.TookTrap cause v pc ∨ t.level = .supervisor) := by
  have hkept := s.regsAndHauls_trapAt (slot := slot) hr cause v pc
  have hregs : ((s.trapAt slot cause v pc).thread? slot).map (·.regs) = some t.regs := by
    rw [show ((s.trapAt slot cause v pc).thread? slot).map (·.regs) = (s.thread? slot).map (·.regs) from
      congrFun (congrArg Prod.fst hkept) slot, ht]
    rfl
  obtain ⟨t1, ht1, hreg⟩ := Option.map_eq_some_iff.1 hregs
  refine ⟨t1, ht1, hreg, congrFun (congrArg Prod.snd hkept), ?_⟩
  by_cases hl : t.level = .supervisor
  · exact .inr hl
  · have hdetached : (({ s with latch := {} } : State).detach slot).thread? slot = some t := by
      rw [State.thread?, State.detach_threads]
      exact ht
    obtain ⟨t2, ht2, htook⟩ := State.deliver_takes (cause := cause) (v := v) (pc := pc) hdetached hl
    rw [← State.trapAt_of_thread ht hr, ht1, Option.some_inj] at ht2
    exact .inl (ht2 ▸ htook)
end

end Sys2Proof.Machine
end

section
/-! The issue of a haul job (R127 to R129, R133). -/

namespace Sys2Proof.Machine

theorem exec_haulOp {i : Instr} {op : Nat} {rd rs1 : BitVec 5} (h : haulOp i = some (op, rd, rs1)) (s : State) :
    exec i s = haulForm s op rd rs1 := by
  cases i <;> cases h <;> rfl

section
variable {s : State} {t : Thread} {op : Nat} {rd rs1 : BitVec 5} (hc : isOpt (coreOf s.cur) = false)
  (h : CanIssue s t [rs (s.latch.rs1 rs1), rdst (s.latch.rd rd)])

/-- The candidate that a haul instruction presents. -/
def State.haulPend (s : State) (t : Thread) (op : Nat) (rd rs1 : BitVec 5) : Pend :=
  presented (s.latch.rd rd) op (s.nextPc t) (t.x (s.latch.rs1 rs1)) [s.latch.tval]

include hc h

theorem CanIssue.haulForm_misaligned (ha : (t.x (s.latch.rs1 rs1)).toNat % 64 ≠ 0) :
    haulForm s op rd rs1 = .next (s.trapAt s.cur 0x03 (t.x (s.latch.rs1 rs1)) t.pc) := by
  have hx : t.src (s.latch.rs1 rs1) = t.x (s.latch.rs1 rs1) := h.src_rs (by simp)
  rw [haulForm, issueOnCompute_of_compute hc, h.issue]
  simp only [Ctx.x, hx, if_pos ha, h.trapc (show 0x03 < 2 ^ 32 by decide)]

variable (ha : (t.x (s.latch.rs1 rs1)).toNat % 64 = 0)
include ha

theorem CanIssue.haulForm_outside (hw : (t.x (s.latch.rs1 rs1)).toNat < Config.ownBase ∨
      Config.ownBase + storeSize (coreOf s.cur) < (t.x (s.latch.rs1 rs1)).toNat + 64) :
    haulForm s op rd rs1 = .next (s.trapAt s.cur 0x08 (t.x (s.latch.rs1 rs1)) t.pc) := by
  have hx : t.src (s.latch.rs1 rs1) = t.x (s.latch.rs1 rs1) := h.src_rs (by simp)
  rw [haulForm, issueOnCompute_of_compute hc, h.issue]
  simp only [Ctx.x, Ctx.core, hx, if_neg (not_not.2 ha), if_pos hw, h.trapc (show 0x08 < 2 ^ 32 by decide)]

/-- A haul instruction whose descriptor lies in the own window, where its queue is free, is answered in the cycle as its acceptance
answers. -/
theorem CanIssue.haulForm_presents {ws : List Word} (how : OwnWords s (t.x (s.latch.rs1 rs1)) 8 ws) (hq : QueueFree s false) {u : State}
    (hu : acceptHaul (s.atGrant t false) s.cur { t with
      run := .waiting (.acceptance false), pend := some (s.haulPend t op rd rs1) } (s.haulPend t op rd rs1) = some u) :
    haulForm s op rd rs1 = .next u := by
  obtain ⟨-, hlo, hhi, -, -⟩ := how
  have hx : t.src (s.latch.rs1 rs1) = t.x (s.latch.rs1 rs1) := h.src_rs (by simp)
  have hin : ¬ ((t.x (s.latch.rs1 rs1)).toNat < Config.ownBase ∨
      Config.ownBase + storeSize (coreOf s.cur) < (t.x (s.latch.rs1 rs1)).toNat + 64) := by omega
  rw [haulForm, issueOnCompute_of_compute hc, h.issue]
  simp only [Ctx.x, Ctx.core, hx, if_neg (not_not.2 ha), if_neg hin]
  exact congrArg _ (h.present hq _ _ _ _ _ _ _ hu)
end

section
variable {s : State} {t : Thread} {op : Nat} {rd rs1 : BitVec 5} {ws : List Word}

/-- What the acceptance of a settled descriptor answers is what its validation finds. -/
theorem State.acceptHaul_eq (hc : isOpt (coreOf s.cur) = false) (ht : s.thread? s.cur = some t)
    (how : OwnWords s (t.x (s.latch.rs1 rs1)) 8 ws) (t' : Thread) :
    acceptHaul (s.atGrant t false) s.cur t' (s.haulPend t op rd rs1) = match haulBad ws op with
      | some (some va) => some ((s.atGrant t false).trap s.cur 0x03 va)
      | some none => some ((s.atGrant t false).trap s.cur 0x01 s.latch.tval)
      | none => some ((s.atGrant t false).enqueue s.cur (s.haulPend t op rd rs1) false fun r =>
          { ref := r, slot := s.cur, tenant := t'.tenant, launch := t'.launch, op := op, desc := ws }) := by
  have hread : (s.atGrant t false).descriptor s.cur t'.tenant (t.x (s.latch.rs1 rs1)) 8 = (s.atGrant t false, some (.ok ws)) :=
    State.descriptor_of_ownWords (s := s.atGrant t false) hc (how.atGrant ht)
  unfold acceptHaul
  rw [show (s.haulPend t op rd rs1).ea = t.x (s.latch.rs1 rs1) from rfl, hread]
  rfl

/-- The trap of a refused descriptor. -/
theorem State.atGrant_trap {cause : Nat} {v : Word} : ∃ t1, ((s.atGrant t false).trap s.cur cause v).thread? s.cur = some t1 ∧
    t1.regs = t.regs ∧ (((s.atGrant t false).trap s.cur cause v).octet (octetOf (coreOf s.cur))).haul =
      (s.octet (octetOf (coreOf s.cur))).haul ∧ (t1.TookTrap cause v t.pc ∨ t.level = .supervisor) := by
  have ht : (s.atGrant t false).thread? s.cur = some { t with run := .waiting (.acceptance false), pend := none } :=
    State.thread?_setThread_self ..
  have hoctet : (s.atGrant t false).octet (octetOf (coreOf s.cur)) = s.octet (octetOf (coreOf s.cur)) :=
    (State.octet_setOctet ..).trans (if_pos rfl)
  obtain ⟨t1, ht1, hregs, hhaul, htook⟩ := State.trapAt_takes (cause := cause) (v := v) (pc := t.pc) ht rfl
  have htrap : (s.atGrant t false).trap s.cur cause v = (s.atGrant t false).trapAt s.cur cause v t.pc := by rw [State.trap, ht]
  rw [htrap]
  exact ⟨t1, ht1, hregs, (hhaul _).trans (congrArg Octet.haul hoctet), htook⟩
end

/-- Settles O37: the grant reads the descriptor's words where they lie settled in the own store, and the validation's answer decides
between the queue and a trap. -/
theorem haulIssue : Obligations.HaulIssue := by
  intro i op rd rs1 hop s t
  dsimp only
  intro hc h
  rw [exec_haulOp hop]
  refine ⟨h.haulForm_misaligned hc, fun ha => h.haulForm_outside hc ha, fun ws ha how hq => ?_⟩
  have haccept {u : State} := h.haulForm_presents (op := op) hc ha how hq (u := u)
  rw [State.acceptHaul_eq hc h.thread how] at haccept
  refine ⟨fun hgood => ?_, fun v hbad => ?_, fun hbad => ?_⟩
  · rw [hgood] at haccept
    rw [haccept rfl]
    exact h.accepts (List.mem_cons_of_mem _ (List.mem_singleton_self _)) rfl rfl rfl ⟨rfl, rfl⟩
      fun r => ⟨rfl, rfl, rfl, rfl, rfl, rfl, rfl⟩
  · rw [hbad] at haccept
    obtain ⟨t1, ht1, hregs, hhaul, htook | hsup⟩ := State.atGrant_trap (s := s) (t := t) (cause := 0x03) (v := v)
    · refine ⟨_, t1, haccept rfl, ht1, hregs, hhaul, ?_⟩
      obtain ⟨-, hown⟩ | hparked := htook
      · exact .inl hown
      · exact .inr (.inl hparked)
    · exact ⟨_, t1, haccept rfl, ht1, hregs, hhaul, .inr (.inr hsup)⟩
  · rw [hbad] at haccept
    obtain ⟨t1, ht1, hregs, hhaul, htook | hsup⟩ := State.atGrant_trap (s := s) (t := t) (cause := 0x01) (v := s.latch.tval)
    · refine ⟨_, t1, haccept rfl, ht1, hregs, hhaul, .inl ?_⟩
      obtain ⟨hcause, -⟩ | hparked := htook
      · exact absurd hcause (by decide)
      · exact hparked
    · exact ⟨_, t1, haccept rfl, ht1, hregs, hhaul, .inr hsup⟩

end Sys2Proof.Machine
end

section
/-! The job at the head of an octet's queue (R128, R230), and how it ends (R136, R139, R230). -/

namespace Sys2Proof.Machine

/-! The queues of an octet -/

/-- An octet whose queue of a kind holds other jobs. -/
def Octet.withQueue (o : Octet) (m : Bool) (l : List Job) : Octet := if m then { o with matrix := l } else { o with haul := l }

section
variable (o : Octet) (m : Bool) (l : List Job)

@[simp] theorem Octet.withQueue_regions : (o.withQueue m l).regions = o.regions := by cases m <;> rfl
@[simp] theorem Octet.withQueue_tiles : (o.withQueue m l).tiles = o.tiles := by cases m <;> rfl
@[simp] theorem Octet.withQueue_bytes : (o.withQueue m l).bytes = o.bytes := by cases m <;> rfl
@[simp] theorem Octet.withQueue_haul : (o.withQueue false l).haul = l := rfl
end

theorem map_eq_self_of_ref_ne {l : List Job} {r : JobRef} (h : ∀ k ∈ l, k.ref ≠ r) (f : Job → Job) :
    l.map (fun k => if k.ref = r then f k else k) = l :=
  (List.map_congr_left fun k hk => if_neg (h k hk)).trans (List.map_id' l)

theorem filter_ref_eq_self {l : List Job} {r : JobRef} (h : ∀ k ∈ l, k.ref ≠ r) : l.filter (·.ref != r) = l :=
  List.filter_eq_self.2 fun k hk => bne_iff_ne.2 (h k hk)

section
variable {s u : State} {oct : Nat} {m : Bool} {j : Job} {rest : List Job}

theorem State.octet_modOctet (s : State) (n k : Nat) (f : Octet → Octet) :
    (s.modOctet n f).octet k = if n = k then f (s.octet n) else s.octet k := State.octet_setOctet ..

theorem State.octet_modOctet_self (s : State) (n : Nat) (f : Octet → Octet) : (s.modOctet n f).octet n = f (s.octet n) :=
  (s.octet_modOctet n n f).trans (if_pos rfl)

/-- A job that heads its queue heads it wherever the octet's queues are the same. -/
theorem Heads.of_queues (h : Heads s oct m j rest) (hh : (u.octet oct).haul = (s.octet oct).haul)
    (hm : (u.octet oct).matrix = (s.octet oct).matrix) : Heads u oct m j rest := by
  rw [Heads, hh, hm]
  exact h

theorem Heads.of_octets (h : Heads s oct m j rest) (ho : u.octets = s.octets) : Heads u oct m j rest :=
  h.of_queues (by rw [State.octet, ho]; rfl) (by rw [State.octet, ho]; rfl)

theorem Heads.job?_eq (h : Heads s oct m j rest) : s.job? j.ref = some j := by
  obtain ⟨hq, hoct, hm, -, -⟩ := h
  rw [State.job?, hoct, hm, hq, List.find?_cons]
  simp

/-- A change of the job at the head changes its entry alone. -/
theorem Heads.octet_modJob (h : Heads s oct m j rest) (f : Job → Job) :
    (s.modJob j.ref f).octet oct = (s.octet oct).withQueue m (f j :: rest) := by
  obtain ⟨hq, hoct, -, hrest, hother⟩ := h
  rw [State.modJob, hoct, State.octet_modOctet_self]
  cases m with
  | false =>
    have hq' : (s.octet oct).haul = j :: rest := hq
    have hother' : ∀ k ∈ (s.octet oct).matrix, k.ref ≠ j.ref := hother
    simp only [hq', List.map_cons, if_true, map_eq_self_of_ref_ne hrest, map_eq_self_of_ref_ne hother']
    rfl
  | true =>
    have hq' : (s.octet oct).matrix = j :: rest := hq
    have hother' : ∀ k ∈ (s.octet oct).haul, k.ref ≠ j.ref := hother
    simp only [hq', List.map_cons, if_true, map_eq_self_of_ref_ne hrest, map_eq_self_of_ref_ne hother']
    rfl

theorem Heads.modJob (h : Heads s oct m j rest) {f : Job → Job} (hf : (f j).ref = j.ref) :
    Heads (s.modJob j.ref f) oct m (f j) rest := by
  have hq := h.octet_modJob f
  obtain ⟨-, hoct, hm, hrest, hother⟩ := h
  rw [Heads, hq, hf]
  refine ⟨by cases m <;> rfl, hoct, hm, hrest, ?_⟩
  cases m <;> exact hother

/-- The job once it runs. -/
def Job.started (j : Job) : Job := { j with state := max 1 j.state }

theorem Heads.octet_startJob (h : Heads s oct m j rest) :
    (s.startJob j.ref).octet oct = (s.octet oct).withQueue m (j.started :: rest) := h.octet_modJob _

theorem Heads.startJob (h : Heads s oct m j rest) : Heads (s.startJob j.ref) oct m j.started rest :=
  (h.modJob (f := Job.started) rfl).of_octets rfl

theorem Heads.haul_eq (h : Heads s oct false j rest) : (s.octet oct).haul = j :: rest := h.1

theorem Heads.matrix_eq (h : Heads s oct true j rest) : (s.octet oct).matrix = j :: rest := h.1

theorem Heads.octet_eq (h : Heads s oct m j rest) : j.ref.octet = oct := h.2.1

/-- No job comes before the one at the head. -/
theorem Heads.jobsBefore_eq (h : Heads s oct true j rest) : s.jobsBefore j.ref = [] := by
  rw [State.jobsBefore, h.octet_eq, h.matrix_eq]
  simp

theorem Heads.blocked_eq (h : Heads s oct true j rest) : (s.octet oct).blocked j = false := by
  rw [Octet.blocked, h.matrix_eq]
  simp

theorem Heads.startBlocked_eq (h : Heads s oct true j rest) : (s.octet oct).startBlocked j = false := by
  rw [Octet.startBlocked, h.matrix_eq]
  simp

theorem Heads.storesBefore_eq (h : Heads s oct true j rest) : (s.octet oct).storesBefore j = false := by
  rw [Octet.storesBefore, h.matrix_eq]
  simp

theorem Heads.firstJob_eq (h : Heads s oct true j rest) {p : Nat → Bool} (hp : p j.op = true) (hs : j.state ≠ 2) :
    (s.octet oct).firstJob p = some j := by
  rw [Octet.firstJob, h.matrix_eq, List.find?_cons_of_pos]
  simp [hp, hs]

theorem Heads.memoryBehind_eq (h : Heads s oct true j rest) (x : Nat × Access) : s.memoryBehind j x = false := by
  rw [State.memoryBehind, h.jobsBefore_eq]
  split <;> rfl
end

/-! The final state (R136, R139, R230) -/

section
variable {s : State} {r : JobRef} {st cause addr : Nat}

/-- The states a core keeps for its jobs. -/
def Core.jobStates (c : Core) (m : Bool) : List JobState := if m then c.matStates else c.haulStates

theorem State.jobState_eq_of_core {u : State} (h : (u.core r.coreNo).jobStates r.matrix = (s.core r.coreNo).jobStates r.matrix) :
    u.jobState r = s.jobState r := congrArg (fun l => (l.find? (·.seq == r.seq)).getD ⟨r.seq, 5, 0, 0, 0⟩) h

/-- A core each of whose threads' contexts is changed. -/
def Core.mapThreads (f : Thread → Thread) (c : Core) : Core :=
  { c with
    arrivals := c.arrivals.map f
    arrivalSpill := c.arrivalSpill.map fun x => (x.1, f x.2)
    act := c.act.map fun a => { a with saved := a.saved.map f } }

theorem State.jobStates_mapThreads (f : Thread → Thread) (n : Nat) (m : Bool) :
    ((s.mapThreads f).core n).jobStates m = (s.core n).jobStates m := by
  have hcore : (s.mapThreads f).core n = amGetD (s.cores.map fun p => (p.1, p.2.mapThreads f)) n {} := rfl
  rw [hcore, amGetD, amGet_map, State.core, amGetD]
  cases amGet s.cores n <;> rfl

/-- A kept state, once it is changed. -/
theorem State.jobState_setJobState {f : JobState → JobState} (hf : ∀ x, (f x).seq = x.seq)
    (h : ∃ x ∈ (s.core r.coreNo).jobStates r.matrix, x.seq = r.seq) : ∃ x, (s.setJobState r f).jobState r = f x := by
  have hstates : ((s.setJobState r f).core r.coreNo).jobStates r.matrix =
      ((s.core r.coreNo).jobStates r.matrix).map fun x => if x.seq = r.seq then f x else x := by
    rw [State.setJobState, State.modCore, State.core_setCore, if_pos rfl]
    cases r.matrix <;> rfl
  obtain ⟨x, hx, hseq⟩ := h
  have hsome : (((s.core r.coreNo).jobStates r.matrix).find? (·.seq == r.seq)).isSome = true :=
    List.find?_isSome.2 ⟨x, hx, by simp [hseq]⟩
  obtain ⟨y, hy⟩ := Option.isSome_iff_exists.1 hsome
  have hyseq : y.seq = r.seq := by simpa using List.find?_some hy
  have hsame : ((fun x : JobState => x.seq == r.seq) ∘ fun x => if x.seq = r.seq then f x else x) = fun x => x.seq == r.seq := by
    funext x
    show ((if x.seq = r.seq then f x else x).seq == r.seq) = _
    split
    · rw [hf]
    · rfl
  refine ⟨y, ?_⟩
  show (((((s.setJobState r f).core r.coreNo).jobStates r.matrix).find? (·.seq == r.seq)).getD ⟨r.seq, 5, 0, 0, 0⟩) = f y
  rw [hstates, List.find?_map, hsame, hy, Option.map_some, Option.getD_some, if_pos hyseq]

variable {oct : Nat} {m : Bool} {j : Job} {rest : List Job}

/-- A post to a fault queue changes no core and no octet. -/
theorem State.post_octets (tenant slot code cause kind : Nat) (addr value : Word) :
    (s.post tenant slot code cause kind addr value).octets = s.octets :=
  congrArg (·.1.octets) (s.post_atCores tenant slot code cause kind addr value)

/-- A job that heads its queue and reaches a final state leaves the queue. -/
theorem Heads.octet_finalState (h : Heads s oct m j rest) :
    (s.finalState j st cause addr).octet oct = (s.octet oct).withQueue m rest := by
  obtain ⟨hq, hoct, -, hrest, hother⟩ := h
  have hleaves : ({ s.octet oct with
      haul := (s.octet oct).haul.filter (·.ref != j.ref), matrix := (s.octet oct).matrix.filter (·.ref != j.ref) } : Octet) =
      (s.octet oct).withQueue m rest := by
    cases m with
    | false =>
      have hq' : (s.octet oct).haul = j :: rest := hq
      have hother' : ∀ k ∈ (s.octet oct).matrix, k.ref ≠ j.ref := hother
      rw [hq', List.filter_cons_of_neg (by simp), filter_ref_eq_self hrest, filter_ref_eq_self hother']
      rfl
    | true =>
      have hq' : (s.octet oct).matrix = j :: rest := hq
      have hother' : ∀ k ∈ (s.octet oct).haul, k.ref ≠ j.ref := hother
      rw [hq', List.filter_cons_of_neg (by simp), filter_ref_eq_self hrest, filter_ref_eq_self hother']
      rfl
  have hoctets (x : State) (f : Octet → Octet) (g : Thread → Thread) : ((x.modOctet oct f).mapThreads g).octet oct = f (x.octet oct) :=
    x.octet_modOctet_self oct f
  rw [← hleaves]
  unfold State.finalState
  dsimp only
  rw [hoct]
  split
  · rw [State.octet, State.post_octets]
    exact hoctets ..
  · exact hoctets ..

theorem State.jobState_finalState (h : ∃ x ∈ (s.core j.ref.coreNo).jobStates j.ref.matrix, x.seq = j.ref.seq) :
    ((s.finalState j st cause addr).jobState j.ref).state = st ∧ ((s.finalState j st cause addr).jobState j.ref).cause = cause := by
  have hkept : ∃ x : JobState, (s.finalState j st cause addr).jobState j.ref =
      { x with state := st, cause := cause, addr := addr % 2 ^ 48, info := j.info } := by
    obtain ⟨x, hx⟩ := State.jobState_setJobState (s := s) (r := j.ref)
      (f := fun x => { x with state := st, cause := cause, addr := addr % 2 ^ 48, info := j.info }) (fun _ => rfl) h
    refine ⟨x, Eq.trans (State.jobState_eq_of_core ?_) hx⟩
    unfold State.finalState
    dsimp only
    split
    · rw [State.core, State.post_cores]
      exact State.jobStates_mapThreads ..
    · exact State.jobStates_mapThreads ..
  obtain ⟨x, hx⟩ := hkept
  rw [hx]
  exact ⟨rfl, rfl⟩
end

end Sys2Proof.Machine
end

section
/-! HAUL_JOB_FINAL and MATRIX_JOB_FINAL (R136, R138, R230). -/

namespace Sys2Proof.Machine

section
variable {s : State} {oct : Nat} {m : Bool} {j : Job} {rest : List Job}

/-- A performed job with nothing under way may end. -/
theorem State.mayEnd_of_quiet (hs : j.state = 2) (hu : j.updates = []) (hf : ∀ f ∈ s.flights, f.job ≠ some j.ref)
    (ha : ∀ p ∈ s.threads, p.2.armedAt = some s.cycle → j.ref ∉ p.2.armed) : s.mayEnd j = true := by
  have hflights : s.flights.any (·.job == some j.ref) = false := by
    rw [List.any_eq_false]
    exact fun f hf' => by simpa using hf f hf'
  have harmed : (s.threads.any fun t => t.2.armedAt == some s.cycle && t.2.armed.contains j.ref) = false := by
    rw [List.any_eq_false]
    exact fun p hp => by simpa using ha p hp
  rw [State.mayEnd, hs, hu, hflights, harmed]
  rfl

/-- The oldest haul job ends. -/
theorem Heads.haulJobFinal (h : Heads s oct false j rest) (hrun : s.tripped = false) (hend : s.between.mayEnd j = true) :
    exec (.haulJobFinal oct) s = .next (s.between.finalState j j.ending.1 j.ending.2.1 j.ending.2.2) := by
  have hq : (s.between.octet oct).haul = j :: rest := h.haul_eq
  show execHaulJobFinal oct s = _
  rw [execHaulJobFinal, event_of_running _ hrun, hq]
  exact congrArg _ (if_pos hend)

/-- The octet of a matrix job that ends, before the job leaves it, and after. -/
theorem Heads.matrixJobFinal (h : Heads s oct true j rest) (hrun : s.tripped = false) (hend : s.between.mayEnd j = true)
    (hd : j.discarded = false) (hsync : j.op ≤ 10 → aSync j.desc ≠ 2) :
    exec (.matrixJobFinal oct) s = .next (((s.between.modOctet oct fun o => o.settleJob j j.ending.1).finalState j
      j.ending.1 j.ending.2.1 j.ending.2.2).modOctet oct Octet.refreshView) := by
  have hq : (s.between.octet oct).matrix = j :: rest := h.matrix_eq
  have hkeeps : ¬ (decide (j.op ≤ 10) && j.ending.1 == 2 && aSync j.desc == 2) = true := by
    simp only [Bool.and_eq_true, decide_eq_true_eq, beq_iff_eq]
    exact fun ⟨⟨hop, _⟩, h2⟩ => hsync hop h2
  have hmay : ¬ (!s.between.mayEnd j) = true := by rw [hend]; exact Bool.false_ne_true
  have hkept : ¬ j.discarded = true := by rw [hd]; exact Bool.false_ne_true
  show execMatrixJobFinal oct s = _
  rw [execMatrixJobFinal, event_of_running _ hrun, hq]
  dsimp only
  rw [if_neg hmay, if_neg hkept, if_neg hkeeps]

theorem Octet.settleJob_queues (o : Octet) (j : Job) (st : Nat) :
    (o.settleJob j st).haul = o.haul ∧ (o.settleJob j st).matrix = o.matrix := by
  unfold Octet.settleJob
  split
  · exact ⟨rfl, rfl⟩
  · exact ⟨rfl, rfl⟩
  · split
    · exact ⟨rfl, rfl⟩
    · split <;> exact ⟨rfl, rfl⟩
  · exact ⟨rfl, rfl⟩
end

/-- What a final state leaves of a job: its octet's queue without it, and its state where its core keeps one. -/
def Ended (s u : State) (oct : Nat) (m : Bool) (j : Job) (rest : List Job) : Prop :=
  (if m then (u.octet oct).matrix else (u.octet oct).haul) = rest ∧
  ((∃ x ∈ (if m then (s.core j.ref.coreNo).matStates else (s.core j.ref.coreNo).haulStates), x.seq = j.ref.seq) →
    (u.jobState j.ref).state = j.ending.1 ∧ (u.jobState j.ref).cause = j.ending.2.1)

section
variable {s : State} {oct : Nat} {j : Job} {rest : List Job} (hrun : s.tripped = false) (hs : j.state = 2) (hu : j.updates = [])
  (hf : ∀ f ∈ s.flights, f.job ≠ some j.ref) (ha : ∀ p ∈ s.threads, p.2.armedAt = some s.cycle → j.ref ∉ p.2.armed)
include hrun hs hu hf ha

theorem Heads.haulJob_ends (h : Heads s oct false j rest) :
    ∃ u, exec (.haulJobFinal oct) s = .next u ∧ Ended s u oct false j rest := by
  have hb : Heads s.between oct false j rest := h
  refine ⟨_, h.haulJobFinal hrun (State.mayEnd_of_quiet hs hu hf ha), ?_, fun hkept => ?_⟩
  · rw [hb.octet_finalState]
    rfl
  · refine State.jobState_finalState ?_
    rw [h.2.2.1]
    exact hkept

theorem Heads.matrixJob_ends (h : Heads s oct true j rest) (hd : j.discarded = false) (hsync : j.op ≤ 10 → aSync j.desc ≠ 2) :
    ∃ u, exec (.matrixJobFinal oct) s = .next u ∧ Ended s u oct true j rest := by
  have hsettled : (s.between.modOctet oct fun o => o.settleJob j j.ending.1).octet oct = (s.octet oct).settleJob j j.ending.1 :=
    State.octet_modOctet_self ..
  have hb : Heads (s.between.modOctet oct fun o => o.settleJob j j.ending.1) oct true j rest :=
    h.of_queues (by rw [hsettled]; exact (Octet.settleJob_queues ..).1) (by rw [hsettled]; exact (Octet.settleJob_queues ..).2)
  refine ⟨_, h.matrixJobFinal hrun (State.mayEnd_of_quiet hs hu hf ha) hd hsync, ?_, fun hkept => ?_⟩
  · rw [State.octet_modOctet_self, hb.octet_finalState]
    rfl
  · have hfinal := State.jobState_finalState (st := j.ending.1) (cause := j.ending.2.1) (addr := j.ending.2.2)
      (s := s.between.modOctet oct fun o => o.settleJob j j.ending.1) (j := j) (by rw [h.2.2.1]; exact hkept)
    exact hfinal
end

end Sys2Proof.Machine
end

section
/-! An engine's accesses of words of the package (R134, R135), where requests complete in the step that makes them. -/

namespace Sys2Proof.Machine

/-! A whole word written with its tag at a home that holds no request for it -/

/-- A memory with one more word written whole, and its tag where one is given. -/
def Memory.stored (m : Memory) (k : Nat) (v : Word) (tag : Option Bool) : Memory :=
  match tag with
  | some b => (m.write k 0xFF#8 v).setTag k b
  | none => m.write k 0xFF#8 v

/-- The state with such a memory. -/
def State.withStored (s : State) (k : Nat) (v : Word) (tag : Option Bool) : State := { s with mem := s.mem.stored k v tag }

section
variable (m : Memory) (k : Nat) (v : Word) (tag : Option Bool)

theorem Memory.byte_stored (a : Nat) : (m.stored k v tag).byte a = (m.write k 0xFF#8 v).byte a := by cases tag <;> rfl

theorem Memory.byte_stored_of_ne {a : Nat} (ha : a / 8 ≠ k) : (m.stored k v tag).byte a = m.byte a := by
  rw [Memory.byte_stored, Memory.byte_write, if_neg (by omega)]

theorem Memory.full_stored (n : Nat) : (m.stored k v tag).full n = if n = k then tag.getD (m.full n) else m.full n := by
  cases tag with
  | none => exact (m.full_write k 0xFF#8 v n).trans (ite_self _).symm
  | some b =>
    show ((m.write k 0xFF#8 v).setTag k b).full n = _
    rw [Memory.full_setTag, Memory.full_write]
    simp only [eq_comm, Option.getD_some]
end

section
variable {s : State} (he : NoEpoch s) {k : Nat}
include he

theorem NoEpoch.writeWord_atCores (mask : BitVec 8) (v : Word) (tag : Option Bool) :
    (s.writeWord k mask v tag).atCores = s.atCores := by
  rw [State.writeWord, State.beforeWrite, State.preWrite_of_noEpoch he]
  exact s.writeHome_atCores k mask v tag

/-- The contents after a whole word is written, with its tag, where no request for the word is held. -/
theorem NoEpoch.writeWord_stored_whole (v : Word) (tag : Option Bool) (hh : ∀ h ∈ s.holds, h.key ≠ k) :
    (s.withStored k v tag).SameContents (s.writeWord k 0xFF#8 v tag) := by
  have hrelease (fuel : Nat) : (s.withStored k v tag).releaseHeld k fuel = s.withStored k v tag :=
    State.releaseHeld_of_none_held (s := s.withStored k v tag) hh fuel
  have hshape : (if (s.withStored k v tag).mem.full k = s.mem.full k then s.withStored k v tag
      else (s.withStored k v tag).releaseHeld k (s.holds.length + 1)) = s.withStored k v tag := by
    rw [hrelease, ite_self]
  have hwrite : s.writeWord k 0xFF#8 v tag = (s.withStored k v tag).wakeGranule k := by
    rw [State.writeWord, State.beforeWrite, State.preWrite_of_noEpoch he]
    cases tag <;> exact congrArg (State.wakeGranule · k) hshape
  rw [hwrite]
  exact State.sameContents_wakeGranule _ k

/-- What the write of a whole word by an engine leaves. -/
theorem NoEpoch.writeWord_whole_tagged (v : Word) (tag : Option Bool) (hh : ∀ h ∈ s.holds, h.key ≠ k) :
    (s.writeWord k 0xFF#8 v tag).mem.word k = v ∧
    (∀ a, a / 8 ≠ k → (s.writeWord k 0xFF#8 v tag).mem.byte a = s.mem.byte a) ∧
    ∀ n, (s.writeWord k 0xFF#8 v tag).mem.full n = if n = k then tag.getD (s.mem.full n) else s.mem.full n := by
  obtain ⟨hbyte, hfull⟩ := he.writeWord_stored_whole v tag hh
  refine ⟨Memory.word_of_bytes _ _ _ fun i hi => ?_, fun a ha => ?_, fun n => ?_⟩
  · rw [hbyte]
    show (s.mem.stored k v tag).byte _ = _
    rw [Memory.byte_stored, Memory.byte_write, Nat.add_sub_cancel_left, if_pos ⟨by omega, by omega, byte_mask_whole hi⟩]
  · rw [hbyte]
    exact s.mem.byte_stored_of_ne k v tag ha
  · rw [hfull]
    exact s.mem.full_stored k v tag n
end

/-! Reads and writes of the package's words -/

section
variable {s s1 : State} {j : Job} {va a x : Nat} {t : Target}

theorem SameButTlbs.octets (h : SameButTlbs s s1) : s1.octets = s.octets := by rw [h.rest]

theorem SameButTlbs.slow (h : SameButTlbs s s1) : s1.slow = s.slow := by rw [h.rest]

theorem SameButTlbs.holds (h : SameButTlbs s s1) : s1.holds = s.holds := by rw [h.rest]

theorem SameButTlbs.flights (h : SameButTlbs s s1) : s1.flights = s.flights := by rw [h.rest]

theorem SameButTlbs.noEpoch (h : SameButTlbs s s1) (he : NoEpoch s) : NoEpoch s1 := by
  intro tn
  rw [State.tenant, h.rest]
  exact he tn

theorem State.unitAt_fast (h : s.slow = false) (src k : Nat) : s.unitAt src k = some s := by
  rw [State.unitAt, h]
  rfl

theorem State.settle_of_sound {k : Nat} (h : s.mem.poisoned k = false) : s.settle k = s :=
  congrArg Prod.fst (State.readWord_of_sound h)

/-- Where requests complete at once, an engine without a write under way may access any word. -/
theorem State.engineFree_fast (hs : s.slow = false) (hf : ∀ f ∈ s.flights, f.job ≠ some j.ref) (l : List (Nat × Access)) :
    s.engineFree j l = true := by
  have hflights : s.flights.any (·.job == some j.ref) = false := by
    rw [List.any_eq_false]
    exact fun f hf' => by simpa using hf f hf'
  rw [State.engineFree, hflights, Bool.not_false, Bool.true_and, List.all_eq_true]
  intro y _
  cases s.enginePlace j y with
  | none => rfl
  | some k =>
    dsimp only
    rw [State.unitAt_fast hs]
    rfl

/-- A target with a place is a word of this package. -/
theorem Target.place_cases (hp : t.place = some (a, x)) : (∃ leaf, t = .mem a leaf) ∨ ∃ c own, t = .store c a own := by
  cases t with
  | mem b leaf => cases hp; exact .inl ⟨leaf, rfl⟩
  | store c b own => cases hp; exact .inr ⟨c, own, rfl⟩
  | belay | peer | host => cases hp

variable (hs : s.slow = false) (hp : t.place = some (a, x))
include hs hp

/-- An engine reads a sound word of the package. -/
theorem State.engineRead_sound (hr : s.resolve j.core j.tenant j.master va .load = (s1, .ok t)) (hsound : s.mem.poisoned (a / 8) = false) :
    s.engineRead j va = (s1, .ok (s.mem.word (a / 8), false)) := by
  have hsame := State.resolve_ok hr
  have hunit : ((s1.unitAt j.core (a / 8)).getD s1).settle (a / 8) = s1 := by
    rw [State.unitAt_fast (hsame.slow.trans hs), Option.getD_some, State.settle_of_sound (by rw [hsame.mem, hsound])]
  rw [State.engineRead, hr]
  obtain ⟨leaf, rfl⟩ | ⟨c, own, rfl⟩ := Target.place_cases hp
  · dsimp only
    rw [hunit, hsame.mem, hsound]
  · dsimp only
    rw [hunit, hsame.mem, hsound]

/-- An engine writes a word of the package whole. -/
theorem State.engineWrite_here (hr : s.resolve j.core j.tenant j.master va .store = (s1, .ok t)) (v : Word) (tag : Option Bool) :
    s.engineWrite j va v false tag = (s1.writeWord (a / 8) 0xFF#8 v tag, none) := by
  have hunit : (s1.unitAt j.core (a / 8)).getD s1 = s1 := by
    rw [State.unitAt_fast ((State.resolve_ok hr).slow.trans hs), Option.getD_some]
  rw [State.engineWrite, hr]
  obtain ⟨leaf, rfl⟩ | ⟨c, own, rfl⟩ := Target.place_cases hp
  · dsimp only
    rw [hunit, if_neg Bool.false_ne_true]
  · dsimp only
    rw [hunit, if_neg Bool.false_ne_true]
end

end Sys2Proof.Machine
end

section
/-! A copying step of a haul job (R134). -/

namespace Sys2Proof.Machine

section
variable {s s1 s3 u : State} {oct : Nat} {j : Job} {rest : List Job} {src dst : Nat} {w : Word}

/-- The job after one more word. -/
def Job.advanced (j : Job) : Job := { j with pos := j.pos + 1 }

/-- What is written to the destination of a step, which changes nothing but the count of undetermined values. -/
theorem State.destWord_reframed (s : State) (j : Job) (dst : Nat) (w : Word) :
    ∃ fr, (s.destWord j dst w).1 = s.reframed s.threads s.octets s.latch fr := by
  unfold State.destWord
  split
  · exact ⟨s.fresh + 1, rfl⟩
  · exact ⟨s.fresh, rfl⟩

theorem State.destWord_of_unread (h : readsWord j.desc j.op (s.indexEntry j) dst = false) : (s.destWord j dst w).2 = w := by
  rw [State.destWord, h, if_neg Bool.false_ne_true]

theorem Heads.haulOne_copy (h : Heads s oct false j rest) (hstate : j.state = 1)
    (hact : haulAct j.desc j.op j.arg.toNat j.pos = some (.copy dst src)) (hrec : ctlRec j.desc = false) (hslow : s.slow = false)
    (hf : ∀ f ∈ s.flights, f.job ≠ some j.ref) (hread : s.engineRead j src = (s1, .ok (w, false)))
    (hwrite : (s1.destWord j dst w).1.engineWrite j dst (s1.destWord j dst w).2 false (if ctlFull j.desc then some true else none) =
      (s3, none)) : s.haulOne j.ref = s3.modJob j.ref Job.advanced := by
  have hfree : ((some (HaulAct.copy dst src)).any fun a => !s.engineFree j a.accesses) = false := by
    rw [Option.any_some, State.engineFree_fast hslow hf]
    rfl
  unfold State.haulOne
  rw [h.job?_eq]
  dsimp only
  rw [if_neg (not_not.2 hstate), hact, hfree, if_neg Bool.false_ne_true]
  dsimp only
  rw [hread]
  dsimp only
  rw [State.landWord, hwrite]
  dsimp only
  rw [if_neg Bool.false_ne_true, hrec, if_neg Bool.false_ne_true]
  rfl

/-- Ending a job that is at the end of its order leaves its place and all of memory. -/
theorem Heads.haulEnd_pos (h : Heads s oct false j rest) :
    ((s.haulEnd j.ref).octet oct).haul.head?.map (·.pos) = some j.pos ∧ (s.haulEnd j.ref).mem = s.mem := by
  unfold State.haulEnd
  split
  · rw [h.haul_eq]
    exact ⟨rfl, rfl⟩
  · rw [h.octet_modJob]
    refine ⟨?_, rfl⟩
    rw [Octet.withQueue_haul, List.head?_cons, Option.map_some]
    split <;> rfl
end

section
variable {s s1 s2 : State} {oct src dst a b x y : Nat} {j : Job} {rest : List Job} {t1 t2 : Target}

/-- HAUL_JOB_START of a copying step moves one word, with its tag, and its job on. -/
theorem Heads.haulJobStart_copies (h : Heads s oct false j rest) (hrun : s.tripped = false) (hslow : s.slow = false) (he : NoEpoch s)
    (hstate : j.state ≤ 1) (hact : haulAct j.desc j.op j.arg.toNat j.pos = some (.copy dst src)) (hrec : ctlRec j.desc = false)
    (hload : (s.between.startJob j.ref).resolve j.core j.tenant j.master src .load = (s1, .ok t1)) (hp1 : t1.place = some (a, x))
    (hsound : s.mem.poisoned (a / 8) = false) (hstore : s1.resolve j.core j.tenant j.master dst .store = (s2, .ok t2))
    (hp2 : t2.place = some (b, y)) (hholds : ∀ h ∈ s.holds, h.key ≠ b / 8) (hf : ∀ f ∈ s.flights, f.job ≠ some j.ref) :
    ∃ u, exec (.haulJobStart oct 1) s = .next u ∧
      (readsWord j.desc j.op (((s.between.startJob j.ref).engineRead j src).1.indexEntry j) dst = false →
        u.mem.word (b / 8) = s.mem.word (a / 8)) ∧
      (∀ z, z / 8 ≠ b / 8 → u.mem.byte z = s.mem.byte z) ∧
      (∀ k, u.mem.full k = if k = b / 8 ∧ ctlFull j.desc then true else s.mem.full k) ∧
      (u.octet oct).haul.head?.map (·.pos) = some (j.pos + 1) := by
  have hb : Heads s.between oct false j rest := h
  have hstarted := hb.startJob
  have hread : (s.between.startJob j.ref).engineRead j src = (s1, .ok (s.mem.word (a / 8), false)) :=
    State.engineRead_sound hslow hp1 hload hsound
  have hsame1 := State.resolve_ok hload
  have hsame2 := State.resolve_ok hstore
  obtain ⟨fr, hfr⟩ := s1.destWord_reframed j dst (s.mem.word (a / 8))
  generalize htag : (if ctlFull j.desc then some true else none) = tag
  have hwrite := State.engineWrite_here (s := s1.reframed s1.threads s1.octets s1.latch fr) (j := j) (va := dst)
    (s1 := s2.reframed s1.threads s1.octets s1.latch fr) (hsame1.slow.trans hslow) hp2 (by rw [State.resolve_reframed, hstore])
    (s1.destWord j dst (s.mem.word (a / 8))).2 tag
  rw [← hfr] at hwrite
  have hone := hstarted.haulOne_copy (w := s.mem.word (a / 8)) (Nat.max_eq_left hstate) hact hrec hslow hf hread
    (by rw [← htag] at hwrite; exact hwrite)
  have hmem : (s2.reframed s1.threads s1.octets s1.latch fr).mem = s.mem := hsame2.mem.trans hsame1.mem
  have hepoch : NoEpoch (s2.reframed s1.threads s1.octets s1.latch fr) := hsame2.noEpoch (hsame1.noEpoch he)
  have hnone : ∀ h ∈ (s2.reframed s1.threads s1.octets s1.latch fr).holds, h.key ≠ b / 8 := by
    show ∀ h ∈ s2.holds, h.key ≠ b / 8
    rw [hsame2.holds, hsame1.holds]
    exact hholds
  obtain ⟨hword, hbytes, hfull⟩ := hepoch.writeWord_whole_tagged (s1.destWord j dst (s.mem.word (a / 8))).2 tag hnone
  have hcores := congrArg (·.1.octets) (hepoch.writeWord_atCores (k := b / 8) 0xFF#8 (s1.destWord j dst (s.mem.word (a / 8))).2 tag)
  have hwritten := hstarted.of_octets (u := (s2.reframed s1.threads s1.octets s1.latch fr).writeWord (b / 8) 0xFF#8
    (s1.destWord j dst (s.mem.word (a / 8))).2 tag) (hcores.trans hsame1.octets)
  obtain ⟨hpos, hend⟩ := (hwritten.modJob (f := Job.advanced) rfl).haulEnd_pos
  refine ⟨_, ?_, fun hunread => ?_, fun z hz => ?_, fun k => ?_, hpos⟩
  · show execHaulJobStart oct 1 s = _
    rw [execHaulJobStart, event_of_running _ hrun, hb.haul_eq]
    rw [htag] at hone
    exact congrArg (fun v => Host.Outcome.next (v.haulEnd j.ref)) hone
  · rw [hend, State.modJob_mem, hword]
    rw [hread] at hunread
    exact State.destWord_of_unread hunread
  · rw [hend, State.modJob_mem, hbytes z hz, hmem]
  · rw [hend, State.modJob_mem, hfull k, hmem, ← htag]
    by_cases hk : k = b / 8
    · cases ctlFull j.desc <;> simp [hk]
    · simp [hk]
end

end Sys2Proof.Machine
end

section
/-! MCLR_JOB (R239) and MBLOAD_JOB (R238). -/

namespace Sys2Proof.Machine

/-! Regions, tiles and bytes of the B buffer -/

/-- Keys given the default no longer differ from it. -/
theorem amGetD_foldl_amPut_default {α β : Type} (l : List β) (f : β → Nat) (m : AMap α) (d : α) (n : Nat) :
    amGetD (l.foldl (fun m r => amPut m (f r) d) m) n d = if n ∈ l.map f then d else amGetD m n d := by
  induction l generalizing m with
  | nil => simp
  | cons r l ih =>
    rw [List.foldl_cons, ih, amGetD_amPut, List.map_cons]
    by_cases hl : n ∈ l.map f
    · rw [if_pos hl, if_pos (List.mem_cons_of_mem _ hl)]
    · simp only [if_neg hl, List.mem_cons, or_iff_left hl, eq_comm]

theorem regionOf_emptyRegions (m : AMap Region) (l : List Nat) (n : Nat) :
    regionOf (emptyRegions m l) n = if n ∈ l then {} else regionOf m n := by
  have h := amGetD_foldl_amPut_default l id m ({} : Region) n
  rw [List.map_id] at h
  exact h

theorem amGetD_putByte (m : AMap Byte) (a n : Nat) (b : Byte) : amGetD (putByte m a b) n 0 = if a = n then b else amGetD m n 0 := by
  unfold putByte
  split
  · next hb => rw [amGetD_amDel, hb]
  · exact amGetD_amPut ..

/-- Bytes written one after another. -/
theorem amGetD_foldl_putByte (m : AMap Byte) (a : Nat) (f : Nat → Byte) {n i : Nat} (hi : i < n) :
    amGetD ((List.range n).foldl (fun m i => putByte m (a + i) (f i)) m) (a + i) 0 = f i := by
  induction n with
  | zero => omega
  | succ n ih =>
    rw [List.range_succ, List.foldl_append, List.foldl_cons, List.foldl_nil, amGetD_putByte]
    by_cases h : i = n
    · rw [if_pos (by omega), h]
    · rw [if_neg (by omega), ih (by omega)]

section
variable {s s1 : State} {oct : Nat} {j : Job} {rest : List Job}

/-- A change of an octet outside its queues. -/
theorem Heads.modOctet {m : Bool} (h : Heads s oct m j rest) {f : Octet → Octet}
    (hf : ∀ o, (f o).haul = o.haul ∧ (f o).matrix = o.matrix) : Heads (s.modOctet oct f) oct m j rest := by
  have ho := s.octet_modOctet_self oct f
  exact h.of_queues (by rw [ho]; exact (hf _).1) (by rw [ho]; exact (hf _).2)

/-- A job whose work is done. -/
theorem Heads.octet_jobDone {m : Bool} (h : Heads s oct m j rest) :
    (s.jobDone j.ref).octet oct = (s.octet oct).withQueue m ({ j with state := 2 } :: rest) := h.octet_modJob _

/-! MCLR_JOB -/

/-- An octet without the regions and tiles of a list. -/
def Octet.cleared (o : Octet) (writes : List Nat) : Octet :=
  { o with
    regions := emptyRegions o.regions (writes.filter (· < 16))
    tiles := (writes.filter (16 ≤ ·)).foldl (fun m t => amPut m (t - 16) {}) o.tiles }

theorem Octet.regionOf_cleared (o : Octet) (writes : List Nat) (r : Nat) :
    regionOf (o.cleared writes).regions r = if r < 16 ∧ r ∈ writes then {} else regionOf o.regions r := by
  show regionOf (emptyRegions o.regions _) r = _
  rw [regionOf_emptyRegions]
  simp only [List.mem_filter, decide_eq_true_eq, and_comm]

theorem Octet.tileOf_cleared (o : Octet) (writes : List Nat) (r : Nat) :
    tileOf (o.cleared writes).tiles r = if 16 + r ∈ writes then {} else tileOf o.tiles r := by
  have hmem : r ∈ (writes.filter (16 ≤ ·)).map (· - 16) ↔ 16 + r ∈ writes := by
    simp only [List.mem_map, List.mem_filter, decide_eq_true_eq]
    refine ⟨?_, fun h => ⟨16 + r, ⟨h, by omega⟩, by omega⟩⟩
    rintro ⟨n, ⟨hn, hle⟩, rfl⟩
    rwa [Nat.add_sub_cancel' hle]
  refine (amGetD_foldl_amPut_default (writes.filter (16 ≤ ·)) (· - 16) o.tiles {} r).trans ?_
  simp only [hmem]
  rfl

theorem Heads.mclrJob (h : Heads s oct true j rest) (hrun : s.tripped = false) (hop : j.op = 0x12) (hs : j.state ≤ 1) :
    ∃ u, exec (.mclrJob oct) s = .next u ∧
      u.octet oct = ((s.octet oct).cleared j.writes).withQueue true ({ j with state := 2 } :: rest) ∧ u.mem = s.mem := by
  have hb : Heads s.between oct true j rest := h
  have hcleared := hb.startJob.modOctet (f := (·.cleared j.writes)) fun _ => ⟨rfl, rfl⟩
  refine ⟨((s.between.startJob j.ref).modOctet oct (·.cleared j.writes)).jobDone j.ref, ?_, ?_, rfl⟩
  · show execMclrJob oct s = _
    rw [execMclrJob, event_of_running _ hrun]
    dsimp only
    rw [hb.firstJob_eq (by rw [hop]; rfl) (by omega)]
    dsimp only
    rw [hb.blocked_eq, if_neg Bool.false_ne_true]
    rfl
  · refine hcleared.octet_jobDone.trans ?_
    rw [State.octet_modOctet_self, hb.octet_startJob]
    rfl

/-! MBLOAD_JOB -/

/-- An octet's B buffer with one more word, from a byte on. -/
def Octet.loaded (o : Octet) (a : Nat) (w : Word) : Octet :=
  { o with bytes := (List.range 8).foldl (fun m i => putByte m (a + i) (byteOf w i)) o.bytes }

theorem Octet.byte_loaded (o : Octet) (a : Nat) (w : Word) {i : Nat} (hi : i < 8) : (o.loaded a w).byte (a + i) = (byteOf w i).toNat :=
  congrArg BitVec.toNat (amGetD_foldl_putByte o.bytes a (byteOf w) hi)

theorem Heads.panelOne_sound (h : Heads s oct true j rest) (hstate : j.state = 1) (hpos : j.pos < gBytes j.desc / 8)
    (hslow : s.slow = false) (hf : ∀ f ∈ s.flights, f.job ≠ some j.ref) {w : Word} (hread : s.engineRead j (panelWord j.desc j.pos) = (s1, .ok (w, false))) :
    s.panelOne j.ref = (s1.modOctet oct (·.loaded (gBreg j.desc * 8192 + 8 * j.pos) w)).modJob j.ref Job.advanced := by
  have hgo : ¬ (j.state ≠ 1 ∨ gBytes j.desc / 8 ≤ j.pos) := by omega
  have hfree : (s.memoryBehind j (panelWord j.desc j.pos, .load) || !s.engineFree j [(panelWord j.desc j.pos, .load)]) = false := by
    rw [h.memoryBehind_eq, State.engineFree_fast hslow hf]
    rfl
  unfold State.panelOne
  rw [h.job?_eq]
  dsimp only
  rw [if_neg hgo, hfree, if_neg Bool.false_ne_true, hread, h.octet_eq]
  rfl

/-- A load whose panel has all its words is performed, and its regions are loaded (R238). -/
def State.panelEnd (s : State) (oct : Nat) (j : Job) : State :=
  if j.state = 1 && j.pos == gBytes j.desc / 8 then
    (s.modOctet oct fun o => { o with regions := loadRegions o.regions j (if j.poison.isSome then 2 else 1) }).jobDone j.ref
  else s

theorem Heads.panelEnd_keeps (h : Heads s oct true j rest) : ((s.panelEnd oct j).octet oct).bytes = (s.octet oct).bytes ∧
    ((s.panelEnd oct j).octet oct).matrix.head?.map (·.pos) = some j.pos ∧ (s.panelEnd oct j).mem = s.mem := by
  unfold State.panelEnd
  split
  · have hregions := h.modOctet (f := fun o => { o with regions := loadRegions o.regions j (if j.poison.isSome then 2 else 1) })
      fun _ => ⟨rfl, rfl⟩
    rw [hregions.octet_jobDone, State.octet_modOctet_self]
    exact ⟨rfl, rfl, rfl⟩
  · rw [h.matrix_eq]
    exact ⟨rfl, rfl, rfl⟩

/-- A word of a panel is put into its place in the B buffer. -/
theorem Heads.mbloadJob (h : Heads s oct true j rest) (hrun : s.tripped = false) (hslow : s.slow = false) (hop : j.op = 0x10)
    (hstate : j.state = 1) (hpos : j.pos < gBytes j.desc / 8) (hf : ∀ f ∈ s.flights, f.job ≠ some j.ref) {t1 : Target} {a x : Nat}
    (hload : s.between.resolve j.core j.tenant j.master (panelWord j.desc j.pos) .load = (s1, .ok t1)) (hp : t1.place = some (a, x))
    (hsound : s.mem.poisoned (a / 8) = false) :
    ∃ u, exec (.mbloadJob oct 1) s = .next u ∧ u.mem = s.mem ∧
      (∀ i, i < 8 → (u.octet oct).byte (gBreg j.desc * 8192 + 8 * j.pos + i) = (s.mem.byte (a / 8 * 8 + i)).toNat) ∧
      (u.octet oct).matrix.head?.map (·.pos) = some (j.pos + 1) := by
  have hb : Heads s.between oct true j rest := h
  have hsame := State.resolve_ok hload
  have hread : s.between.engineRead j (panelWord j.desc j.pos) = (s1, .ok (s.mem.word (a / 8), false)) :=
    State.engineRead_sound hslow hp hload hsound
  have hone := hb.panelOne_sound hstate hpos hslow hf hread
  generalize hu : (s1.modOctet oct (·.loaded (gBreg j.desc * 8192 + 8 * j.pos) (s.mem.word (a / 8)))).modJob j.ref Job.advanced = u at *
  have hs1 : Heads s1 oct true j rest := hb.of_octets hsame.octets
  have hloaded := hs1.modOctet (f := (·.loaded (gBreg j.desc * 8192 + 8 * j.pos) (s.mem.word (a / 8)))) fun _ => ⟨rfl, rfl⟩
  have hafter : Heads u oct true j.advanced rest := hu ▸ hloaded.modJob (f := Job.advanced) rfl
  have hmem : u.mem = s.mem := by rw [← hu]; exact hsame.mem
  have hbytes : (u.octet oct).bytes = ((s1.octet oct).loaded (gBreg j.desc * 8192 + 8 * j.pos) (s.mem.word (a / 8))).bytes := by
    rw [← hu, hloaded.octet_modJob, State.octet_modOctet_self, Octet.withQueue_bytes]
  have hplaced (i : Nat) (hi : i < 8) :
      (amGetD (u.octet oct).bytes (gBreg j.desc * 8192 + 8 * j.pos + i) 0).toNat = (s.mem.byte (a / 8 * 8 + i)).toNat := by
    rw [hbytes, Nat.mul_comm (a / 8) 8, ← Memory.byteOf_word _ _ hi]
    exact (s1.octet oct).byte_loaded _ _ hi
  obtain ⟨hsameBytes, hplace, hsameMem⟩ := hafter.panelEnd_keeps
  refine ⟨_, ?_, hsameMem.trans hmem, fun i hi => ?_, hplace⟩
  · have hstarted : ¬ j.state = 0 := by omega
    show execMbloadJob oct 1 s = _
    rw [execMbloadJob, event_of_running _ hrun]
    dsimp only
    rw [hb.firstJob_eq (by rw [hop]; rfl) (by omega)]
    dsimp only
    rw [hb.blocked_eq, if_neg Bool.false_ne_true, hb.storesBefore_eq, if_neg Bool.false_ne_true, if_neg hstarted, State.panelWords,
      State.panelWords, hone, show u.job? j.ref = some j.advanced from hafter.job?_eq]
    rfl
  · rw [Octet.byte, hsameBytes]
    exact hplaced i hi
end

end Sys2Proof.Machine
end

section
/-! MST_JOB of an FP32 tile (R235, R236). -/

namespace Sys2Proof.Machine

section
variable {d : List Word} {p : Nat}

/-- Of an FP32 tile stored once, with no tags, every step is a word of two elements of one row. -/
theorem storeAct_f32 (hfmt : sFmt d = 0) (htwin : sTwin d = false) (hp : p < shapeRows (sShape d) * shapeCols (sShape d) / 2) :
    storeAct d p = some (.word (wrap ((dword d 0).toNat + (p / (shapeCols (sShape d) / 2) : Nat) * (dword d 1).toInt +
      (8 * (p % (shapeCols (sShape d) / 2)) : Nat))) true
      [(p / (shapeCols (sShape d) / 2), p % (shapeCols (sShape d) / 2) * 2),
       (p / (shapeCols (sShape d) / 2), p % (shapeCols (sShape d) / 2) * 2 + 1)]) := by
  have hphases : storePhases d = (0, shapeRows (sShape d) * shapeCols (sShape d) / 2, 0) := by
    rw [storePhases, hfmt, htwin]
    show (0, shapeRows (sShape d) * shapeCols (sShape d) * 4 / 8, 0) = _
    rw [show shapeRows (sShape d) * shapeCols (sShape d) * 4 / 8 = shapeRows (sShape d) * shapeCols (sShape d) / 2 by omega]
  unfold storeAct
  rw [hphases, hfmt]
  dsimp only
  rw [if_neg (Nat.not_lt_zero p), if_pos (by omega)]
  rfl
end

section
variable {s s1 : State} {oct : Nat} {j : Job} {rest : List Job}

/-- Element (i, c) of a tile as an FP32 store writes it. -/
def Octet.storedF32 (o : Octet) (j : Job) (i c : Nat) : Quant :=
  storeElement 0 j.tabA (amGetD (tileOf o.tiles (sTile j.desc)).elems (i * 128 + c) 0).toNat (f32.decode ((dword j.desc 5).toNat % 2 ^ 32))

/-- The word of two elements of n bytes, as a store puts it together. -/
def storedPair (n : Nat) (x y : Quant) : Word :=
  BitVec.ofNat 64 (([x, y].zipIdx).foldl (fun v q => v + q.1.bits * 2 ^ (8 * n * q.2)) 0)

theorem storedPair_eq (n : Nat) (x y : Quant) : storedPair n x y = BitVec.ofNat 64 (x.bits + y.bits * 2 ^ (8 * n)) := by
  simp [storedPair]

/-- The word that step p of such a store writes. -/
def Octet.storedWord (o : Octet) (j : Job) (p : Nat) : Word :=
  let w := shapeCols (sShape j.desc) / 2
  storedPair (storeBytesOf 0) (o.storedF32 j (p / w) (p % w * 2)) (o.storedF32 j (p / w) (p % w * 2 + 1))

/-- A step of the store leaves the memory that its one write leaves. -/
theorem Heads.storeOne_f32_mem (h : Heads s oct true j rest) (hstate : j.state = 1) (hd : j.discarded = false) (hslow : s.slow = false)
    (hf : ∀ f ∈ s.flights, f.job ≠ some j.ref) (hfmt : sFmt j.desc = 0) (hfull : sFull j.desc = false) (hrec : sRec j.desc = false)
    (htile : (tileOf (s.octet oct).tiles (sTile j.desc)).state ≠ 2) {va i c : Nat}
    (hact : storeAct j.desc j.pos = some (.word va true [(i, c), (i, c + 1)]))
    {v : Word} (hv : v = storedPair (storeBytesOf 0) ((s.octet oct).storedF32 j i c) ((s.octet oct).storedF32 j i (c + 1)))
    (hwrite : s.engineWrite j va v false none = (s1, none)) :
    (s.storeOne j.ref).mem = s1.mem := by
  have hgo : ¬ ((decide (j.state ≠ 1) || j.discarded) = true) := by simp [hstate, hd]
  have hfree : (s.memoryBehind j (va, .store) || !s.engineFree j [(va, .store)]) = false := by
    rw [h.memoryBehind_eq, State.engineFree_fast hslow hf]
    rfl
  have hbad : ((tileOf (s.octet oct).tiles (sTile j.desc)).state == 2) = false := by simpa using htile
  have hscale : ((dword j.desc 5).extractLsb' 0 32).toNat = (dword j.desc 5).toNat % 2 ^ 32 := by
    rw [toNat_extractLsb', Nat.pow_zero, Nat.div_one]
  unfold State.storeOne
  rw [h.job?_eq]
  dsimp only
  rw [if_neg hgo, hact, h.octet_eq]
  dsimp only
  rw [hfree, if_neg Bool.false_ne_true, hbad, hscale, hfmt, hfull]
  simp only [Bool.false_eq_true, if_false, List.map_cons, List.map_nil]
  rw [hv, storedPair, Octet.storedF32, Octet.storedF32] at hwrite
  rw [hwrite, hrec]
  rfl

/-- MST_JOB puts two converted elements of a row into a word. -/
theorem Heads.mstJob_f32 (h : Heads s oct true j rest) (hrun : s.tripped = false) (hslow : s.slow = false) (he : NoEpoch s)
    (hop : j.op = 0x11) (hstate : j.state = 1) (hfmt : sFmt j.desc = 0) (htwin : sTwin j.desc = false) (hfull : sFull j.desc = false)
    (hrec : sRec j.desc = false) (hpos : j.pos < shapeRows (sShape j.desc) * shapeCols (sShape j.desc) / 2)
    (hupset : (tileOf (s.octet oct).tiles (sTile j.desc)).upset = false) (htile : (tileOf (s.octet oct).tiles (sTile j.desc)).state ≠ 2)
    {va a x : Nat} {t1 : Target} (hva : va = wrap ((dword j.desc 0).toNat + (j.pos / (shapeCols (sShape j.desc) / 2) : Nat) *
      (dword j.desc 1).toInt + (8 * (j.pos % (shapeCols (sShape j.desc) / 2)) : Nat)))
    (hstore : (s.between.startJob j.ref).resolve j.core j.tenant j.master va .store = (s1, .ok t1)) (hp : t1.place = some (a, x))
    (hd : j.discarded = false) (hf : ∀ f ∈ s.flights, f.job ≠ some j.ref) :
    ∃ u, exec (.mstJob oct 1) s = .next u ∧
      WroteWords s.mem u.mem (a / 8) [(s.octet oct).storedWord j j.pos] := by
  have hb : Heads s.between oct true j rest := h
  have hstarted := hb.startJob
  have htiles : ((s.between.startJob j.ref).octet oct).tiles = (s.octet oct).tiles := by
    rw [hb.octet_startJob, Octet.withQueue_tiles]
    rfl
  have hsame := State.resolve_ok hstore
  have hact := storeAct_f32 hfmt htwin hpos
  rw [← hva] at hact
  have hword : (s.octet oct).storedWord j j.pos = ((s.between.startJob j.ref).octet oct).storedWord j.started j.pos := by
    unfold Octet.storedWord Octet.storedF32
    rw [htiles]
    rfl
  have hwrite := State.engineWrite_here (s := s.between.startJob j.ref) (j := j) hslow hp hstore ((s.octet oct).storedWord j j.pos) none
  have hone := hstarted.storeOne_f32_mem (by rw [Job.started, hstate]; rfl) hd hslow hf hfmt hfull hrec (by rw [htiles]; exact htile) hact
    hword hwrite
  have hwrote := NoEpoch.wroteWords_writeWord (hsame.noEpoch (show NoEpoch (s.between.startJob j.ref) from he)) (a / 8)
    ((s.octet oct).storedWord j j.pos)
  rw [← hone, hsame.mem] at hwrote
  rw [show exec (.mstJob oct 1) s = execMstJob oct 1 s from rfl, execMstJob, event_of_running _ hrun]
  refine ⟨_, rfl, ?_⟩
  dsimp only
  rw [hb.firstJob_eq (by rw [hop]; rfl) (by omega)]
  dsimp only
  rw [hb.blocked_eq, if_neg Bool.false_ne_true, show (tileOf (s.between.octet oct).tiles (sTile j.desc)).upset = false from hupset,
    if_neg Bool.false_ne_true]
  split
  · split
    · exact hwrote
    · exact hwrote
  · exact hwrote
end

end Sys2Proof.Machine
end

section
/-! The acceptance of an mclr (R229, R233, R239). -/

namespace Sys2Proof.Machine

/-- The regions that a job ends lie in the B buffer. -/
theorem lt_of_mem_endedRegions {m : AMap Region} {rs : List Nat} (hrs : ∀ r ∈ rs, r < 16) {n : Nat}
    (h : n ∈ endedRegions m rs) : n < 16 := by
  rw [endedRegions, List.mem_eraseDups, List.mem_append, List.mem_flatMap] at h
  obtain hn | ⟨r, hr, hn⟩ := h
  · exact hrs n hn
  · unfold panelRegions at hn
    dsimp only at hn
    split at hn
    · split at hn
      · exact of_decide_eq_true (List.mem_filter.1 hn).2
      · rw [List.mem_singleton.1 hn]
        exact hrs r hr
    · cases hn

theorem mem_endedRegions {m : AMap Region} {rs : List Nat} {n : Nat} (h : n ∈ rs) : n ∈ endedRegions m rs := by
  rw [endedRegions, List.mem_eraseDups]
  exact List.mem_append_left _ h

/-- What an mclr of a mask clears, as the view stands. -/
def Octet.clears (o : Octet) (m : Word) : List Nat :=
  endedRegions o.viewRegions ((List.range 16).filter fun i => m.getLsbD (4 + i)) ++
    ((List.range 4).filter fun i => m.getLsbD i).map (16 + ·)

theorem Octet.tile_mem_clears (o : Octet) (m : Word) {i : Nat} (hi : i < 4) : 16 + i ∈ o.clears m ↔ m.getLsbD i = true := by
  have hrs : ∀ r ∈ (List.range 16).filter fun i => m.getLsbD (4 + i), r < 16 := fun r hr => List.mem_range.1 (List.mem_filter.1 hr).1
  have hregion : 16 + i ∉ endedRegions o.viewRegions ((List.range 16).filter fun i => m.getLsbD (4 + i)) := fun h => by
    have := lt_of_mem_endedRegions hrs h
    omega
  rw [Octet.clears, List.mem_append, or_iff_right hregion, List.mem_map]
  constructor
  · rintro ⟨n, hn, he⟩
    obtain rfl : n = i := by omega
    exact (List.mem_filter.1 hn).2
  · exact fun h => ⟨i, List.mem_filter.2 ⟨List.mem_range.2 hi, h⟩, rfl⟩

theorem Octet.region_mem_clears (o : Octet) (m : Word) {i : Nat} (hi : i < 16) (h : m.getLsbD (4 + i) = true) : i ∈ o.clears m :=
  List.mem_append_left _ (mem_endedRegions (List.mem_filter.2 ⟨List.mem_range.2 hi, h⟩))

/-- What a key reads is the default, or an entry listed under it. -/
theorem amGetD_cases {α : Type} (m : AMap α) (n : Nat) (d : α) : amGetD m n d = d ∨ (n, amGetD m n d) ∈ m := by
  rw [amGetD]
  cases h : amGet m n with
  | none => exact .inl rfl
  | some x => exact .inr (mem_of_amGet h)

/-- No region of the view is another tenant's. -/
theorem ViewOwned.region {o : Octet} {tn : Nat} (h : ViewOwned o tn) (r : Nat) :
    ((regionOf o.viewRegions r).state != 0 && (regionOf o.viewRegions r).tenant != tn) = false := by
  rw [Bool.and_eq_false_imp, bne_iff_ne]
  intro hs
  obtain hd | hm := amGetD_cases o.viewRegions r {}
  · exact absurd (congrArg Region.state hd) hs
  · exact bne_eq_false_iff_eq.2 (h.1 _ hm hs)

/-- No tile of the view is another tenant's. -/
theorem ViewOwned.tile {o : Octet} {tn : Nat} (h : ViewOwned o tn) (i : Nat) :
    ((tileOf o.viewTiles i).state != 0 && (tileOf o.viewTiles i).tenant != tn) = false := by
  rw [Bool.and_eq_false_imp, bne_iff_ne]
  intro hs
  obtain hd | hm := amGetD_cases o.viewTiles i {}
  · exact absurd (congrArg Tile.state hd) hs
  · exact bne_eq_false_iff_eq.2 (h.2 _ hm hs)

/-- The job of an mclr that a slot's thread has presented. -/
def mclrOf (slot : Nat) (t : Thread) (p : Pend) (writes : List Nat) (r : JobRef) : Job :=
  { ref := r, slot := slot, tenant := t.tenant, launch := t.launch, op := 0x12
    desc := (List.range (p.got.length - 2)).map fun i => p.word (i + 2), arg := p.word 1, writes := writes }

/-- The state in which a slot's candidate is accepted: it is no candidate any more. -/
def State.grants (s : State) (slot : Nat) (t : Thread) (m : Bool) : State :=
  (s.between.dropCandidate slot m).setThread slot { t with pend := none }

section
variable {s : State} {slot : Nat} {t : Thread} {p : Pend}

/-- An mclr whose thread may clear every region and tile is accepted. -/
theorem acceptMatrix_mclr (hphase : p.phase = 0x12) (hview : ViewOwned (s.octet (octetOf (coreOf slot))) t.tenant) :
    acceptMatrix s slot t p =
      some (s.enqueueMatrix slot p (mclrOf slot t p ((s.octet (octetOf (coreOf slot))).clears (p.word 1)))) := by
  unfold acceptMatrix
  rw [hphase]
  refine (if_neg ?_).trans rfl
  · simp only [hview.region, hview.tile, List.any_eq_true, Bool.false_eq_true, and_false, exists_false, Bool.or_eq_true, or_self,
      not_false_eq_true]

/-- A grant takes the one candidate of an octet. -/
theorem State.octet_dropCandidate {o : Octet} {m : Bool} (ho : s.octet (octetOf (coreOf slot)) = o) (hc : o.candidates = [(slot, m)]) :
    (s.dropCandidate slot m).octet (octetOf (coreOf slot)) = { o with candidates := [] } := by
  rw [State.dropCandidate, State.octet_modOctet_self, ho, hc]
  simp

variable {oct : Nat}

/-- JOB_ACCEPT of an mclr. -/
theorem jobAccept_mclr (hrun : s.tripped = false) (ht : s.thread? slot = some t) (hoct : octetOf (coreOf slot) = oct) (hp : t.pend = some p)
    (hphase : p.phase = 0x12) (hkeys : p.keys = []) (hports : t.ports = []) (hcand : (s.octet oct).candidates = [(slot, true)])
    (hroom : (s.octet oct).matrix.length < 16) (hview : ViewOwned (s.octet oct) t.tenant) (hat : (s.octet oct).matAt ≠ some s.cycle)
    (hothers : ∀ c, c < 8 → oct * 8 + c ≠ coreOf slot →
      (s.core (oct * 8 + c)).issuedAt = some s.cycle ∨ ∀ n, coreOf n = oct * 8 + c → s.thread? n = none) :
    ∃ u j t1, exec (.jobAccept oct true) s = .next u ∧ (u.octet oct).matrix = (s.octet oct).matrix ++ [j] ∧ j.op = 0x12 ∧
      j.arg = p.word 1 ∧ j.writes = (s.octet oct).clears (p.word 1) ∧ j.slot = slot ∧ (u.octet oct).candidates = [] ∧
      u.thread? slot = some t1 ∧ t1.run = .ready ∧ t1.pc = p.npc ∧
      (∀ n, t1.reg n = (t.setX p.rd (BitVec.ofNat 64 j.ref.ident)).reg n) ∧ u.mem = s.mem := by
  subst hoct
  generalize hg : s.grants slot t true = w
  generalize hmk : mclrOf slot t p ((s.octet (octetOf (coreOf slot))).clears (p.word 1)) = mk
  have hw : w.octet (octetOf (coreOf slot)) = { s.octet (octetOf (coreOf slot)) with candidates := [] } := by
    rw [← hg]
    exact State.octet_dropCandidate (s := s.between) rfl hcand
  have ht' : w.thread? slot = some { t with pend := none } := by
    rw [← hg]
    exact State.thread?_setThread_self ..
  have hlatch : w.latch.replay = 0 := by
    rw [← hg]
    rfl
  have haccept : acceptMatrix w slot t p = some (w.enqueueMatrix slot p mk) := by
    have h := acceptMatrix_mclr (s := w) hphase (by rw [hw]; exact hview)
    rw [hw] at h
    rw [← hmk]
    exact h
  have hexec : exec (.jobAccept (octetOf (coreOf slot)) true) s = .next (w.enqueueMatrix slot p mk) := by
    show execJobAccept _ true s = _
    rw [execJobAccept, event_of_running _ hrun, if_pos rfl, State.acceptOne_alone (s := s.between) (slot := slot) (m := true) rfl
      (by rw [show (s.between.octet (octetOf (coreOf slot))).candidates = _ from hcand]; simp) hroom hat hothers ht hp]
    rw [← hg] at haccept ⊢
    exact congrArg (fun o : Option State => Host.Outcome.next (o.getD s.between)) haccept
  have henq := State.enqueue_eq (u := w) (slot := slot) (t := { t with pend := none }) (p := p) (m := true) (mk := mk) hlatch ht'
    (portOf_none (by rw [hports]; exact nofun)) hkeys (by rw [← hmk, mclrOf])
  have hqueued : (w.enqueue slot p true mk).octet (octetOf (coreOf slot)) =
      (w.octet (octetOf (coreOf slot))).takes true (mk (w.nextJob (coreOf slot) true)) w.cycle := by
    rw [henq]
    exact (State.octet_setOctet ..).trans (if_pos rfl)
  have hthread := congrArg (State.thread? · slot) henq
  rw [hw] at hqueued
  refine ⟨_, mk (w.nextJob (coreOf slot) true), _, hexec, ?_, by rw [← hmk]; rfl, by rw [← hmk]; rfl, by rw [← hmk]; rfl,
    by rw [← hmk]; rfl, ?_, hthread.trans (State.thread?_setThread_self ..), rfl, rfl, fun n => ?_, ?_⟩
  · rw [State.enqueueMatrix, State.octet_modOctet_self, hqueued]
    rfl
  · rw [State.enqueueMatrix, State.octet_modOctet_self, hqueued]
    rfl
  · rw [← hmk]
    exact Thread.reg_setX_congr (t := t) (t1 := ({ t with pend := none } : Thread).names (w.nextJob (coreOf slot) true)) rfl _ _ n
  · rw [State.enqueueMatrix, henq, ← hg]
    rfl
end

end Sys2Proof.Machine
end

section
/-! The values of R185 as rationals, and the summation of R199 and R200. -/

namespace Sys2Proof.Machine

/-! Exact sums and products -/

section
variable {a b : Fv} {x y : Rat}

theorem ratio_finOf (z : Int) (e : Int) (zn : Bool) : (finOf z e zn).ratio = some ((z : Rat) * 2 ^ e) := by
  unfold finOf
  split
  · next h => rw [h, Fv.ratio, Nat.cast_zero, mul_zero, Int.cast_zero]
  · rw [Fv.ratio, Option.some_inj]
    congr 1
    rcases lt_or_ge z 0 with hz | hz
    · have habs : ((z.natAbs : Int) : Rat) = ((-z : Int) : Rat) := congrArg _ (by omega)
      rw [Int.cast_natCast, Int.cast_neg] at habs
      rw [decide_eq_true hz, if_pos rfl, habs]
      ring
    · have habs : ((z.natAbs : Int) : Rat) = (z : Rat) := congrArg _ (by omega)
      rw [Int.cast_natCast] at habs
      rw [decide_eq_false (not_lt.2 hz), if_neg Bool.false_ne_true, habs, one_mul]

/-- A multiple of a power of two as a multiple of a lower one. -/
theorem mul_zpow_of_le (m : Nat) {e q : Int} (h : q ≤ e) : ((m * 2 ^ (e - q).toNat : Nat) : Rat) * 2 ^ q = m * 2 ^ e := by
  have hsplit : (2 : Rat) ^ e = 2 ^ (e - q).toNat * 2 ^ q := by
    rw [← zpow_natCast, ← zpow_add₀ two_ne_zero, Int.toNat_of_nonneg (by omega), sub_add_cancel]
  rw [hsplit, Nat.cast_mul, Nat.cast_pow, Nat.cast_ofNat, mul_assoc]

theorem Fv.ratio_add (mode : Mode) (ha : a.ratio = some x) (hb : b.ratio = some y) : (a.add mode b).1.ratio = some (x + y) := by
  cases a with
  | nan | inf => cases ha
  | fin n m e =>
    cases b with
    | nan | inf => cases hb
    | fin k l g =>
      cases ha
      cases hb
      rw [Fv.add]
      dsimp only
      rw [ratio_finOf, Option.some_inj, Int.cast_add, add_mul]
      congr 1
      · rw [mul_assoc, ← mul_zpow_of_le m (min_le_left e g)]
        cases n <;> simp
      · rw [mul_assoc, ← mul_zpow_of_le l (min_le_right e g)]
        cases k <;> simp

theorem Fv.ratio_mul (ha : a.ratio = some x) (hb : b.ratio = some y) : (a.mul b).1.ratio = some (x * y) := by
  cases a with
  | nan | inf => cases ha
  | fin n m e =>
    cases b with
    | nan | inf => cases hb
    | fin k l g =>
      cases ha
      cases hb
      rw [Fv.mul, Fv.ratio, Option.some_inj, zpow_add₀ two_ne_zero, Nat.cast_mul]
      cases n <;> cases k <;> simp <;> ring

theorem Fv.isNan_add (mode : Mode) (h : a.isNan = true ∨ b.isNan = true) : (a.add mode b).1.isNan = true := by
  cases a with
  | nan => cases b <;> rfl
  | inf | fin =>
    cases b with
    | nan => rfl
    | inf | fin => exact h.elim nofun nofun

theorem Fv.bits_of_isNan (h : a.isNan = true) : (f32.ofFv .rne a).bits = f32.nan := by
  cases a with
  | nan => rfl
  | inf | fin => cases h
end

/-! A group's sum -/

section
variable {ps : List (Fv × BitVec 5)}

theorem foldl_add_ratio {v : Fv} {x : Rat} {rs : List Rat} (hv : v.ratio = some x) (h : ps.map (·.1.ratio) = rs.map some) :
    (ps.foldl (fun a q => (a.add .rne q.1).1) v).ratio = some (x + rs.sum) := by
  induction ps generalizing v x rs with
  | nil =>
    cases rs with
    | nil => rw [List.sum_nil, add_zero]; exact hv
    | cons => cases h
  | cons p ps ih =>
    cases rs with
    | nil => cases h
    | cons r rs =>
      obtain ⟨hp, hps⟩ := List.cons.inj h
      rw [List.foldl_cons, ih (Fv.ratio_add .rne hv hp) hps, List.sum_cons, add_assoc]

theorem foldl_add_isNan {v : Fv} (h : v.isNan = true ∨ ∃ p ∈ ps, p.1.isNan = true) :
    (ps.foldl (fun a q => (a.add .rne q.1).1) v).isNan = true := by
  induction ps generalizing v with
  | nil => exact h.elim id fun ⟨_, hp, _⟩ => nomatch hp
  | cons p ps ih =>
    refine ih ?_
    obtain hv | ⟨q, hq, hn⟩ := h
    · exact .inl (Fv.isNan_add .rne (.inl hv))
    · obtain rfl | hq := List.mem_cons.1 hq
      · exact .inl (Fv.isNan_add .rne (.inr hn))
      · exact .inr ⟨q, hq, hn⟩

theorem groupSum_ratio {rs : List Rat} (h : ps.map (·.1.ratio) = rs.map some) : (groupSum ps).1.ratio = some rs.sum := by
  have hfinite (p : Fv × BitVec 5) (hp : p ∈ ps) : ∃ x, p.1.ratio = some x := by
    have hmem : p.1.ratio ∈ rs.map some := h ▸ List.mem_map_of_mem (f := (·.1.ratio)) hp
    obtain ⟨x, -, hx⟩ := List.mem_map.1 hmem
    exact ⟨x, hx.symm⟩
  have hinf (n : Bool) : ps.any (fun p => p.1 == .inf n) = false := by
    rw [List.any_eq_false]
    intro p hp heq
    obtain ⟨x, hx⟩ := hfinite p hp
    rw [beq_iff_eq.1 heq] at hx
    cases hx
  unfold groupSum
  dsimp only
  split
  · next hboth => exact absurd (Bool.and_eq_true_iff.1 hboth).1 (by simp only [hinf false]; exact Bool.false_ne_true)
  · cases ps with
    | nil =>
      cases rs with
      | nil => rw [Fv.ratio, Nat.cast_zero, mul_zero, zero_mul, List.sum_nil]
      | cons => cases h
    | cons p ps =>
      cases rs with
      | nil => cases h
      | cons r rs =>
        obtain ⟨hp, hps⟩ := List.cons.inj h
        rw [List.sum_cons]
        exact foldl_add_ratio hp hps

theorem groupSum_isNan (h : ∃ p ∈ ps, p.1.isNan = true) : (groupSum ps).1.isNan = true := by
  unfold groupSum
  dsimp only
  split
  · rfl
  · cases ps with
    | nil => exact nomatch h
    | cons p ps =>
      refine foldl_add_isNan ?_
      obtain ⟨q, hq, hn⟩ := h
      obtain rfl | hq := List.mem_cons.1 hq
      · exact .inl hn
      · exact .inr ⟨q, hq, hn⟩

theorem groupSum_unlike (hp : ∃ p ∈ ps, p.1 = .inf false) (hm : ∃ p ∈ ps, p.1 = .inf true) : (groupSum ps).1.isNan = true := by
  have hany {n : Bool} (h : ∃ p ∈ ps, p.1 = .inf n) : ps.any (fun p => p.1 == .inf n) = true := by
    rw [List.any_eq_true]
    obtain ⟨p, hp, he⟩ := h
    exact ⟨p, hp, beq_iff_eq.2 he⟩
  unfold groupSum
  dsimp only
  split
  · rfl
  · next hnot => exact absurd (Bool.and_eq_true_iff.2 ⟨hany hp, hany hm⟩) hnot
end

/-! A group's term and its step -/

section
variable {sA sB sum : Fv}

theorem groupTerm_ratio {x y z : Rat} (hA : sA.ratio = some x) (hB : sB.ratio = some y) (hs : sum.ratio = some z) :
    (groupTerm sA sB sum).1.ratio = some (x * y * z) := by
  have hproduct := Fv.ratio_mul (Fv.ratio_mul hA hB) hs
  cases sA with
  | nan | inf => cases hA
  | fin =>
    cases sB with
    | nan | inf => cases hB
    | fin =>
      cases sum with
      | nan | inf => cases hs
      | fin => exact hproduct

theorem groupTerm_isNan (h : sA.isNan = true ∨ sB.isNan = true ∨ sum.isNan = true) : (groupTerm sA sB sum).1.isNan = true := by
  unfold groupTerm
  dsimp only
  rw [if_pos]
  · rfl
  · obtain h | h | h := h <;> simp [h]

variable {ps : List (Fv × Fv)} {prods : List (Fv × BitVec 5)}

/-- A group's step takes the accumulator as R199 says, whatever flags its products have. -/
theorem sumStep_groupStep (h : prods.map (·.1) = ps.map fun p => (p.1.mul p.2).1) (acc : Nat × BitVec 5) :
    SumStep sA sB ps acc.1 (groupStep sA sB acc prods).1 := by
  have hbits : (groupStep sA sB acc prods).1 =
      (f32.ofFv .rne ((f32.decode acc.1).add .rne (groupTerm sA sB (groupSum prods).1).1).1).bits := rfl
  have hproduct {P : Fv → Prop} (hp : ∃ p ∈ ps, P (p.1.mul p.2).1) : ∃ q ∈ prods, P q.1 := by
    obtain ⟨p, hp, hP⟩ := hp
    have hmem : (p.1.mul p.2).1 ∈ prods.map (·.1) := h ▸ List.mem_map_of_mem (f := fun p : Fv × Fv => (p.1.mul p.2).1) hp
    obtain ⟨q, hq, he⟩ := List.mem_map.1 hmem
    exact ⟨q, hq, he ▸ hP⟩
  have hnan (hn : (f32.decode acc.1).isNan = true ∨ (groupTerm sA sB (groupSum prods).1).1.isNan = true) :
      (groupStep sA sB acc prods).1 = f32.nan := by
    rw [hbits]
    exact Fv.bits_of_isNan (Fv.isNan_add .rne hn)
  refine ⟨fun x y z rs hA hB hz hrs => ⟨_, ?_, hbits⟩, fun hn => hnan ?_,
    fun hp hm => hnan (.inr (groupTerm_isNan (.inr (.inr ?_))))⟩
  · have hratios : prods.map (·.1.ratio) = (rs.map fun r => r.1 * r.2).map some := by
      have hfirst : (fun q : Fv × BitVec 5 => q.1.ratio) = Fv.ratio ∘ (·.1) := rfl
      rw [hfirst, ← List.map_map, h, List.map_map, List.map_map]
      clear h hbits hproduct hnan
      induction ps generalizing rs with
      | nil =>
        cases rs with
        | nil => rfl
        | cons => cases hrs
      | cons p ps ih =>
        cases rs with
        | nil => cases hrs
        | cons r rs =>
          obtain ⟨hp, hps⟩ := List.cons.inj hrs
          obtain ⟨h1, h2⟩ := Prod.mk.inj hp
          rw [List.map_cons, List.map_cons, ih rs hps]
          exact congrArg (· :: _) (Fv.ratio_mul h1 h2)
    exact Fv.ratio_add .rne hz (groupTerm_ratio hA hB (groupSum_ratio hratios))
  · obtain hn | hn | hn | hn := hn
    · exact .inr (groupTerm_isNan (.inl hn))
    · exact .inr (groupTerm_isNan (.inr (.inl hn)))
    · exact .inl hn
    · exact .inr (groupTerm_isNan (.inr (.inr (groupSum_isNan (hproduct (P := fun v => v.isNan = true) hn)))))
  · exact groupSum_unlike (hproduct (P := (· = .inf false)) hp) (hproduct (P := (· = .inf true)) hm)
end

end Sys2Proof.Machine
end

section
/-! The elements of a tile after a multiply (R199, R200, R226). -/

namespace Sys2Proof.Machine

/-! Steps of a fold, pass after pass and group after group -/

/-- The steps of all passes in order: pass by pass, group by group. -/
def stepsOf {α : Type} (passes : List α) (groups : Nat) : List (α × Nat) :=
  passes.flatMap fun p => (List.range groups).map fun g => (p, g)

theorem stepsOf_length {α : Type} (passes : List α) (groups : Nat) : (stepsOf passes groups).length = passes.length * groups := by
  induction passes with
  | nil => simp [stepsOf]
  | cons p ps ih =>
    rw [stepsOf, List.flatMap_cons, List.length_append, List.length_map, List.length_range, List.length_cons, Nat.succ_mul, Nat.add_comm]
    exact congrArg (· + groups) ih

theorem stepsOf_getElem? {α : Type} {passes : List α} {groups q g : Nat} {p : α} (hq : passes[q]? = some p) (hg : g < groups) :
    (stepsOf passes groups)[q * groups + g]? = some (p, g) := by
  induction passes generalizing q with
  | nil => cases hq
  | cons p' ps ih =>
    have hfirst : ((List.range groups).map fun g => (p', g)).length = groups := by simp
    rw [stepsOf, List.flatMap_cons]
    cases q with
    | zero =>
      cases hq
      rw [Nat.zero_mul, Nat.zero_add, List.getElem?_append_left (by rw [hfirst]; exact hg)]
      simp [hg]
    | succ q =>
      have hrest : (q + 1) * groups + g = groups + (q * groups + g) := by rw [Nat.succ_mul]; omega
      rw [List.getElem?_append_right (by rw [hfirst, hrest]; omega), hfirst, hrest, Nat.add_sub_cancel_left]
      exact ih hq

theorem foldl_stepsOf {α β : Type} (f : β → α → Nat → β) (passes : List α) (groups : Nat) (b : β) :
    (stepsOf passes groups).foldl (fun b x => f b x.1 x.2) b =
      passes.foldl (fun b p => (List.range groups).foldl (fun b g => f b p g) b) b := by
  rw [stepsOf, List.foldl_flatMap]
  simp only [List.foldl_map]

theorem foldl_take_succ {α β : Type} (f : β → α → β) (b : β) {l : List α} {n : Nat} {x : α} (h : l[n]? = some x) :
    (l.take (n + 1)).foldl f b = f ((l.take n).foldl f b) x := by
  rw [List.take_add_one, h, Option.toList_some, List.foldl_append]
  rfl

/-! One element -/

section
variable {o : Octet} {j : Job} {p : Panel}

/-- The values of B's column c that a multiply takes, in the order of k. -/
def Octet.columnOf (o : Octet) (j : Job) (p : Panel) (c : Nat) : List (Option (Fv × BitVec 5)) :=
  (List.range (tK j.desc)).map fun x => o.bValue p (j.panelAt * 8192) j.tabB (tK0 j.desc + x) (c + if tJhalf j.desc then 64 else 0)

/-- Row i of A as a multiply takes it. -/
def Job.rowOf (j : Job) (i : Nat) : List (Fv × BitVec 5) := (List.range (tK j.desc)).map (j.aValue i)

/-- The products of a group, with their flags. -/
def productsOf (parts : (Fv → Fv) × (Fv → Fv)) (row : List (Fv × BitVec 5)) (col : List (Option (Fv × BitVec 5))) (g : Nat) :
    List (Fv × BitVec 5) :=
  ((row.drop (16 * g)).take 16 |>.zip ((col.drop (16 * g)).take 16)).filterMap fun xy =>
    xy.2.map fun y => (((parts.1 xy.1.1).mul (parts.2 y.1)).1, ((parts.1 xy.1.1).mul (parts.2 y.1)).2 ||| xy.1.2 ||| y.2)

theorem dotAcc_eq (pair : Nat) (sA sB : Fv) (row : List (Fv × BitVec 5)) (col : List (Option (Fv × BitVec 5))) (acc : Nat) :
    dotAcc pair sA sB row col acc = (stepsOf (partPairs pair) (row.length / 16)).foldl
      (fun a x => groupStep sA sB a (productsOf x.1 row col x.2)) (acc, 0) := by
  rw [foldl_stepsOf (fun a parts g => groupStep sA sB a (productsOf parts row col g))]
  rfl

/-- Sixteen entries of a list over the numbers below k. -/
theorem take_drop_map_range {α : Type} (f : Nat → α) {k a : Nat} (h : a + 16 ≤ k) :
    (((List.range k).map f).drop a).take 16 = (List.range 16).map fun n => f (a + n) := by
  apply List.ext_getElem
  · simp
    omega
  · intro n h1 h2
    simp

/-- The values of a group's products are those of its pairs. -/
theorem products_eq_groupPairs {i c g : Nat} (parts : (Fv → Fv) × (Fv → Fv)) (hg : g < tK j.desc / 16) :
    (productsOf parts (j.rowOf i) (o.columnOf j p c) g).map (·.1) =
      (o.groupPairs j p i c parts g).map fun p => (p.1.mul p.2).1 := by
  have hk : 16 * g + 16 ≤ tK j.desc := by omega
  rw [productsOf, Job.rowOf, Octet.columnOf, take_drop_map_range _ hk, take_drop_map_range _ hk, List.zip_map', List.filterMap_map,
    List.map_filterMap, Octet.groupPairs, List.map_filterMap]
  refine List.filterMap_congr fun n _ => ?_
  simp only [Function.comp, Option.map_map]
  rfl

/-- The accumulator of element (i, c), with the job's flags, once a list of groups has been added. -/
def Octet.accumulated (o : Octet) (j : Job) (p : Panel) (i c a : Nat) (l : List (((Fv → Fv) × (Fv → Fv)) × Nat)) : Nat × BitVec 5 :=
  l.foldl (fun acc x => groupStep (f32.decode (j.arg.extractLsb' 32 32).toNat) (f32.decode (j.arg.extractLsb' 0 32).toNat) acc
    (productsOf x.1 (j.rowOf i) (o.columnOf j p c) x.2)) (a, 0)

/-- The result of element (i, c), with the job's flags. -/
def Octet.dotted (o : Octet) (j : Job) (p : Panel) (i c a : Nat) : Nat × BitVec 5 :=
  dotAcc j.op (f32.decode (j.arg.extractLsb' 32 32).toNat) (f32.decode (j.arg.extractLsb' 0 32).toNat) (j.rowOf i) (o.columnOf j p c) a

theorem Octet.dotted_eq (o : Octet) (j : Job) (p : Panel) (i c a : Nat) :
    o.dotted j p i c a = o.accumulated j p i c a (stepsOf (partPairs j.op) (tK j.desc / 16)) := by
  have hlen : (j.rowOf i).length = tK j.desc := by rw [Job.rowOf, List.length_map, List.length_range]
  rw [Octet.dotted, dotAcc_eq, hlen]
  rfl

/-- Over all passes and groups an element's accumulator takes the steps of R199. -/
theorem Octet.sums_dotted (o : Octet) (j : Job) (p : Panel) (i c a : Nat) : o.Sums j p i c a (o.dotted j p i c a).1 := by
  refine ⟨fun n => (o.accumulated j p i c a ((stepsOf (partPairs j.op) (tK j.desc / 16)).take n)).1, rfl, ?_,
    fun q g parts hq hg => ?_⟩
  · show (o.accumulated j p i c a (List.take _ _)).1 = _
    rw [Octet.dotted_eq, ← stepsOf_length, List.take_length]
  · have hstep := foldl_take_succ (fun (acc : Nat × BitVec 5) x => groupStep (f32.decode (j.arg.extractLsb' 32 32).toNat)
      (f32.decode (j.arg.extractLsb' 0 32).toNat) acc (productsOf x.1 (j.rowOf i) (o.columnOf j p c) x.2)) (a, 0)
      (stepsOf_getElem? hq hg)
    dsimp only
    unfold Octet.accumulated
    rw [hstep]
    exact sumStep_groupStep (products_eq_groupPairs parts hg) _
end

/-! The tile -/

section
variable {α : Type}

theorem amGet_eq_none_of_notMem {m : AMap α} {n : Nat} (h : n ∉ m.map (·.1)) : amGet m n = none := by
  induction m with
  | nil => rfl
  | cons p m ih =>
    rw [List.map_cons, List.mem_cons, not_or] at h
    rw [amGet, if_neg (Ne.symm h.1), ih h.2]

theorem amGet_of_mem {m : AMap α} (hkeys : (m.map (·.1)).Nodup) {n : Nat} {x : α} (h : (n, x) ∈ m) : amGet m n = some x := by
  induction m with
  | nil => cases h
  | cons p m ih =>
    rw [List.map_cons, List.nodup_cons] at hkeys
    obtain rfl | h := List.mem_cons.1 h
    · rw [amGet, if_pos rfl]
    · have hne : p.1 ≠ n := fun e => hkeys.1 (e ▸ List.mem_map_of_mem (f := (·.1)) h)
      rw [amGet, if_neg hne, ih hkeys.2 h]

theorem amGet_foldl_amPut_of_notMem (l m : AMap α) {n : Nat} (h : n ∉ l.map (·.1)) :
    amGet (l.foldl (fun m e => amPut m e.1 e.2) m) n = amGet m n := by
  induction l generalizing m with
  | nil => rfl
  | cons p l ih =>
    rw [List.map_cons, List.mem_cons, not_or] at h
    rw [List.foldl_cons, ih _ h.2, amGet_amPut, if_neg (Ne.symm h.1)]

theorem amGet_foldl_amPut_of_mem (l m : AMap α) (hkeys : (l.map (·.1)).Nodup) {n : Nat} {x : α} (h : (n, x) ∈ l) :
    amGet (l.foldl (fun m e => amPut m e.1 e.2) m) n = some x := by
  induction l generalizing m with
  | nil => cases h
  | cons p l ih =>
    rw [List.map_cons, List.nodup_cons] at hkeys
    rw [List.foldl_cons]
    obtain rfl | h := List.mem_cons.1 h
    · rw [amGet_foldl_amPut_of_notMem _ _ hkeys.1, amGet_amPut, if_pos rfl]
    · exact ih _ hkeys.2 h
end

section
variable (o : Octet) (j : Job) (p : Panel)

/-- The elements of a multiply's shape. -/
def Job.cells (j : Job) : List (Nat × Nat) := List.range (shapeRows (tShape j.desc)) ×ˢ List.range (shapeCols (tShape j.desc))

/-- Where the tile lists element (i, c). -/
def cellKey (x : Nat × Nat) : Nat := x.1 * 128 + x.2

/-- An element as a multiply finds it. -/
def Octet.before (o : Octet) (j : Job) (x : Nat × Nat) : Nat :=
  if tInit j.desc then 0 else (amGetD (tileOf o.tiles (tTile j.desc)).elems (cellKey x) 0).toNat

/-- The results of a multiply, with the job's flags. -/
def Octet.results (o : Octet) (j : Job) (p : Panel) : List (Nat × Nat × BitVec 5) :=
  j.cells.map fun x => (cellKey x, o.dotted j p x.1 x.2 (o.before j x))

/-- The elements that a multiply does not write. -/
def Octet.outside (o : Octet) (j : Job) : AMap (BitVec 32) :=
  (tileOf o.tiles (tTile j.desc)).elems.filter fun e =>
    !(decide (e.1 / 128 < shapeRows (tShape j.desc)) && decide (e.1 % 128 < shapeCols (tShape j.desc)))

/-- The results other than zero, which a tile does not list. -/
def Octet.listed (o : Octet) (j : Job) (p : Panel) : AMap (BitVec 32) :=
  ((o.results j p).filter fun e => e.2.1 != 0).map fun e => (e.1, BitVec.ofNat 32 e.2.1)

theorem zipIdx_map_range {α : Type} (f : Nat → α) (n : Nat) : ((List.range n).map f).zipIdx = (List.range n).map fun c => (f c, c) := by
  apply List.ext_getElem
  · simp
  · intro i h1 h2
    simp

theorem Octet.multiply_elems : (o.multiply j p).1 = (o.outside j).foldl (fun m e => amPut m e.1 e.2) (o.listed j p) := by
  have hout : ((List.range (shapeRows (tShape j.desc))).flatMap fun i =>
      ((List.range (shapeCols (tShape j.desc))).map (o.columnOf j p)).zipIdx.map fun b =>
        (i * 128 + b.2, dotAcc j.op (f32.decode (j.arg.extractLsb' 32 32).toNat) (f32.decode (j.arg.extractLsb' 0 32).toNat) (j.rowOf i)
          b.1 (o.before j (i, b.2)))) = o.results j p := by
    simp only [zipIdx_map_range, Octet.results, Job.cells, SProd.sprod, List.product, List.map_flatMap, List.map_map]
    rfl
  rw [Octet.listed, ← hout]
  rfl

theorem mem_cells {i c : Nat} : (i, c) ∈ j.cells ↔ i < shapeRows (tShape j.desc) ∧ c < shapeCols (tShape j.desc) := by
  rw [Job.cells, List.mem_product, List.mem_range, List.mem_range]

theorem lt_of_mem_cells {x : Nat × Nat} (h : x ∈ j.cells) : x.2 < 128 := by
  have hcols : shapeCols (tShape j.desc) ≤ 128 := by
    unfold shapeCols
    split <;> decide
  exact Nat.lt_of_lt_of_le ((mem_cells j).1 h).2 hcols

theorem cellKey_inj {x y : Nat × Nat} (hx : x.2 < 128) (hy : y.2 < 128) (h : cellKey x = cellKey y) : x = y := by
  unfold cellKey at h
  exact Prod.ext (by omega) (by omega)

theorem Octet.results_keys_nodup : ((o.results j p).map (·.1)).Nodup := by
  rw [Octet.results, List.map_map]
  exact ((List.nodup_range.product List.nodup_range).map_on fun x hx y hy h =>
    cellKey_inj (lt_of_mem_cells j hx) (lt_of_mem_cells j hy) h :)

theorem Octet.listed_keys_nodup : ((o.listed j p).map (·.1)).Nodup := by
  rw [Octet.listed, List.map_map]
  exact (o.results_keys_nodup j p).sublist (List.filter_sublist.map _)

variable {i c : Nat}

/-- The list holds what an element's result is, a zero by its absence. -/
theorem Octet.amGetD_listed (h : (i, c) ∈ j.cells) :
    amGetD (o.listed j p) (cellKey (i, c)) 0 = BitVec.ofNat 32 (o.dotted j p i c (o.before j (i, c))).1 := by
  have hmem : (cellKey (i, c), o.dotted j p i c (o.before j (i, c))) ∈ o.results j p := List.mem_map.2 ⟨(i, c), h, rfl⟩
  by_cases hz : (o.dotted j p i c (o.before j (i, c))).1 = 0
  · rw [hz, amGetD, amGet_eq_none_of_notMem]
    · rfl
    · intro hkey
      obtain ⟨e, he, hek⟩ := List.mem_map.1 hkey
      obtain ⟨r, hr, rfl⟩ := List.mem_map.1 he
      obtain ⟨hr, hnz⟩ := List.mem_filter.1 hr
      have hsame : r = (cellKey (i, c), o.dotted j p i c (o.before j (i, c))) :=
        List.inj_on_of_nodup_map (o.results_keys_nodup j p) hr hmem hek
      rw [hsame] at hnz
      exact absurd hz (bne_iff_ne.1 hnz)
  · have hlisted : (cellKey (i, c), BitVec.ofNat 32 (o.dotted j p i c (o.before j (i, c))).1) ∈ o.listed j p :=
      List.mem_map.2 ⟨_, List.mem_filter.2 ⟨hmem, bne_iff_ne.2 hz⟩, rfl⟩
    rw [amGetD, amGet_of_mem (o.listed_keys_nodup j p) hlisted, Option.getD_some]

/-- An element of the shape is its result. -/
theorem Octet.multiply_inside (h : (i, c) ∈ j.cells) :
    amGetD (o.multiply j p).1 (cellKey (i, c)) 0 = BitVec.ofNat 32 (o.dotted j p i c (o.before j (i, c))).1 := by
  have hc := lt_of_mem_cells j h
  obtain ⟨hi, hcols⟩ := (mem_cells j).1 h
  have hnot : cellKey (i, c) ∉ (o.outside j).map (·.1) := by
    intro hkey
    obtain ⟨e, he, hek⟩ := List.mem_map.1 hkey
    have hout := (List.mem_filter.1 he).2
    rw [hek] at hout
    have hrow : cellKey (i, c) / 128 = i := by unfold cellKey; omega
    have hcol : cellKey (i, c) % 128 = c := by unfold cellKey; omega
    rw [hrow, hcol] at hout
    simp [hi, hcols] at hout
  rw [← o.amGetD_listed j p h, amGetD, amGetD, Octet.multiply_elems, amGet_foldl_amPut_of_notMem _ _ hnot]

/-- An element outside the shape is as before. -/
theorem Octet.multiply_outside (hkeys : ((tileOf o.tiles (tTile j.desc)).elems.map (·.1)).Nodup) (hc : c < 128) (h : (i, c) ∉ j.cells) :
    amGetD (o.multiply j p).1 (cellKey (i, c)) 0 = amGetD (tileOf o.tiles (tTile j.desc)).elems (cellKey (i, c)) 0 := by
  have hrow : cellKey (i, c) / 128 = i := by unfold cellKey; omega
  have hcol : cellKey (i, c) % 128 = c := by unfold cellKey; omega
  have hunlisted : cellKey (i, c) ∉ (o.listed j p).map (·.1) := by
    intro hkey
    obtain ⟨e, he, hek⟩ := List.mem_map.1 hkey
    obtain ⟨r, hr, rfl⟩ := List.mem_map.1 he
    obtain ⟨x, hx, rfl⟩ := List.mem_map.1 (List.mem_filter.1 hr).1
    exact h (cellKey_inj (lt_of_mem_cells j hx) hc hek ▸ hx)
  have hkept : ((o.outside j).map (·.1)).Nodup := hkeys.sublist (List.filter_sublist.map _)
  rw [Octet.multiply_elems, amGetD, amGetD]
  cases hold : amGet (tileOf o.tiles (tTile j.desc)).elems (cellKey (i, c)) with
  | some v =>
    have hmem : (cellKey (i, c), v) ∈ o.outside j := by
      refine List.mem_filter.2 ⟨?_, ?_⟩
      · exact mem_of_amGet hold
      · dsimp only
        rw [hrow, hcol]
        rw [mem_cells, not_and_or] at h
        simpa [or_iff_not_imp_left] using h
    rw [amGet_foldl_amPut_of_mem _ _ hkept hmem]
  | none =>
    have hnot : cellKey (i, c) ∉ (o.outside j).map (·.1) := by
      intro hkey
      obtain ⟨e, he, hek⟩ := List.mem_map.1 hkey
      have hsome := amGet_isSome_of_mem (List.mem_filter.1 he).1
      rw [hek, hold] at hsome
      cases hsome
    rw [amGet_foldl_amPut_of_notMem _ _ hnot, amGet_eq_none_of_notMem hunlisted]
end

end Sys2Proof.Machine
end

section
/-! MULTIPLY_JOB once every word of A is read (R199, R231). -/

namespace Sys2Proof.Machine

/-- A multiply looks at the octet's tiles and at the B buffer alone. -/
theorem Octet.multiply_congr {o o' : Octet} (ht : o'.tiles = o.tiles) (hb : o'.bytes = o.bytes) (j : Job) (p : Panel) :
    o'.multiply j p = o.multiply j p := by
  show ({ tiles := o'.tiles, bytes := o'.bytes } : Octet).multiply j p = _
  rw [ht, hb]
  rfl

/-- The panel of a multiply stands wherever its regions are the same. -/
theorem Octet.panelStands_congr {o o' : Octet} {j : Job}
    (h : ∀ i < j.panelLen, regionOf o'.regions (j.panelAt + i) = regionOf o.regions (j.panelAt + i)) :
    o'.panelStands j = o.panelStands j := by
  rw [Octet.panelStands, Octet.panelStands, Bool.eq_iff_iff, List.all_eq_true, List.all_eq_true]
  refine forall₂_congr fun i hi => ?_
  rw [h i (List.mem_range.1 hi)]

/-- The work regions lie above the panel. -/
theorem regionOf_workRegions (m : AMap Region) (j : Job) {r : Nat} (hr : r < 8) : regionOf (workRegions m j) r = regionOf m r := by
  have hfold (l : List Nat) (m : AMap Region) : regionOf (l.foldl (fun m i => amPut m (8 + i)
      { state := 3, tenant := j.tenant, launch := j.launch, first := 8 + i, writer := some j.ref }) m) r = regionOf m r := by
    induction l generalizing m with
    | nil => rfl
    | cons i l ih =>
      rw [List.foldl_cons, ih, regionOf, amGetD_amPut, if_neg (by omega)]
      rfl
  exact hfold _ m

section
variable {s : State} {oct : Nat} {j : Job} {rest : List Job} {p : Panel}

/-- The octet of a running multiply, once an mm.f32x has its work regions (R232). -/
def Octet.working (o : Octet) (j : Job) : Octet := if j.op = 10 then { o with regions := workRegions o.regions j } else o

theorem Octet.working_rest (o : Octet) (j : Job) : (o.working j).haul = o.haul ∧ (o.working j).matrix = o.matrix ∧
    (o.working j).tiles = o.tiles ∧ (o.working j).bytes = o.bytes := by
  unfold Octet.working
  split <;> exact ⟨rfl, rfl, rfl, rfl⟩

theorem Octet.regionOf_working (o : Octet) (j : Job) {r : Nat} (hr : j.op = 10 → r < 8) :
    regionOf (o.working j).regions r = regionOf o.regions r := by
  unfold Octet.working
  split
  · next hop => exact regionOf_workRegions _ j (hr hop)
  · rfl

/-- An octet with another tile. -/
def Octet.withTile (o : Octet) (i : Nat) (t : Tile) : Octet := { o with tiles := amPut o.tiles i t }

/-- The tile that a multiply leaves. -/
def Octet.product (o : Octet) (j : Job) (p : Panel) : Tile :=
  { state := 1, tenant := j.tenant, launch := j.launch, elems := (o.multiply j p).1 }

/-- A multiply that finds its panel and tile sound writes its tile, and is performed. -/
theorem Heads.runMultiply_sound (h : Heads s oct true j rest) (hstands : (s.octet oct).panelStands j = true) (hpoison : j.poison = none)
    (hupset : ∀ i < j.panelLen, (regionOf (s.octet oct).regions (j.panelAt + i)).upset = false)
    (htileUpset : (tileOf (s.octet oct).tiles (tTile j.desc)).upset = false)
    (htile : (tileOf (s.octet oct).tiles (tTile j.desc)).state ≠ 2)
    (hregion : (regionOf (s.octet oct).regions j.panelAt).state = 1)
    (hpanel : (regionOf (s.octet oct).regions j.panelAt).panel = some p) :
    s.runMultiply j = ((s.modOctet oct (·.withTile (tTile j.desc) ((s.octet oct).product j p))).modJob j.ref fun k =>
      { k with flags := k.flags ||| ((s.octet oct).multiply j p).2 }).jobDone j.ref := by
  have hfind : s.findUpsets j = s := by
    have hpanelSound : ((List.range j.panelLen).any fun i => (regionOf (s.octet oct).regions (j.panelAt + i)).upset) = false := by
      rw [List.any_eq_false]
      exact fun i hi => by rw [hupset i (List.mem_range.1 hi)]; exact Bool.false_ne_true
    unfold State.findUpsets
    rw [h.octet_eq]
    dsimp only
    rw [hpanelSound, htileUpset, Bool.and_false]
    rfl
  have hsound : (j.poison.isSome || decide ((regionOf (s.octet oct).regions j.panelAt).state = 2) ||
      (!(tInit j.desc) && decide ((tileOf (s.octet oct).tiles (tTile j.desc)).state = 2))) = false := by
    rw [hpoison, hregion, decide_eq_false htile, Bool.and_false]
    rfl
  unfold State.runMultiply
  rw [h.octet_eq]
  dsimp only
  rw [hstands, if_neg (by simp), hfind, hsound, if_neg Bool.false_ne_true, hpanel]
  rfl

/-- An mm.f32x that may take effect takes its work regions (R232). -/
def State.takesWork (s : State) (oct : Nat) (j : Job) : State :=
  if j.op = 10 && !(s.octet oct).blocked j then s.modOctet oct fun o => { o with regions := workRegions o.regions j } else s

theorem State.takesWork_mem (s : State) (oct : Nat) (j : Job) : (s.takesWork oct j).mem = s.mem := by
  unfold State.takesWork
  split <;> rfl

theorem Heads.octet_takesWork (h : Heads s oct true j rest) : (s.takesWork oct j).octet oct = (s.octet oct).working j := by
  rw [State.takesWork, h.blocked_eq, Bool.not_false, Bool.and_true, Octet.working]
  by_cases hop : j.op = 10
  · rw [if_pos (decide_eq_true hop), if_pos hop, State.octet_modOctet_self]
  · rw [if_neg (by simpa using hop), if_neg hop]

/-- MULTIPLY_JOB of a multiply whose words of A are read. -/
theorem Heads.multiplyJob (h : Heads s oct true j rest) (hrun : s.tripped = false) (hop : j.op ≤ 10)
    (hwork : j.op = 10 → 0 < j.panelLen ∧ j.panelAt + j.panelLen ≤ 8) (hstate : j.state = 1) (hpos : j.pos = j.aPlaces)
    (hgating : s.gating = 0) (hstands : (s.octet oct).panelStands j = true) (hpoison : j.poison = none)
    (hupset : ∀ i < j.panelLen, (regionOf (s.octet oct).regions (j.panelAt + i)).upset = false)
    (htileUpset : (tileOf (s.octet oct).tiles (tTile j.desc)).upset = false)
    (htile : (tileOf (s.octet oct).tiles (tTile j.desc)).state ≠ 2)
    (hregion : (regionOf (s.octet oct).regions j.panelAt).state = 1)
    (hpanel : (regionOf (s.octet oct).regions j.panelAt).panel = some p) :
    ∃ u, exec (.multiplyJob oct 0) s = .next u ∧
      tileOf (u.octet oct).tiles (tTile j.desc) = (s.octet oct).product j p ∧
      (u.octet oct).matrix = { j with state := 2, flags := j.flags ||| ((s.octet oct).multiply j p).2 } :: rest ∧ u.mem = s.mem := by
  have hb : Heads s.between oct true j rest := h
  have hj : j.started = j := by
    show { j with state := max 1 j.state } = j
    rw [hstate]
    cases j
    cases hstate
    rfl
  have hstarted : Heads (s.between.startJob j.ref) oct true j rest := by
    have h' := hb.startJob
    rwa [hj] at h'
  have ho : (s.between.startJob j.ref).octet oct = s.octet oct := by
    rw [hb.octet_startJob, hj, ← hb.matrix_eq]
    rfl
  have hx : ((s.between.startJob j.ref).takesWork oct j).octet oct = (s.octet oct).working j := by
    rw [hstarted.octet_takesWork, ho]
  generalize hx' : (s.between.startJob j.ref).takesWork oct j = x at hx
  obtain ⟨hhaul, hmatrix, htiles, hbytes⟩ := (s.octet oct).working_rest j
  have hheads : Heads x oct true j rest := h.of_queues (by rw [hx, hhaul]) (by rw [hx, hmatrix])
  have hregions (i : Nat) (hi : i < j.panelLen) :
      regionOf (x.octet oct).regions (j.panelAt + i) = regionOf (s.octet oct).regions (j.panelAt + i) := by
    rw [hx, Octet.regionOf_working _ _ fun h10 => by have := hwork h10; omega]
  have hfirst : regionOf (x.octet oct).regions j.panelAt = regionOf (s.octet oct).regions j.panelAt := by
    rw [hx, Octet.regionOf_working _ _ fun h10 => by have := hwork h10; omega]
  have hrun' := hheads.runMultiply_sound (p := p) ((Octet.panelStands_congr hregions).trans hstands) hpoison
    (fun i hi => by rw [hregions i hi]; exact hupset i hi) (by rw [hx, htiles]; exact htileUpset) (by rw [hx, htiles]; exact htile)
    (by rw [hfirst]; exact hregion) (by rw [hfirst]; exact hpanel)
  have hmul : (x.octet oct).multiply j p = (s.octet oct).multiply j p := by
    rw [hx]
    exact Octet.multiply_congr htiles hbytes j p
  have hwritten := hheads.modOctet (f := (·.withTile (tTile j.desc) ((x.octet oct).product j p))) fun _ => ⟨rfl, rfl⟩
  have hflags := hwritten.modJob (f := fun k => { k with flags := k.flags ||| ((x.octet oct).multiply j p).2 }) rfl
  refine ⟨x.runMultiply j, ?_, ?_, ?_, ?_⟩
  · show execMultiplyJob oct 0 s = _
    rw [execMultiplyJob, event_of_running _ hrun]
    dsimp only
    rw [hb.firstJob_eq (by simpa using hop) (by omega)]
    dsimp only
    rw [show s.between.gating = 0 from hgating, if_neg (Nat.not_lt_zero _), hb.startBlocked_eq, if_neg Bool.false_ne_true,
      hstarted.firstJob_eq (by simpa using hop) (by omega), Option.any_some, ho, hstands, Bool.not_true, Bool.and_false,
      if_neg Bool.false_ne_true]
    have hended : (match x.job? j.ref with
        | some k => if k.state = 1 && k.pos == k.aPlaces && !(x.octet oct).blocked k then x.runMultiply k else x
        | none => x) = x.runMultiply j := by
      rw [hheads.job?_eq]
      dsimp only
      rw [if_pos]
      rw [hheads.blocked_eq, hpos, hstate]
      simp
    rw [← hended, ← hx']
    rfl
  · rw [hrun', hflags.octet_jobDone, Octet.withQueue_tiles, hwritten.octet_modJob, Octet.withQueue_tiles, State.octet_modOctet_self]
    show tileOf (amPut _ _ _) _ = _
    rw [tileOf, amGetD_amPut, if_pos rfl, Octet.product, hmul]
    rfl
  · rw [hrun', hflags.octet_jobDone, hmul]
    rfl
  · rw [hrun']
    show x.mem = s.mem
    rw [← hx', State.takesWork_mem]
    rfl
end

end Sys2Proof.Machine
end

section
/-! The engines' steps together (R128, R134, R136, R138, R199, R200, R230, R231, R236, R238, R239). -/

namespace Sys2Proof.Machine

theorem Thread.x_setX_self {t : Thread} {d : Nat} (hd : d ≠ 0) (v : Word) : (t.setX d v).x d = v := by
  rw [Thread.x, Thread.reg, Thread.setX, if_neg hd, if_neg hd, amGetD_amPut, if_pos rfl]

/-- Settles O40, where requests complete in the step that makes them (notes/assumptions/1.md): each clause is the step of a job at the head
of its queue, which nothing comes before; the undetermined value of a destination word that the job also reads as its source
(notes/assumptions/64.md) is written like any other. -/
theorem enginesRun : Obligations.EnginesRun := by
  intro s oct j rest hrun hslow he
  dsimp only
  refine ⟨fun h => ⟨?_, ?_⟩, fun h => ⟨?_, ?_, ?_, ?_, ?_⟩, ?_⟩
  · intro s1 s2 src dst t1 t2 a b x y hstate hact hrec hload hp1 hsound hstore hp2 hholds hf
    exact h.haulJobStart_copies hrun hslow he hstate hact hrec hload hp1 hsound hstore hp2 hholds hf
  · rintro hs hu ⟨hf, ha⟩
    exact h.haulJob_ends hrun hs hu hf ha
  · rintro hs hu ⟨hf, ha⟩ hd hsync
    exact h.matrixJob_ends hrun hs hu hf ha hd hsync
  · intro s1 t1 a x hop hstate hpos hload hp hsound hf
    exact h.mbloadJob hrun hslow hop hstate hpos hf hload hp hsound
  · intro p hop hwork hstate hpos hgating hstands hpoison hupset htileUpset htile hregion hpanel
    obtain ⟨u, hu, htiles, hmatrix, hmem⟩ := h.multiplyJob hrun hop hwork hstate hpos hgating hstands hpoison hupset htileUpset htile
      hregion hpanel
    refine ⟨u, hu, ⟨?_, ?_, ?_, fun i c hi hc => ?_, fun hkeys i c hc hout => ?_⟩, hmatrix, hmem⟩
    · rw [htiles]; rfl
    · rw [htiles]; rfl
    · rw [htiles]; rfl
    · refine ⟨_, (s.octet oct).sums_dotted j p i c _, ?_⟩
      rw [htiles]
      exact (s.octet oct).multiply_inside j p ((mem_cells j).2 ⟨hi, hc⟩)
    · rw [htiles]
      exact (s.octet oct).multiply_outside j p hkeys hc (mt (mem_cells j).1 hout)
  · intro s1 t1 a x hop hstate hfmt htwin hfull hrec _ hpos hupset htile hstore hp hd hf
    obtain ⟨u, hu, hword, hbytes, htags⟩ :=
      h.mstJob_f32 hrun hslow he hop hstate hfmt htwin hfull hrec hpos hupset htile rfl hstore hp hd hf
    refine ⟨u, hu, ?_, fun z hz => hbytes z ?_, htags⟩
    · have hfirst := hword 0 Nat.one_pos
      rw [Nat.add_zero] at hfirst
      exact hfirst.trans (storedPair_eq ..)
    · rw [List.length_singleton]
      omega
  · intro hop hs
    obtain ⟨u, hu, hoctet, hmem⟩ := h.mclrJob hrun hop hs
    have hregion (r : Nat) := (s.octet oct).regionOf_cleared j.writes r
    have htile (r : Nat) := (s.octet oct).tileOf_cleared j.writes r
    refine ⟨u, hu, fun r hr => ?_, fun r hr hn => ?_, fun r hn => ?_, ?_, hmem⟩
    · rw [hoctet, Octet.withQueue_regions, Octet.withQueue_tiles]
      split
      · next hlt => rw [hregion, if_pos ⟨hlt, hr⟩]
      · rw [htile, if_pos (by rwa [Nat.add_sub_cancel' (by omega)])]
    · rw [hoctet, Octet.withQueue_regions, hregion, if_neg fun h => hn h.2]
    · rw [hoctet, Octet.withQueue_tiles, htile, if_neg hn]
    · rw [hoctet]
      rfl
  · intro slot t p ht hoct hp _ hphase hkeys hports _ hcand hroom hview hat hothers
    obtain ⟨u, j', t1, hu, hqueue, hop, harg, hwrites, hslot, hcands, ht1, hready, hpc, hregs, hmem⟩ :=
      jobAccept_mclr hrun ht hoct hp hphase hkeys hports hcand hroom hview hat hothers
    refine ⟨u, j', t1, hu, hqueue, hop, harg, fun i hi => ?_, fun i hi hset => ?_, hslot, hcands, ht1, hready, hpc, fun hd => ?_, hmem⟩
    · rw [hwrites]
      exact (s.octet oct).tile_mem_clears _ hi
    · rw [hwrites]
      exact (s.octet oct).region_mem_clears _ hi hset
    · have hvalue := congrArg Reg.val (hregs p.rd)
      exact hvalue.trans (Thread.x_setX_self hd _)

end Sys2Proof.Machine
end

section
/-! Port leases (R149): a descriptor in a store of no package's addresses (see farState) counts as memory outside the package, for which
pbind does not wait. -/

namespace Sys2Proof.Machine

/-- farState with a descriptor at the start of the thread's own store: an affine read of 9 words from address 0. -/
def farDesc : State := { farState with mem := { cells := [(storeBase (coreOf farSlot) + 16, 9)] } }

/-- The words of that descriptor. -/
def farDescWords : List Word := [0, 0, 9, 0, 0, 0, 0, 0]

theorem farDesc_canIssue : CanIssue farDesc farThread [rs 5, rname 0, rdst 9] := Tests.canIssue rfl (by decide)

theorem farDesc_ownWords : OwnWords farDesc (farThread.x 5) 8 farDescWords :=
  ⟨by decide, by decide, by decide, fun _ _ => ⟨⟨nofun, rfl⟩, rfl⟩, by decide⟩

/-- pbind x9, x5, x0 changes nothing: the thread does not go on to the next instruction. -/
theorem farDesc_pbind_stays : exec (.pbind 9 5 0) farDesc = .next farDesc := rfl

/-- Refutes O32: the descriptor of farDesc is legal and lies settled in the own window, and yet its pbind neither leases a port nor
writes a failure code; the statement has it retire. -/
theorem not_portLeases : ¬ Obligations.PortLeases := by
  unfold Obligations.PortLeases
  intro hall
  obtain ⟨hpbind, -⟩ := hall farDesc farThread 9 5 0 rfl
  have hnext := hpbind farDescWords farDesc_canIssue (by decide) farDesc_ownWords (by decide)
  have hstate := Host.Outcome.next.inj (farDesc_pbind_stays.symm.trans hnext)
  have hpc : (farDesc.thread? farSlot).map (·.pc) = some 0x1004 := by
    rw [hstate]
    rfl
  exact absurd hpc (by decide)

end Sys2Proof.Machine
end

section
/-! A link-in port as an operand (R150, R155): it draws from its FIFO where it has room, and the pushes accepted for a port count against
its room whatever its kind. -/

namespace Sys2Proof.Machine

/-- A link-in port bound to x5 that holds no word and has 16 accepted pushes. -/
def crowdedPort : Port := { Tests.port9 [] with ctl := 2, bound := some 5, pushes := List.replicate 16 ⟨0, 0, [0]⟩ }

/-- A thread whose only port that is; x6 is a plain register. -/
def crowdedThread : Thread := { Tests.t0 with ports := [(0, crowdedPort)] }

/-- That thread alone, a word of an earlier cycle at the head of the link's FIFO. -/
def crowdedState : State := { State.reset with
  threads := [(0, crowdedThread)], cores := [(0, { fifos := [(0, [(7, 0)])] })], cycle := 1 }

theorem crowdedState_readsPort : ReadsPort crowdedState crowdedThread 0 crowdedPort 5 6 7 :=
  ⟨rfl, rfl, rfl, rfl, rfl, rfl, rfl, .inr (.inr ⟨rfl, rfl⟩), by decide, by decide, rfl, fun _ => ⟨rfl, rfl⟩⟩

/-- add x7, x5, x6 draws nothing, and waits for the port's words. -/
theorem crowdedState_add_waits : ∃ u, exec (.add 7 5 6) crowdedState = .next u ∧
    (u.thread? 0).map (·.run) = some (.waiting (.portWords 0 1)) := ⟨_, rfl, rfl⟩

/-- Refutes O33: the port of crowdedState is full of pushes, so that the form waits with a word at the head of the link's FIFO; the
statement, which says nothing of a read port's pushes, has the form compute with that word and retire. -/
theorem not_portOperands : ¬ Obligations.PortOperands := by
  unfold Obligations.PortOperands
  intro hall
  obtain ⟨hlink, -⟩ := hall (.add 7 5 6) 7 5 6 _ rfl crowdedState crowdedThread 0 crowdedPort (by decide)
  have hnext := hlink crowdedState_readsPort rfl rfl rfl 7 0 rfl (by decide)
  obtain ⟨u, hexec, hwaits⟩ := crowdedState_add_waits
  obtain rfl := Host.Outcome.next.inj (hexec.symm.trans hnext)
  exact nomatch hwaits

end Sys2Proof.Machine
end

section
/-! Port requests (R152): with sync 1, a word in a store of no package's addresses (see farState) is asked for outside the package, and
held at no home. -/

namespace Sys2Proof.Machine

/-- A thread with a read port of sync 1, whose sequence begins at the base of its own store. -/
def farReader : Thread := { farThread with ports := [(3, Tests.portSync)] }

/-- That thread alone and in farSlot, the first word of its store empty. -/
def farEmpty : State := { farState with
  threads := [(farSlot, farReader)], mem := { empties := [storeBase (coreOf farSlot) / 8] } }

theorem farEmpty_turn : farEmpty.nextPort (coreOf farSlot) = some 3 := by decide

/-- The port's turn leaves no request held, the word empty or not. -/
theorem farEmpty_prefetch : ∃ u, exec (.portPrefetch farSlot 3) farEmpty = .next u ∧ u.holds = [] := ⟨_, rfl, rfl⟩

/-- Refutes O55 in its clause on the request of an empty word: the request of farEmpty's port is not held at a home; the statement has
it held. -/
theorem not_portsRopesAndRounds : ¬ Obligations.PortsRopesAndRounds := by
  unfold Obligations.PortsRopesAndRounds
  intro hall
  obtain ⟨hprefetch, -⟩ := hall farEmpty rfl
  obtain ⟨-, hempty, -⟩ := hprefetch farSlot 3 farReader Tests.portSync rfl rfl rfl (.inr ⟨farEmpty_turn, by decide⟩) nofun
    (by decide) rfl rfl rfl rfl (by decide) (.inl rfl)
  obtain ⟨u, h, q, hexec, -, hheld, -⟩ :=
    hempty _ rfl (by decide) rfl rfl rfl (by decide) (by decide) (by decide) (by decide) (by decide)
  obtain ⟨v, hexec', hnone⟩ := farEmpty_prefetch
  obtain rfl := Host.Outcome.next.inj (hexec'.symm.trans hexec)
  rw [hnone] at hheld
  exact nomatch hheld

end Sys2Proof.Machine
end

section
/-! The turn of a pitch body's replay (R166). The step judges it between instructions, with the latch cleared; the statement asks for it in
a state whose latch is arbitrary. A latch of a replay has an ending rope's member retire as a replay does, so that it stays parked in
clip, and keeps another rope from its step, which else goes before the replay. -/

namespace Sys2Proof.Machine
open Sys2Proof.Tests

/-- A body of one fadd, one iteration before its last. -/
def faddBody : PitchBody where
  instrs := [⟨.fadd 0 0 2 10 10 12, 0x00C5250B, (0, 0, 0), none⟩]
  stag := 0
  rot := 0
  sd := false
  sa := false
  sb := false
  count := 2
  iter := 1
  index := 0
  heldRegs := [10, 12]
  heldPorts := []
  stop := none
  taken := false
  resumeAt := none

/-- The thread of that body. -/
def faddThread : Thread :=
  { t0 with regs := [(10, { val := 0x3C00 }), (12, { val := 0x4000 })], body := some faddBody }

/-- A rope at its end, whose one member waits in clip. -/
def endedRope : Rope where
  launch := 0
  members := [2]
  step := 0
  done := [9]
  length := some 0
  solo := [2]
  left := []
  leaderOut := false
  stream := []

/-- A rope whose member in slot 1 is to execute a nop, at a step at which the member of slot 2 rejoins if it still waits in clip; it has no
instruction to execute then. -/
def waitingRope : Rope where
  launch := 0
  members := [3, 1, 2]
  step := 2
  done := []
  length := none
  solo := [2]
  left := [3]
  leaderOut := false
  stream := [(1, 0x3000, [0x13], none), (0, 0x1000, [], none)]

/-- The thread of slot 1: refused 8 times in a row. -/
def refusedThread : Thread := { t0 with pc := 0x3000, spanRefused := 8 }

/-- The thread of slot 2: parked in clip at 0x1000. -/
def clippedThread : Thread :=
  { t0 with run := .parked (.clip 0x1000), pend := some ⟨.none, 0, 0x2000, [], [], [], 11, 0, 0x1000, []⟩ }

/-- The three threads and the two ropes, with a latch as a replay has it. -/
def replayLatched : State := { on faddThread with
  threads := [(0, faddThread), (1, refusedThread), (2, clippedThread)]
  ropes := [(0, endedRope), (1, waitingRope)]
  cycle := 1
  latch := { replay := 1 } }

theorem replayLatched_replayTurn : replayLatched.replayTurn 0 = true := by decide

/-- With the latch cleared, the rope's step goes before the replay: PITCH_REPLAY executes nothing. -/
theorem replayLatched_pitchReplay_stays : exec (.pitchReplay 0) replayLatched = .next replayLatched.between := rfl

/-- Refutes O36 in its clause on PITCH_REPLAY: it is the replay's turn in replayLatched, and yet the step leaves the thread as it was; the
statement has it count in instret. -/
theorem not_pitchStarts : ¬ Obligations.PitchStarts := by
  unfold Obligations.PitchStarts
  rintro ⟨-, hreplay⟩
  obtain ⟨u, t1, hexec, hthread, -, hinstret, -⟩ := hreplay replayLatched 0 faddThread faddBody 0x00C5250B 0 2 10 10 12
    rfl rfl rfl rfl rfl rfl rfl rfl rfl rfl rfl rfl rfl rfl rfl rfl nofun replayLatched_replayTurn (by decide) (by decide)
  obtain rfl := Host.Outcome.next.inj (replayLatched_pitchReplay_stays.symm.trans hexec)
  obtain rfl : faddThread = t1 := Option.some.inj hthread
  exact absurd hinstret (by decide)

end Sys2Proof.Machine
end

section
/-! Leased ports of a thread: what an operation on one leaves of the thread, and how an instruction that has changed them retires. -/

namespace Sys2Proof.Machine

/-- The thread with a port under a handle. -/
def Thread.putPort (t : Thread) (h : Nat) (p : Port) : Thread := { t with ports := amPut t.ports h p }

theorem Thread.amGet_putPort (t : Thread) (h k : Nat) (p : Port) :
    amGet (t.putPort h p).ports k = if h = k then some p else amGet t.ports k := amGet_amPut ..

theorem Thread.putPort_putPort (t : Thread) (h : Nat) (p q : Port) : (t.putPort h p).putPort h q = t.putPort h q :=
  congrArg (fun m => { t with ports := m }) (amPut_amPut ..)

/-- A port with k elements popped from its head. -/
def Port.popped (p : Port) (k : Nat) : Port := { p with held := p.held.drop k, pos := p.pos + k }

/-- A port k elements further on in its sequence. -/
def Port.moved (p : Port) (k : Nat) : Port := { p with pos := p.pos + k }

theorem Port.popped_popped (p : Port) (j k : Nat) : (p.popped j).popped k = p.popped (j + k) := by
  simp only [Port.popped, List.drop_drop, Nat.add_assoc]

theorem Port.unasked_of_nil {p : Port} (hasks : p.asks = []) : p.unasked = p := by
  simp only [Port.unasked, hasks, List.filterMap_nil, List.nil_append]
  rw [← hasks]

/-- No port of the thread is bound to the registers an instruction names. -/
def Thread.Unbound (t : Thread) (us : List RegUse) : Prop := ∀ h ∈ t.ports, ∀ u ∈ us, ∀ n ∈ u.regs, h.2.covers n = false

theorem Thread.Unbound.putPort {t : Thread} {us : List RegUse} (hn : t.Unbound us) {h : Nat} {p q : Port}
    (hp : amGet t.ports h = some p) (hcovers : q.covers = p.covers) : (t.putPort h q).Unbound us := by
  intro x hx u hu n hnu
  rcases mem_amPut _ _ _ _ hx with rfl | hx
  · exact congrFun hcovers n ▸ hn _ (mem_of_amGet hp) u hu n hnu
  · exact hn x hx u hu n hnu

section
variable {s : State} {t : Thread} {n h : Nat} {p : Port}

theorem State.port?_of_thread (ht : s.thread? n = some t) (h : Nat) : s.port? n h = amGet t.ports h := by
  rw [State.port?, ht, Option.bind_some]

theorem State.modPort_of_port (ht : s.thread? n = some t) (hp : amGet t.ports h = some p) (f : Port → Port) :
    s.modPort n h f = s.setThread n (t.putPort h (f p)) := by
  rw [State.modPort, State.modThread_of_thread ht, hp]
  rfl

theorem State.modPort_setThread (s : State) (n : Nat) (hp : amGet t.ports h = some p) (f : Port → Port) :
    (s.setThread n t).modPort n h f = s.setThread n (t.putPort h (f p)) := by
  rw [State.modPort_of_port (s.thread?_setThread_self n t) hp, State.setThread_setThread]

/-- Popping words of a port that passes none on. -/
theorem State.popHeld_of_port (ht : s.thread? n = some t) (hp : amGet t.ports h = some p) (hf : (decide (p.kind = 2) && p.fwd) = false)
    (k : Nat) : s.popHeld n h k = s.setThread n (t.putPort h (p.popped k)) := by
  rw [State.popHeld, State.port?_of_thread ht, hp]
  simp only [hf, Bool.false_eq_true, if_false]
  exact State.modPort_of_port ht hp _

theorem State.setThread_modThread (s : State) (n : Nat) (f : Thread → Thread) (x : Thread) :
    (s.modThread n f).setThread n x = s.setThread n x := by
  unfold State.modThread
  split
  · exact State.setThread_setThread ..
  · rfl

theorem State.dropAsk_setThread (s : State) (n h : Nat) (x : Thread) : (s.dropAsk n h).setThread n x =
    { s.setThread n x with
      holds := s.holds.filter fun y => !(y.slot == n && y.port == some h)
      returns := s.returns.filter fun y => !(y.1.slot == n && y.1.port == some h) } := by
  rw [← State.setThread_modThread s n _ x]
  rfl

theorem State.setThread_dropAsk (hp : amGet t.ports h = some p) (s : State) (n : Nat) :
    (s.setThread n t).dropAsk n h = (s.dropAsk n h).setThread n (t.putPort h p.unasked) := by
  rw [State.dropAsk_setThread, State.dropAsk, State.modPort_setThread s n hp]
  rfl

/-- A port changed after its requests are dropped. -/
theorem State.modPort_dropAsk (ht : s.thread? n = some t) (hp : amGet t.ports h = some p) (f : Port → Port) :
    (s.dropAsk n h).modPort n h f = (s.dropAsk n h).setThread n (t.putPort h (f p.unasked)) := by
  have hthread : (s.dropAsk n h).thread? n = some (t.putPort h p.unasked) := by
    rw [State.dropAsk_thread? ht, unaskedAt, hp]
    rfl
  rw [State.modPort_of_port hthread (by rw [Thread.amGet_putPort, if_pos rfl]), Thread.putPort_putPort]

end

section
variable {s u : State} {t t1 : Thread} {us : List RegUse}

/-- An instruction that can issue and that has changed its ports, but for what they are bound to, retires with a result. -/
theorem CanIssue.finish_ports (h : CanIssue s t us) (hcur : u.cur = s.cur) (hlatch : u.latch = s.latch) (hn : t1.Unbound us) {d : Nat}
    (hd : rdst d ∈ us) (w npc v : Word) :
    (u.setThread s.cur t1).finish ⟨s.cur, t, w, npc, us⟩ d [v] = u.retires (t1.setX d v) npc := by
  have hport : t1.portOf d = none := portOf_none fun p hp => hn p hp _ hd d (by simp)
  rw [← hcur, ← State.retires_setThread u t1, ← Thread.setXs_one]
  exact State.finish_of_unbound (u := u.setThread u.cur t1) (hcur ▸ h.handles w npc) rfl (State.thread?_setThread_self ..)
    (by rw [State.setThread_latch, hlatch]; exact h.direct) hport [v]

end

end Sys2Proof.Machine
end

section
/-! pskip (R160). -/

namespace Sys2Proof.Machine

section
variable {s : State} {t : Thread} {n h : Nat} {p q : Port}

/-- Skipping m elements of a port with a pattern: those held go first, and the requests with them where these are not enough. -/
theorem State.skipElements_affine (ht : s.thread? n = some t) (hp : amGet t.ports h = some p) (hkind : p.kind ≠ 1) (hagain : p.again = [])
    (hix : ∀ x ∈ p.asks, x.ix = none) (m : Nat) : s.skipElements n h m p = (if p.held.length < m then s.dropAsk n h else s).setThread n
      (t.putPort h { p with held := p.held.drop m, asks := if p.held.length < m then [] else p.asks, pos := p.pos + m }) := by
  have hof : ∀ e, p.ofIndex e = false := fun e => by simp [Port.ofIndex, hkind]
  have hall : p.held.filter (fun e => !p.ofIndex e) = p.held := List.filter_eq_self.2 fun e _ => by rw [hof, Bool.not_false]
  have hnone : p.held.filter p.ofIndex = [] := List.filter_eq_nil_iff.2 fun e _ => by rw [hof]; exact Bool.false_ne_true
  have hasks : p.asks.filterMap (·.ix) = [] := List.filterMap_eq_nil_iff.2 hix
  simp only [State.skipElements, hall, hnone, ite_self, List.append_nil, hkind, false_and, if_false]
  by_cases hlt : p.held.length < m
  · simp only [if_pos hlt, State.modPort_dropAsk ht hp, Port.unasked, hasks, hagain, List.nil_append, List.drop_nil]
  · simp only [if_neg hlt, State.modPort_of_port ht hp, hagain, List.drop_nil]

/-- Skipping m elements of a port that holds and has asked for nothing: its index words go unread. -/
theorem State.skipElements_indirect (ht : s.thread? n = some t) (hp : amGet t.ports h = some p) (hkind : p.kind = 1) (hheld : p.held = [])
    (hasks : p.asks = []) (hagain : p.again = []) (hq : amGet t.ports p.ixh = some q) (hqasks : q.asks = []) (hne : p.ixh ≠ h) {m : Nat}
    (hm : 0 < m) : s.skipElements n h m p = ((s.dropAsk n h).dropAsk n p.ixh).setThread n
      ((t.putPort h (p.moved m)).putPort p.ixh (q.popped m)) := by
  have hm0 : m ≠ 0 := by omega
  have hmoved : ({ p with held := [], again := [], pos := p.pos + m } : Port) = p.moved m := by
    rw [Port.moved, ← hheld, ← hagain]
  simp only [State.skipElements, hheld, hasks, hagain, hkind, List.filter_nil, List.length_nil, Nat.sub_zero, hm, hm0, if_true, if_false,
    List.drop_nil, List.append_nil, ne_eq, not_false_eq_true, and_self]
  rw [State.modPort_dropAsk ht hp, Port.unasked_of_nil hasks, hagain, List.drop_nil, hmoved,
    State.setThread_dropAsk (p := q) (by rw [Thread.amGet_putPort, if_neg (Ne.symm hne), hq]), Port.unasked_of_nil hqasks,
    State.modPort_setThread _ _ (by rw [Thread.amGet_putPort, if_pos rfl]), Thread.putPort_putPort]
  rfl

theorem Thread.remaining_affine (hkind : p.kind = 0 ∨ p.kind = 3) (t : Thread) : t.remaining p = some (p.total - p.pos) := by
  rcases hkind with hkind | hkind <;> simp only [Thread.remaining, hkind]

theorem Thread.remaining_indirect (hkind : p.kind = 1) (hheld : p.held = []) (hasks : p.asks = []) (hagain : p.again = [])
    (hq : amGet t.ports p.ixh = some q) (hqkind : q.kind = 0) : t.remaining p = some (q.total - q.pos) := by
  simp [Thread.remaining, hkind, hheld, hasks, hagain, hq, hqkind]

theorem Thread.remaining_linkIn (hkind : p.kind = 2) (t : Thread) : t.remaining p = none := by
  simp only [Thread.remaining, hkind]

/-! A link-in port whose FIFO is empty skips the words it holds. -/

theorem State.drawLink_of_empty (ht : s.thread? n = some t) (hp : amGet t.ports h = some p)
    (hfifo : amGetD (s.core (coreOf n)).fifos p.dir [] = []) : s.drawLink n h = s := by
  rw [State.drawLink, State.port?_of_thread ht, hp]
  simp only [hfifo, ite_self]

theorem State.canSkip_linkIn (ht : s.thread? n = some t) (hp : amGet t.ports h = some p) (hkind : p.kind = 2) (hfwd : p.fwd = false)
    (hfifo : amGetD (s.core (coreOf n)).fifos p.dir [] = []) : s.canSkip n h = !p.held.isEmpty := by
  have hport := State.port?_of_thread ht h
  simp [State.canSkip, State.drawLink_of_empty ht hp hfifo, hport, hp, hkind, State.forwardFull, hfwd]

theorem State.skipOne_linkIn (ht : s.thread? n = some t) (hp : amGet t.ports h = some p) (hkind : p.kind = 2) (hfwd : p.fwd = false)
    (hfifo : amGetD (s.core (coreOf n)).fifos p.dir [] = []) : s.skipOne n h = s.setThread n (t.putPort h (p.popped 1)) := by
  rw [State.skipOne, State.port?_of_thread ht, hp]
  simp only [hkind, State.drawLink_of_empty ht hp hfifo]
  exact State.popHeld_of_port ht hp (by rw [hfwd, Bool.and_false]) 1

/-- Up to m of the words held are skipped: their number, and what any further change of the port leaves. -/
theorem State.skipLink_linkIn (ht : s.thread? n = some t) (hp : amGet t.ports h = some p) (hkind : p.kind = 2) (hfwd : p.fwd = false)
    (hfifo : amGetD (s.core (coreOf n)).fifos p.dir [] = []) (f : Port → Port) (m : Nat) :
    (s.skipLink n h m).2 = min m p.held.length ∧
    (s.skipLink n h m).1.modPort n h f = s.setThread n (t.putPort h (f (p.popped (min m p.held.length)))) := by
  induction m generalizing s t p with
  | zero => exact ⟨(Nat.zero_min _).symm, by rw [Nat.zero_min]; exact State.modPort_of_port ht hp f⟩
  | succ m ih =>
    rw [State.skipLink, State.canSkip_linkIn ht hp hkind hfwd hfifo]
    cases hheld : p.held with
    | nil =>
      refine ⟨rfl, (State.modPort_of_port ht hp f).trans ?_⟩
      rw [List.length_nil, Nat.min_zero, Port.popped, List.drop_zero, Nat.add_zero]
    | cons e rest =>
      have hpopped : (p.popped 1).held.length = rest.length := by rw [Port.popped, hheld]; rfl
      obtain ⟨hcount, hstate⟩ := ih (s := s.setThread n (t.putPort h (p.popped 1))) (State.thread?_setThread_self ..)
        ((Thread.amGet_putPort ..).trans (if_pos rfl)) hkind hfwd hfifo
      rw [hpopped] at hcount hstate
      have hmin : min (m + 1) (rest.length + 1) = min m rest.length + 1 := Nat.add_min_add_right ..
      simp only [List.isEmpty_cons, Bool.not_false, if_true, State.skipOne_linkIn ht hp hkind hfwd hfifo, List.length_cons, hmin, hcount,
        hstate, State.setThread_setThread, Thread.putPort_putPort, Port.popped_popped, Nat.add_comm 1, and_self]

end

theorem freeOfBody_of_held {c : Ctx} {b : PitchBody} {h : Nat} (hb : c.t.body = some b) (hh : h ∈ b.heldPorts) (s : State)
    (go : State → State) : freeOfBody s c h go = s.park c.slot (.heldBy [] [h]) := by
  rw [freeOfBody, hb]
  simp only [List.contains_iff_mem.2 hh, if_true]

theorem handleOf_eq (v : Word) : handleOf v = v.toNat % 32 := by
  rw [handleOf, toNat_extractLsb', pow_zero, Nat.div_one, show 2 ^ 5 = 32 from rfl]

section
variable {s : State} {t : Thread} {rd rs1 rs2 : BitVec 5}
  (h : CanIssue s t [rs (s.latch.rs1 rs1), rs (s.latch.rs2 rs2), rdst (s.latch.rd rd)])
include h

theorem CanIssue.pskip_body (hh : (t.x (s.latch.rs1 rs1)).toNat % 32 = 16) :
    exec (.pskip rd rs1 rs2) s = .next (s.retires ({ t with body := none }.setX (s.latch.rd rd) 0) (s.nextPc t)) := by
  show execPskip rd rs1 rs2 s = _
  rw [execPskip, h.issue]
  simp only [Ctx.x, h.src_rs (n := s.latch.rs1 rs1) (by simp), handleOf_eq, hh, if_true, State.modThread_of_thread h.thread]
  exact congrArg _ (h.finish_setThread (t1 := { t with body := none }) rfl (u := rdst (s.latch.rd rd)) (by simp) (by simp) ..)

variable {k : Nat} (hk : k = (t.x (s.latch.rs1 rs1)).toNat % 32) (hne : k ≠ 16)
include hk hne

theorem CanIssue.pskip_unleased (hp : amGet t.ports k = none) :
    exec (.pskip rd rs1 rs2) s = .next (s.trapAt s.cur 0x01 s.latch.tval t.pc) := by
  show execPskip rd rs1 rs2 s = _
  rw [execPskip, h.issue]
  simp only [Ctx.x, h.src_rs (n := s.latch.rs1 rs1) (by simp), handleOf_eq, ← hk, hne, if_false, hp]
  rw [h.trapc (by decide)]

variable {p : Port} (hp : amGet t.ports k = some p)
include hp

theorem CanIssue.pskip_held {b : PitchBody} (hb : t.body = some b) (hheld : k ∈ b.heldPorts) : exec (.pskip rd rs1 rs2) s =
    .next { s.setThread s.cur { t with run := .waiting (.heldBy [] [k]) } with latch := {} } := by
  show execPskip rd rs1 rs2 s = _
  rw [execPskip, h.issue]
  simp only [Ctx.x, h.src_rs (n := s.latch.rs1 rs1) (by simp), handleOf_eq, ← hk, hne, if_false, hp,
    freeOfBody_of_held (c := ⟨s.cur, t, _, _, _⟩) hb hheld]
  rw [h.park]

variable (hb : t.body = none)
include hb

theorem CanIssue.pskip_linkOut (hkind : p.kind = 4) :
    exec (.pskip rd rs1 rs2) s = .next (s.retires (t.setX (s.latch.rd rd) 0) (s.nextPc t)) := by
  show execPskip rd rs1 rs2 s = _
  rw [execPskip, h.issue]
  simp only [Ctx.x, h.src_rs (n := s.latch.rs1 rs1) (by simp), handleOf_eq, ← hk, hne, if_false, hp, freeOfBody, hb, hkind, if_true]
  exact congrArg _ (h.finish (u := rdst (s.latch.rd rd)) (by simp) (by simp) ..)

/-- A port with an end skips the smaller of the elements asked and of those that remain. -/
theorem CanIssue.pskip_ending (hkind : p.kind ≠ 4) {r : Nat} (hr : t.remaining p = some r) :
    exec (.pskip rd rs1 rs2) s = .next ((s.skipElements s.cur k (min (t.x (s.latch.rs2 rs2)).toNat r) p).finish
      ⟨s.cur, t, s.latch.tval, s.nextPc t, [rs (s.latch.rs1 rs1), rs (s.latch.rs2 rs2), rdst (s.latch.rd rd)]⟩ (s.latch.rd rd)
      [BitVec.ofNat 64 (min (t.x (s.latch.rs2 rs2)).toNat r)]) := by
  show execPskip rd rs1 rs2 s = _
  rw [execPskip, h.issue]
  simp only [Ctx.x, h.src_rs (n := s.latch.rs1 rs1) (by simp), h.src_rs (n := s.latch.rs2 rs2) (by simp), handleOf_eq, ← hk, hne, if_false, hp,
    freeOfBody, hb, hkind, hr]

theorem CanIssue.pskip_affine (hkind : p.kind = 0 ∨ p.kind = 3) (hagain : p.again = []) (hix : ∀ x ∈ p.asks, x.ix = none) {m : Nat}
    (hm : m = min (t.x (s.latch.rs2 rs2)).toNat (p.total - p.pos)) :
    exec (.pskip rd rs1 rs2) s = .next ((if p.held.length < m then s.dropAsk s.cur k else s).retires
      ((t.putPort k { p with held := p.held.drop m, asks := if p.held.length < m then [] else p.asks, pos := p.pos + m }).setX
        (s.latch.rd rd) (BitVec.ofNat 64 m)) (s.nextPc t)) := by
  rw [h.pskip_ending hk hne hp hb (by omega) (Thread.remaining_affine hkind t), ← hm,
    State.skipElements_affine h.thread hp (by omega) hagain hix]
  refine congrArg _ (h.finish_ports ?_ ?_ ?_ (d := s.latch.rd rd) (by simp) ..)
  · split
    · exact State.dropAsk_cur ..
    · rfl
  · split
    · exact State.dropAsk_latch ..
    · rfl
  · exact Thread.Unbound.putPort h.unbound hp rfl

theorem CanIssue.pskip_indirect {q : Port} (hkind : p.kind = 1) (hheld : p.held = []) (hasks : p.asks = []) (hagain : p.again = [])
    (hq : amGet t.ports p.ixh = some q) (hqkind : q.kind = 0) (hqasks : q.asks = []) (hix : p.ixh ≠ k) {m : Nat}
    (hm : m = min (t.x (s.latch.rs2 rs2)).toNat (q.total - q.pos)) (hpos : 0 < m) :
    exec (.pskip rd rs1 rs2) s = .next (((s.dropAsk s.cur k).dropAsk s.cur p.ixh).retires
      (((t.putPort k (p.moved m)).putPort p.ixh (q.popped m)).setX (s.latch.rd rd) (BitVec.ofNat 64 m)) (s.nextPc t)) := by
  rw [h.pskip_ending hk hne hp hb (by omega) (Thread.remaining_indirect hkind hheld hasks hagain hq hqkind), ← hm,
    State.skipElements_indirect h.thread hp hkind hheld hasks hagain hq hqasks hix hpos]
  refine congrArg _ (h.finish_ports ?_ ?_ ?_ (d := s.latch.rd rd) (by simp) ..)
  · rw [State.dropAsk_cur, State.dropAsk_cur]
  · rw [State.dropAsk_latch, State.dropAsk_latch]
  · have hmoved := Thread.Unbound.putPort h.unbound hp (q := p.moved m) rfl
    exact hmoved.putPort (p := q) (by rw [Thread.amGet_putPort, if_neg (Ne.symm hix), hq]) rfl

section
variable (hkind : p.kind = 2) (hfwd : p.fwd = false) (hskip : p.skipping = none) (hlen : p.held.length ≤ 16)
  (hfifo : amGetD (s.core (coreOf s.cur)).fifos p.dir [] = [])
include hkind hfwd hskip hlen hfifo

/-- What a link-in port holds is skipped as far as asked; where it is not enough, the thread waits with the number skipped. -/
theorem CanIssue.pskip_linkIn {m : Nat} (hm : m = (t.x (s.latch.rs2 rs2)).toNat) : exec (.pskip rd rs1 rs2) s = .next
    (if m ≤ p.held.length then s.retires ((t.putPort k (p.popped m)).setX (s.latch.rd rd) (BitVec.ofNat 64 m)) (s.nextPc t)
      else (s.setThread s.cur (t.putPort k { p.popped p.held.length with skipping := some (t.pc, p.held.length) })).park s.cur
        (.skipWords k)) := by
  have h4 : p.kind ≠ 4 := by omega
  have hmin : min (min 32 m) p.held.length = min m p.held.length := by omega
  have hlink := State.skipLink_linkIn h.thread hp hkind hfwd hfifo
  have hcount := (hlink id (min 32 m)).1
  show execPskip rd rs1 rs2 s = _
  rw [execPskip, h.issue]
  simp only [Ctx.x, h.src_rs (n := s.latch.rs1 rs1) (by simp), h.src_rs (n := s.latch.rs2 rs2) (by simp), handleOf_eq, ← hk, hne, if_false, hp,
    freeOfBody, hb, h4, Thread.remaining_linkIn hkind t, hskip, Nat.sub_zero, ← hm, hcount, hmin, Nat.zero_add, (hlink _ _).2]
  by_cases hle : m ≤ p.held.length
  · have hpopped : ({ p.popped m with skipping := none } : Port) = p.popped m := by rw [Port.popped, ← hskip]
    rw [min_eq_left hle, if_pos le_rfl, if_pos hle, hpopped]
    refine congrArg _ (h.finish_ports rfl rfl ?_ (d := s.latch.rd rd) (by simp) ..)
    exact Thread.Unbound.putPort h.unbound hp rfl
  · rw [min_eq_right (by omega), if_neg hle, if_neg hle]

end

end

end Sys2Proof.Machine
end

section
/-! isect (R161) of two read feeders that hold all that remains of them. -/

namespace Sys2Proof.Machine

/-! Sorted lists of words and their longest prefixes up to a limit. -/

/-- Rising strictly, as numbers. -/
def Rising (l : List Word) : Prop := l.Pairwise fun v w => v.toNat < w.toNat

/-- The words of a list up to a limit. -/
def upTo (lim : Nat) (l : List Word) : List Word := l.filter fun w => w.toNat ≤ lim

theorem prefixUpTo_of_rising (lim : Word) {l : List Word} (h : Rising l) : prefixUpTo lim l = upTo lim.toNat l := by
  induction l with
  | nil => rfl
  | cons w l ih =>
    obtain ⟨hw, hl⟩ := List.pairwise_cons.1 h
    have hdecide : w.ule lim = decide (w.toNat ≤ lim.toNat) := rfl
    rw [prefixUpTo, List.takeWhile_cons, upTo, List.filter_cons, hdecide]
    by_cases hle : w.toNat ≤ lim.toNat
    · simp only [hle, decide_true, if_true]
      exact congrArg (w :: ·) (ih hl)
    · simp only [hle, decide_false, Bool.false_eq_true, if_false]
      refine (List.filter_eq_nil_iff.2 fun v hv => ?_).symm
      have := hw v hv
      simp only [decide_eq_true_eq]
      omega

theorem Rising.le_getLastD {l : List Word} (h : Rising l) {w : Word} (hw : w ∈ l) : w.toNat ≤ (l.getLastD 0).toNat := by
  induction l generalizing w with
  | nil => cases hw
  | cons v l ih =>
    obtain ⟨hv, hl⟩ := List.pairwise_cons.1 h
    cases l with
    | nil => rw [List.mem_singleton.1 hw]; rfl
    | cons x l =>
      have hlast : (v :: x :: l).getLastD 0 = (x :: l).getLastD 0 := by simp
      rw [hlast]
      rcases List.mem_cons.1 hw with rfl | hw
      · exact (hv x (by simp)).le.trans (ih hl (by simp))
      · exact ih hl hw

/-- The whole list is up to its last word. -/
theorem Rising.upTo_eq_self {l : List Word} (h : Rising l) {lim : Nat} (hlim : (l.getLastD 0).toNat ≤ lim) : upTo lim l = l :=
  List.filter_eq_self.2 fun _ hw => decide_eq_true ((h.le_getLastD hw).trans hlim)

/-! Feeders -/

/-- A read feeder of a thread that holds all that remains of it: the words xs, rising strictly and at most 16. -/
structure WholeFeeder (t : Thread) (h : Nat) (p : Port) (xs : List Word) : Prop where
  lease : amGet t.ports h = some p
  affine : p.kind = 0
  single : p.g = 1
  feeds : p.bound = none
  held : p.held = xs.map fun w => ⟨[w], none, none⟩
  whole : p.pos + xs.length = p.total
  few : xs.length ≤ 16
  nonempty : xs ≠ []
  rising : Rising xs

/-- An output feeder of a thread, with nothing left to push. -/
structure OutputFeeder (t : Thread) (h : Nat) (p : Port) : Prop where
  lease : amGet t.ports h = some p
  affine : p.kind = 3
  single : p.g = 1
  feeds : p.bound = none
  pushes : p.pushes = []
  failed : p.failed = none

section
variable {s : State} {t : Thread} {n h : Nat} {p : Port} {xs : List Word}

theorem State.drawLinks_of_affine (ht : s.thread? n = some t) (hp : amGet t.ports h = some p) (hkind : p.kind ≠ 2) (k : Nat) :
    s.drawLinks n h k = s := by
  induction k with
  | zero => rfl
  | succ k ih =>
    have hdraw : s.drawLink n h = s := by
      rw [State.drawLink, State.port?_of_thread ht, hp]
      simp [hkind]
    rw [State.drawLinks, hdraw, ih]

theorem State.isectK_of_affine {pa pb pq : Port} (ha : pa.kind ≠ 2) (hb : pb.kind ≠ 2) (hq : pq.kind ≠ 4) (s : State) (core : Nat) :
    s.isectK core pa pb pq = 16 := by
  simp [State.isectK, ha, hb, hq]

theorem WholeFeeder.length_held (hp : WholeFeeder t h p xs) : p.held.length = xs.length := by
  rw [hp.held, List.length_map]

theorem WholeFeeder.window (hp : WholeFeeder t h p xs) : t.window 16 p = xs.length := by
  have hwhole := hp.whole
  have hfew := hp.few
  simp only [Thread.window, Thread.remaining_affine (.inl hp.affine)]
  omega

theorem WholeFeeder.windowFault (hp : WholeFeeder t h p xs) : t.windowFault 16 p = none := by
  have hfind : (p.held.take (t.window 16 p)).find? (·.fault.isSome) = none := by
    rw [hp.window, ← hp.length_held, List.take_length, hp.held]
    simp
  rw [Thread.windowFault, hfind]
  rfl

theorem WholeFeeder.words (hp : WholeFeeder t h p xs) :
    ((p.held.take (t.window 16 p)).map fun e => e.words.getD 0 0) = xs := by
  rw [hp.window, ← hp.length_held, List.take_length, hp.held, List.map_map]
  simp [Function.comp_def]

theorem WholeFeeder.isRead (hp : WholeFeeder t h p xs) : p.isRead = true := by
  rw [Port.isRead, hp.affine]
  rfl

theorem WholeFeeder.popHeld (hp : WholeFeeder t h p xs) (s : State) (n k : Nat) :
    (s.setThread n t).popHeld n h k = s.setThread n (t.putPort h (p.popped k)) := by
  rw [State.popHeld_of_port (State.thread?_setThread_self ..) hp.lease (by rw [hp.affine]; rfl), State.setThread_setThread]

theorem WholeFeeder.putPort (hp : WholeFeeder t h p xs) {k : Nat} (hne : k ≠ h) (q : Port) : WholeFeeder (t.putPort k q) h p xs :=
  { hp with lease := by rw [Thread.amGet_putPort, if_neg hne, hp.lease] }

/-- It is at its end once all its words are popped. -/
theorem WholeFeeder.portEnded_popped (hp : WholeFeeder t h p xs) (u : Thread) {k : Nat} (hk : k ≤ xs.length) :
    u.portEnded (p.popped k) = decide (k = xs.length) := by
  have hwhole := hp.whole
  have htotal : (p.popped k).total = p.total := rfl
  have hkind : (p.popped k).kind = 0 := hp.affine
  have hpos : (p.popped k).pos = p.pos + k := rfl
  simp only [Thread.portEnded, hkind, htotal, hpos, decide_eq_decide]
  omega

theorem WholeFeeder.held_popped (hp : WholeFeeder t h p xs) (k : Nat) :
    (p.popped k).held.map (·.words) = (xs.drop k).map fun w => [w] := by
  rw [Port.popped, hp.held, ← List.map_drop, List.map_map]
  rfl

end

/-- An output port with words pushed, numbered from id on. -/
def Port.pushed (p : Port) (id : Nat) (ws : List Word) : Port :=
  { p with pushes := p.pushes ++ ws.zipIdx.map fun w => ⟨id + w.2, p.addr (p.pos + w.2), [w.1]⟩, pos := p.pos + ws.length }

/-- The output port of a handle takes words, which are numbered from the next identifier on. -/
def State.pushWords (s : State) (slot h : Nat) (ws : List Word) : State :=
  ({ s with nextId := s.nextId + ws.length } : State).modPort slot h fun p => p.pushed s.nextId ws

theorem State.pushWords_setThread {t : Thread} {h : Nat} {p : Port} (hp : amGet t.ports h = some p) (s : State) (slot : Nat)
    (ws : List Word) : (s.setThread slot t).pushWords slot h ws =
      ({ s with nextId := s.nextId + ws.length } : State).setThread slot (t.putPort h (p.pushed s.nextId ws)) :=
  State.modPort_setThread { s with nextId := s.nextId + ws.length } slot hp fun p => p.pushed s.nextId ws

/-- The thread's port of a handle is at its end, as isect reports it. -/
def Thread.endedAt (t : Thread) (h : Nat) : Bool := match amGet t.ports h with | some p => t.portEnded p | none => true

/-- What isect writes of n words pushed (R161). -/
def State.isectResult (s : State) (slot ha hb n : Nat) : Word := match s.thread? slot with
  | none => BitVec.ofNat 64 n
  | some t => BitVec.ofNat 64 (n + (if t.endedAt ha then 2 ^ 63 else 0) + if t.endedAt hb then 2 ^ 62 else 0)

theorem State.isectResult_setThread (s : State) (slot : Nat) (t : Thread) (ha hb n : Nat) :
    (s.setThread slot t).isectResult slot ha hb n =
      BitVec.ofNat 64 (n + (if t.endedAt ha then 2 ^ 63 else 0) + if t.endedAt hb then 2 ^ 62 else 0) := by
  rw [State.isectResult, State.thread?_setThread_self]

/-- The lesser of two words, as the least number. -/
theorem toNat_ite_ult (v w : Word) : (if v.ult w then v else w).toNat = min v.toNat w.toNat := by
  split
  next hlt =>
    have := BitVec.ult_iff_lt.1 hlt
    exact (min_eq_left this.le).symm
  next hge =>
    have := BitVec.not_lt.1 (mt BitVec.ult_iff_lt.2 hge)
    exact (min_eq_right this).symm

/-- The handles that isect reads of a word (R161). -/
structure IsectHandles (v : Word) (ha hb hq : Nat) : Prop where
  a : (v.extractLsb' 0 4).toNat = ha
  b : (v.extractLsb' 4 4).toNat = hb
  q : (v.extractLsb' 8 4).toNat = hq

section
variable {s : State} {t : Thread} {rd rs1 : BitVec 5} {ha hb hq : Nat} {pa pb pq : Port} {xs ys : List Word}
  (hA : WholeFeeder t ha pa xs) (hB : WholeFeeder t hb pb ys) (hQ : OutputFeeder t hq pq)
include hA hB

/-- The words up to the lesser of the last two are all of one list. -/
theorem WholeFeeder.upTo_nonempty {lim : Nat} (hlim : lim = min (xs.getLastD 0).toNat (ys.getLastD 0).toNat) :
    ((upTo lim xs).isEmpty && (upTo lim ys).isEmpty) = false := by
  rcases le_total (xs.getLastD 0).toNat (ys.getLastD 0).toNat with hle | hle
  · rw [hA.rising.upTo_eq_self (by omega)]
    simp [hA.nonempty]
  · rw [hB.rising.upTo_eq_self (by omega)]
    simp [hB.nonempty]

section
variable (h : CanIssue s t [rs (s.latch.rs1 rs1), rdst (s.latch.rd rd)]) (hv : IsectHandles (t.x (s.latch.rs1 rs1)) ha hb hq)
include h hv hQ

/-- isect waits for nothing. -/
theorem CanIssue.isect_goes : s.isectWaits s.cur (t.x (s.latch.rs1 rs1)) = false := by
  have ht := h.thread
  have h2 : pa.kind ≠ 2 := by rw [hA.affine]; decide
  have h2' : pb.kind ≠ 2 := by rw [hB.affine]; decide
  have h4 : pq.kind ≠ 4 := by rw [hQ.affine]; decide
  unfold State.isectWaits
  simp only [hv.a, hv.b, hv.q, State.drawLinks_of_affine ht hA.lease h2, State.drawLinks_of_affine ht hB.lease h2',
    State.port?_of_thread ht, hA.lease, hB.lease, hQ.lease, ht, State.isectK_of_affine h2 h2' h4, hA.window, hB.window, hA.length_held,
    hB.length_held, hA.windowFault, hB.windowFault, hQ.pushes]
  simp

/-- isect pops the words up to the lesser of the last two and pushes those common to both. -/
theorem CanIssue.isect_pops {fa fb m : List Word} {lim : Nat} (hlim : lim = min (xs.getLastD 0).toNat (ys.getLastD 0).toNat)
    (hfa : upTo lim xs = fa) (hfb : upTo lim ys = fb) (hm : fa.filter fb.contains = m) (hroom : pq.pos + m.length ≤ pq.total) {u : State}
    (hu : u = ((s.popHeld s.cur ha fa.length).popHeld s.cur hb fb.length).pushWords s.cur hq m) :
    exec (.isect rd rs1) s = .next (u.finish ⟨s.cur, t, s.latch.tval, s.nextPc t, [rs (s.latch.rs1 rs1), rdst (s.latch.rd rd)]⟩
      (s.latch.rd rd) [u.isectResult s.cur ha hb m.length]) := by
  have ht := h.thread
  have h2 : pa.kind ≠ 2 := by rw [hA.affine]; decide
  have h2' : pb.kind ≠ 2 := by rw [hB.affine]; decide
  have h4 : pq.kind ≠ 4 := by rw [hQ.affine]; decide
  have hwrites : pq.isRead = false := by rw [Port.isRead, hQ.affine]; rfl
  have hwords : (xs.isEmpty || ys.isEmpty) = false := by simp [hA.nonempty, hB.nonempty]
  have hroom' : ¬ pq.total - pq.pos < m.length := by omega
  have hsome := hA.upTo_nonempty hB hlim
  have hpa := prefixUpTo_of_rising (if (xs.getLastD 0).ult (ys.getLastD 0) then xs.getLastD 0 else ys.getLastD 0) hA.rising
  have hpb := prefixUpTo_of_rising (if (xs.getLastD 0).ult (ys.getLastD 0) then xs.getLastD 0 else ys.getLastD 0) hB.rising
  rw [toNat_ite_ult, ← hlim, hfa] at hpa
  rw [toNat_ite_ult, ← hlim, hfb] at hpb
  rw [hfa, hfb] at hsome
  subst hu
  show execIsect rd rs1 s = _
  rw [execIsect, h.issue]
  simp only [Ctx.x, h.src_rs (n := s.latch.rs1 rs1) (by simp), h.isect_goes hA hB hQ hv, hv.a, hv.b, hv.q, hA.lease, hB.lease, hQ.lease,
    hA.feeds, hB.feeds, hQ.feeds, hA.single, hB.single, hQ.single, hA.isRead, hB.isRead, hwrites,
    State.drawLinks_of_affine ht hA.lease h2, State.drawLinks_of_affine ht hB.lease h2', ht, State.isectK_of_affine h2 h2' h4,
    hA.windowFault, hB.windowFault, hA.words, hB.words, hQ.failed, ite_self, h4, hwords, hpa, hpb, hsome, hm, hroom', and_false, if_false,
    Option.isNone_none, decide_true, Bool.and_self, beq_self_eq_true, Bool.not_true, Bool.false_eq_true]
  rfl
end

section
variable (hab : ha ≠ hb) (haq : ha ≠ hq) (hbq : hb ≠ hq)
include hab haq hbq

theorem WholeFeeder.ended_popped {na nb : Nat} (hna : na ≤ xs.length) (hnb : nb ≤ ys.length) (q : Port) :
    let t1 := ((t.putPort ha (pa.popped na)).putPort hb (pb.popped nb)).putPort hq q
    t1.endedAt ha = decide (na = xs.length) ∧ t1.endedAt hb = decide (nb = ys.length) := by
  constructor
  · rw [Thread.endedAt, Thread.amGet_putPort, if_neg haq.symm, Thread.amGet_putPort, if_neg hab.symm, Thread.amGet_putPort, if_pos rfl]
    exact hA.portEnded_popped _ hna
  · rw [Thread.endedAt, Thread.amGet_putPort, if_neg hbq.symm, Thread.amGet_putPort, if_pos rfl]
    exact hB.portEnded_popped _ hnb

include hQ

theorem OutputFeeder.pushWords_popped (ht : s.thread? s.cur = some t) (na nb : Nat) (m : List Word) :
    ((s.popHeld s.cur ha na).popHeld s.cur hb nb).pushWords s.cur hq m = ({ s with nextId := s.nextId + m.length } : State).setThread s.cur
      (((t.putPort ha (pa.popped na)).putPort hb (pb.popped nb)).putPort hq (pq.pushed s.nextId m)) := by
  have hq' : amGet ((t.putPort ha (pa.popped na)).putPort hb (pb.popped nb)).ports hq = some pq := by
    rw [Thread.amGet_putPort, if_neg hbq, Thread.amGet_putPort, if_neg haq, hQ.lease]
  rw [State.popHeld_of_port ht hA.lease (by rw [hA.affine]; rfl), (hB.putPort hab _).popHeld, State.pushWords_setThread hq']

theorem OutputFeeder.unbound_popped {us : List RegUse} (hn : t.Unbound us) (na nb : Nat) (id : Nat) (m : List Word) :
    (((t.putPort ha (pa.popped na)).putPort hb (pb.popped nb)).putPort hq (pq.pushed id m)).Unbound us := by
  have hb' := (hn.putPort hA.lease (q := pa.popped na) rfl).putPort (hB.putPort hab _).lease (q := pb.popped nb) rfl
  refine hb'.putPort (p := pq) ?_ rfl
  rw [Thread.amGet_putPort, if_neg hbq, Thread.amGet_putPort, if_neg haq, hQ.lease]

variable (h : CanIssue s t [rs (s.latch.rs1 rs1), rdst (s.latch.rd rd)]) (hv : IsectHandles (t.x (s.latch.rs1 rs1)) ha hb hq)
include h hv

theorem CanIssue.isect {lim : Nat} {fa fb m : List Word} (hlim : lim = min (xs.getLastD 0).toNat (ys.getLastD 0).toNat)
    (hfa : upTo lim xs = fa) (hfb : upTo lim ys = fb) (hm : fa.filter fb.contains = m) (hroom : pq.pos + m.length ≤ pq.total) {t1 : Thread}
    (ht1 : t1 = ((t.putPort ha (pa.popped fa.length)).putPort hb (pb.popped fb.length)).putPort hq (pq.pushed s.nextId m)) :
    exec (.isect rd rs1) s = .next (({ s with nextId := s.nextId + m.length } : State).retires (t1.setX (s.latch.rd rd)
      (BitVec.ofNat 64 (m.length + (if fa.length = xs.length then 2 ^ 63 else 0) + if fb.length = ys.length then 2 ^ 62 else 0)))
      (s.nextPc t)) := by
  have hla : fa.length ≤ xs.length := hfa ▸ List.length_filter_le ..
  have hlb : fb.length ≤ ys.length := hfb ▸ List.length_filter_le ..
  obtain ⟨hendA, hendB⟩ := hA.ended_popped hB hab haq hbq hla hlb (pq.pushed s.nextId m)
  have hunbound := hQ.unbound_popped hA hB hab haq hbq h.unbound fa.length fb.length s.nextId m
  rw [← ht1] at hendA hendB hunbound
  rw [h.isect_pops hA hB hQ hv hlim hfa hfb hm hroom (hQ.pushWords_popped hA hB hab haq hbq h.thread fa.length fb.length m).symm, ← ht1,
    State.isectResult_setThread, hendA, hendB]
  simp only [decide_eq_true_eq]
  refine congrArg _ (h.finish_ports ?_ ?_ hunbound (d := s.latch.rd rd) (by simp) ..) <;> rfl
end

end

end Sys2Proof.Machine
end

section
/-! Skipping and intersecting together (R156, R160, R161, R167). -/

namespace Sys2Proof.Machine

theorem Thread.setX_ports (t : Thread) (d : Nat) (v : Word) : (t.setX d v).ports = t.ports := by
  unfold Thread.setX
  split <;> rfl

theorem Thread.reg_setX_of_ne {d r : Nat} (hr : r ≠ d) (t : Thread) (v : Word) : (t.setX d v).reg r = t.reg r := by
  by_cases hd : d = 0
  · rw [Thread.setX, if_pos hd]
  · rw [Thread.reg, Thread.reg, Thread.setX, if_neg hd, amGetD, amGet_amPut, if_neg hr.symm]
    rfl

theorem Port.pushed_pushes {p : Port} (hp : p.pushes = []) (id : Nat) (ws : List Word) :
    (p.pushed id ws).pushes.map (fun e => (e.addr, e.words)) = ws.zipIdx.map fun w => (p.addr (p.pos + w.2), [w.1]) := by
  rw [Port.pushed, hp, List.nil_append, List.map_map]
  rfl

theorem isectHandles (v : Word) : IsectHandles v (v.toNat % 16) (v.toNat / 16 % 16) (v.toNat / 256 % 16) where
  a := by rw [toNat_extractLsb', pow_zero, Nat.div_one]; rfl
  b := toNat_extractLsb' ..
  q := toNat_extractLsb' ..

theorem State.park_setThread {s : State} (hr : s.latch.replay = 0) (t : Thread) (c : Cond) :
    (s.setThread s.cur t).park s.cur c = { s.setThread s.cur { t with run := .waiting c } with latch := {} } := by
  rw [State.park, State.setThread_latch, if_neg (not_not.2 hr), State.modThread_setThread]

/-- Settles O34. A waiting pskip's count stays with its port, as notes/assumptions/86.md has it. -/
theorem skipAndIntersect : Obligations.SkipAndIntersect := by
  unfold Obligations.SkipAndIntersect
  refine ⟨fun s t rd rs1 rs2 h => ⟨h.pskip_body, fun p b hne hp hb hh => h.pskip_held rfl hne hp hb hh⟩,
    fun s t rd rs1 rs2 hb => ⟨fun h => ⟨fun hne hp => h.pskip_unleased rfl hne hp, fun p hne hp => ⟨?_, ?_, ?_, ?_⟩⟩, ?_⟩⟩
  · exact h.pskip_linkOut rfl hne hp hb
  · exact fun hkind hagain hix => h.pskip_affine rfl hne hp hb hkind hagain hix rfl
  · intro q hkind hheld hasks hagain hq hqkind hqasks _ hix k hpos
    exact h.pskip_indirect rfl hne hp hb hkind hheld hasks hagain hq hqkind hqasks hix rfl hpos
  · intro hkind hfwd hskip hlen hfifo n
    have hlink := h.pskip_linkIn rfl hne hp hb hkind hfwd hskip hlen hfifo rfl
    refine ⟨fun hle => ?_, fun hlt => ?_⟩
    · rw [hlink, if_pos hle]
      rfl
    · rw [hlink, if_neg (by omega), State.park_setThread h.direct, Port.popped, List.drop_length]
      rfl
  · intro ha hb' hq pa pb pq xs ys h hha hhb hhq hab haq hbq hpa hpb hpq hka hkb hkq hga hgb hgq hna hnb hnq hpushes hfailed hheldA hheldB
      hwholeA hwholeB hfewA hfewB hxs hys hrisA hrisB lim fa fb m hroom
    have hA : WholeFeeder t ha pa xs := ⟨hpa, hka, hga, hna, hheldA, hwholeA, hfewA, hxs, hrisA⟩
    have hB : WholeFeeder t hb' pb ys := ⟨hpb, hkb, hgb, hnb, hheldB, hwholeB, hfewB, hys, hrisB⟩
    have hQ : OutputFeeder t hq pq := ⟨hpq, hkq, hgq, hnq, hpushes, hfailed⟩
    have hv := isectHandles (t.x (s.latch.rs1 rs1))
    rw [← hha, ← hhb, ← hhq] at hv
    obtain ⟨t1, ht1⟩ : ∃ t1, t1 = ((t.putPort ha (pa.popped fa.length)).putPort hb' (pb.popped fb.length)).putPort hq
      (pq.pushed s.nextId m) := ⟨_, rfl⟩
    have hregs : t1.regs = t.regs := by rw [ht1]; rfl
    have hexec := h.isect hA hB hQ hab haq hbq hv rfl rfl rfl rfl hroom ht1
    refine ⟨_, _, pa.popped fa.length, pb.popped fb.length, pq.pushed s.nextId m, hexec, State.thread?_setThread_self .., rfl, ?_, ?_, ?_,
      hA.held_popped _, rfl, hB.held_popped _, rfl, Port.pushed_pushes hpushes .., rfl, fun hd => Thread.x_setX_self hd _,
      fun r hr => (Thread.reg_setX_of_ne hr t1 _).trans (by rw [Thread.reg, hregs]; rfl), rfl⟩
    all_goals simp only [Thread.retired, Thread.setX_ports, ht1, Thread.amGet_putPort, haq.symm, hab.symm, hbq.symm, if_true, if_false]

end Sys2Proof.Machine
end
